-- ==== Sys2Proof/Word.lean ====
section
/-! DEFINITION. Word types of the machine: bytes, register words and FP32 bit patterns, with sparse maps by number. -/

namespace Sys2Proof

/-- One byte of a memory (00_scope.md R12). -/
abbrev Byte := BitVec 8

/-- One register, 64 bits wide (00_scope.md R18). -/
abbrev Word64 := BitVec 64

/-- The bits of one FP32 value. -/
abbrev F32 := BitVec 32

/-- Sparse data by number: keys rise strictly, and no entry holds the value that an unlisted key reads as. -/
abbrev Table (α : Type) := List (Nat × α)

end Sys2Proof
end

