-- ==== Sys2Proof/Syntax.lean ====
section
/-! DEFINITION. The commands of the block: one constructor for each row of spec/opcode_table.json, with the row's operands. -/

namespace Sys2Proof

/-- The masters of 15_integrity_faults.md R612 (01_architecture.md R42). -/
inductive Master where
  | coreMover (n : Fin 128) (m : Fin 2)
  | coreRecord (n : Fin 128)
  | dma (c : Fin 32)
  | dispatch (l : Fin 4)
  | reduction (u : Fin 4)
  | collRecord
  | solver (u : Fin 4)
  | solverRecord
  | keeper (c : Fin 4)
  | host
  | link (lane : Fin 96)
deriving DecidableEq, Repr

/-- The sequencer slot, 06_core_programs.md R212. -/
structure SeqSlot where
  sop : BitVec 6
  d : BitVec 5
  a : BitVec 5
  b : BitVec 5
  rsvd : BitVec 11
  imm : BitVec 32
deriving DecidableEq, Repr

/-- The matrix slot, 06_core_programs.md R216. -/
structure MatSlot where
  mop : BitVec 2
  e : BitVec 4
  ar : BitVec 5
  br : BitVec 5
  cr : BitVec 5
  rsvd : BitVec 3
deriving DecidableEq, Repr

/-- The vector slot, 06_core_programs.md R218. -/
structure VecSlot where
  vop : BitVec 2
  rcp : BitVec 4
  sb : BitVec 5
  rsvd : BitVec 5
deriving DecidableEq, Repr

/-- A data mover slot, 06_core_programs.md R221. -/
structure DmSlot where
  dop : BitVec 3
  e : BitVec 4
  xr : BitVec 5
  crg : BitVec 5
  rsvd : BitVec 15
deriving DecidableEq, Repr

/-- The accumulator slot, 06_core_programs.md R219. -/
structure AccSlot where
  aop : BitVec 3
  dst : BitVec 6
  src : BitVec 6
  n : BitVec 6
  rsvd : BitVec 3
deriving DecidableEq, Repr

/-- A bundle, 06_core_programs.md R208. Bit k of `pred` is bundle bit 234 + k. -/
structure Bundle where
  tag : BitVec 16
  pred : BitVec 6
  rsvd : BitVec 42
  seq : SeqSlot
  mat : MatSlot
  vec : VecSlot
  dm0 : DmSlot
  dm1 : DmSlot
  acc : AccSlot
deriving DecidableEq, Repr

/-- The header of scout, grant and abort messages, 08_routing_exchange.md R289. -/
structure DispatchHeader where
  digest : BitVec 64
  dispatchId : BitVec 16
  gen : BitVec 16
  srcRank : BitVec 12
  fault : BitVec 8
deriving DecidableEq, Repr

/-- One scout entry, 08_routing_exchange.md R289. -/
structure ScoutEntry where
  slot : BitVec 8
  rank : BitVec 3
  count : BitVec 21
deriving DecidableEq, Repr

/-- One grant entry, 08_routing_exchange.md R289. -/
structure GrantEntry where
  slot : BitVec 8
  rank : BitVec 3
  granted : BitVec 21
  base : BitVec 20
deriving DecidableEq, Repr

/-- A row tag, 08_routing_exchange.md R297: each target is (choice rank, slot, position). -/
structure RowTag where
  dispatchId : BitVec 16
  gen : BitVec 16
  srcRank : BitVec 12
  token : BitVec 20
  targets : List (Nat × Nat × Nat)
deriving DecidableEq, Repr

/-- A frame header, 13_fabric_links.md R465; `off` holds OFFSET, with FLOW_ID, MSG and FRAME inside it for MESSAGE and BULK. -/
structure FrameHeader where
  dstId : BitVec 12
  srcId : BitVec 12
  job : BitVec 16
  off : BitVec 52
  type : BitVec 5
  vc : BitVec 2
  len : BitVec 3
  tag : BitVec 12
  kind : BitVec 2
  poison : BitVec 8
  op : BitVec 4
  /-- SEQ and ACK of the link word that comes with the header (R464). -/
  seq : BitVec 12 := 0
  ack : BitVec 12 := 0
  /-- How the frame arrives (R455, R463, R469): whether its CRC holds, the codewords of it that were corrected and that could not be, and by how much the
  check symbols of its payload granules deviate from those of their bytes. -/
  crcOk : Bool := true
  fecCorr : Nat := 0
  fecUncorr : Nat := 0
  guards : List (BitVec 32) := []
deriving DecidableEq, Repr

/-- The lanes and headers of the frames in which a message arrives, in FRAME order; none for a message of this module's own rank. -/
abbrev Via := List (Fin 96 × FrameHeader)

/-- What a message says of itself, its header, its row tag or its source, with the frames in which it comes. -/
structure Carried (α : Type) where
  via : Via
  what : α
deriving DecidableEq, Repr

/-- The times a SYNC answer carries: when the request arrived and when the answer left (13_fabric_links.md R485). -/
structure SyncTimes where
  t2 : Word64
  t3 : Word64
deriving DecidableEq, Repr

/-- The corrections of an exchange: of the way out and of the way back (13_fabric_links.md R485). -/
structure SyncCorrections where
  cf : Nat
  cr : Nat
deriving DecidableEq, Repr

/-- The name of a collective: INDEX and EPOCH (11_collectives.md R401). -/
structure CollId where
  index : BitVec 10
  epoch : BitVec 32
deriving DecidableEq, Repr

/-- The arguments of OPEN_JOB, 14_startup_host.md R527. -/
structure OpenJobArgs where
  jobId : BitVec 16
  rank : BitVec 12
  rankMap : BitVec 42
  windows : List (BitVec 128)
  feeders : List (BitVec 12)
  staging : BitVec 42
deriving DecidableEq, Repr

/-- The arguments of STEP_START, 14_startup_host.md R527. -/
structure StepStartArgs where
  plan : BitVec 42
  entries : Nat
  microBatches : Nat
  firstStep : Nat
  stepCount : Nat
  health : BitVec 42
deriving DecidableEq, Repr

/-- Who issues an atomic (12_memory_system.md R438). -/
inductive AtomicIssuer where
  | keeper (c : Fin 4)
  | link (lane : Fin 96) (h : FrameHeader)
deriving DecidableEq, Repr

/-- One command: a row of spec/opcode_table.json, with its operands.
A core row carries the core and the bundle that issues; the row's operation code stands in its slot. -/
inductive Instr where
  -- the sequencer slot
  | nop (n : Fin 128) (b : Bundle)
  | loop (n : Fin 128) (b : Bundle)
  | endLaunch (n : Fin 128) (b : Bundle)
  | halt (n : Fin 128) (b : Bundle)
  | barrier (n : Fin 128) (b : Bundle)
  | forage (n : Fin 128) (b : Bundle)
  | fprime (n : Fin 128) (b : Bundle)
  | lidx (n : Fin 128) (b : Bundle)
  | li (n : Fin 128) (b : Bundle)
  | lui (n : Fin 128) (b : Bundle)
  | add (n : Fin 128) (b : Bundle)
  | sub (n : Fin 128) (b : Bundle)
  | and (n : Fin 128) (b : Bundle)
  | or (n : Fin 128) (b : Bundle)
  | xor (n : Fin 128) (b : Bundle)
  | shl (n : Fin 128) (b : Bundle)
  | shr (n : Fin 128) (b : Bundle)
  | sar (n : Fin 128) (b : Bundle)
  | mul (n : Fin 128) (b : Bundle)
  | minu (n : Fin 128) (b : Bundle)
  | maxu (n : Fin 128) (b : Bundle)
  | addi (n : Fin 128) (b : Bundle)
  | sltu (n : Fin 128) (b : Bundle)
  | sld (n : Fin 128) (b : Bundle)
  | sst (n : Fin 128) (b : Bundle)
  | wdesc (n : Fin 128) (b : Bundle)
  | wrcp (n : Fin 128) (b : Bundle)
  | tbr (n : Fin 128) (b : Bundle)
  -- the other slots of a core
  | productOperation (n : Fin 128) (b : Bundle)
  | statisticsProduct (n : Fin 128) (b : Bundle)
  | alternatingPair (n : Fin 128) (b : Bundle)
  | pass (n : Fin 128) (b : Bundle)
  | scatteredWriteApply (n : Fin 128) (bank : Fin 32)
  | move (n : Fin 128) (m : Fin 2) (b : Bundle)
  | gather (n : Fin 128) (m : Fin 2) (b : Bundle)
  | moverLineDone (n : Fin 128) (m : Fin 2) (k : Nat)
  | rankCacheFill (rank : BitVec 12)
  | zero (n : Fin 128) (b : Bundle)
  | copy (n : Fin 128) (b : Bundle)
  -- breaks and debugging
  | breakCount (n : Fin 128) (b : Bundle)
  | breakTag (n : Fin 128) (b : Bundle)
  | breakHalt (n : Fin 128)
  | breakBroadcast (src n : Fin 128)
  | breakRequest (v : Word64)
  | haltRecord (n : Fin 128)
  | resume (n : Fin 128)
  | abort (n : Fin 128)
  | sregWrite (n : Fin 128) (i : Fin 32) (v : Word64)
  | load (n : Fin 128) (bank : Fin 2)
  | seal (n : Fin 128) (bank : Fin 2)
  -- launches and foraging
  | launchAppend (m : Master) (q : Fin 8) (v : Word64)
  | launchDelivery (q : Fin 8)
  | launchStart (n : Fin 128)
  | launchBoundary (n : Fin 128)
  | barrierRelease (n : Fin 128)
  | barrierTimeout (n : Fin 128)
  | forageRequest (n : Fin 128) (l : Fin 4)
  | forageAnswer (n : Fin 128) (l : Fin 4)
  -- local memory and integrity
  | localRead (m : Master) (addr : BitVec 42) (len : Nat)
  | localWrite (m : Master) (addr : BitVec 42) (data : List Byte) (poisoned : Bool)
  | scrubWrite (granule : Nat)
  | poisonWrite (granule : Nat)
  -- steward and sentry
  | stewardReport (slot : Fin 4096) (mag : F32) (ovf nan : Bool)
  | stewardCommit (v : Word64)
  | stewardSlotWrite (hi : Bool) (v : Word64)
  | sentryCompare (n : Fin 128)
  | numericEnable (v : Word64)
  -- DMA
  | dmaChanEnable (v : Word64)
  | dmaCopy (c : Fin 32)
  | dmaCompress (c : Fin 32)
  | dmaExpand (c : Fin 32)
  | dmaEnd (c : Fin 32)
  -- expert routing and token exchange
  | exchEnable (v : Word64)
  | dispatchTake
  | forwardDispatchStart (l : Fin 4)
  | backwardReplayStart (l : Fin 4)
  | scoutMessage (m : Carried DispatchHeader) (es : List ScoutEntry)
  | grantMessage (m : Carried DispatchHeader) (es : List GrantEntry)
  | tileReservation (l : Fin 4)
  | carryRow (m : Carried RowTag) (row : List Byte) (poison : List Nat)
  | post (m : Master) (addr : BitVec 42) (line : List Byte)
  | returnRow (m : Carried RowTag) (row : List Byte) (poison : List Nat)
  | dispatchAbort (m : Carried DispatchHeader)
  | dispatchTimeout (l : Fin 4)
  | dispatchEnd (l : Fin 4)
  -- solver units
  | solverEnable (v : Word64)
  | solverDescriptorRead (c : Fin 16)
  | headDeadline (c : Fin 16)
  | chol (u : Fin 4)
  | inv (u : Fin 4)
  | iroot (u : Fin 4)
  | solverStep (u : Fin 4)
  | jobDeadline (u : Fin 4)
  | delivery (u : Fin 4)
  -- collectives
  | tableLoad (m : Master) (v : Word64)
  | collEnable (v : Word64)
  | collRingRecord (keeper : Bool)
  | postPort (m : Master) (granule : Fin 2) (data : List Byte)
  | collectiveOpen
  | openMessage (m : Carried (BitVec 12)) (k : CollId) (gen : BitVec 16) (digest : BitVec 64)
  | allReduce (k : CollId)
  | reduceScatter (k : CollId)
  | allGather (k : CollId)
  | reduce (k : CollId)
  | broadcast (k : CollId)
  | permute (k : CollId)
  | presenceMessage (m : Carried (BitVec 12)) (k : CollId) (first : Nat) (bits : List Bool)
  | contribution (m : Carried (BitVec 12)) (k : CollId) (gen : BitVec 16) (unit off : Nat) (data : List Byte) (poison : List Nat)
  | reductionBatch (u : Fin 4) (k : CollId) (unit batch : Nat) (mismatches : Fin 3)
  | result (m : Carried (BitVec 12)) (k : CollId) (gen : BitVec 16) (unit off : Nat) (data : List Byte) (poison : List Nat)
  | collectiveAbort (m : Carried (BitVec 12)) (k : CollId) (code : BitVec 8) (blamed : BitVec 12)
  | orderTimeout (k : CollId)
  | startTimeout (k : CollId)
  | runTimeout (k : CollId)
  | collectiveEnd (k : CollId)
  -- shared cache, atomics, pool, controllers
  | wcbDrain (k : Fin 12) (pc : Fin 64)
  | swap (i : AtomicIssuer) (addr : BitVec 42) (size : Nat) (v : Word64)
  | cas (i : AtomicIssuer) (addr : BitVec 42) (size : Nat) (v cmp : Word64)
  | fetchAdd (i : AtomicIssuer) (addr : BitVec 42) (size : Nat) (v : Word64)
  | fetchAnd (i : AtomicIssuer) (addr : BitVec 42) (size : Nat) (v : Word64)
  | fetchOr (i : AtomicIssuer) (addr : BitVec 42) (size : Nat) (v : Word64)
  | fetchXor (i : AtomicIssuer) (addr : BitVec 42) (size : Nat) (v : Word64)
  | fetchMaxu (i : AtomicIssuer) (addr : BitVec 42) (size : Nat) (v : Word64)
  | fetchMinu (i : AtomicIssuer) (addr : BitVec 42) (size : Nat) (v : Word64)
  | fetchMaxs (i : AtomicIssuer) (addr : BitVec 42) (size : Nat) (v : Word64)
  | fetchMins (i : AtomicIssuer) (addr : BitVec 42) (size : Nat) (v : Word64)
  | addF32 (i : AtomicIssuer) (addr : BitVec 42) (v : F32)
  | maxF32 (i : AtomicIssuer) (addr : BitVec 42) (v : F32)
  | minF32 (i : AtomicIssuer) (addr : BitVec 42) (v : F32)
  | addvF32 (i : AtomicIssuer) (addr : BitVec 42) (v : List F32)
  | pcieAtomicop (addr : BitVec 42)
  | lr (c : Fin 4) (addr : BitVec 42) (size : Nat)
  | sc (c : Fin 4) (addr : BitVec 42) (size : Nat) (v : Word64)
  | scacheEnable (v : Word64)
  | cacheDisabled
  | poolRelease (m : Master) (addr : BitVec 42)
  | poolEnable (v : Word64)
  | memcEnable (k : Fin 12) (v : Word64)
  | marginSweep (k : Fin 12) (v : Word64)
  | marginSweepEnd (k : Fin 12) (passing : Fin 128) (failed : Bool)
  -- links and fabric
  | linkEnable (k : Fin 8) (v : Word64)
  | fabricEnable (v : Word64)
  | laneTraining (lane : Fin 96)
  | identityExchange (lane : Fin 96) (peerSwitch : BitVec 32) (peerPort : BitVec 16) (versions : List (Nat × Nat))
  | laneRetrain (lane : Fin 96)
  | keepaliveSend (lane : Fin 96)
  | laneSilence (lane : Fin 96)
  | read (lane : Fin 96) (h : FrameHeader)
  | write (lane : Fin 96) (h : FrameHeader) (data : List Byte)
  | writeMasked (lane : Fin 96) (h : FrameHeader) (data : List Byte)
  | response (lane : Fin 96) (h : FrameHeader) (data : List Byte)
  | defer (lane : Fin 96) (h : FrameHeader)
  | resumeFrame (lane : Fin 96) (h : FrameHeader)
  | remoteTimeout (tag : BitVec 12)
  | windowWrite (hi : Bool) (v : Word64)
  | syncExchange
  | sync (lane : Fin 96) (h : FrameHeader) (times : SyncTimes) (corr : SyncCorrections)
  | syncLoss
  | timepulse
  | syncRequest (lane : Fin 96) (h : FrameHeader) (t1 : Word64) (cf : Nat)
  | creditExchange (lane : Fin 96) (credits : List Nat)
  | trainingTimeout (lane : Fin 96)
  | frameReplay (lane : Fin 96)
  -- start-up, host, Keeper
  | coldReset (profileSel frameSlot : Fin 4)
  | image
  | config
  | sramInit (uncorrectable : Option (Fin 1024))
  | bringUp (failedChannel : Option (Fin 384))
  | ready
  | warmReset (v : Word64)
  | perstAssert
  | perstDeassert
  | pcieLinkUp
  | msixTableWrite (off : Nat) (v : BitVec 32)
  | pcieConfigWrite (msixEnable busMaster : Bool)
  | keeperLate
  | watchdog (m : Master)
  | watchdogRestart (digestOk : Bool)
  | telemetrySample (load : Fin 101)
  | openJob (a : OpenJobArgs)
  | closeJob
  | stepStart (a : StepStartArgs)
  | stepStop
  | attest (nonce : BitVec 256) (addr : BitVec 42)
  | nvmWrite (type : BitVec 8) (index : Fin 4) (src : BitVec 42) (len : Nat)
  | checkpoint (interval : Nat) (addr : BitVec 64)
  | reset
  | stepStage
  | stepPlanEntry (i : Nat)
  | readPage
  | programPage
  | eraseSector
  | nvmDirectDone (failed : Bool)
  | coreReset (hi : Bool) (v : Word64)
  | registerWrite (m : Master) (block : BitVec 10) (off : BitVec 16) (data : List Byte)
  -- power, clocks and the module's pins
  | powerEvaluation (watts : Nat)
  | fastLimit
  | thermalEvaluation (die0 die1 exch : List Nat) (stackTemps : List Nat)
  | frequencyStep
  | thermalTrip (junction stack : Nat)
  | inputExcursion (millivolts microseconds : Nat)
  | brownOut
  | powerLoss (milliseconds : Nat)
  | modResetAssert (microseconds : Nat)
  | smbBootState
  | smbInputPower
  | smbTjMax
  | smbHbmTMax
  | smbFreqAlert
  | smbLimitCutRead
  | smbLimitCutWrite (v : BitVec 16) (pecOk : Bool)
  | smbSerial
  | smbSelectRegister (v : BitVec 32) (pecOk : Bool)
  | smbReadRegister
  | smbAlertResponse
  | bypass
  | idcode
  | samplePreload
  | extest
  | extestPulse
  | extestTrain
  | highz
  | clamp
  | testLogicReset
deriving DecidableEq, Repr

end Sys2Proof
end

