-- ==== Sys2Proof/Decode.lean ====
section
/-! DEFINITION. The reading of the opcode table's words: no row of spec/opcode_table.json gives bits, so no word spells a command. -/

namespace Sys2Proof

/-- The command that a word of the table spells: none, because no row gives bits. -/
def decodeTableWord (_nbits _w : Nat) : Option Instr := none

end Sys2Proof
end

