-- ==== Sys2Proof/Config.lean ====
section
/-! DEFINITION. What an implementation fixes and what the spec leaves open: constants with no body, of which no proof can see the value. -/

namespace Sys2Proof.Config

/-- A fresh free value for each number: State.freeCtr counts them up (assumption log 2). -/
opaque freeBits : Nat → BitVec 64

/-- Which of the results within its error bound a special function of 05_vector_chain.md R189 gives: one fixed mapping, of which the spec states the
bound alone (R615; log 11). -/
opaque specialPick : (op : Nat) → F32 → Nat

/-- Events whose log entry the spec describes without the CODE and the bit positions of its DETAIL (log 20). -/
inductive LogKind where
  /-- A sentry fault: core, launch ordinal, product count, 1074 + floor(log2 r), special-value mismatch (02_number_formats.md R109). -/
  | sentryFault
  /-- A solver job fault: channel, code, tag (10_curvature_solver.md R385). -/
  | jobFault
  /-- A collective's fault: R416 does not name what the entry holds; its code, INDEX and EPOCH. -/
  | collFault
  /-- A lane's plan result: lane and result (13_fabric_links.md R462). -/
  | planResult
  /-- The assertion of PERST# (14_startup_host.md R509). -/
  | perst
  /-- The step driver's SENTRY count: the step number and the count (09_training_step.md R337). -/
  | stepSentry
  /-- A failed work of a step: TYPE, ORDINAL, units done, units total, GEN (09_training_step.md R350). -/
  | stepFault
  /-- The loss of a step: the step number and the FP32 sum (09_training_step.md R338). -/
  | stepLoss
deriving DecidableEq, Repr

/-- The CODE of such an entry (log 20). -/
opaque logCode : LogKind → BitVec 8

/-- Where the fields stand in the DETAIL of such an entry (log 20). -/
opaque logDetail : LogKind → (fields : List Nat) → BitVec 128

/-- The public key that a vendor-signed object carries; where in the object it stands is not laid down (log 12). -/
opaque carriedKey : (object : List Byte) → List Byte

/-- The module's Ed448 identity key, derived from a fused secret that no master can read (14_startup_host.md R507; log 12). -/
opaque identityKey : List Byte

/-- Vendor root key slot revoked in the fuses (14_startup_host.md R501). -/
opaque rootKeyRevoked : Nat → Bool

/-- Fused digest of the vendor root key of a slot (14_startup_host.md R501). -/
opaque rootKeyDigest : Nat → List Byte

/-- The fused minimum security version (14_startup_host.md R501). -/
opaque minimumSvn : Nat

/-- The module serial number (14_startup_host.md R507, 17_module_physical.md R607). -/
opaque serialNumber : BitVec 64

/-- What the CRC-16 of a link word starts from (13_fabric_links.md R464 gives the polynomial and the bits it covers; log 64). -/
opaque crcStart : BitVec 16

/-- Messages and frames whose content the spec names and whose layout it does not give (log 64). -/
inductive Layout where
  /-- INDEX, EPOCH, GEN and the entry digest (11_collectives.md R401). -/
  | openMessage
  /-- INDEX, EPOCH, the first unit, and the bits of its segment (R412). -/
  | presence
  /-- INDEX, EPOCH, the fault code and the rank blamed (R405). -/
  | collAbort
  /-- t1, or t1, t2 and t3, and the correction field (13_fabric_links.md R485). -/
  | sync
deriving DecidableEq, Repr

/-- The bits of a DMA copy descriptor that pulls a feeder rank's training data of a step: 14_startup_host.md R525 gives neither addresses nor extents (log 42). -/
opaque pullBits : (feeder staging step : Nat) → BitVec 512

/-- The bits of the DMA copy descriptors that a checkpoint after a step takes (R525; log 42). -/
opaque checkpointBits : (address step : Nat) → List (BitVec 512)

/-- The gradient buffer headers of a step plan, with their USE, and its presence bitmaps with their granules, which stage 1 writes
(09_training_step.md R317, R326 name no list of them; log 43). -/
opaque headerPlaces : (plan : Nat) → List (Nat × BitVec 16)
opaque bitmapPlaces : (plan : Nat) → List (Nat × Nat)

/-- Where a step plan's norm partials and squared norms stand, of which 09_training_step.md R336 judges NORM_BAD (log 44). -/
opaque normPlaces : (plan : Nat) → List Nat

/-- One granule of such a message or frame. -/
opaque layout : Layout → (fields : List Nat) → (granule : Nat) → BitVec 256

/-- The fixed hash that chooses a cache line's set of the 81,920 (12_memory_system.md R432). -/
opaque cacheSet : Nat → Fin 81920

/-- The first of the two rows of a bank that a margin sweep of a pseudo-channel writes (12_memory_system.md R451 names no rows; log 84). -/
opaque marginRow : (pseudoChannel bank : Nat) → Fin 20480

/-- Byte k of the granules that a margin sweep leaves with a PATTERN (R451 names the pattern alone; log 84). -/
opaque marginByte : (pattern granule k : Nat) → BitVec 8

/-- The fixed hash of a stream and a destination that chooses its port (13_fabric_links.md R476). -/
opaque portHash : (stream dst : Nat) → Nat

/-- The capacity in bytes that one sentry capture takes beyond the tiles and the identity record is fixed by R105 and R106; the two tiles and the record. -/
def captureFixedBytes : Nat := 16416

end Sys2Proof.Config
end

