-- ==== Sys2Proof/Machine/State.lean ====
section
/-! DEFINITION. The state of the module as plain data, its faults and refusals, and the state right after a cold reset. -/

namespace Sys2Proof.Machine

/-- Reasons a step can stop with a fault. None of the device's own conditions stops the block: each is the command's effect on the state. -/
inductive Fault where
  /-- Raised by no meaning; kept so that the reason type is a closed inductive. Safe: it never occurs. -/
  | none
deriving DecidableEq, Repr

/-- Reasons a command is refused. -/
inductive Refusal where
  /-- Raised by the dispatch arm of a command that has no meaning yet. Safe: the machine stops where the device goes on. -/
  | notModelled (mnemonic : String)
deriving DecidableEq, Repr

/-- Effective state of one register block, 16_register_interface.md R566 to R571. -/
structure BlockStatus where
  enabled : Bool := false
  disabling : Bool := false
  rejectSlot : BitVec 9 := 0
  rejected : Bool := false
  configBad : Bool := false
  errorStopped : Bool := false
deriving DecidableEq, Repr

/-- The 4-byte access latches of one master and one block, 16_register_interface.md R561. -/
structure AccessLatch where
  master : Master
  block : Nat
  captured : Option (Nat × BitVec 32) := none
  lower : Option (Nat × BitVec 32) := none
deriving DecidableEq, Repr

/-! ### Cores -/

/-- CORE.STATE without the frozen state, which is a level of its own, 06_core_programs.md R259. -/
inductive RunState where
  | idle
  | running
  | atBarrier
  | halted
deriving DecidableEq, Repr

/-- A per-core mailbox of one forage list, 06_core_programs.md R238. -/
inductive Mailbox where
  | empty
  | pending
  | full (answer : BitVec 256)
deriving DecidableEq, Repr

/-- State of an instruction-memory bank, 06_core_programs.md R245. -/
inductive BankState where
  | loading
  | ready
  | active
deriving DecidableEq, Repr

/-- An active hardware loop, 06_core_programs.md R234: body bundles, passes still to run (the current one included), iteration index. -/
structure LoopFrame where
  first : Nat
  last : Nat
  remain : Nat
  index : Nat
deriving DecidableEq, Repr

/-- What a halt reports, 06_core_programs.md R257 and R258. -/
structure HaltInfo where
  reason : BitVec 8
  pc : Nat
  slot : BitVec 3
  detail : BitVec 64
deriving DecidableEq, Repr

/-- A break taken and not yet halted, 07_program_debug.md R261 and R263. -/
structure BreakInfo where
  tagHit : Bool
  countHit : Bool
  source : BitVec 2
  srcCore : Nat
  count : Nat
  pc : Nat
deriving DecidableEq, Repr

/-- One merged scattered write: an accumulator line and its lanes' additions in ascending lane order, 04_sparse_operands.md R170. -/
structure ScatterWrite where
  line : Nat
  adds : List (Nat × F32)
deriving DecidableEq, Repr

/-- A tensor-scaled writer and what it saw, 02_number_formats.md R89. -/
structure Writer where
  slot : Nat
  scale : Int
  maximum : F32 := 0
  ovf : Bool := false
  nan : Bool := false
deriving DecidableEq, Repr

/-- The fields of a product descriptor (03_matrix_engine.md R119). -/
structure Product where
  aNum : Nat
  bNum : Nat
  aAddr : Nat
  aPitch : Nat
  aCol : Nat
  aSoff : Nat
  bAddr : Nat
  bPitch : Nat
  bCol : Nat
  bSoff : Nat
  k : Nat
  tile : Nat
  cmode : Nat
  sparse : Nat
  aTrans : Bool
  bTrans : Bool
  op : Nat
  rsvd : Nat
deriving DecidableEq, Repr

/-- What a fixed-latency operation does in a later core cycle. -/
inductive CoreEvent where
  | writeSreg (i : Nat) (v : Word64)
  | writeForage (d : Nat) (answer : BitVec 256)
  | readSld (d off pc : Nat) (audited : Bool)
  | writeSst (off : Nat) (v : Word64) (pc : Nat) (audited : Bool)
  | readFile (kind entry off pc : Nat) (audited : Bool)
  | writeFile (kind entry : Nat) (v : Nat)
  /-- The accumulator slot's halves; `iss` is the core cycle of the bundle's issue. -/
  | zeroHalf (tile half pc iss : Nat) (audited : Bool)
  | copyHalf (src dst half pc iss : Nat) (audited : Bool)
  | writeAcc (off : Nat) (bytes : List Byte) (poison : List Nat) (pc iss : Nat) (audited : Bool)
  /-- The dW half of an alternating pair issues in its own cycle: the dX half's operation, and the half's effective descriptor. -/
  | startHalf (first : Nat) (p : Product) (pc : Nat) (audited : Bool)
  | readC (op half : Nat) (audited : Bool)
  | writeC (op half : Nat) (audited : Bool)
  | endOp (op : Nat)
  | rowResult (entry channel : Nat) (v : F32) (loss : Bool)
  /-- One vector's store: operand values of the outputs as 41-bit FP32X8 codes, the full I0 codes, and the row's choice record. -/
  | store (pass r v : Nat) (lanes : List (List Nat)) (i0 : List Nat) (choices : Option (List Byte)) (last : Bool)
  | haltWith (h : HaltInfo)
deriving DecidableEq, Repr

/-- A product operation in flight, 03_matrix_engine.md R129: decoded operand chunks per cell row and column, C_before and the write cycles. -/
structure MatrixOp where
  id : Nat
  pc : Nat
  tile : Nat
  forward : Option Nat
  before : List F32 := []
  after : List F32 := []
  a : List (List (Option F32))
  b : List (List F32)
  issued : Nat
  occupancy : Nat
  captured : Bool
  captureBytes : Nat := 0
  /-- Product-operation count of the launch (02_number_formats.md R105). -/
  number : Nat := 0
  /-- Its last write cycle has passed. -/
  ended : Bool := false
deriving DecidableEq, Repr

/-- Running state of one row of a pass in one reduction channel, 05_vector_chain.md R192, R616 and R617. -/
structure RowState where
  row : Nat
  channel : Nat
  acc : F32
  m : F32 := 0xFF800000
  dot : F32 := 0
  count : Nat := 0
  nan : Bool := false
  posInf : Bool := false
  negInf : Bool := false
deriving DecidableEq, Repr

/-- Half of a B = 128 block waiting for its second vector, 05_vector_chain.md R200: FP32X8 codes of its lanes. -/
structure HeldHalf where
  row : Nat
  output : Nat
  values : List Nat
deriving DecidableEq, Repr

/-- A vector loaded and not yet computed: row, vector, the six inputs' lanes and the full codes of an FP32X8 input I0. -/
structure LoadedVector where
  r : Nat
  v : Nat
  inputs : List (List F32)
  i0 : List Nat
deriving DecidableEq, Repr

/-- A pass in flight, 05_vector_chain.md R176. -/
structure Pass where
  id : Nat
  pc : Nat
  recipe : Nat
  base : Nat
  issued : Nat
  vectors : Nat
  audited : Bool := false
  /-- The vector loaded in the last core cycle. -/
  loaded : Option LoadedVector := none
  /-- C tiles being read as columns: stream, the tile's values. -/
  tiles : List (Nat × List F32) := []
  rows : List RowState := []
  topk : List (Nat × F32 × F32) := []
  held : List HeldHalf := []
  /-- Scatter indices by row. -/
  indices : List (Nat × Nat) := []
  writers : List (Nat × Writer) := []
  /-- Tensor scale bytes of its inputs, by stream, as its first vector read them. -/
  scales : List (Nat × Nat) := []
deriving DecidableEq, Repr

/-- A line requested by a data mover that has not returned its credit, 06_core_programs.md R223 and R226. -/
structure MoverLine where
  move : Nat
  line : Nat
  due : Nat
  held : Bool := false
  remoteTag : Option Nat := none
  /-- Requested before a core reset: its core-side write is discarded (R577). -/
  discard : Bool := false
  /-- Destination rank of a held fabric request. -/
  rank : Nat := 0
  /-- Local address of the external side; none where the request was refused or left for another module. -/
  addr : Option Nat := none
deriving DecidableEq, Repr

/-- A move in progress, 06_core_programs.md R223 and R225. -/
structure Move where
  id : Nat
  pc : Nat
  gather : Bool
  issued : Nat
  desc : Nat
  ext : Nat
  coreOff : Nat
  next : Nat := 0
  lines : Nat
  /-- GATHER: row-list entries read so far: address, and whether the entry is poisoned. -/
  entries : List (Nat × Bool) := []
  /-- GATHER: lines of each row already read. -/
  rowDone : List (Nat × Nat) := []
deriving DecidableEq, Repr

/-- One data mover, 06_core_programs.md R221 to R226. -/
structure Mover where
  credits : Nat := 256
  nextIssue : Nat := 0
  moves : List Move := []
  lines : List MoverLine := []
deriving DecidableEq, Repr

/-- A sampled product operation, 02_number_formats.md R105. -/
structure Capture where
  bytes : Nat
  core : Nat
  ordinal : Nat
  op : Nat
  a : List (List (Option F32))
  b : List (List F32)
  before : List F32
  after : List F32
deriving DecidableEq, Repr

/-- The launch that a core runs or ran last, 06_core_programs.md R249 and R253. -/
structure CoreLaunch where
  id : Nat
  record : BitVec 512
  csf1 : Bool
  started : Nat
deriving DecidableEq, Repr

/-- One core, 03_matrix_engine.md R112 and 06_core_programs.md. -/
structure Core where
  run : RunState := .idle
  launch : Option CoreLaunch := none
  pc : Nat := 0
  cycle : Nat := 0
  bundles : Nat := 0
  ordinal : BitVec 48 := 0
  ended : Bool := false
  sregs : Table Word64 := []
  wf : Bool := false
  loops : List LoopFrame := []
  /-- The BARRIER bundle at which the core waits or last waited. -/
  barrierPc : Nat := 0
  halt : HaltInfo := ⟨0, 0, 0, 0⟩
  haltMultiple : Bool := false
  recordPending : Bool := false
  productFile : Table (BitVec 256) := []
  moveFile : Table (BitVec 256) := []
  recipeFile : Table (BitVec 2048) := []
  rowResults : Table F32 := []
  generators : Table F32 := []
  sentryGen : BitVec 32 := 0
  productOps : Nat := 0
  captures : List Capture := []
  capturesInFlight : Nat := 0
  mailboxes : Table Mailbox := []
  queues : List (Nat × ScatterWrite) := []
  waiting : List (Nat × ScatterWrite) := []
  mover0 : Mover := {}
  mover1 : Mover := {}
  events : List (Nat × CoreEvent) := []
  nextId : Nat := 0
  matFree : Nat := 0
  lastTile : Option (Nat × Nat) := none
  matOps : List MatrixOp := []
  vecFree : Nat := 0
  passes : List Pass := []
  /-- Vectors loaded in the current core cycle, by pass. -/
  nextLoaded : List (Nat × LoadedVector) := []
  accFree : Nat := 0
  bank0 : BankState := .loading
  bank1 : BankState := .loading
  bankOk : Bool := true
  imemReject : Bool := false
  debugReject : Bool := false
  lossSum : F32 := 0
  lossComp : F32 := 0
  lossRows : BitVec 32 := 0
  lossNonfinite : BitVec 32 := 0
  brk : Option BreakInfo := none
  /-- A broadcast or request that waits for the next bundle: SOURCE, source core, and the core cycle count at which it came. -/
  breakRequest : Option (BitVec 2 × Nat × Nat) := none
  /-- State.cycles at the last break that a waiting core took. -/
  brokenAt : Nat := 0
  breakExempt : Bool := false
  resumeAtBarrier : Bool := false
  /-- The launch was resumed, so that its record replaces an earlier one (R271). -/
  resumed : Bool := false
  /-- The number k of the BARRIER at which the core waits or last waited (R241). -/
  barrierCount : Nat := 0
  deliveries : List (Nat × BitVec 512) := []
  guardUncorr : Nat := 0
  guardCorr : Nat := 0
  /-- Damage in the core's internal files (15_integrity_faults.md R537, R542): the file's code in R542, the place in it (four scalar registers, a descriptor or
  recipe, eight row results, a mailbox), and what a read finds: 0 a correctable granule, 1 an uncorrectable one, 2 a poisoned one. -/
  fileErrors : List (Nat × Nat × Nat) := []
  wrotePoison : Bool := false
  /-- Banks of the shared ports that the program, a queue head or a mover used in the core cycle `portsAt` of State.cycles (03_matrix_engine.md R114,
  04_sparse_operands.md R168): space, bank, and who: 0 the vector chain, 1 a queue head, 2 and 3 the movers. -/
  ports : List (Nat × Nat × Nat) := []
  portsAt : Nat := 0
deriving DecidableEq, Repr

/-! ### Forage lists, barriers, the launch arbiter -/

/-- A forage list, 06_core_programs.md R237 and R239; `state` is 0 IDLE, 1 OPEN, 2 COMPLETE. -/
structure ForageList where
  state : Nat := 0
  descs : List (BitVec 256) := []
  /-- Appends that the exchange holds while the list is full (R237). -/
  waiting : List (BitVec 256) := []
  total : Nat := 0
  totalKnown : Bool := false
  appended : Nat := 0
  taken : Nat := 0
  held : List Nat := []
  /-- Requests sent by cores that have not reached the unit. -/
  requests : List Nat := []
  /-- Answers sent to cores that have not reached their mailboxes. -/
  answers : List (Nat × BitVec 256) := []
deriving DecidableEq, Repr

/-- A hive barrier with an arrival, 06_core_programs.md R241 to R243. -/
structure Barrier where
  launch : Nat
  number : Nat
  group : List Nat
  arrived : List Nat
  mask : BitVec 4
  firstArrival : Nat
  pausedFor : Nat := 0
  failed : Bool := false
deriving DecidableEq, Repr

/-- A launch that the arbiter has taken and that has not ended, 01_architecture.md R613. -/
structure LaunchRun where
  id : Nat
  ordinal : Nat
  remaining : List Nat
deriving DecidableEq, Repr

/-! ### DMA -/

/-- A DMA descriptor in progress, 04_sparse_operands.md R159 to R165. -/
structure DmaJob where
  desc : BitVec 512
  started : Nat
  finished : Bool := false
  done : Nat := 0
  total : Nat := 0
  fault : Nat := 0
  tile : Nat := 0
  row : Nat := 0
  group : Nat := 0
  orient : Nat := 0
  pruned : Nat := 0
  denseTiles : Nat := 0
  poisonReads : Nat := 0
  poisoned : Bool := false
  corrReads : Nat := 0
  unmapped : Bool := false
  /-- Source granules that have been read: address, data, poison. -/
  got : List (Nat × List Byte × Bool) := []
  /-- Writes of the current unit are on their way to another module. -/
  out : Bool := false
  /-- The steward's writer of a tensor-scaled destination (02_number_formats.md R89). -/
  writer : Option Writer := none
deriving DecidableEq, Repr

/-! ### Exchange -/

/-- One choice of one token at its source, 08_routing_exchange.md R288 to R295. `status` is 0 no choice, 1 admitted, 2 skipped, 3 undecided. -/
structure Choice where
  token : Nat
  rank : Nat
  expert : Nat
  raw : F32
  owner : Nat := 0
  slot : Nat := 0
  replica : Nat := 0
  status : Nat := 3
  pos : Nat := 0
  gate : F32 := 0
deriving DecidableEq, Repr

/-- One entry of the slot table snapshot, 08_routing_exchange.md R287. -/
structure SlotSnap where
  valid : Bool
  capacity : Nat
  expert : Nat
  base : Nat := 0
deriving DecidableEq, Repr

/-- One tile of an owner, 08_routing_exchange.md R298 to R302. -/
structure TileState where
  index : Nat
  slot : Nat
  j : Nat
  rows : Nat
  /-- The waiting or granted request for its cells. -/
  request : Option Nat := none
  /-- Head of its row-list cell, once it is reserved. -/
  rowList : Option Nat := none
  /-- Positions landed and the heads of their rows. -/
  landed : List (Nat × Nat) := []
  seq : Option Nat := none
  posted : Bool := false
deriving DecidableEq, Repr

/-- An active dispatch, 08_routing_exchange.md R279 to R314. -/
structure Dispatch where
  list : Nat
  desc : BitVec 1024
  taken : Nat
  /-- The launch ordinal that the dispatch still waits for (R282). -/
  waits : Option Nat := none
  armFail : Bool := false
  started : Option Nat := none
  digest : BitVec 64 := 0
  ept : List Nat := []
  slots : List SlotSnap := []
  choices : List Choice := []
  counts : List (Nat × List (Nat × Nat × Nat)) := []
  granted : List Nat := []
  grantsDone : Bool := false
  grantsFrom : List Nat := []
  carrySent : Bool := false
  tiles : List TileState := []
  returnsSent : Nat := 0
  /-- Returns written, by token and choice rank. -/
  returned : List (Nat × Nat) := []
  phase : Nat := 0
  fault : Nat := 0
  faultRank : Nat := 0
  faultSlot : Nat := 0
  faultPos : Nat := 0
  poisonReads : Nat := 0
  corrReads : Nat := 0
  poisoned : Bool := false
deriving DecidableEq, Repr

/-- A message held in buffer-pool cells until its work starts, 08_routing_exchange.md R290 and 11_collectives.md R401. -/
inductive HeldMessage where
  | scout (h : DispatchHeader) (es : List ScoutEntry) (chain : Nat)
  | grant (h : DispatchHeader) (es : List GrantEntry) (chain : Nat)
  | abort (h : DispatchHeader) (chain : Nat)
  | openMsg (src : Nat) (k : CollId) (gen : BitVec 16) (digest : BitVec 64) (chain : Nat)
deriving DecidableEq, Repr

/-- A message that this module has deferred (13_fabric_links.md R471): flow kind, flow id, source rank; the request for its cells, or the slot and position of the tile that it waits for. -/
structure Awaited where
  kind : Nat
  flow : Nat
  src : Nat
  /-- The number of the message. -/
  msg : Nat := 0
  request : Option Nat := none
  target : Option (Nat × Nat) := none
  resumed : Bool := false
deriving DecidableEq, Repr

/-! ### Buffer pool, caches, controllers -/

/-- A chain of pool cells, 12_memory_system.md R441. -/
structure Chain where
  cells : List Nat
  count : Nat
  cls : Nat
  account : Nat
  fromFloor : Bool
deriving DecidableEq, Repr

/-- A waiting request for pool cells, 12_memory_system.md R444 to R446; `cycle` is the cycle in which it arrived (State.cycles). -/
structure PoolRequest where
  id : Nat
  cls : Nat
  account : Nat
  cells : Nat
  cycle : Nat := 0
deriving DecidableEq, Repr

/-- Cells granted for a tile, message or contribution and not yet placed in a chain. -/
structure Reservation where
  id : Nat
  cls : Nat
  account : Nat
  cells : Nat
  fromFloor : Bool
deriving DecidableEq, Repr

/-- A write-combining entry, 12_memory_system.md R429. -/
structure WcbEntry where
  base : Nat
  channel : Nat
  pseudo : Nat
  mask : Nat
  since : Nat
deriving DecidableEq, Repr

/-- An access that waits: for a free cycle of a core's bank (01_architecture.md R45), or held at the crossbar by a full write-combining buffer
(12_memory_system.md R431). -/
structure WaitingAccess where
  master : Master
  addr : Nat
  len : Nat
  /-- A write's bytes, and the granules that arrive poisoned. -/
  write : Option (List Byte × List Nat) := none
  /-- The inbound frame that is answered once the access is served: lane and header. -/
  frame : Option (Fin 96 × FrameHeader) := none
deriving DecidableEq, Repr

/-- A margin sweep in progress or its result, 12_memory_system.md R451. -/
structure Margin where
  busy : Bool := false
  failed : Bool := false
  passing : Nat := 0
deriving DecidableEq, Repr

/-! ### Links and fabric -/

/-- A frame sent on a lane and not yet acknowledged, 13_fabric_links.md R469. -/
structure Frame where
  seq : Nat
  header : FrameHeader
  /-- The extension of a BULK message's frame 0 (R468). -/
  ext : List Byte := []
  data : List Byte
  replays : Nat := 0
  /-- The message that the frame belongs to: flow kind, flow id, destination rank, message number. -/
  part : Option (Nat × Nat × Nat × Nat) := none
deriving DecidableEq, Repr

/-- One lane, 13_fabric_links.md R458 to R463; `status` is the code of LANEi_STATUS. -/
structure Lane where
  status : Nat := 0
  major : Nat := 0
  minor : Nat := 0
  result : Nat := 0
  partner : Nat := 0
  peerSwitch : BitVec 32 := 0
  peerPort : BitVec 16 := 0
  peerKnown : Bool := false
  trainStart : Nat := 0
  /-- The time at which it last reached UP, FAILED, HELD or PORT_SPLIT. -/
  failedAt : Nat := 0
  lastSent : Nat := 0
  lastHeard : Nat := 0
  sendSeq : Nat := 0
  /-- Sequence number expected next. -/
  recvSeq : Nat := 0
  unacked : List Frame := []
  /-- Frames that wait for credit on their virtual channel (R470). -/
  waiting : List Frame := []
  credits : List Nat := []
  /-- Times at which codewords arrived that could not be corrected, within the last 1 ms (R463). -/
  uncorrAt : List Nat := []
  /-- A frame that failed for its granules' guard code: its sequence number and the granules (15_integrity_faults.md R537). -/
  suspect : Option (Nat × Nat) := none
  everSettled : Bool := false
deriving DecidableEq, Repr

/-- A remote request awaiting its response, 13_fabric_links.md R470 and 15_integrity_faults.md R553. -/
structure RemoteRequest where
  tag : Nat
  master : Master
  addr : Nat
  granules : Nat
  isWrite : Bool
  sentAt : Nat
  kind : Nat := 2
  stream : Nat := 0
  dst : Nat := 0
  route : Nat := 0
  /-- The FABRIC ports that were up when it left (R476). -/
  ups : List Nat := []
  /-- Its frame, while the stream issues nothing to the destination. -/
  held : Option (FrameHeader × List Byte) := none
deriving DecidableEq, Repr

/-- A flow to a destination stopped by DEFER, 13_fabric_links.md R472. -/
structure DeferredFlow where
  kind : Nat
  flow : Nat
  dst : Nat
  msg : Nat
deriving DecidableEq, Repr

/-- Time synchronisation, 13_fabric_links.md R485 and R486; `lock` is 0 UNLOCKED, 1 ACQUIRING, 2 LOCKED. -/
structure TimeSync where
  theta : Int := 0
  lock : Nat := 0
  stepped : Bool := false
  good : Nat := 0
  bad : Nat := 0
  lastExchange : Nat := 0
  sentAt : Option Nat := none
  lastSent : Nat := 0
  correction : Int := 0
  slewPhase : Nat := 0
deriving DecidableEq, Repr

/-! ### Collectives -/

/-- A contribution or partial result held for a reduction, 11_collectives.md R406 and 12_memory_system.md R444: granules `off` on of a unit as it travels. -/
structure Contribution where
  src : Nat
  unit : Nat
  off : Nat
  granules : Nat
  /-- Head of the pool chain that holds it; zero for this rank's own data, which stand in `data`. -/
  chain : Nat := 0
  data : List Byte := []
  poison : List Nat := []
deriving DecidableEq, Repr

/-- A collective posted and not ended, 11_collectives.md R397 to R415; `state` is 0 held, 1 open, 2 started, 3 finished. -/
structure Collective where
  id : CollId
  record : BitVec 256
  entry : BitVec 1024
  members : List Nat
  /-- This rank's group index. -/
  self : Nat
  posted : Nat
  /-- The launch ordinal that the collective still waits for (R398). -/
  waits : Option Nat := none
  armFail : Bool := false
  armedAt : Nat := 0
  state : Nat := 0
  opened : Nat := 0
  startedAt : Nat := 0
  /-- Group indices whose OPEN has arrived. -/
  heard : List Nat := []
  dataPhase : Bool := false
  /-- Presence bits that have arrived: group index, first unit, bits. -/
  presence : List (Nat × Nat × List Bool) := []
  /-- Segments whose subgroup bits this rank has passed on. -/
  presenceSent : List Nat := []
  /-- Units whose bits over the whole group are known. -/
  known : List (Nat × Bool) := []
  contributions : List Contribution := []
  /-- Batches performed: unit, batch. -/
  batches : List (Nat × Nat) := []
  /-- Outcomes of the batches of units that travel on. -/
  made : List Contribution := []
  /-- Results' leading granules by unit, and whether they are poisoned. -/
  prefixes : List (Nat × List Byte × Bool) := []
  /-- Result pieces written: unit, first granule, granules. -/
  landed : List (Nat × Nat × Nat) := []
  /-- Destination units written or excused; source units sent or excused. -/
  results : List Nat := []
  sourceDone : List Nat := []
  writer : Option Writer := none
  retries : Nat := 0
  poisonReads : Nat := 0
  corrReads : Nat := 0
  poisoned : Bool := false
deriving DecidableEq, Repr

/-! ### Solver -/

/-- A head job of a solver channel, 10_curvature_solver.md R360 to R363. -/
structure HeadJob where
  desc : BitVec 1024
  arrived : Nat
  /-- The time at which the job was armed. -/
  armedAt : Nat := 0
  /-- The launch ordinal that the job still waits for (R362). -/
  waits : Option Nat := none
  armFail : Bool := false
deriving DecidableEq, Repr

/-- A running solver job, 10_curvature_solver.md R364 to R384. Matrices are n × n, row by row. -/
structure SolverJob where
  channel : Nat
  desc : BitVec 1024
  headAt : Nat
  deadline : Nat
  phase : Nat := 0
  /-- Steps still to run: (kind, argument). -/
  plan : List (Nat × Nat) := []
  done : Nat := 0
  total : Nat := 0
  weight : F32 := 0
  samples : Nat := 0
  /-- The statistic is read, and in FULL form. -/
  reads : Bool := false
  full : Bool := false
  /-- The factor's blocks on and above the diagonal (R367). -/
  factor : List F32 := []
  work : List F32 := []
  /-- Columns of L, one after another. -/
  chol : List F32 := []
  aux : List F32 := []
  lambda : F32 := 0
  dMax : F32 := 0
  resid : F32 := 0
  retried : Bool := false
  factorDone : Bool := false
  iter : Nat := 0
  convergedAt : Option Nat := none
  panel : Nat := 0
  column : Nat := 0
  /-- The slot as the writeback read it, once every result write is made. -/
  slot : Option (BitVec 512) := none
  poisonReads : Nat := 0
  corrReads : Nat := 0
deriving DecidableEq, Repr

/-! ### Host, start-up, Keeper, power -/

/-- One MSI-X table entry: address, data, vector control. -/
structure MsixEntry where
  addr : Word64 := 0
  data : BitVec 32 := 0
  ctrl : BitVec 32 := 1
deriving DecidableEq, Repr

/-- The host interface, 14_startup_host.md R509 to R515. -/
structure HostIf where
  inReset : Bool := true
  linkUp : Bool := false
  msixEnable : Bool := false
  busMaster : Bool := false
  msix : Table MsixEntry := []
  pendingBits : BitVec 64 := 0
  lastLevels : List Nat := []
  staging : Table Word64 := []
  /-- Records of the launch queues in the order in which they reached the arbiter. -/
  queues : List (Nat × BitVec 512) := []
  /-- The last `arrivedNow` records came in core cycle `arrivedAt` of State.cycles. -/
  arrivedAt : Nat := 0
  arrivedNow : Nat := 0
  /-- Head records being copied: queue, launch, named cores that have no copy yet (R514). -/
  copying : List (Nat × Nat × List Nat) := []
  heartbeatAt : Nat := 0
deriving DecidableEq, Repr

/-- Start-up, 14_startup_host.md R491 to R506. `state` is the code of CHIP.BOOT_STATE. -/
structure Boot where
  state : Nat := 0
  error : Nat := 0
  detail : BitVec 32 := 0
  strapProfile : BitVec 2 := 3
  strapSlot : BitVec 2 := 3
  requestUsed : BitVec 3 := 0
  profileSource : Bool := false
  profile : BitVec 2 := 3
  plan : BitVec 2 := 0
  imageSlot : Nat := 0
  imageVersion : BitVec 32 := 0
  imageDigest : List Byte := []
  hbmDone : Bool := false
  mappedOut : List Nat := []
  identityOk : Bool := false
  /-- Phase 3 has ended since the last reset. -/
  serialKnown : Bool := false
  /-- The owner's public key and the digests that an attestation report names (R501, R508). -/
  ownerKey : List Byte := []
  ownerDigest : List Byte := []
  profileDigest : List Byte := []
  planDigest : List Byte := []
  mapDigest : List Byte := []
  telemetryBase : Nat := 0
  dmaMask : BitVec 32 := 0
  configured : Bool := false
deriving DecidableEq, Repr

/-- A DMA copy that the step driver issues of itself (14_startup_host.md R525): a pull of a step's training data, or a part of the checkpoint after a step. -/
structure DriverCopy where
  desc : BitVec 512
  step : Nat
  checkpoint : Bool
  issued : Bool := false
deriving DecidableEq, Repr

/-- The step driver, 14_startup_host.md R522 to R525; `mode` is 0 stopped, 1 running, 2 FAULT. -/
structure StepDriver where
  mode : Nat := 0
  args : Option StepStartArgs := none
  step : Nat := 0
  stage : Nat := 0
  micro : Nat := 0
  issued : List (Nat × Nat) := []
  keep : Bool := true
  stopAsked : Bool := false
  skipped : Nat := 0
  /-- Counts at the start of the step: sentry faults, NaN drops, block NaNs. -/
  health : List Nat := []
  lossBad : Bool := false
  abandoned : Bool := false
  /-- The abandoned step is run again (09_training_step.md R350). -/
  rerun : Bool := false
  /-- Issued entries whose completion records have been seen written, and those seen to report a fault. -/
  ended : List (Nat × Nat) := []
  faulted : List (Nat × Nat) := []
  /-- The step's layout generation: that of the plan's first record that carries one (09_training_step.md R347). -/
  gen : Option Nat := none
  /-- LOSS_SUM and LOSS_NONFINITE of the launches that ended, by the address of their completion record, until the driver sees them (R336, R338). -/
  losses : List (Nat × F32 × Nat) := []
  lossSum : F32 := 0
  /-- Steward slots that writers have reported to since the last stage 7 (R317). -/
  written : List Nat := []
  /-- Copies not seen ended, and the first step whose training data is still to be pulled. -/
  copies : List DriverCopy := []
  pulled : Nat := 0
  /-- Completion records of solver jobs that run on beside later steps (R317). -/
  beside : List Nat := []
deriving DecidableEq, Repr

/-- The Keeper, 14_startup_host.md R516 to R527. -/
structure Keeper where
  inReset : Bool := true
  watchdogAt : Nat := 0
  job : Option OpenJobArgs := none
  telemetryPeriod : Nat := 0
  telemetryAt : Nat := 0
  loadAt : Nat := 0
  load : Nat := 0
  checkpointInterval : Nat := 0
  checkpointAddr : BitVec 64 := 0
  samples : List (List (Nat × Word64)) := []
deriving DecidableEq, Repr

/-- Power, temperatures and frequency steps, 17_module_physical.md R589 to R599. -/
structure Power where
  vin : Nat := 52000
  inputPresent : Bool := true
  regulators : Bool := true
  tripped : Bool := false
  modReset : Bool := false
  pin : Nat := 0
  powerStep : Nat := 0
  thermalStep : Nat := 0
  applied : Nat := 0
  overFor : Nat := 0
  calm : Nat := 0
  highLast : Bool := false
  coolReadings : Nat := 0
  die0 : Nat := 25
  die1 : Nat := 25
  exch : Nat := 25
  stackTemps : List Nat := []
  scan : Option Nat := none
  scanPins : Bool := false
deriving DecidableEq, Repr

/-- What has left the module: answers to a master outside, frames, messages, interrupts, pin-level answers. -/
inductive Out where
  | readData (m : Master) (addr : Nat) (data : List Byte) (poison : List Nat)
  | unsupported (m : Master) (addr : Nat)
  | accessFault (m : Master) (addr : Nat)
  | atomicOld (old : Word64) (poisoned : Bool)
  | storeConditional (ok : Bool)
  /-- A frame: its lane, link word, header, extension and payload (13_fabric_links.md R464 to R468). -/
  | frame (lane : Nat) (word : BitVec 48) (h : FrameHeader) (ext data : List Byte)
  /-- What the module sends in an identity exchange: switch id, port number, versions (R459). -/
  | identity (lane switchId port : Nat) (versions : List (Nat × Nat))
  | msi (vector : Nat) (addr : Word64) (data : BitVec 32)
  | smbus (data : List Byte)
  | smbusNack
  | tdo (instruction : Nat) (data : BitVec 32)
deriving DecidableEq, Repr

/-- What a MESSAGE or BULK message of a flow carries (08_routing_exchange.md R289, R297, R313; 11_collectives.md R401, R405, R406, R412). -/
inductive Message where
  | scout (h : DispatchHeader) (es : List ScoutEntry)
  | grant (h : DispatchHeader) (es : List GrantEntry)
  | abort (h : DispatchHeader)
  | carry (t : RowTag) (row : List Byte) (poison : List Nat)
  | returned (t : RowTag) (row : List Byte) (poison : List Nat)
  | openMsg (k : CollId) (gen : BitVec 16) (digest : BitVec 64)
  | presence (k : CollId) (first : Nat) (bits : List Bool)
  | contribution (k : CollId) (gen : BitVec 16) (unit off : Nat) (data : List Byte) (poison : List Nat)
  | result (k : CollId) (gen : BitVec 16) (unit off : Nat) (data : List Byte) (poison : List Nat)
  | collAbort (k : CollId) (code : BitVec 8) (blamed : Nat)
deriving DecidableEq, Repr

/-- A MESSAGE or BULK message of a flow, kept by its source until its work ends (13_fabric_links.md R472): flow kind, flow id, destination rank, message number. -/
structure SentMessage where
  kind : Nat
  flow : Nat
  dst : Nat
  msg : Nat
  sent : Bool
  /-- No usable port has taken it, or its lanes have left UP with it. -/
  lost : Bool := false
  what : Message
deriving DecidableEq, Repr

/-- The state of the module. -/
structure State where
  pending : List Instr := []
  mem : Table Byte := []
  guard : Table (BitVec 32) := []
  scrubs : List (Nat × Bool) := []
  nvm : Table Byte := []
  regs : Table Word64 := []
  blocks : Table BlockStatus := []
  latches : List AccessLatch := []
  /-- Writes of units into register windows that are still on their way (R39). -/
  posted : List (Master × Nat × List Byte) := []
  /-- Inbound writes that are held there: lane and header, answered once they are applied (11_collectives.md R397). -/
  heldAcks : List (Nat × FrameHeader) := []
  /-- Accesses that wait for a bank or a buffer entry, in order of arrival. -/
  waitingAccesses : List WaitingAccess := []
  time : Nat := 0
  pulseLast : Nat := 0
  readings : Table Nat := []
  cores : List Core := List.replicate 128 {}
  forage : List ForageList := List.replicate 4 {}
  barriers : List Barrier := []
  launches : List LaunchRun := []
  ended : List (Nat × Bool) := []
  nextLaunch : Nat := 0
  steward : Table (BitVec 128) := []
  disables : List Nat := []
  slotRejected : Option Nat := none
  dma : List (Option DmaJob) := List.replicate 32 none
  dmaRejected : List Nat := []
  /-- Channels whose enable has been accepted (R569, R571). -/
  dmaOn : BitVec 32 := 0
  dispatches : List Dispatch := []
  heldMessages : List HeldMessage := []
  lastDispatchFault : Nat := 0
  chains : List Chain := []
  poolQueue : List PoolRequest := []
  poolOver : List PoolRequest := []
  reservations : List Reservation := []
  nextPool : Nat := 0
  /-- Heads of chains whose count reached zero and whose cell no chain has taken since (12_memory_system.md R442). -/
  freedHeads : List Nat := []
  cacheLines : List (Nat × Bool) := []
  reserved : Table Nat := []
  wcb : List WcbEntry := []
  /-- Last access of each pseudo-channel (2 × channel + pseudo-channel): 0 none, 1 read, 2 write. -/
  pcDir : Table Nat := []
  margins : List Margin := List.replicate 12 {}
  windows : Table (BitVec 128) := []
  windowRejected : Option Nat := none
  rankCache : List (Nat × BitVec 32) := []
  deferred : List DeferredFlow := []
  /-- Messages of the flows that this module sends. -/
  messages : List SentMessage := []
  /-- Messages of this module's own rank to itself, on their way. -/
  looped : List SentMessage := []
  /-- The number of the next message of a flow: towards each destination, and from each source (by `flowKey`). -/
  sendNext : Table Nat := []
  arrivals : Table Nat := []
  /-- Frames sent through each port, which are striped over its lanes (13_fabric_links.md R456). -/
  portTurn : Table Nat := []
  /-- Lines that units have written and that may be posts (08_routing_exchange.md R304): address and length. -/
  doneWrites : List (Nat × Nat) := []
  /-- Messages that this module has deferred and not yet received again. -/
  awaited : List Awaited := []
  /-- Break broadcasts on their way: source core, destination core (07_program_debug.md R266). -/
  broadcasts : List (Nat × Nat) := []
  remote : List RemoteRequest := []
  nextTag : Nat := 0
  lastRefusal : Word64 := 0
  lanes : List Lane := List.replicate 96 {}
  sync : TimeSync := {}
  collTable : Table (BitVec 1024) := []
  /-- Codewords damaged on their way: the next transfer of a granule over a check point arrives with a deviation of its check symbols
  (01_architecture.md R35, 15_integrity_faults.md R537). No command damages one (log 70). -/
  hopErrors : List (Nat × Nat × BitVec 32) := []
  /-- Blocks whose internal state holds an uncorrectable codeword, with the structure (R543). No command damages one (log 70). -/
  stateErrors : List (Nat × Nat) := []
  /-- Granules found uncorrectable, with the core cycle (R544). -/
  metErrors : List (Nat × Nat) := []
  tableReject : Bool := false
  collectives : List Collective := []
  /-- Collectives that ended here with a fault: what arrives for them is discarded (11_collectives.md R405). -/
  collFaulted : List CollId := []
  lastCollFault : Nat := 0
  /-- The collective whose batch was performed last (11_collectives.md R409). -/
  collTurn : Option CollId := none
  heads : List (Option HeadJob) := List.replicate 16 none
  units : List (Option SolverJob) := List.replicate 4 none
  lastSolverFault : Nat := 0
  host : HostIf := {}
  boot : Boot := {}
  keeper : Keeper := {}
  driver : StepDriver := {}
  nvmBusy : Option Nat := none
  nvmRefused : Bool := false
  power : Power := {}
  smbSelect : BitVec 32 := 0
  guardLast : Word64 := 0
  out : List Out := []
  freeCtr : Nat := 0
  /-- Tenths of a core cycle and of an exchange cycle left over from earlier ticks. -/
  tickPhase : Nat := 0
  exchPhase : Nat := 0
  /-- Core cycles run so far, the stamp by which events of one cycle are known. -/
  cycles : Nat := 0
deriving DecidableEq, Repr

/-- The machine right after a cold reset (14_startup_host.md R491, 16_register_interface.md R576 to R578): every field at its default above;
register values that differ from zero are the reset exceptions that the register file's reading supplies (Machine/Ops.lean). -/
def State.reset : State := {}

end Sys2Proof.Machine
end

