-- ==== Sys2Proof/Machine/Bits.lean ====
section
/-! DEFINITION. Bit fields, byte order, sparse tables in canonical form and small list operations that every unit uses. -/

namespace Sys2Proof.Machine

/-- Bits [hi:lo] of a number, 00_scope.md R12. -/
def fld (x hi lo : Nat) : Nat := (x / 2 ^ lo) % 2 ^ (hi + 1 - lo)

/-- Bit k of a number. -/
def bit (x k : Nat) : Bool := (x / 2 ^ k) % 2 == 1

/-- One as 1, zero as 0. -/
def b2n (b : Bool) : Nat := if b then 1 else 0

/-- A value placed at bit position lo. -/
def at_ (v lo : Nat) : Nat := v * 2 ^ lo

/-- Bits [hi:lo] of a number replaced by a value. -/
def setFld (x hi lo v : Nat) : Nat :=
  x - fld x hi lo * 2 ^ lo + (v % 2 ^ (hi + 1 - lo)) * 2 ^ lo

/-- Two's complement value of a w-bit number. -/
def toInt (w x : Nat) : Int := if 2 * (x % 2 ^ w) < 2 ^ w then (x % 2 ^ w : Nat) else (x % 2 ^ w : Nat) - (2 ^ w : Nat)

/-- The w-bit two's complement code of an integer. -/
def ofInt (w : Nat) (i : Int) : Nat := (i % (2 ^ w : Nat)).toNat

/-- The n bytes of a number, byte 0 first (little-endian, R12). -/
def bytesOf : Nat → Nat → List Byte
  | _, 0 => []
  | x, n + 1 => BitVec.ofNat 8 x :: bytesOf (x / 256) n

/-- The number whose little-endian bytes are given (R12). -/
def ofBytes : List Byte → Nat
  | [] => 0
  | b :: bs => b.toNat + 256 * ofBytes bs

/-- Entry of a table, its default where nothing is listed. -/
def tget {α : Type} (d : α) : Table α → Nat → α
  | [], _ => d
  | (k', v) :: t, k => if k' = k then v else tget d t k

/-- A table with one entry set, still in canonical form. -/
def tset {α : Type} [DecidableEq α] (d : α) : Table α → Nat → α → Table α
  | [], k, v => if v = d then [] else [(k, v)]
  | (k', v') :: t, k, v =>
    if k < k' then (if v = d then (k', v') :: t else (k, v) :: (k', v') :: t)
    else if k = k' then (if v = d then t else (k, v) :: t)
    else (k', v') :: tset d t k v

/-- The canonical form of a table: keys strictly rising, no entry equal to the default. -/
def twf {α : Type} [DecidableEq α] (d : α) : Table α → Bool
  | [] => true
  | (k, v) :: t => decide (v ≠ d) && t.all (fun p => decide (k < p.1)) && twf d t

/-- Consecutive entries set from a list. -/
def tsetList {α : Type} [DecidableEq α] (d : α) (t : Table α) (k : Nat) : List α → Table α
  | [] => t
  | v :: vs => tsetList d (tset d t k v) (k + 1) vs

/-- n consecutive entries of a table. -/
def tgetList {α : Type} (d : α) (t : Table α) (k : Nat) : Nat → List α
  | 0 => []
  | n + 1 => tget d t k :: tgetList d t (k + 1) n

/-- The entries of a table outside a key range. -/
def tclear {α : Type} (t : Table α) (lo n : Nat) : Table α :=
  t.filter (fun p => p.1 < lo || lo + n ≤ p.1)

/-- A list with its entry i changed, unchanged where there is none. -/
def modifyAt {α : Type} (l : List α) (i : Nat) (f : α → α) : List α :=
  match l[i]? with
  | some x => l.set i (f x)
  | none => l

/-- The elements of a list that satisfy a test changed. -/
def mapIf {α : Type} (p : α → Bool) (f : α → α) (l : List α) : List α :=
  l.map (fun x => if p x then f x else x)

/-- The list cut into pieces of n elements, the last one shorter where they do not divide it; `fuel` bounds their number. -/
def chunks {α : Type} (n : Nat) : Nat → List α → List (List α)
  | 0, _ => []
  | _, [] => []
  | fuel + 1, l => l.take n :: chunks n fuel (l.drop n)

/-- The number of set bits of a number below 2^n. -/
def popcount (x n : Nat) : Nat := ((List.range n).filter (bit x)).length

/-- The positions of the set bits of a number below 2^n, ascending. -/
def bitList (x n : Nat) : List Nat := (List.range n).filter (bit x)

/-- ceil(a / b). -/
def ceilDiv (a b : Nat) : Nat := (a + b - 1) / b

/-- Saturating addition to a counter of w bits (16_register_interface.md R575). -/
def satAdd (w x n : Nat) : Nat := min (x + n) (2 ^ w - 1)

/-- Clamp of an integer between two bounds. -/
def clampInt (x lo hi : Int) : Int := max lo (min hi x)

end Sys2Proof.Machine
end

