-- ==== Sys2Proof/Machine/Float.lean ====
section
/-! DEFINITION. Element formats, rounding, conversion and exact arithmetic, 02_number_formats.md R60 to R102. -/

namespace Sys2Proof.Machine

/-- An exact value: a NaN, an infinity, or (−1)^neg × m × 2^e. -/
inductive Flt where
  | nan
  | inf (neg : Bool)
  | fin (neg : Bool) (m : Nat) (e : Int)
deriving DecidableEq, Repr

/-- The shape of an element format (R60): field widths, exponent of the smallest subnormal, code of the largest finite magnitude,
magnitude codes of infinity and of the canonical NaN where the format has them, and E_max. -/
structure Fmt where
  exp : Nat
  frac : Nat
  emin : Int
  maxOrd : Nat
  infOrd : Option Nat
  nanOrd : Option Nat
  emax : Int
deriving DecidableEq, Repr

def fp32 : Fmt := ⟨8, 23, -149, 0x7F7FFFFF, some 0x7F800000, some 0x7FC00000, 127⟩
def fp32x8 : Fmt := ⟨8, 31, -157, 0x7F7FFFFFFF, some 0x7F80000000, some 0x7FC0000000, 127⟩
def bf16 : Fmt := ⟨8, 7, -133, 0x7F7F, some 0x7F80, some 0x7FC0, 127⟩
def fp16 : Fmt := ⟨5, 10, -24, 0x7BFF, some 0x7C00, some 0x7E00, 15⟩
def e4m3 : Fmt := ⟨4, 3, -9, 0x7E, none, some 0x7F, 8⟩
def e5m2 : Fmt := ⟨5, 2, -16, 0x7B, some 0x7C, some 0x7E, 15⟩
def e3m2 : Fmt := ⟨3, 2, -4, 0x1F, none, none, 4⟩
def e2m3 : Fmt := ⟨2, 3, -3, 0x1F, none, none, 2⟩
def e2m1 : Fmt := ⟨2, 1, -1, 0x7, none, none, 2⟩

/-- The format of a code of R60; codes 0x9 to 0xF are reserved. -/
def fmtOf : Nat → Option Fmt
  | 0 => some fp32 | 1 => some fp32x8 | 2 => some bf16 | 3 => some fp16 | 4 => some e4m3
  | 5 => some e5m2 | 6 => some e3m2 | 7 => some e2m3 | 8 => some e2m1 | _ => none

/-- Bits of one element of a format. -/
def Fmt.width (f : Fmt) : Nat := 1 + f.exp + f.frac

/-- The value that an element code stands for (R60, R61). -/
def decodeFmt (f : Fmt) (code : Nat) : Flt :=
  let neg := bit code (f.exp + f.frac)
  let ord := code % 2 ^ (f.exp + f.frac)
  if ord ≤ f.maxOrd then
    let ef := ord / 2 ^ f.frac
    let fr := ord % 2 ^ f.frac
    if ef = 0 then .fin neg fr f.emin else .fin neg (2 ^ f.frac + fr) (f.emin + (ef : Int) - 1)
  else if f.infOrd = some ord then .inf neg else .nan

/-- The exponent of the spacing of representable values at magnitude m × 2^e. -/
def quantum (f : Fmt) (m : Nat) (e : Int) : Int := max (e + (m.log2 : Int) - (f.frac : Int)) f.emin

/-- The magnitude code rounded towards zero, and the discarded part as a fraction rem / 2^k of one spacing; the code may exceed maxOrd. -/
def floorOrd (f : Fmt) (m : Nat) (e : Int) : Nat × Nat × Nat :=
  let q := quantum f m e
  let b := (q - f.emin).toNat * 2 ^ f.frac
  if q ≤ e then (b + m * 2 ^ (e - q).toNat, 0, 0)
  else
    let k := (q - e).toNat
    (b + m / 2 ^ k, m % 2 ^ k, k)

/-- The magnitude code rounded to nearest-even (R73); it may exceed maxOrd. -/
def nearestOrd (f : Fmt) (m : Nat) (e : Int) : Nat :=
  if m = 0 then 0 else
  let r := floorOrd f m e
  let half := 2 ^ r.2.2
  if 2 * r.2.1 > half ∨ (2 * r.2.1 = half ∧ r.1 % 2 = 1) then r.1 + 1 else r.1

/-- The magnitude code rounded stochastically by 16 random bits (R74); it may exceed maxOrd. -/
def stochasticOrd (f : Fmt) (m : Nat) (e : Int) (rand : Nat) : Nat :=
  if m = 0 then 0 else
  let r := floorOrd f m e
  if r.2.1 = 0 then r.1
  else if r.1 > f.maxOrd then r.1
  else if (2 ^ 16 * r.2.1) / 2 ^ r.2.2 + rand ≥ 2 ^ 16 then r.1 + 1 else r.1

/-- An element code of a sign and a magnitude code. -/
def withSign (f : Fmt) (neg : Bool) (ord : Nat) : Nat := b2n neg * 2 ^ (f.exp + f.frac) + ord

/-- What an overflowing or infinite value becomes, by OVF (R78). -/
def overflowCode (f : Fmt) (ovf neg : Bool) : Nat :=
  if ovf then
    match f.infOrd, f.nanOrd with
    | some i, _ => withSign f neg i
    | none, some n => n
    | none, none => withSign f neg f.maxOrd
  else withSign f neg f.maxOrd

/-- A conversion's outcome: the element code, and whether it overflowed (R78) or met a NaN (R79). -/
structure Conv where
  code : Nat
  ovf : Bool := false
  nan : Bool := false
deriving DecidableEq, Repr

/-- Conversion of an exact value, already divided by its scale (R78 to R80); `rand` gives the random bits of stochastic rounding. -/
def convert (f : Fmt) (ovf : Bool) (rand : Option Nat) : Flt → Conv
  | .nan => { code := f.nanOrd.getD 0, nan := true }
  | .inf neg => { code := overflowCode f ovf neg, ovf := true }
  | .fin neg m e =>
    let ord := match rand with
      | none => nearestOrd f m e
      | some r => stochasticOrd f m e r
    if ord > f.maxOrd then { code := overflowCode f ovf neg, ovf := true } else { code := withSign f neg ord }

/-- The value of an FP32 pattern. -/
def ofF32 (x : F32) : Flt := decodeFmt fp32 x.toNat

/-- An exact value rounded to FP32 by nearest-even, overflow to infinity (IEEE 754). -/
def toF32 (x : Flt) : F32 := BitVec.ofNat 32 (convert fp32 true none x).code

/-- A value times 2^k. -/
def Flt.scale (x : Flt) (k : Int) : Flt :=
  match x with
  | .fin n m e => .fin n m (e + k)
  | y => y

/-- Negation. -/
def Flt.neg : Flt → Flt
  | .nan => .nan
  | .inf n => .inf (!n)
  | .fin n m e => .fin (!n) m e

/-- The exact product. -/
def Flt.mul : Flt → Flt → Flt
  | .nan, _ => .nan
  | _, .nan => .nan
  | .inf a, .inf b => .inf (xor a b)
  | .inf a, .fin b m _ => if m = 0 then .nan else .inf (xor a b)
  | .fin a m _, .inf b => if m = 0 then .nan else .inf (xor a b)
  | .fin a m e, .fin b m' e' => .fin (xor a b) (m * m') (e + e')

/-- The exact sum, with the sign of an exact zero by IEEE 754 (R63). -/
def Flt.add : Flt → Flt → Flt
  | .nan, _ => .nan
  | _, .nan => .nan
  | .inf a, .inf b => if a = b then .inf a else .nan
  | .inf a, .fin _ _ _ => .inf a
  | .fin _ _ _, .inf b => .inf b
  | .fin a m e, .fin b m' e' =>
    let lo := min e e'
    let x := m * 2 ^ (e - lo).toNat
    let y := m' * 2 ^ (e' - lo).toNat
    if a = b then .fin a (x + y) lo
    else if x = y then .fin false 0 lo
    else if x > y then .fin a (x - y) lo
    else .fin b (y - x) lo

/-- FP32 addition, nearest-even. -/
def fadd (a b : F32) : F32 := toF32 ((ofF32 a).add (ofF32 b))

/-- FP32 subtraction, nearest-even. -/
def fsub (a b : F32) : F32 := toF32 ((ofF32 a).add (ofF32 b).neg)

/-- FP32 multiplication, nearest-even. -/
def fmul (a b : F32) : F32 := toF32 ((ofF32 a).mul (ofF32 b))

/-- FP32 fused multiply-add, one rounding. -/
def ffma (a b c : F32) : F32 := toF32 (((ofF32 a).mul (ofF32 b)).add (ofF32 c))

/-- A quotient of exact finite values, rounded once to FP32; the remainder is kept as a sticky bit far below the last place. -/
def fdiv (a b : F32) : F32 :=
  match ofF32 a, ofF32 b with
  | .nan, _ => 0x7FC00000
  | _, .nan => 0x7FC00000
  | .inf _, .inf _ => 0x7FC00000
  | .inf x, .fin y _ _ => toF32 (.inf (xor x y))
  | .fin x _ _, .inf y => toF32 (.fin (xor x y) 0 0)
  | .fin x m e, .fin y m' e' =>
    if m' = 0 then (if m = 0 then 0x7FC00000 else toF32 (.inf (xor x y)))
    else
      let n := m * 2 ^ 64
      let q := 2 * (n / m') + b2n (n % m' != 0)
      toF32 (.fin (xor x y) q (e - e' - 65))

/-- Integer square root by bits, from bit k down. -/
def isqrtLoop (x : Nat) : Nat → Nat → Nat
  | 0, r => r
  | k + 1, r => if (r + 2 ^ k) * (r + 2 ^ k) ≤ x then isqrtLoop x k (r + 2 ^ k) else isqrtLoop x k r

/-- The integer square root. -/
def isqrt (x : Nat) : Nat := isqrtLoop x (x.log2 / 2 + 1) 0

/-- FP32 square root, rounded once. -/
def fsqrt (a : F32) : F32 :=
  match ofF32 a with
  | .nan => 0x7FC00000
  | .inf n => if n then 0x7FC00000 else 0x7F800000
  | .fin n m e =>
    if m = 0 then a
    else if n then 0x7FC00000
    else
      let sh := 64 + (e % 2).toNat
      let x := m * 2 ^ sh
      let r := isqrt x
      toF32 (.fin false (2 * r + b2n (r * r != x)) ((e - (sh : Int)) / 2 - 1))

/-- Whether an FP32 pattern is a NaN. -/
def isNaN (x : F32) : Bool := x.toNat % 2 ^ 31 > 0x7F800000

/-- Whether an FP32 pattern is finite. -/
def isFinite (x : F32) : Bool := x.toNat % 2 ^ 31 < 0x7F800000

/-- The magnitude of an FP32 pattern, as a number that orders like the magnitude. -/
def fmag (x : F32) : Nat := x.toNat % 2 ^ 31

/-- The absolute value. -/
def fabs (x : F32) : F32 := BitVec.ofNat 32 (fmag x)

/-- The sign flipped. -/
def fneg (x : F32) : F32 := x ^^^ 0x80000000

/-- A pattern with the canonical NaN in place of any NaN (R64). -/
def canonF32 (x : F32) : F32 := if isNaN x then 0x7FC00000 else x

/-- The 40-bit FP32X8 code of an FP32 part and its extension; x is ignored where the FP32 part is infinite or NaN (R99). -/
def joinX8 (p x : Nat) : Nat := if fld p 30 23 = 255 then p * 256 else p * 256 + x

/-- A key that orders FP32 values other than NaN like their values, −0 equal to +0. -/
def fkey (x : F32) : Int := if x.toNat < 2 ^ 31 then (fmag x : Int) else -(fmag x : Int)

/-- An FP32 value from a natural number, rounded once. -/
def fOfNat (n : Nat) : F32 := toF32 (.fin false n 0)

/-- 2^k as FP32 where it is representable. -/
def fpow2 (k : Int) : F32 := toF32 (.fin false 1 k)

/-- floor(log2 m × 2^e) for m ≠ 0. -/
def floorLog2 (m : Nat) (e : Int) : Int := e + (m.log2 : Int)

/-- ceil(log2 m × 2^e) for m ≠ 0 (R92): the exponent of an exact power of two, and one more otherwise. -/
def ceilLog2 (m : Nat) (e : Int) : Int := if 2 ^ m.log2 = m then floorLog2 m e else floorLog2 m e + 1

/-- Decoding of an element with its scale byte, in FP32 (R81); a scale of 0xFF is NaN. -/
def decodeScaled (f : Fmt) (code scale : Nat) : F32 :=
  if scale = 0xFF then 0x7FC00000 else toF32 ((decodeFmt f code).scale ((scale : Int) - 127))

/-- One step of a Galois LFSR with feedback mask 0x8020_0003 (R75). -/
def lfsrStep (x : Nat) : Nat := if x % 2 = 1 then Nat.xor (x / 2) 0x80200003 else x / 2

/-- The seed of the stochastic generator of lane i in core n from a launch's 64-bit seed (R76). -/
def lfsrSeed (seed n i : Nat) : Nat :=
  let t := (seed + (64 * n + i + 1) * 0x9E3779B97F4A7C15) % 2 ^ 64
  let x := Nat.xor (t % 2 ^ 32) (t / 2 ^ 32)
  if x = 0 then 1 else x

/-! ### The numeric word, R69 to R71 -/

/-- The fields of a numeric word (R69). -/
structure Numeric where
  format : Nat
  scaling : Nat
  block : Nat
  sr : Bool
  ovf : Bool
  noclip : Bool
  slot : Nat
deriving DecidableEq, Repr

def numericOf (w : Nat) : Numeric :=
  { format := fld w 3 0, scaling := fld w 5 4, block := 16 * 2 ^ fld w 7 6, sr := bit w 8, ovf := bit w 9, noclip := bit w 10, slot := fld w 23 12 }

/-- A narrow format (codes 0x4 to 0x8). -/
def isNarrow (format : Nat) : Bool := 4 ≤ format && format ≤ 8

/-- What R71 finds in a numeric word: 0 legal, 0x11 FORMAT_MISMATCH, 0x12 SCALE_MISSING. -/
def numericFault (w : Nat) : Nat :=
  let f := fld w 3 0
  let sc := fld w 5 4
  if fld w 31 24 ≠ 0 ∨ bit w 11 then 0x11
  else if f > 8 ∨ sc = 3 then 0x11
  else if isNarrow f then (if sc = 0 then 0x12 else 0)
  else if f = 3 then (if sc = 1 then 0x11 else 0)
  else if sc = 0 then 0 else 0x11

/-- Bits of one element of a format code. A reserved code takes 32 bits: the spec gives it no width, and only the range checks that come before its
FORMAT_MISMATCH use the number (03_matrix_engine.md R124; DESIGN CHOICE, log 84). -/
def fmtBits (code : Nat) : Nat := match fmtOf code with | some f => f.width | none => 32

/-- Element j of a packed region, little-endian bit stream (R65). -/
def unpack (bs : List Byte) (w j : Nat) : Nat := fld (ofBytes ((bs.drop (j * w / 8)).take (w / 8 + 2))) (j * w % 8 + w - 1) (j * w % 8)

/-- Elements packed as a little-endian bit stream of w-bit codes (R65), as a number. -/
def packNat (w : Nat) : List Nat → Nat
  | [] => 0
  | c :: cs => c % 2 ^ w + 2 ^ w * packNat w cs

/-- Elements packed into bytes (R65). -/
def pack (w : Nat) (cs : List Nat) : List Byte := bytesOf (packNat w cs) (ceilDiv (cs.length * w) 8)

/-- The block scale exponent of a block of finite values with largest magnitude m × 2^e, m ≠ 0 (R82), clamped to [−127, 127]. -/
def blockExponent (f : Fmt) (noclip : Bool) (m : Nat) (e : Int) : Int :=
  let e0 := floorLog2 m e - f.emax
  let top := decodeFmt f f.maxOrd
  let x := if noclip then
      match top with
      | .fin _ tm te =>
        -- the smallest e with m × 2^e_m ≤ tm × 2^(te + e): e0 or e0 + 1
        match ((Flt.fin false m e).add (.fin true tm (te + e0))) with
        | .fin neg d _ => if neg || d == 0 then e0 else e0 + 1
        | _ => e0
      | _ => e0
    else e0
  clampInt x (-127) 127

end Sys2Proof.Machine
end

