-- ==== Sys2Proof/Machine/Base.lean ====
section
/-! DEFINITION. Block ids, stored register contents, the address map, the HBM interleave, timebase readings, cores by number, and master names. -/

namespace Sys2Proof.Machine

/-! ### Block ids, 16_register_interface.md R579 -/

def CHIP : Nat := 0x000
def KEEPER : Nat := 0x001
def HOSTIF : Nat := 0x002
def NVMIF : Nat := 0x003
def PWR : Nat := 0x004
def TIMEBASE : Nat := 0x005
def MEMC (k : Nat) : Nat := 0x010 + k
def SCACHE : Nat := 0x020
def POOL : Nat := 0x021
def EXCH : Nat := 0x022
def FORAGE : Nat := 0x023
def COLL : Nat := 0x024
def SOLVER : Nat := 0x025
def DMA : Nat := 0x026
def LINK (k : Nat) : Nat := 0x030 + k
def FABRIC : Nat := 0x038
def NUMERIC : Nat := 0x040
def CORE (n : Nat) : Nat := 0x100 + n

/-- The key of a register in the register table. -/
def regKey (block off : Nat) : Nat := block * 4096 + off

/-- The reset exceptions of stored registers (R578). -/
def regDefault (key : Nat) : Nat :=
  if key = regKey NUMERIC 0x010 then 1 * 2 ^ 15 + 4 * 2 ^ 10 + 0xA * 2 ^ 5
  else if key = regKey HOSTIF 0x028 then 0x20
  else if key = regKey KEEPER 0x020 then 0x3F0007E0000
  else if key = regKey KEEPER 0x040 then 0x800
  else 0

/-- The stored contents of a register. -/
def getReg (s : State) (block off : Nat) : Nat :=
  Nat.xor (tget 0 s.regs (regKey block off)).toNat (regDefault (regKey block off))

/-- The stored contents of a register set. -/
def setReg (s : State) (block off v : Nat) : State :=
  { s with regs := tset 0 s.regs (regKey block off) (BitVec.ofNat 64 (Nat.xor v (regDefault (regKey block off)))) }

/-- A saturating counter of w bits counts n events (R575). -/
def countN (s : State) (block off w n : Nat) : State :=
  if n = 0 then s else setReg s block off (satAdd w (getReg s block off) n)

/-- A saturating counter of w bits counts one event (R575). -/
def count (s : State) (block off w : Nat) : State := countN s block off w 1

/-- A 16-bit field of CHIP.FAULT_COUNT counts one event; each field saturates on its own (R581). -/
def countFault (s : State) (lo : Nat) : State :=
  let v := getReg s CHIP 0x0A8
  setReg s CHIP 0x0A8 (setFld v (lo + 15) lo (satAdd 16 (fld v (lo + 15) lo) 1))

/-- The effective state of a block. -/
def blk (s : State) (b : Nat) : BlockStatus := tget {} s.blocks b

def setBlk (s : State) (b : Nat) (v : BlockStatus) : State := { s with blocks := tset {} s.blocks b v }

/-- A block takes work: it is enabled or still disabling (R566). -/
def isEnabled (s : State) (b : Nat) : Bool := (blk s b).enabled

/-- A block may start new work: enabled, not error-stopped (R543, R566). -/
def takesWork (s : State) (b : Nat) : Bool := (blk s b).enabled && !(blk s b).errorStopped

/-- The module is powered and not held in reset. -/
def running (s : State) : Bool := s.power.regulators && !s.power.modReset

/-- What reaches a module without power or held in reset has no effect (00_scope.md R8; 17_module_physical.md R587, R601). -/
def powered (s : State) (f : State → State) : State := if running s then f s else s

theorem powered_running {s : State} (h : running s = true) (f : State → State) : powered s f = f s := by simp [powered, h]

/-- The module is READY (R493). -/
def isReady (s : State) : Bool := s.boot.state == 5

/-! ### Cores -/

/-- Core n. -/
def getCore (s : State) (n : Nat) : Core := (s.cores[n]?).getD {}

def setCore (s : State) (n : Nat) (c : Core) : State := { s with cores := s.cores.set n c }

def modCore (s : State) (n : Nat) (f : Core → Core) : State := setCore s n (f (getCore s n))

/-! ### Outputs and free values -/

def emit (s : State) (o : Out) : State := { s with out := s.out ++ [o] }

/-- A fresh free value. -/
def fresh (s : State) : Nat × State := ((Config.freeBits s.freeCtr).toNat, { s with freeCtr := s.freeCtr + 1 })

/-- A unit's reading of the timebase: a tick at most 4 ns before the reading completes, never below the unit's last one (01_architecture.md R41). -/
def readTime (s : State) (unit : Nat) : Nat × State :=
  let last := tget 0 s.readings unit
  let t := max last (s.time - (Config.freeBits s.freeCtr).toNat % 5)
  (t, { s with freeCtr := s.freeCtr + 1, readings := tset 0 s.readings unit t })

/-- A window read that takes in the counter is a reading of its own, which no later one falls below (R41). -/
def noteTimeRead (s : State) (b x n : Nat) : State := if b = TIMEBASE ∧ x < 0x010 ∧ 0x008 < x + n then (readTime s TIMEBASE).2 else s

/-! ### Masters, 15_integrity_faults.md R612 -/

/-- Kind, unit and block of a master (R612). -/
def masterId : Master → Nat × Nat × Nat
  | .coreMover n m => (0x1, m.val, CORE n.val)
  | .coreRecord n => (0x1, 2, CORE n.val)
  | .dma c => (0x2, c.val, DMA)
  | .dispatch l => (0x3, l.val, EXCH)
  | .reduction u => (0x4, u.val, COLL)
  | .collRecord => (0x4, 4, COLL)
  | .solver u => (0x5, u.val, SOLVER)
  | .solverRecord => (0x5, 4, SOLVER)
  | .keeper c => (0x6, c.val, KEEPER)
  | .host => (0x7, 0, HOSTIF)
  | .link lane => (0x8, lane.val % 12, LINK (lane.val / 12))

/-! ### HBM, 12_memory_system.md R424 to R427 and 01_architecture.md R49 -/

/-- Channels in service. -/
def activeCount (s : State) : Nat := 384 - s.boot.mappedOut.length

/-- Channel i of the active list (R424). -/
def activeChannel (s : State) (i : Nat) : Nat :=
  if s.boot.mappedOut.isEmpty then i
  else ((List.range 384).filter (fun c => !s.boot.mappedOut.contains c)).getD i 0

/-- One more than the last HBM address (R49). -/
def hbmEnd (s : State) : Nat := 0x0F000000000 - s.boot.mappedOut.length * 0xA0000000

/-- Channel, pseudo-channel and pseudo-channel offset of an HBM address (R424). -/
def hbmMap (s : State) (x : Nat) : Nat × Nat × Nat :=
  let n := activeCount s
  let b := x / 1024
  let r := b / n
  let f := ((r * 0x9E3779B9) % 2 ^ 32) * n / 2 ^ 32
  (activeChannel s ((b % n + f) % n), x % 1024 / 512, r * 512 + x % 512)

/-- Bank, row and byte within the row of a pseudo-channel offset (R425). -/
def bankMap (pcOffset : Nat) : Nat × Nat × Nat :=
  let u := pcOffset / 512
  let row := u / 128
  (Nat.xor (u % 64) (row % 64), row, 512 * (u / 64 % 2) + pcOffset % 512)

/-! ### The local address map, 01_architecture.md R48 to R52 -/

/-- What a local address names. -/
inductive Region where
  | hbm
  | scratch
  | pool
  | solverStore (u : Nat)
  | tile (n off : Nat)
  | acc (n off : Nat)
  | imem (n b off : Nat)
  | regs (block off : Nat)
  | sram (off : Nat)
  | unmapped
deriving DecidableEq, Repr

/-- Ways of the shared cache that serve scratch (R434). -/
def scratchWays (s : State) : Nat := fld (getReg s SCACHE 0x008) 5 1

/-- Bytes of the mapped scratch window; none while the cache is disabled (R434, R435). -/
def scratchBytes (s : State) : Nat := if isEnabled s SCACHE then scratchWays s * 0xA00000 else 0

def tileBase (n : Nat) : Nat := 0x20000000000 + n * 0x400000
def accBase (n : Nat) : Nat := 0x28000000000 + n * 0x80000
def imemBase (n b : Nat) : Nat := 0x2C000000000 + n * 0x20000 + b * 0x10000
def solverBase (u : Nat) : Nat := 0x12000000000 + u * 0x4000000
def poolBase : Nat := 0x11000000000
def sramBase : Nat := 0x3F000000000
def regBase : Nat := 0x30000000000

/-- The region of a local address (R48). -/
def regionOf (s : State) (a : Nat) : Region :=
  if a < 0x10000000000 then (if a < hbmEnd s then .hbm else .unmapped)
  else if a < poolBase then (if a - 0x10000000000 < scratchBytes s then .scratch else .unmapped)
  else if a < 0x12000000000 then (if a - poolBase < 0x4000000 then .pool else .unmapped)
  else if a < 0x20000000000 then
    (let o := a - 0x12000000000
     if o / 0x4000000 < 4 ∧ o % 0x4000000 < 0x3000000 then .solverStore (o / 0x4000000) else .unmapped)
  else if a < 0x28000000000 then
    (let o := a - 0x20000000000
     if o / 0x400000 < 128 then .tile (o / 0x400000) (o % 0x400000) else .unmapped)
  else if a < 0x2C000000000 then
    (let o := a - 0x28000000000
     if o / 0x80000 < 128 then .acc (o / 0x80000) (o % 0x80000) else .unmapped)
  else if a < regBase then
    (let o := a - 0x2C000000000
     if o / 0x20000 < 128 then .imem (o / 0x20000) (o / 0x10000 % 2) (o % 0x10000) else .unmapped)
  else if a < sramBase then
    (let o := a - regBase
     if o / 0x10000 < 0x400 then .regs (o / 0x10000) (o % 0x10000) else .unmapped)
  else if a - sramBase < 0x800000 then .sram (a - sramBase)
  else .unmapped

/-- The scratch check: an address in HBM or the mapped scratch window, the only places where atomics execute (R437). -/
def inCacheSpace (s : State) (a : Nat) : Bool :=
  match regionOf s a with
  | .hbm => true
  | .scratch => true
  | _ => false

/-- The check point of a region's stored granules (15_integrity_faults.md R546). -/
def checkPoint (s : State) (a : Nat) : Nat :=
  match regionOf s a with
  | .hbm => if s.cacheLines.any (fun l => l.1 == a / 128) then 0x0C else (hbmMap s a).1 / 32
  | .scratch => 0x0C
  | .pool => 0x0D
  | .solverStore _ => 0x11
  | .tile n _ => 0x14 + n / 64
  | .acc n _ => 0x14 + n / 64
  | .imem n _ _ => 0x14 + n / 64
  | .sram _ => 0x12
  | .regs _ _ => 0x10
  | .unmapped => 0x10

/-- The block of a check point, for log entries (R548). -/
def checkBlock (s : State) (a : Nat) : Nat :=
  match regionOf s a with
  | .hbm => if s.cacheLines.any (fun l => l.1 == a / 128) then SCACHE else MEMC ((hbmMap s a).1 / 32)
  | .scratch => SCACHE
  | .pool => POOL
  | .solverStore _ => SOLVER
  | .tile n _ => CORE n
  | .acc n _ => CORE n
  | .imem n _ _ => CORE n
  | .sram _ => KEEPER
  | .regs b _ => b
  | .unmapped => CHIP

end Sys2Proof.Machine
end

