-- ==== Sys2Proof/Machine/Flags.lean ====
section
/-! DEFINITION. Status levels, the register map of every block, and what a register read returns (16_register_interface.md and the register tables of the other chapters). -/

namespace Sys2Proof.Machine

/-! ### Levels of the cores -/

/-- Core cycle at which the next line of a move is requested (06_core_programs.md R223). -/
def Move.nextRequest (m : Move) : Nat := m.issued + 1 + m.next * (fld m.desc 167 164 + 1)

/-- The credit cause of a freeze (R230): a line at its request cycle without a free credit, or a line at its due cycle whose credit has not returned. -/
def moverStalls (m : Mover) (cycle : Nat) : Bool :=
  m.lines.any (fun l => decide (l.due ≤ cycle)) ||
  (m.credits == 0 && m.moves.any (fun v => decide (v.next < v.lines) && decide (v.nextRequest ≤ cycle)))

def creditFreeze (c : Core) : Bool := moverStalls c.mover0 c.cycle || moverStalls c.mover1 c.cycle

/-- The translation cause of a freeze (R57, R230). -/
def xlateFreeze (c : Core) : Bool := (c.mover0.lines ++ c.mover1.lines).any (·.held)

/-- The accumulator cause of a freeze (R171, R230). -/
def accFreeze (c : Core) : Bool := !c.waiting.isEmpty

/-- A core running a launch that a freeze cause holds (R230); a core at a barrier is not frozen (R232). -/
def coreFrozen (c : Core) : Bool := c.run == .running && (creditFreeze c || xlateFreeze c || accFreeze c)

/-- CORE.STATE (R259); a core that halts reports itself halted once its queues have drained and its record is written (R173, R255). -/
def coreStateCode (c : Core) : Nat :=
  match c.run with
  | .idle => 0
  | .running => if coreFrozen c then 2 else 1
  | .atBarrier => 3
  | .halted => if c.recordPending then 1 else 4

def bankCode : BankState → Nat
  | .loading => 0
  | .ready => 1
  | .active => 2

/-- A core halted by a break (R274). -/
def breakHalted (c : Core) : Bool := c.run == .halted && !c.recordPending && (c.halt.reason == 0x60 || c.halt.reason == 0x61)

/-- The word whose bit k is set when f k holds, for k below n. -/
def bitsOf (n : Nat) (f : Nat → Bool) : Nat := (List.range n).foldl (fun a k => a + b2n (f k) * 2 ^ k) 0

/-- The ordinal of a launch record (R249, R253). -/
def recOrdinal (l : CoreLaunch) : Nat := if l.csf1 then fld l.record.toNat 255 208 else fld l.record.toNat 191 144

/-! ### Levels of the other blocks -/

/-- Free cells of the buffer pool (12_memory_system.md R454). -/
def poolUsed (s : State) : Nat :=
  (s.chains.map (fun c => c.cells.length)).foldl (· + ·) 0 + (s.reservations.map (·.cells)).foldl (· + ·) 0

def poolFree (s : State) : Nat := 262144 - poolUsed s

/-- Records in a launch queue (14_startup_host.md R512). -/
def queueLen (s : State) (q : Nat) : Nat := (s.host.queues.filter (fun r => r.1 == q)).length

def lqFree (s : State) (q : Nat) : Nat := 64 - queueLen s q

def keeperLate (s : State) : Bool :=
  getReg s KEEPER 0x018 != getReg s HOSTIF 0x010 && decide (s.time - s.host.heartbeatAt > getReg s HOSTIF 0x018)

/-- NUMERIC.STATUS (02_number_formats.md R88, R96, R110). -/
def sentryFaultLevel (s : State) : Bool := getReg s NUMERIC 0x060 != getReg s NUMERIC 0x068
def commitPendingLevel (s : State) : Bool := s.steward.any (fun e => bit e.2.toNat 12)
def stewardOverflowLevel (s : State) : Bool := s.steward.any (fun e => bit e.2.toNat 9 && bit e.2.toNat 10)

def dispatchFaultLevel (s : State) : Bool := getReg s EXCH 0x070 != getReg s EXCH 0x078
def collFaultLevel (s : State) : Bool := getReg s COLL 0x0A0 != getReg s COLL 0x0A8
def jobFaultLevel (s : State) : Bool := (getReg s SOLVER 0x018 + getReg s SOLVER 0x020) % 2 ^ 32 != getReg s SOLVER 0x038

/-- Blocks that are error-stopped, ascending (15_integrity_faults.md R547). -/
def stoppedBlocks (s : State) : List Nat := (s.blocks.filter (fun b => b.2.errorStopped)).map (·.1)

def errPoison (s : State) : Bool := getReg s CHIP 0x078 != getReg s CHIP 0x080
def errCorr (s : State) : Bool :=
  getReg s CHIP 0x098 != 0 &&
    decide ((getReg s CHIP 0x088 + 2 ^ 32 - getReg s CHIP 0x090) % 2 ^ 32 ≥ getReg s CHIP 0x098)
def errDevice (s : State) : Bool := !(stoppedBlocks s).isEmpty

/-- Time lock of this module: 0 UNLOCKED, 1 ACQUIRING, 2 LOCKED (13_fabric_links.md R486). -/
def timeLock (s : State) : Nat :=
  let cfg := getReg s FABRIC 0x058
  if bit cfg 0 then (if bit cfg 1 then (if s.sync.stepped then 2 else 1) else 2) else s.sync.lock

/-- FABRIC.STATUS.PLAN_MISMATCH (R462). -/
def planMismatch (s : State) : Bool := s.lanes.any (fun l => decide (2 ≤ l.result ∧ l.result ≤ 5))

/-- FABRIC.ID (R484): [11:2] loaded in phase 4, [1:0] the slot straps. -/
def fabricId (s : State) : Nat := getReg s FABRIC 0x010 / 4 * 4 + s.boot.strapSlot.toNat

/-- The lanes of a port (R456). -/
def portLanes (s : State) (p : Nat) : List Nat :=
  let cfg := getReg s FABRIC (0x100 + 8 * p)
  (List.range (fld cfg 4 0)).map (· + fld cfg 11 5)

/-- Two lanes have met the same peer at the same version. -/
def samePeer (x y : Lane) : Bool := x.peerSwitch == y.peerSwitch && x.peerPort == y.peerPort && x.major == y.major && x.minor == y.minor

/-- A port is up while at least one of its lanes is UP and every UP lane has the same peer identity and version (R457). -/
def portUp (s : State) (p : Nat) : Bool :=
  match ((portLanes s p).filterMap (fun l => s.lanes[l]?)).filter (fun x => x.status == 2) with
  | [] => false
  | x :: rest => rest.all (samePeer x)

def tjMax (s : State) : Nat := max s.power.die0 (max s.power.die1 s.power.exch)
def hbmTMax (s : State) : Nat := s.power.stackTemps.foldl max 0
def throttleTemp (s : State) : Nat := 100 - min 15 (fld (getReg s PWR 0x048) 3 0)
def powerLimit (s : State) : Nat := 1400 - min 600 (getReg s PWR 0x028)
def capStep (s : State) : Nat := min 6 (getReg s PWR 0x030)
def tjHot (s : State) : Bool := decide (tjMax s ≥ throttleTemp s + 5)
def hbmHot (s : State) : Bool := decide (hbmTMax s ≥ 95)
def powerHigh (s : State) : Bool := s.power.highLast
def inputLow (s : State) : Bool := decide (s.power.vin < 46000)
/-- PWR.ALERT (17_module_physical.md R598). -/
def alertBits (s : State) : Nat := b2n (hbmHot s) * 8 + b2n (tjHot s) * 4 + b2n (powerHigh s) * 2 + b2n (inputLow s)

/-- The steps proposed by the power controller, the thermal controller and the cap: the highest applies (R592). -/
def proposedStep (s : State) : Nat := max s.power.powerStep (max s.power.thermalStep (capStep s))

/-- NVMIF.DIRECT_ENABLE (14_startup_host.md R498): BOOT_STATE is FAILED or ROM. -/
def nvmDirect (s : State) : Bool := s.boot.state == 0 || s.boot.state == 6

/-- CHIP.IF_VERSION (R529). -/
def ifVersion (s : State) : Nat :=
  at_ 1 56 + at_ (s.boot.imageVersion.toNat % 2 ^ 16) 40 + at_ 3 36 + at_ 3 32 + at_ 1 28 + at_ 1 24 + at_ 1 20 + at_ 1 12

/-- The interrupt sources that are high (R515). -/
def irqLevel (s : State) (src : Nat) : Bool :=
  match src with
  | 0x00 => s.boot.state == 5 || s.boot.state == 6
  | 0x01 => keeperLate s
  | 0x02 => getReg s KEEPER 0x080 != getReg s KEEPER 0x088
  | 0x03 => errPoison s || errCorr s || errDevice s
  | 0x04 => sentryFaultLevel s
  | 0x05 => dispatchFaultLevel s
  | 0x06 => jobFaultLevel s
  | 0x07 => collFaultLevel s
  | 0x08 => planMismatch s || timeLock s != 2
  | 0x09 => s.cores.any (fun c => c.run == .halted && !c.recordPending)
  | 0x0A => decide ((getReg s KEEPER 0x028 + 2 ^ 32 - getReg s KEEPER 0x030) % 2 ^ 32 ≥ getReg s KEEPER 0x040)
  | 0x13 => tjHot s || hbmHot s
  | n => if 0x0B ≤ n ∧ n ≤ 0x12 then decide (lqFree s (n - 0x0B) ≥ getReg s HOSTIF 0x028) else false

/-! ### The register map -/

/-- Access codes (00_scope.md R19); RWD fields are bits of an rw register's `rwd` mask. -/
inductive Acc where
  | rw
  | ro
  | wo
  | lv
  | cnt
deriving DecidableEq, Repr

/-- A register, or a run of `count` registers `stride` apart: its writable bits (an aligned address field has its low bits clear, R570) and those that are RWD. -/
structure RegDef where
  first : Nat
  stride : Nat := 8
  count : Nat := 1
  acc : Acc
  mask : Nat
  rwd : Nat := 0
deriving DecidableEq, Repr

/-- All ones in w bits. -/
def ones (w : Nat) : Nat := 2 ^ w - 1

/-- An address field of w bits aligned to 2^a bytes (R570). -/
def alignedMask (w a : Nat) : Nat := 2 ^ w - 2 ^ a

def regsCHIP : List RegDef :=
  [⟨0x008, 8, 1, .lv, ones 4, 0⟩, ⟨0x010, 8, 1, .lv, ones 8, 0⟩, ⟨0x018, 8, 1, .lv, ones 32, 0⟩, ⟨0x020, 8, 1, .cnt, ones 32, 0⟩,
   ⟨0x028, 8, 1, .lv, ones 2, 0⟩, ⟨0x030, 8, 1, .rw, ones 3, 0⟩, ⟨0x038, 8, 1, .lv, ones 3, 0⟩, ⟨0x040, 8, 1, .wo, ones 16, 0⟩,
   ⟨0x048, 8, 1, .ro, ones 64, 0⟩, ⟨0x050, 8, 1, .wo, 1, 0⟩, ⟨0x058, 8, 2, .lv, ones 64, 0⟩, ⟨0x068, 8, 1, .lv, ones 3, 0⟩,
   ⟨0x070, 8, 1, .lv, ones 10, 0⟩, ⟨0x078, 8, 1, .cnt, ones 32, 0⟩, ⟨0x080, 8, 1, .rw, ones 32, 0⟩, ⟨0x088, 8, 1, .cnt, ones 32, 0⟩,
   ⟨0x090, 8, 2, .rw, ones 32, 0⟩, ⟨0x0A0, 8, 1, .lv, ones 64, 0⟩, ⟨0x0A8, 8, 1, .cnt, ones 64, 0⟩, ⟨0x0B0, 8, 2, .wo, ones 64, 0⟩,
   ⟨0x100, 8, 23, .cnt, ones 32, 0⟩, ⟨0x200, 8, 23, .cnt, ones 32, 0⟩]

def regsKEEPER : List RegDef :=
  [⟨0x008, 8, 1, .wo, 1, 0⟩, ⟨0x010, 8, 1, .cnt, ones 32, 0⟩, ⟨0x018, 8, 1, .rw, ones 32, 0⟩, ⟨0x020, 8, 1, .ro, ones 42, 0⟩,
   ⟨0x028, 8, 1, .lv, ones 32, 0⟩, ⟨0x030, 8, 1, .rw, ones 32, 0⟩, ⟨0x038, 8, 1, .cnt, ones 32, 0⟩, ⟨0x040, 8, 1, .rw, ones 13, 0⟩,
   ⟨0x048, 8, 1, .lv, ones 7, 0⟩, ⟨0x050, 8, 1, .lv, ones 32, 0⟩, ⟨0x058, 8, 1, .rw, alignedMask 42 6, 0⟩, ⟨0x060, 8, 1, .rw, ones 4, 0⟩,
   ⟨0x068, 8, 1, .rw, ones 32, 0⟩, ⟨0x070, 8, 1, .lv, ones 32, 0⟩, ⟨0x078, 8, 1, .rw, alignedMask 42 6, 0⟩, ⟨0x080, 8, 1, .lv, ones 32, 0⟩,
   ⟨0x088, 8, 1, .rw, ones 32, 0⟩, ⟨0x090, 8, 1, .lv, ones 64, 0⟩]

def regsHOSTIF : List RegDef :=
  [⟨0x008, 8, 1, .rw, ones 10, 0⟩, ⟨0x010, 8, 2, .rw, ones 32, 0⟩, ⟨0x020, 8, 1, .lv, 1, 0⟩, ⟨0x028, 8, 1, .rw, ones 7, 0⟩,
   ⟨0x100, 16, 8, .lv, ones 7, 0⟩, ⟨0x108, 16, 8, .cnt, ones 32, 0⟩, ⟨0x200, 8, 20, .rw, ones 7, 0⟩, ⟨0x400, 8, 64, .wo, ones 64, 0⟩,
   ⟨0x800, 8, 128, .rw, ones 64, 0⟩, ⟨0xC00, 8, 1, .ro, ones 64, 0⟩]

def regsNVMIF : List RegDef :=
  [⟨0x008, 8, 1, .lv, 1, 0⟩, ⟨0x010, 8, 1, .rw, ones 26, 0⟩, ⟨0x018, 8, 32, .rw, ones 64, 0⟩, ⟨0x118, 8, 1, .wo, ones 2, 0⟩, ⟨0x120, 8, 1, .lv, ones 2, 0⟩]

def regsPWR : List RegDef :=
  [⟨0x008, 8, 3, .lv, ones 16, 0⟩, ⟨0x020, 8, 1, .cnt, ones 64, 0⟩, ⟨0x028, 8, 1, .rw, ones 10, 0⟩, ⟨0x030, 8, 1, .rw, ones 3, 0⟩,
   ⟨0x038, 8, 2, .lv, ones 3, 0⟩, ⟨0x048, 8, 1, .rw, ones 4, 0⟩, ⟨0x050, 8, 2, .lv, ones 8, 0⟩, ⟨0x060, 8, 1, .lv, ones 4, 0⟩,
   ⟨0x068, 8, 4, .cnt, ones 32, 0⟩, ⟨0x088, 8, 3, .lv, ones 8, 0⟩]

def regsTIMEBASE : List RegDef :=
  [⟨0x008, 8, 1, .ro, ones 64, 0⟩, ⟨0x010, 8, 1, .lv, ones 64, 0⟩, ⟨0x018, 8, 2, .cnt, ones 32, 0⟩]

def regsMEMC : List RegDef :=
  [⟨0x008, 8, 1, .rw, ones 2, 2⟩, ⟨0x010, 8, 1, .lv, ones 32, 0⟩, ⟨0x018, 8, 1, .lv, ones 8, 0⟩, ⟨0x020, 8, 4, .cnt, ones 48, 0⟩,
   ⟨0x040, 8, 3, .cnt, ones 32, 0⟩, ⟨0x058, 8, 1, .rw, ones 23, ones 23⟩, ⟨0x060, 8, 1, .lv, ones 9, 0⟩]

def regsSCACHE : List RegDef :=
  [⟨0x008, 8, 1, .rw, ones 6, ones 6 - 1⟩, ⟨0x010, 8, 1, .lv, 1, 0⟩, ⟨0x018, 8, 4, .cnt, ones 48, 0⟩, ⟨0x038, 8, 1, .cnt, ones 32, 0⟩,
   ⟨0x100, 16, 8, .rw, ones 32, ones 32⟩, ⟨0x108, 16, 8, .rw, ones 33, ones 33⟩]

def regsPOOL : List RegDef :=
  [⟨0x008, 8, 1, .rw, 1, 0⟩, ⟨0x010, 8, 1, .rw, 1, 1⟩, ⟨0x018, 8, 5, .rw, ones 19, ones 19⟩, ⟨0x040, 8, 1, .lv, ones 19, 0⟩,
   ⟨0x048, 8, 1, .lv, ones 16, 0⟩, ⟨0x050, 8, 1, .wo, ones 42, 0⟩, ⟨0x058, 8, 4, .cnt, ones 32, 0⟩, ⟨0x078, 8, 1, .lv, 1, 0⟩]

def regsEXCH : List RegDef :=
  [⟨0x008, 8, 1, .rw, 1, 0⟩, ⟨0x010, 8, 1, .rw, alignedMask 42 7, alignedMask 42 7⟩, ⟨0x018, 8, 1, .rw, ones 4, ones 4⟩, ⟨0x020, 8, 1, .rw, ones 32, 0⟩,
   ⟨0x028, 8, 1, .lv, ones 32, 0⟩, ⟨0x030, 8, 1, .rw, ones 32, ones 32⟩, ⟨0x038, 8, 1, .lv, ones 4, 0⟩, ⟨0x040, 8, 1, .lv, ones 16, 0⟩,
   ⟨0x048, 8, 6, .cnt, ones 32, 0⟩, ⟨0x078, 8, 1, .rw, ones 32, 0⟩, ⟨0x080, 8, 1, .lv, ones 8, 0⟩, ⟨0x088, 8, 1, .lv, 1, 0⟩]

def regsFORAGE : List RegDef :=
  [⟨0x008, 8, 1, .rw, ones 32, ones 32⟩, ⟨0x010, 8, 1, .cnt, ones 32, 0⟩, ⟨0x040, 32, 4, .lv, ones 2, 0⟩, ⟨0x048, 32, 4, .lv, ones 24, 0⟩,
   ⟨0x050, 32, 4, .lv, ones 24, 0⟩, ⟨0x058, 32, 4, .lv, ones 24, 0⟩]

def regsCOLL : List RegDef :=
  [⟨0x008, 8, 1, .rw, 1, 0⟩, ⟨0x010, 8, 3, .rw, ones 32, ones 32⟩, ⟨0x028, 8, 1, .rw, alignedMask 42 7, 0⟩, ⟨0x030, 8, 1, .wo, ones 21, 0⟩,
   ⟨0x038, 8, 1, .lv, 1, 0⟩, ⟨0x040, 8, 1, .rw, alignedMask 42 5, alignedMask 42 5⟩, ⟨0x048, 8, 1, .rw, ones 4, ones 4⟩, ⟨0x050, 8, 1, .rw, ones 32, 0⟩,
   ⟨0x058, 8, 1, .lv, ones 32, 0⟩, ⟨0x060, 8, 1, .rw, alignedMask 42 5, alignedMask 42 5⟩, ⟨0x068, 8, 1, .rw, ones 4, ones 4⟩, ⟨0x070, 8, 1, .rw, ones 32, 0⟩,
   ⟨0x078, 8, 1, .lv, ones 32, 0⟩, ⟨0x080, 8, 1, .lv, ones 7, 0⟩, ⟨0x088, 8, 1, .lv, ones 5, 0⟩, ⟨0x090, 8, 1, .lv, ones 16, 0⟩,
   ⟨0x098, 8, 2, .cnt, ones 32, 0⟩, ⟨0x0A8, 8, 1, .rw, ones 32, 0⟩, ⟨0x0B0, 8, 1, .lv, ones 8, 0⟩, ⟨0x0B8, 8, 1, .lv, 1, 0⟩,
   ⟨0x0C0, 8, 3, .cnt, ones 32, 0⟩, ⟨0x200, 8, 8, .wo, ones 64, 0⟩]

def regsSOLVER : List RegDef :=
  [⟨0x008, 8, 1, .rw, 1, 0⟩, ⟨0x010, 8, 5, .cnt, ones 32, 0⟩, ⟨0x038, 8, 1, .rw, ones 32, 0⟩, ⟨0x040, 8, 1, .lv, 1, 0⟩,
   ⟨0x048, 8, 1, .lv, ones 8, 0⟩, ⟨0x080, 8, 4, .lv, ones 8, 0⟩, ⟨0x100, 32, 16, .rw, alignedMask 42 7, alignedMask 42 7⟩,
   ⟨0x108, 32, 16, .rw, 0xF1F, 0xF1F⟩, ⟨0x110, 32, 16, .rw, ones 32, 0⟩, ⟨0x118, 32, 16, .lv, ones 32, 0⟩]

def regsDMA : List RegDef :=
  [⟨0x008, 8, 1, .rw, ones 32, 0⟩, ⟨0x020, 8, 2, .cnt, ones 32, 0⟩, ⟨0x100, 32, 32, .rw, alignedMask 42 6, alignedMask 42 6⟩,
   ⟨0x108, 32, 32, .rw, ones 5, ones 5⟩, ⟨0x110, 32, 32, .rw, ones 32, 0⟩, ⟨0x118, 32, 32, .lv, ones 32, 0⟩]

def regsLINK : List RegDef :=
  [⟨0x008, 8, 1, .rw, 1, 0⟩, ⟨0x010, 8, 1, .lv, ones 12, 0⟩, ⟨0x100, 64, 12, .lv, ones 21, 0⟩, ⟨0x108, 64, 12, .lv, ones 3, 0⟩,
   ⟨0x110, 64, 12, .lv, ones 48, 0⟩, ⟨0x118, 64, 12, .ro, ones 49, 0⟩, ⟨0x120, 64, 12, .cnt, ones 48, 0⟩, ⟨0x128, 64, 12, .cnt, ones 32, 0⟩,
   ⟨0x130, 64, 12, .cnt, ones 32, 0⟩, ⟨0x138, 64, 12, .cnt, ones 32, 0⟩]

def regsFABRIC : List RegDef :=
  [⟨0x008, 8, 1, .rw, ones 2, 2⟩, ⟨0x010, 8, 1, .ro, ones 12, 0⟩, ⟨0x018, 8, 1, .rw, ones 28, ones 28⟩, ⟨0x020, 8, 1, .rw, alignedMask 42 6, alignedMask 42 6⟩,
   ⟨0x028, 8, 1, .rw, ones 12, ones 12⟩, ⟨0x030, 8, 1, .rw, ones 11, 0⟩, ⟨0x038, 8, 2, .rw, ones 64, 0⟩, ⟨0x048, 8, 1, .lv, ones 3, 0⟩,
   ⟨0x050, 8, 1, .lv, ones 11, 0⟩, ⟨0x058, 8, 1, .rw, ones 46, ones 46⟩, ⟨0x060, 8, 1, .lv, ones 64, 0⟩, ⟨0x068, 8, 1, .cnt, ones 32, 0⟩,
   ⟨0x070, 8, 1, .lv, ones 64, 0⟩, ⟨0x078, 8, 4, .cnt, ones 32, 0⟩, ⟨0x098, 8, 1, .lv, ones 64, 0⟩, ⟨0x0A0, 8, 1, .lv, ones 32, 0⟩,
   ⟨0x100, 8, 96, .rw, ones 25, ones 25⟩]

def regsNUMERIC : List RegDef :=
  [⟨0x008, 8, 1, .rw, 1, 0⟩, ⟨0x010, 8, 1, .rw, ones 47, ones 47⟩, ⟨0x018, 8, 1, .lv, ones 4, 0⟩, ⟨0x020, 8, 1, .rw, ones 12, 0⟩,
   ⟨0x028, 8, 2, .rw, ones 64, 0⟩, ⟨0x038, 8, 1, .wo, ones 25, 0⟩, ⟨0x040, 8, 1, .lv, ones 12, 0⟩, ⟨0x048, 8, 4, .cnt, ones 32, 0⟩,
   ⟨0x068, 8, 1, .rw, ones 32, 0⟩, ⟨0x070, 8, 5, .cnt, ones 32, 0⟩]

def regsCORE : List RegDef :=
  [⟨0x008, 8, 1, .lv, ones 3, 0⟩, ⟨0x010, 8, 1, .lv, ones 8, 0⟩, ⟨0x018, 8, 1, .lv, ones 11, 0⟩, ⟨0x020, 8, 1, .lv, ones 3, 0⟩,
   ⟨0x028, 8, 1, .lv, 1, 0⟩, ⟨0x030, 8, 1, .lv, ones 64, 0⟩, ⟨0x038, 8, 2, .ro, ones 48, 0⟩, ⟨0x048, 8, 1, .ro, 1, 0⟩,
   ⟨0x050, 8, 2, .lv, ones 2, 0⟩, ⟨0x060, 8, 1, .wo, ones 3, 0⟩, ⟨0x068, 8, 1, .lv, 1, 0⟩, ⟨0x070, 8, 8, .cnt, ones 32, 0⟩,
   ⟨0x0B0, 8, 4, .ro, ones 32, 0⟩, ⟨0x0D0, 8, 1, .rw, ones 5, 0⟩, ⟨0x0D8, 8, 2, .rw, ones 48, 0⟩, ⟨0x0E8, 8, 4, .rw, ones 16, 0⟩,
   ⟨0x108, 8, 1, .wo, ones 2, 0⟩, ⟨0x110, 8, 1, .lv, 1, 0⟩, ⟨0x118, 8, 1, .lv, ones 3, 0⟩, ⟨0x120, 8, 4, .lv, ones 32, 0⟩,
   ⟨0x200, 8, 1, .ro, ones 64, 0⟩, ⟨0x208, 8, 31, .rw, ones 64, 0⟩]

/-- The registers of a block and its decode mask M (R579); none where the id names no block (R52). -/
def blockMap (b : Nat) : Option (Nat × List RegDef) :=
  if b = CHIP then some (0x3F8, regsCHIP)
  else if b = KEEPER then some (0x0F8, regsKEEPER)
  else if b = HOSTIF then some (0xFF8, regsHOSTIF)
  else if b = NVMIF then some (0x1F8, regsNVMIF)
  else if b = PWR then some (0x0F8, regsPWR)
  else if b = TIMEBASE then some (0x0F8, regsTIMEBASE)
  else if 0x010 ≤ b ∧ b ≤ 0x01B then some (0x078, regsMEMC)
  else if b = SCACHE then some (0x1F8, regsSCACHE)
  else if b = POOL then some (0x078, regsPOOL)
  else if b = EXCH then some (0x0F8, regsEXCH)
  else if b = FORAGE then some (0x0F8, regsFORAGE)
  else if b = COLL then some (0x2F8, regsCOLL)
  else if b = SOLVER then some (0x3F8, regsSOLVER)
  else if b = DMA then some (0x7F8, regsDMA)
  else if 0x030 ≤ b ∧ b ≤ 0x037 then some (0x3F8, regsLINK)
  else if b = FABRIC then some (0x3F8, regsFABRIC)
  else if b = NUMERIC then some (0x0F8, regsNUMERIC)
  else if 0x100 ≤ b ∧ b ≤ 0x17F then some (0x3F8, regsCORE)
  else none

/-- Whether a register is defined by an entry at an offset. -/
def RegDef.at (d : RegDef) (off : Nat) : Bool :=
  decide (d.first ≤ off) && (off - d.first) % d.stride == 0 && decide ((off - d.first) / d.stride < d.count)

/-- The register definition at an offset of a block; offset 0 is the identity register. -/
def findReg (defs : List RegDef) (off : Nat) : Option RegDef :=
  if off = 0 then some ⟨0, 8, 1, .ro, ones 64, 0⟩ else defs.find? (fun d => d.at off)

/-- The alias search of R564: highest set slot bits are cleared until a register is defined; `fuel` bounds the nine slot bits. -/
def aliasSearch (defs : List RegDef) : Nat → Nat → Nat
  | 0, _ => 0
  | fuel + 1, off =>
    if (findReg defs off).isSome then off
    else aliasSearch defs fuel (off - 2 ^ off.log2)

/-- The offset of the register that a window offset reaches (R564); bits [15:12] and [2:0] play no part. -/
def decodeOffset (m : Nat) (defs : List RegDef) (x : Nat) : Nat := aliasSearch defs 10 (Nat.land (x % 4096) (Nat.land m 0xFF8))

/-- Blocks that are enabled from reset on (R579). -/
def alwaysEnabled (b : Nat) : Bool := b ≤ TIMEBASE || (0x100 ≤ b && b ≤ 0x17F)

/-- DMA channel n counts as enabled (R571). -/
def dmaChanEnabled (s : State) (n : Nat) : Bool := bit s.dmaOn.toNat n || ((s.dma[n]?).getD none).isSome

/-- The block counts as enabled (R566, R571, R579). -/
def blockEnabled (s : State) (b : Nat) : Bool :=
  alwaysEnabled b ||
  (if b = FORAGE then s.forage.any (fun l => l.state != 0)
   else if b = DMA then (List.range 32).any (dmaChanEnabled s)
   else isEnabled s b)

/-- The identity register (R580). -/
def identReg (s : State) (b m : Nat) : Nat :=
  let st := blk s b
  let rej := if b = DMA then !s.dmaRejected.isEmpty else st.rejected
  at_ b 54 + at_ 1 46 + at_ (m / 8) 37 + (if rej then at_ st.rejectSlot.toNat 28 else 0) + at_ (b2n st.configBad) 4 + at_ (b2n st.errorStopped) 3 +
    at_ (b2n rej) 2 + at_ (b2n st.disabling) 1 + b2n (blockEnabled s b)

/-- Levels and fixed fields of CHIP. -/
def chipLevel (s : State) (off : Nat) : Option Nat :=
  match off with
  | 0x008 => some s.boot.state
  | 0x010 => some s.boot.error
  | 0x018 => some s.boot.detail.toNat
  | 0x028 => some s.boot.strapProfile.toNat
  | 0x038 => some (at_ (b2n s.boot.profileSource) 2 + s.boot.profile.toNat)
  | 0x048 => some (ifVersion s)
  | 0x058 => some (bitsOf 64 (fun k => breakHalted (getCore s k)))
  | 0x060 => some (bitsOf 64 (fun k => breakHalted (getCore s (64 + k))))
  | 0x068 => some (b2n (errDevice s) * 4 + b2n (errCorr s) * 2 + b2n (errPoison s))
  | 0x070 => some ((stoppedBlocks s).headD 0x3FF)
  | 0x0A0 => some s.guardLast.toNat
  | _ => none

/-- Levels of one CORE block (06_core_programs.md R259, 07_program_debug.md R273, 05_vector_chain.md R196). -/
def coreLevel (s : State) (n off : Nat) : Option Nat :=
  let c := getCore s n
  match off with
  | 0x008 => some (coreStateCode c)
  | 0x010 => some c.halt.reason.toNat
  | 0x018 => some (c.halt.pc % 2048)
  | 0x020 => some c.halt.slot.toNat
  | 0x028 => some (b2n c.haltMultiple)
  | 0x030 => some c.halt.detail.toNat
  | 0x038 => some (c.bundles % 2 ^ 48)
  | 0x040 => some c.ordinal.toNat
  | 0x048 => some (b2n c.wf)
  | 0x050 => some (bankCode c.bank0)
  | 0x058 => some (bankCode c.bank1)
  | 0x068 => some (b2n c.imemReject)
  | 0x0B0 => some c.lossSum.toNat
  | 0x0B8 => some c.lossComp.toNat
  | 0x0C0 => some c.lossRows.toNat
  | 0x0C8 => some c.lossNonfinite.toNat
  | 0x110 => some (b2n c.debugReject)
  | 0x118 => some c.loops.length
  | _ =>
    if 0x120 ≤ off ∧ off < 0x140 then
      some (match (c.loops.reverse)[(off - 0x120) / 8]? with | some l => l.remain % 2 ^ 32 | none => 0)
    else if 0x200 ≤ off ∧ off < 0x300 then
      some (if off = 0x200 then 0 else (tget 0 c.sregs ((off - 0x200) / 8)).toNat)
    else none

/-- Levels of one LINK block (13_fabric_links.md R489). -/
def linkLevel (s : State) (k off : Nat) : Option Nat :=
  if off = 0x010 then some (bitsOf 12 (fun i => ((s.lanes[12 * k + i]?).map (·.status)) == some 2))
  else if 0x100 ≤ off then
    let l := (s.lanes[12 * k + (off - 0x100) / 64]?).getD {}
    match (off - 0x100) % 64 with
    | 0x00 => some (at_ (if l.result = 3 then l.partner % 128 else 0) 14 + at_ l.result 10 + at_ l.major 6 + at_ l.minor 2)
    | 0x08 => some l.status
    | 0x10 => some (at_ l.peerSwitch.toNat 16 + l.peerPort.toNat)
    | _ => none
  else none

/-- Levels of FABRIC (R490). -/
def fabricLevel (s : State) (off : Nat) : Option Nat :=
  match off with
  | 0x010 => some (fabricId s)
  | 0x038 => some ((tget 0 s.windows (getReg s FABRIC 0x030)).toNat % 2 ^ 64)
  | 0x040 => some ((tget 0 s.windows (getReg s FABRIC 0x030)).toNat / 2 ^ 64)
  | 0x048 => some (b2n (timeLock s != 2) * 4 + b2n (planMismatch s) * 2 + b2n s.windowRejected.isSome)
  | 0x060 => some (at_ (ofInt 32 s.sync.theta) 32 + timeLock s)
  | 0x070 => some s.lastRefusal.toNat
  | 0x098 => some (bitsOf 64 (portUp s))
  | 0x0A0 => some (bitsOf 32 (fun k => portUp s (64 + k)))
  | _ => none

/-- Levels of NUMERIC (16_register_interface.md R582). -/
def numericLevel (s : State) (off : Nat) : Option Nat :=
  match off with
  | 0x018 => some (b2n s.slotRejected.isSome * 8 + b2n (sentryFaultLevel s) * 4 + b2n (commitPendingLevel s) * 2 + b2n (stewardOverflowLevel s))
  | 0x028 => some ((tget 0 s.steward (getReg s NUMERIC 0x020)).toNat % 2 ^ 64)
  | 0x030 => some ((tget 0 s.steward (getReg s NUMERIC 0x020)).toNat / 2 ^ 64)
  | _ => none

/-- Levels of PWR (17_module_physical.md R610). -/
def pwrLevel (s : State) (off : Nat) : Option Nat :=
  let p := s.power
  match off with
  | 0x008 => some p.vin
  | 0x010 => some (if p.vin = 0 then 0 else p.pin * 1000000 / p.vin)
  | 0x018 => some p.pin
  | 0x038 => some p.applied
  | 0x040 =>
    let hi := fun (x : Nat) => b2n (decide (x = p.applied ∧ 0 < x))
    some (hi p.powerStep * 4 + hi p.thermalStep * 2 + hi (capStep s))
  | 0x050 => some (tjMax s)
  | 0x058 => some (hbmTMax s)
  | 0x060 => some (alertBits s)
  | 0x088 => some p.die0
  | 0x090 => some p.die1
  | 0x098 => some p.exch
  | _ => none

/-- Levels of the solver, the collectives, the exchange, the forage lists, the pool and the controllers. -/
def unitLevel (s : State) (b off : Nat) : Option Nat :=
  if b = SOLVER then
    (match off with
     | 0x040 => some (b2n (jobFaultLevel s))
     | 0x048 => some s.lastSolverFault
     | _ => if 0x080 ≤ off ∧ off < 0x0A0 then
         some (match (s.units[(off - 0x080) / 8]?).getD none with | some j => at_ j.channel 4 + j.phase | none => 0)
       else none)
  else if b = COLL then
    (match off with
     | 0x038 => some (b2n s.tableReject)
     | 0x080 => some s.collectives.length
     | 0x088 => some (s.collectives.filter (fun c => c.state == 1 || c.state == 2)).length
     | 0x090 => some (s.heldMessages.filter (fun m => match m with | .openMsg .. => true | _ => false)).length
     | 0x0B0 => some s.lastCollFault
     | 0x0B8 => some (b2n (collFaultLevel s))
     | _ => none)
  else if b = EXCH then
    (match off with
     | 0x038 => some (bitsOf 4 (fun l => s.dispatches.any (fun d => d.list == l)))
     | 0x040 => some (s.heldMessages.filter (fun m => match m with | .scout .. => true | _ => false)).length
     | 0x080 => some s.lastDispatchFault
     | 0x088 => some (b2n (dispatchFaultLevel s))
     | _ => none)
  else if b = FORAGE then
    (let l := (s.forage[(off - 0x040) / 32]?).getD {}
     if off < 0x040 then none
     else match (off - 0x040) % 32 with
       | 0x00 => some l.state
       | 0x08 => some (if l.totalKnown then l.total else 0)
       | 0x10 => some l.appended
       | 0x18 => some l.taken
       | _ => none)
  else if b = POOL then
    (match off with
     | 0x040 => some (poolFree s)
     | 0x048 => some (s.poolQueue.length + s.poolOver.length)
     | 0x078 => some (b2n (blk s POOL).configBad)
     | _ => none)
  else if b = SCACHE then (if off = 0x010 then some (b2n (blk s SCACHE).disabling) else none)
  else if 0x010 ≤ b ∧ b ≤ 0x01B then
    (match off with
     | 0x010 => some (bitsOf 32 (fun j => s.boot.mappedOut.contains (32 * (b - 0x010) + j)))
     | 0x018 => some (s.power.stackTemps.getD (b - 0x010) 25)
     | 0x060 => some (let m := s.margins.getD (b - 0x010) {}; at_ (b2n m.busy) 8 + at_ (b2n m.failed) 7 + m.passing % 128)
     | _ => none)
  else none

/-- Levels of HOSTIF, NVMIF, KEEPER and TIMEBASE. -/
def hostLevel (s : State) (b off : Nat) : Option Nat :=
  if b = HOSTIF then
    (if off = 0x020 then some (b2n (keeperLate s))
     else if off = 0xC00 then some s.host.pendingBits.toNat
     else if 0x100 ≤ off ∧ off < 0x180 ∧ off % 16 = 0 then some (lqFree s ((off - 0x100) / 16))
     else if 0x800 ≤ off ∧ off < 0xC00 then
       (let e := tget {} s.host.msix ((off - 0x800) / 16)
        some (if off % 16 = 0 then e.addr.toNat else at_ e.ctrl.toNat 32 + e.data.toNat))
     else none)
  else if b = NVMIF then
    (match off with
     | 0x008 => some (b2n (nvmDirect s))
     | 0x120 => some (b2n s.nvmRefused * 2 + b2n s.nvmBusy.isSome)
     | _ => none)
  else if b = KEEPER then
    (match off with
     | 0x048 => some s.keeper.load
     | 0x050 => some s.keeper.telemetryPeriod
     | 0x090 => some (at_ (s.driver.step % 2 ^ 48) 16 + at_ s.driver.stage 4 + s.driver.mode)
     | _ => none)
  else if b = TIMEBASE then
    (match off with
     | 0x008 => some (max (tget 0 s.readings TIMEBASE) (s.time - (Config.freeBits s.freeCtr).toNat % 5))
     | 0x010 => some s.pulseLast
     | _ => none)
  else none

/-- The level or fixed value behind a register, where it is not stored contents. -/
def levelOf (s : State) (b off : Nat) : Option Nat :=
  if b = CHIP then chipLevel s off
  else if 0x100 ≤ b then coreLevel s (b - 0x100) off
  else if 0x030 ≤ b ∧ b ≤ 0x037 then linkLevel s (b - 0x030) off
  else if b = FABRIC then fabricLevel s off
  else if b = NUMERIC then numericLevel s off
  else if b = PWR then pwrLevel s off
  else if b ≤ TIMEBASE then hostLevel s b off
  else unitLevel s b off

/-- The value of the register defined at an offset of a block (R563 to R575); a WO register reads as zero. -/
def regValue (s : State) (b m off : Nat) (d : RegDef) : Nat :=
  if off = 0 then identReg s b m
  else if d.acc = .wo then 0
  else match levelOf s b off with
    | some v => v % 2 ^ 64
    | none => Nat.land (getReg s b off) d.mask

/-- An 8-byte read of a window offset: the register that the decode rule reaches; zero where the id names no block (R52). -/
def regRead (s : State) (b x : Nat) : Nat :=
  match blockMap b with
  | none => 0
  | some (m, defs) =>
    let off := decodeOffset m defs x
    match findReg defs off with
    | none => 0
    | some d => regValue s b m off d

/-- Each byte of a window read comes from the register that holds its address (R562). -/
def regReadBytes (s : State) (b x n : Nat) : List Byte :=
  (List.range n).map (fun i => BitVec.ofNat 8 (regRead s b ((x + i) % 65536) / 2 ^ (8 * ((x + i) % 8))))

end Sys2Proof.Machine
end

