-- ==== Sys2Proof/Machine/Ops.lean ====
section
/-! DEFINITION. The guard code, reads and writes of local memory by any master, the Keeper log ring and completion records. -/

namespace Sys2Proof.Machine

/-! ### The guard code GC256, 15_integrity_faults.md R533 to R539 -/

/-- One step of multiplication in GF(2^8) modulo x^8 + x^4 + x^3 + x^2 + 1: multiplication by α. -/
def gfDouble (a : Nat) : Nat := if 128 ≤ a then Nat.xor (2 * a) 0x11D else 2 * a

/-- Multiplication in GF(2^8), over the n low bits of the second factor. -/
def gfMulLoop : Nat → Nat → Nat → Nat
  | 0, _, _ => 0
  | n + 1, a, b => Nat.xor (if b % 2 = 1 then a else 0) (gfMulLoop n (gfDouble a) (b / 2))

def gfMul (a b : Nat) : Nat := gfMulLoop 8 a b

/-- α^k. -/
def alphaPow : Nat → Nat
  | 0 => 1
  | k + 1 => gfDouble (alphaPow k)

/-- The inverse by the 254th power: a^254 = a^2 · a^4 · … · a^128. -/
def gfInv (a : Nat) : Nat :=
  (List.range 7).foldl (fun (p : Nat × Nat) _ => let q := gfMul p.1 p.1; (q, gfMul p.2 q)) (a, 1) |>.2

/-- Symbol p_k of a check-symbol word: bits [8k+7:8k]. -/
def sym (d : BitVec 32) (k : Nat) : Nat := fld d.toNat (8 * k + 7) (8 * k)

/-- Syndromes S_0 to S_3 of a stored granule whose check symbols deviate by d (R533): p_k stands at degree 3 − k. -/
def syndrome (d : BitVec 32) (i : Nat) : Nat :=
  (List.range 4).foldl (fun acc k => Nat.xor acc (gfMul (sym d k) (alphaPow (i * (3 - k))))) 0

/-- The deviation that marks a granule poisoned: x^200 mod g(x), p_0 in the low byte (R534). -/
def poisonDev : BitVec 32 := 0x1F582761

/-- The result of a check (R535); a corrected granule names its errors as (position, value). -/
inductive Guard where
  | clean
  | poison
  | corrected (errors : List (Nat × Nat))
  | uncorrectable
deriving DecidableEq, Repr

/-- One symbol error that explains the syndromes. -/
def oneError (s0 s1 s2 s3 : Nat) : Option (List (Nat × Nat)) :=
  ((List.range 36).find? (fun p =>
    let x := alphaPow p
    s0 != 0 && s1 == gfMul s0 x && s2 == gfMul s1 x && s3 == gfMul s2 x)).map (fun p => [(p, s0)])

/-- Two symbol errors that explain the syndromes. -/
def twoErrors (s0 s1 s2 s3 : Nat) : Option (List (Nat × Nat)) :=
  let pairs := (List.range 36).flatMap (fun p => (List.range p).map (fun q => (p, q)))
  (pairs.find? (fun pq =>
    let x := alphaPow pq.1
    let y := alphaPow pq.2
    let e1 := Nat.xor x y
    let e2 := gfMul x y
    s2 == Nat.xor (gfMul e1 s1) (gfMul e2 s0) && s3 == Nat.xor (gfMul e1 s2) (gfMul e2 s1))).map (fun pq =>
    let x := alphaPow pq.1
    let y := alphaPow pq.2
    let v2 := gfMul (Nat.xor s1 (gfMul s0 x)) (gfInv (Nat.xor x y))
    [(pq.1, Nat.xor s0 v2), (pq.2, v2)])

/-- A check in correcting mode (R535). -/
def checkGuard (d : BitVec 32) : Guard :=
  if d = 0 then .clean
  else if d = poisonDev then .poison
  else
    let s0 := syndrome d 0
    let s1 := syndrome d 1
    let s2 := syndrome d 2
    let s3 := syndrome d 3
    match oneError s0 s1 s2 s3 with
    | some e => .corrected e
    | none =>
      match twoErrors s0 s1 s2 s3 with
      | some e => .corrected e
      | none => .uncorrectable

/-- A check in detecting mode (R535). -/
def detectGuard (d : BitVec 32) : Guard := if d = 0 then .clean else if d = poisonDev then .poison else .uncorrectable

/-- The data bytes of a granule with its data-symbol errors repaired: the symbol of byte j stands at position 35 − j. -/
def repairBytes (bs : List Byte) (errs : List (Nat × Nat)) : List Byte :=
  errs.foldl (fun l e => if 4 ≤ e.1 then modifyAt l (35 - e.1) (fun b => b ^^^ BitVec.ofNat 8 e.2) else l) bs

/-! ### Plain bytes -/

/-- n bytes of local memory as they are stored. -/
def memBytes (s : State) (a n : Nat) : List Byte := tgetList 0 s.mem a n

/-- Local memory with bytes stored, codes untouched. -/
def putBytes (s : State) (a : Nat) (bs : List Byte) : State := { s with mem := tsetList 0 s.mem a bs }

/-- The stored check of granule g, with the data as a reader receives them. -/
def peekGranule (s : State) (g : Nat) : List Byte × Guard :=
  let d := memBytes s (32 * g) 32
  match checkGuard (tget 0 s.guard g) with
  | .corrected e => (repairBytes d e, .corrected e)
  | r => (d, r)

/-- Pending scrub and poison writes to a granule are dropped by a later write (R539), reservations on its line end (R439), and rank cache entries
held from its 64-byte line of the rank map are dropped (R474). -/
def touchGranule (s : State) (g : Nat) : State :=
  { s with scrubs := s.scrubs.filter (fun x => x.1 != g), reserved := s.reserved.filter (fun r => r.2 != g / 4 + 1),
           rankCache := s.rankCache.filter (fun r => (getReg s FABRIC 0x020 + 4 * r.1) / 64 != g / 2) }

/-- A whole granule stored with a newly made code, or poisoned (R536). -/
def storeGranule (s : State) (g : Nat) (bs : List Byte) (poisoned : Bool) : State :=
  let s := touchGranule s g
  { putBytes s (32 * g) bs with guard := tset 0 s.guard g (if poisoned then poisonDev else 0) }

/-- A part of a granule stored: merged with the rest and recoded; a poisoned granule stays poisoned (R539). -/
def storePart (s : State) (g off : Nat) (bs : List Byte) : State :=
  match peekGranule s g with
  | (_, .poison) => touchGranule (putBytes s (32 * g + off) bs) g
  | (d, .uncorrectable) => storeGranule s g (d.take off ++ bs ++ d.drop (off + bs.length)) true
  | (d, _) => storeGranule s g (d.take off ++ bs ++ d.drop (off + bs.length)) false

/-- Bytes of one granule stored, whole or in part, with the poison of the data that arrives. -/
def storeBytes (s : State) (g off : Nat) (bs : List Byte) (poisoned : Bool) : State :=
  if bs.length = 32 then storeGranule s g bs poisoned
  else if poisoned then storeGranule (storePart s g off bs) g (memBytes (storePart s g off bs) (32 * g) 32) true
  else storePart s g off bs

/-! ### The Keeper log ring, 14_startup_host.md R519 -/

/-- One entry of the Keeper log ring; while the ring is full it is lost (R519). -/
def logEntry (s : State) (block cls code detail : Nat) : State :=
  let head := getReg s KEEPER 0x028
  if (head + 2 ^ 32 - getReg s KEEPER 0x030) % 2 ^ 32 = 4096 then count s KEEPER 0x038 32
  else
    let (t, s) := readTime s KEEPER
    let e := at_ (t % 2 ^ 64) 192 + at_ (detail % 2 ^ 128) 64 + at_ (head % 2 ^ 32) 32 + at_ block 22 + at_ code 8 + at_ cls 4
    let s := storeGranule s ((getReg s KEEPER 0x020 + 32 * (head % 4096)) / 32) (bytesOf e 32) false
    setReg s KEEPER 0x028 ((head + 1) % 2 ^ 32)

/-- A log entry whose fields a chapter names and whose CODE and layout of DETAIL it does not give (log 20). -/
def logNoted (s : State) (block cls : Nat) (kind : Config.LogKind) (fields : List Nat) : State :=
  logEntry s block cls (Config.logCode kind).toNat (Config.logDetail kind fields).toNat

/-- DETAIL of an integrity entry: a local address in [127:86] and a check point in [79:72] (R548). -/
def detailAddr (a point : Nat) : Nat := at_ (a % 2 ^ 42) 86 + at_ point 72

/-- An access to an unmapped local address is counted and logged (01_architecture.md R53). -/
def noteUnmapped (m : Master) (s : State) (a : Nat) : State :=
  let id := masterId m
  logEntry (countFault s 0) id.2.2 0 0x03 (detailAddr a 0 + at_ id.2.1 8 + id.1)

/-- POISON_CONSUMED (15_integrity_faults.md R548). -/
def notePoisonConsumed (s : State) (block a unit : Nat) : State := logEntry s block 0 0x02 (detailAddr a 0 + unit)

/-- An uncorrectable granule is poisoned at a check point: counted and logged (R538, R546, R547). -/
def noteUncorr (s : State) (point block g : Nat) : State :=
  let s := count (count s CHIP (0x200 + 8 * point) 32) CHIP 0x078 32
  logEntry { s with guardLast := BitVec.ofNat 64 (at_ point 56 + (32 * g) % 2 ^ 42) } block 0 0x01 (detailAddr (32 * g) point)

/-- A granule is corrected at a check point (R546, R547). -/
def noteCorr (s : State) (point : Nat) : State := count (count s CHIP (0x100 + 8 * point) 32) CHIP 0x088 32

/-- The effects of a storage read's check on the rest of the module (R538, R546, R547). Two reads of one uncorrectable granule in one cycle are one event (R544). -/
def noteCheck (s : State) (g : Nat) (r : Guard) : State :=
  match r with
  | .clean => s
  | .poison => s
  | .corrected _ =>
    let s := noteCorr s (checkPoint s (32 * g))
    { s with scrubs := (s.scrubs.filter (fun x => x.1 != g)) ++ [(g, false)] }
  | .uncorrectable =>
    if s.metErrors.contains (g, s.cycles) then s
    else
      let s := { s with scrubs := (s.scrubs.filter (fun x => x.1 != g)) ++ [(g, true)],
                        metErrors := (s.metErrors.filter (fun x => x.2 == s.cycles)) ++ [(g, s.cycles)] }
      noteUncorr s (checkPoint s (32 * g)) (checkBlock s (32 * g)) g

/-! ### HBM, the shared cache and the write-combining buffers as bookkeeping, 12_memory_system.md R420 to R435 -/

/-- The controller of an HBM address is disabled (R450). -/
def memcOff (s : State) (a : Nat) : Bool := !isEnabled s (MEMC ((hbmMap s a).1 / 32))

/-- An HBM address lies in a cache region with POLICY = 1 (R433). -/
def allocates (s : State) (a : Nat) : Bool :=
  (List.range 8).any (fun n =>
    let base := getReg s SCACHE (0x100 + 16 * n)
    let cfg := getReg s SCACHE (0x108 + 16 * n)
    bit cfg 32 && decide (base ≤ a / 2 ^ 20 ∧ a / 2 ^ 20 < base + fld cfg 31 0))

/-- One 32-byte access of a pseudo-channel, with its turnaround and row counts (R452). -/
def stackAccess (s : State) (a : Nat) (write newRow : Bool) : State :=
  let (ch, pc, _) := hbmMap s a
  let k := MEMC (ch / 32)
  let key := 2 * ch + pc
  let dir := if write then 2 else 1
  let turn := tget 0 s.pcDir key != 0 && tget 0 s.pcDir key != dir
  let s := count s k (if write then 0x028 else 0x020) 48
  let s := if turn then count s k 0x030 48 else s
  let s := if newRow then count s k 0x038 48 else s
  { s with pcDir := tset 0 s.pcDir key dir }

/-- Rows that a batch of queued requests holds open in one pseudo-channel: bank and row (R422, R425). -/
abbrev OpenRows := List (Nat × Nat)

/-- One access of a batch: it opens its row unless an earlier request of the batch left it open (R422: a row stays open while requests to it are queued). -/
def batchAccess (p : State × OpenRows) (a : Nat) (write : Bool) : State × OpenRows :=
  let b := bankMap (hbmMap p.1 a).2.2
  (stackAccess p.1 a write (!p.2.contains (b.1, b.2.1)), (p.2.filter (fun o => o.1 != b.1)) ++ [(b.1, b.2.1)])

/-- One granule of an entry drains: a part is read, merged and recoded first (R430). -/
def drainGranule (k : Nat) (e : WcbEntry) (p : State × OpenRows) (i : Nat) : State × OpenRows :=
  let m := fld e.mask (32 * i + 31) (32 * i)
  let a := e.base + 32 * i
  if m = 0 then p
  else if m = 2 ^ 32 - 1 then batchAccess p a true
  else
    let q := batchAccess p a false
    batchAccess (count q.1 (MEMC k) 0x040 32, q.2) a true

/-- The entries of one pseudo-channel of a controller, in allocation order. -/
def channelEntries (s : State) (k pc : Nat) : List WcbEntry := s.wcb.filter (fun e => e.channel / 32 == k && e.channel % 32 * 2 + e.pseudo == pc)

/-- The entries of one pseudo-channel written to the stack as one batch, in allocation order (R430). -/
def drainBatch (s : State) (k pc : Nat) : State :=
  let s := ((channelEntries s k pc).foldl (fun p e => (List.range 8).foldl (drainGranule k e) p) (s, [])).1
  { s with wcb := s.wcb.filter (fun e => !(e.channel / 32 == k && e.channel % 32 * 2 + e.pseudo == pc)) }

/-- A granule whose 32 bytes a write-combining entry all holds: a read of it needs nothing of the stack (R429). -/
def inBuffer (s : State) (a : Nat) : Bool :=
  s.wcb.any (fun e => e.base == a / 256 * 256 && fld e.mask (a % 256 / 32 * 32 + 31) (a % 256 / 32 * 32) == 2 ^ 32 - 1)

/-- The granules of a list read from the stack, but for those that the write-combining buffer holds; the first one read may open a row (R420, R429). -/
def stackReads (s : State) (as : List Nat) (newRow : Bool) : State :=
  (as.foldl (fun (p : State × Bool) a => if inBuffer p.1 a then p else (stackAccess p.1 a false p.2, false)) (s, newRow)).1

/-- A write merged into the write-combining buffer of its controller; a full buffer drains its oldest entry's batch first (R429, R431). -/
def wcbWrite (s : State) (a off len : Nat) : State :=
  let base := a / 256 * 256
  let m := (2 ^ len - 1) * 2 ^ (a % 256 + off)
  if s.wcb.any (fun e => e.base == base) then
    { s with wcb := mapIf (fun e => e.base == base) (fun e => { e with mask := Nat.lor e.mask m }) s.wcb }
  else
    let (ch, pc, _) := hbmMap s a
    let mine := s.wcb.filter (fun e => e.channel / 32 == ch / 32)
    let s := if mine.length < 64 then s
      else match mine with
        | e :: _ => drainBatch s (ch / 32) (e.channel % 32 * 2 + e.pseudo)
        | [] => s
    { s with wcb := s.wcb ++ [⟨base, ch, pc, m, s.time⟩] }

/-- A write of an HBM granule needs a new entry of a controller whose 64 entries are all in use: it is held at the crossbar (R431). -/
def bufferFull (s : State) (a : Nat) : Bool :=
  !s.wcb.any (fun e => e.base == a / 256 * 256) &&
  decide (64 ≤ (s.wcb.filter (fun e => e.channel / 32 == (hbmMap s a).1 / 32)).length)

/-- A line leaves the cache: a dirty line is written back, and reservations on it end (R433, R439). -/
def evictLine (s : State) (line : Nat) (dirty : Bool) : State :=
  let s := { s with cacheLines := s.cacheLines.filter (fun l => l.1 != line), reserved := s.reserved.filter (fun r => r.2 != line + 1) }
  if dirty then
    let s := count s SCACHE 0x028 48
    wcbWrite s (128 * line) 0 128
  else s

/-- Ways of the shared cache that hold HBM lines (R432, R434). -/
def cacheWays (s : State) : Nat := 16 - scratchWays s

/-- An HBM request that misses allocates a line: it is an atomic or lies in an allocating region, and the cache has a way for it (R433). -/
def takesLine (s : State) (a : Nat) (atomic : Bool) : Bool := decide (0 < cacheWays s) && (atomic || allocates s a)

/-- A line allocated in the cache; where its set is full, a line that a free value chooses is replaced (R432). -/
def allocLine (s : State) (line : Nat) (dirty : Bool) : State :=
  let ways := cacheWays s
  if ways = 0 then s
  else
    let set := Config.cacheSet line
    let mine := if s.cacheLines.isEmpty then [] else s.cacheLines.filter (fun l => Config.cacheSet l.1 == set)
    let s := if mine.length < ways then s
      else
        let (f, s) := fresh s
        match mine[f % mine.length]? with
        | some (l, d) => evictLine s l d
        | none => s
    { s with cacheLines := s.cacheLines ++ [(line, dirty)] }

/-- Addresses of the granules of a 128-byte line. -/
def lineGranules (line : Nat) : List Nat := (List.range 4).map (fun i => 128 * line + 32 * i)

/-- The path of one HBM read granule: lookup, then the buffer or the stack (R420, R433); `atomic` allocates, and a line allocated is filled: four
accesses of 32 bytes (R422). -/
def hbmReadNote (s : State) (a : Nat) (first atomic : Bool) : State :=
  let line := a / 128
  let newRow := first || a % 512 == 0
  if isEnabled s SCACHE then
    if s.cacheLines.any (fun l => l.1 == line) then (if first || a % 128 == 0 then count s SCACHE 0x018 48 else s)
    else
      let s := if first || a % 128 == 0 then count s SCACHE 0x020 48 else s
      if takesLine s a atomic then allocLine (stackReads s (lineGranules line) newRow) line false else stackReads s [a] newRow
  else stackReads s [a] newRow

/-- The path of one HBM write granule, whole or in part (R420, R429, R433). A write that allocates fills the rest of its line from the stack (DESIGN
CHOICE, log 84: the spec does not say what the fill of a written line reads). -/
def hbmWriteNote (s : State) (a off len : Nat) (first atomic : Bool) : State :=
  let line := a / 128
  if isEnabled s SCACHE then
    if s.cacheLines.any (fun l => l.1 == line) then
      let s := if first || a % 128 == 0 then count s SCACHE 0x018 48 else s
      { s with cacheLines := mapIf (fun l => l.1 == line) (fun l => (l.1, true)) s.cacheLines }
    else
      let s := if first || a % 128 == 0 then count s SCACHE 0x020 48 else s
      if takesLine s a atomic then
        allocLine (stackReads s ((lineGranules line).filter (fun x => x != a || len != 32)) (first || a % 512 == 0)) line true
      else wcbWrite s a off len
  else wcbWrite s a off len

/-! ### Reads and writes by a master -/

/-- What a read returns: the bytes, the granules that arrived poisoned, those of them found uncorrectable by this read, the number corrected on their path,
and whether an address was unmapped. -/
structure Rd where
  data : List Byte := []
  poison : List Nat := []
  uncorr : List Nat := []
  corr : Nat := 0
  unmapped : Bool := false
deriving DecidableEq, Repr

/-- The pieces of a byte range, granule by granule: granule, offset in it, length. -/
def pieces (a n : Nat) : List (Nat × Nat × Nat) :=
  if n = 0 then []
  else (List.range ((a + n - 1) / 32 - a / 32 + 1)).map (fun i =>
    let g := a / 32 + i
    let lo := max a (32 * g)
    (g, lo - 32 * g, min (a + n) (32 * g + 32) - lo))

/-- One granule read from storage: the data and the check, with its effects. -/
def readGranule (s : State) (g : Nat) (first : Bool) : List Byte × Guard × State :=
  let a := 32 * g
  match regionOf s a with
  | .hbm =>
    if memcOff s a then (List.replicate 32 0, .poison, count s (MEMC ((hbmMap s a).1 / 32)) 0x050 32)
    else
      let (d, r) := peekGranule s g
      (d, r, noteCheck (hbmReadNote s a first false) g r)
  | .unmapped => (List.replicate 32 0, .poison, s)
  | _ =>
    let (d, r) := peekGranule s g
    (d, r, noteCheck s g r)

/-- The compute die of a master, and of a local address. -/
def masterDie (m : Master) : Option Nat :=
  match m with
  | .coreMover n _ => some (n.val / 64)
  | .coreRecord n => some (n.val / 64)
  | _ => none

def addressDie (s : State) (a : Nat) : Option Nat :=
  match regionOf s a with
  | .tile n _ => some (n / 64)
  | .acc n _ => some (n / 64)
  | .imem n _ _ => some (n / 64)
  | _ => none

/-- The check points of the hops between a master and an address: die-to-die ports and the crossbar (01_architecture.md R33, R35; R546). Requests between
cores of one die stay on its network, which has no point of its own. -/
def hopPoints (m : Master) (s : State) (a : Nat) : List Nat :=
  match masterDie m, addressDie s a with
  | some d, some e => if d = e then [] else [0x0E + e, 0x10, 0x0E + d]
  | some d, none => [0x10, 0x0E + d]
  | none, some e => [0x0E + e, 0x10]
  | none, none => [0x10]

/-- A granule crosses a check point, where its codeword is checked in correcting mode (R35, R537): a damaged one is corrected, or goes on poisoned. -/
def crossHop (g : Nat) (p : Guard × State) (point : Nat) : Guard × State :=
  match p.2.hopErrors.find? (fun x => x.1 == point && x.2.1 == g) with
  | none => p
  | some x =>
    let s := { p.2 with hopErrors := p.2.hopErrors.erase x }
    let lost := match p.1 with | .poison => true | .uncorrectable => true | _ => false
    match checkGuard (x.2.2 ^^^ (if lost then poisonDev else 0)) with
    | .corrected e => (.corrected e, noteCorr s point)
    | .uncorrectable => (.uncorrectable, noteUncorr s point CHIP g)
    | .poison => (if lost then p.1 else .poison, s)
    | .clean => (if lost then .clean else p.1, s)

/-- A granule on its way between a master and an address. -/
def crossHops (m : Master) (s : State) (g : Nat) (r : Guard) : Guard × State :=
  if s.hopErrors.isEmpty then (r, s) else (hopPoints m s (32 * g)).foldl (crossHop g) (r, s)

/-- A read of local addresses by a master (R43, R53, R537, R538). -/
def readSpan (m : Master) (s : State) (a n : Nat) : Rd × State :=
  (pieces a n).foldl (fun (acc : Rd × State) p =>
    let rd := acc.1
    let s := acc.2
    let x := 32 * p.1 + p.2.1
    match regionOf s x with
    | .unmapped =>
      ({ rd with data := rd.data ++ List.replicate p.2.2 0, poison := rd.poison ++ [p.1], unmapped := true },
        if rd.unmapped then s else noteUnmapped m s x)
    | .regs b off => ({ rd with data := rd.data ++ regReadBytes s b off p.2.2 }, noteTimeRead s b off p.2.2)
    | _ =>
      let (d, r, s) := readGranule s p.1 (rd.data.isEmpty)
      let (r, s) := crossHops m s p.1 r
      let rd := { rd with data := rd.data ++ (d.drop p.2.1).take p.2.2 }
      (match r with
       | .clean => rd
       | .poison => { rd with poison := rd.poison ++ [p.1] }
       | .corrected _ => { rd with corr := rd.corr + 1 }
       | .uncorrectable => { rd with poison := rd.poison ++ [p.1], uncorr := rd.uncorr ++ [p.1] }, s)) ({}, s)

/-- Reads that received a poisoned or uncorrectable granule, for GUARD_UNCORR of a record (R549). -/
def Rd.bad (r : Rd) : Nat := r.poison.length

/-- One granule of a write by a master: what it stores, by region. -/
def writePiece (m : Master) (s : State) (g off : Nat) (bs : List Byte) (poisoned first : Bool) : State :=
  let a := 32 * g + off
  match regionOf s a with
  | .unmapped => s
  | .regs _ _ => { s with posted := s.posted ++ [(m, a, bs)] }
  | .imem n b _ =>
    if (if b = 0 then (getCore s n).bank0 else (getCore s n).bank1) = .loading then storeBytes s g off bs poisoned
    else if first then count s (CORE n) 0x070 32 else s
  | .solverStore u =>
    if ((s.units[u]?).getD none).isSome && !(match m with | .solver v => v.val == u | _ => false) then
      (if first then count s SOLVER 0x030 32 else s)
    else storeBytes s g off bs poisoned
  | .hbm =>
    if memcOff s a then count s (MEMC ((hbmMap s a).1 / 32)) 0x050 32
    else storeBytes (hbmWriteNote s (32 * g) off bs.length first false) g off bs poisoned
  | _ => storeBytes s g off bs poisoned

/-- What discards a write apart from its neighbours: an instruction-memory bank, a busy local store, or nothing (06_core_programs.md R245). -/
def discardKey (s : State) (a : Nat) : Nat :=
  match regionOf s a with
  | .imem n b _ => 1 + 2 * n + b
  | .solverStore u => 257 + u
  | _ => 0

/-- A write of local addresses by a master: granules named in `poison` arrive poisoned (R43, R53, R541). The answer says whether an address was unmapped. -/
def writeSpan (m : Master) (s : State) (a : Nat) (bs : List Byte) (poison : List Nat) : Bool × State :=
  let ps := pieces a bs.length
  let bad := ps.find? (fun p => regionOf s (32 * p.1 + p.2.1) == .unmapped)
  let s1 := match bad with
    | some p => noteUnmapped m s (32 * p.1 + p.2.1)
    | none => s
  (bad.isSome,
   (ps.foldl (fun (acc : State × List Byte × Option Nat) p =>
     let key := discardKey acc.1 (32 * p.1 + p.2.1)
     let (r, s) := crossHops m acc.1 p.1 (if poison.contains p.1 then .poison else .clean)
     let lost := match r with | .poison => true | .uncorrectable => true | _ => false
     (writePiece m s p.1 p.2.1 (acc.2.1.take p.2.2) lost (acc.2.2 != some key), acc.2.1.drop p.2.2, some key)) (s1, bs, none)).1)

/-- A unit has written a range that may hold posts of an active dispatch (08_routing_exchange.md R304). -/
def noteLines (s : State) (a n : Nat) : State := if s.dispatches.isEmpty then s else { s with doneWrites := s.doneWrites ++ [(a, n)] }

/-- A write of a whole number as little-endian bytes. -/
def writeNat (m : Master) (s : State) (a v n : Nat) : Bool × State := writeSpan m s a (bytesOf v n) []

/-! ### Completion records, 15_integrity_faults.md R549 to R552 -/

/-- The fields of a completion record. -/
structure Record where
  type : Nat
  status : Nat
  reason : Nat := 0
  unit : Nat := 0
  tag : Nat := 0
  gen : Nat := 0
  ordinal : Nat := 0
  done : Nat := 0
  total : Nat := 0
  start : Nat := 0
  corr : Nat := 0
  uncorr : Nat := 0
  detail : Nat := 0
deriving DecidableEq, Repr

/-- The 512 bits of a completion record written at a timebase reading (R549). -/
def Record.bits (r : Record) (endTime : Nat) : Nat :=
  at_ (r.detail % 2 ^ 128) 384 + at_ (min r.uncorr 65535) 368 + at_ (min r.corr 65535) 352 + at_ (endTime % 2 ^ 64) 288 +
    at_ (r.start % 2 ^ 64) 224 + at_ (r.total % 2 ^ 48) 176 + at_ (r.done % 2 ^ 48) 128 + at_ (r.ordinal % 2 ^ 48) 80 +
    at_ (r.gen % 2 ^ 16) 64 + at_ (r.tag % 2 ^ 16) 48 + at_ (r.unit % 2 ^ 16) 32 + at_ (r.reason % 256) 24 + at_ (r.status % 256) 16 + r.type % 256

/-- A completion record written at its address: bytes 32 to 63, then bytes 0 to 31 (R552). -/
def writeRecord (m : Master) (s : State) (a : Nat) (r : Record) : State :=
  let (t, s) := readTime s (masterId m).2.2
  let bs := bytesOf (r.bits t) 64
  let (bad, s) := writeSpan m s (a + 32) (bs.drop 32) []
  if bad then s else (writeSpan m s a (bs.take 32) []).2

end Sys2Proof.Machine
end

