-- ==== Sys2Proof/Machine/Fabric.lean ====
section
/-! DEFINITION. The sending side of the fabric, address kinds, the rank map, the inbound window table and the messages of flows, 13_fabric_links.md R465 to R482 and 01_architecture.md R54 to R56. -/

namespace Sys2Proof.Machine

/-- FABRIC.JOB: this module's rank and job id (R473, R490). -/
def ownRank (s : State) : Nat := fld (getReg s FABRIC 0x018) 27 16
def ownJob (s : State) : Nat := fld (getReg s FABRIC 0x018) 15 0

/-! ### The rank map and the rank cache, R474 -/

/-- A cached rank map entry; the entry becomes the one used last. -/
def cachedRank (s : State) (rank : Nat) : Option (BitVec 32) := (s.rankCache.find? (fun r => r.1 == rank)).map (·.2)

def useRank (s : State) (rank : Nat) (e : BitVec 32) : State :=
  let l := s.rankCache.filter (fun r => r.1 != rank) ++ [(rank, e)]
  { s with rankCache := l.drop (l.length - 256) }

/-- A missing entry is read from the rank map; an entry that arrives poisoned counts as not VALID (log 13). -/
def loadRank (s : State) (rank : Nat) : BitVec 32 × State :=
  let (rd, s) := readSpan (.link 0) s (getReg s FABRIC 0x020 + 4 * rank) 4
  let e := if rd.poison.isEmpty then BitVec.ofNat 32 (ofBytes rd.data) else 0
  (e, useRank s rank e)

/-- A miss is counted and served. -/
def fillRank (s : State) (rank : Nat) : BitVec 32 × State := loadRank (count s FABRIC 0x078 32) rank

/-- The entry of a rank, from the cache or from the map. -/
def rankEntry (s : State) (rank : Nat) : BitVec 32 × State :=
  match cachedRank s rank with
  | some e => (e, useRank s rank e)
  | none => fillRank s rank

/-! ### The inbound window table, R477 to R480 -/

/-- The lowest-numbered matching window entry (R479). -/
def windowFor (s : State) (job off : Nat) : Option Nat :=
  let g := fld off 51 26
  (s.windows.find? (fun e =>
    let v := e.2.toNat
    bit v 127 && fld v 123 108 == job && decide (fld v 107 82 ≤ g ∧ g < fld v 107 82 + fld v 81 66))).map (fun e => e.2.toNat)

/-- The local address of a job-virtual offset under an entry (R479). -/
def windowAddr (v off : Nat) : Nat := ((fld v 65 50 + fld off 51 26 - fld v 107 82) * 2 ^ 26 + fld off 25 0) % 2 ^ 42

/-- A refused request (R480). -/
def refuse (s : State) (status src job off : Nat) : State :=
  { count s FABRIC 0x068 32 with lastRefusal := BitVec.ofNat 64 (at_ status 60 + at_ (src % 2 ^ 12) 48 + at_ (job % 2 ^ 16) 32 + fld off 51 20) }

/-- What a request needs: 0 read, 1 write, 2 atomic; the permission bit of a window entry. -/
def windowPerm (need v : Nat) : Bool := bit v (124 + need)

/-! ### Where a request goes, R54 to R56, R475, R572 -/

/-- Where a request goes. -/
inductive Target where
  | here (addr : Nat)
  | away (dst route : Nat)
  | bad (status : Nat)
  | miss (rank : Nat)
deriving DecidableEq, Repr

/-- The resolution of an address; `fill` reads a missing rank map entry at once, where a data mover is held instead (R57). -/
def resolve (m : Master) (s : State) (kind addr need : Nat) (fill : Bool) : Target × State :=
  if kind = 0 then (.here (addr % 2 ^ 42), s)
  else if kind = 1 then
    (let slot := fld addr 43 42
     if slot = s.boot.strapSlot.toNat then (.here (addr % 2 ^ 42), s)
     else if !isEnabled s FABRIC then (.bad 8, s)
     else (.away (fabricId s / 4 * 4 + slot) 0, s))
  else if !isEnabled s FABRIC then (.bad 8, s)
  else
    let rank := fld addr 63 52
    let off := fld addr 51 0
    if rank = ownRank s then
      (match windowFor s (ownJob s) off with
       | none => (.bad 3, refuse s 3 (fabricId s) (ownJob s) off)
       | some v =>
         if !windowPerm need v then (.bad 4, refuse s 4 (fabricId s) (ownJob s) off)
         else
           let a := windowAddr v off
           if regionOf s a = .unmapped then (.bad 5, refuse (noteUnmapped m s a) 5 (fabricId s) (ownJob s) off)
           else (.here a, s))
    else
      match cachedRank s rank, fill with
      | none, false => (.miss rank, s)
      | _, _ =>
        let (e, s) := rankEntry s rank
        if bit e.toNat 31 then (.away (fld e.toNat 11 0) (fld e.toNat 30 24), s) else (.bad 7, s)

/-! ### Lanes and ports, R456, R457, R476 -/

def getLane (s : State) (l : Nat) : Lane := (s.lanes[l]?).getD {}
def setLane (s : State) (l : Nat) (x : Lane) : State := { s with lanes := s.lanes.set l x }
def modLane (s : State) (l : Nat) (f : Lane → Lane) : State := setLane s l (f (getLane s l))

/-- A port of class DIRECT. -/
def portDirect (s : State) (p : Nat) : Bool := bit (getReg s FABRIC (0x100 + 8 * p)) 12

/-- UP lanes of a port. -/
def upLanes (s : State) (p : Nat) : List Nat := (portLanes s p).filter (fun l => (getLane s l).status == 2)

/-- The port of a lane. -/
def portOf (s : State) (l : Nat) : Option Nat := (List.range 96).find? (fun p => (portLanes s p).contains l)

/-- The name of a stream: its master instance; the dispatch machinery is one (R476). -/
def streamOf (m : Master) : Nat :=
  let i := masterId m
  match m with
  | .dispatch _ => i.2.2 * 4096
  | _ => i.2.2 * 4096 + i.1 * 256 + i.2.1

/-- The FABRIC ports that are up. -/
def upFabric (s : State) : List Nat := (List.range 96).filter (fun p => !portDirect s p && portUp s p)

/-- The port that a stream's frames to a destination use (R476). -/
def choosePort (s : State) (stream dst route : Nat) : Option Nat :=
  if route = 0 then (upFabric s)[Config.portHash stream dst % (upFabric s).length]?
  else if portUp s (route - 1) && portDirect s (route - 1) then some (route - 1) else none

/-- The lane on which a port's next frame leaves: frames take the port's UP lanes in turn (R456; log 14). -/
def portLane (s : State) (p : Nat) : Option Nat := (upLanes s p)[tget 0 s.portTurn p % (upLanes s p).length]?

/-- The major version of a port: that of its UP lanes. -/
def portMajor (s : State) (p : Nat) : Nat := match (upLanes s p).head? with | some l => (getLane s l).major | none => 0

/-! ### Frames, R464, R465, R469, R470 -/

/-- The 128 bits of a header (R465). -/
def headerBits (h : FrameHeader) : Nat :=
  at_ h.dstId.toNat 116 + at_ h.srcId.toNat 104 + at_ h.job.toNat 88 + at_ h.off.toNat 36 + at_ h.type.toNat 31 + at_ h.vc.toNat 29 +
    at_ h.len.toNat 26 + at_ h.tag.toNat 14 + at_ h.kind.toNat 12 + at_ h.poison.toNat 4 + h.op.toNat

/-- One bit of a CRC-16 with polynomial 0x1021. -/
def crcStep (c : Nat) (b : Bool) : Nat := if (decide (2 ^ 15 ≤ c)) != b then Nat.xor (2 * c % 2 ^ 16) 0x1021 else 2 * c % 2 ^ 16

/-- CRC-16 of the n low bits of a number, highest bit first (R464; the order of the bits is log 64). -/
def crc16 (start v n : Nat) : Nat := (List.range n).foldl (fun c i => crcStep c (bit v (n - 1 - i))) start

/-- The link word that goes with a header (R464). -/
def linkWord (h : FrameHeader) : BitVec 48 :=
  let body := at_ 0xFB 24 + at_ h.seq.toNat 12 + h.ack.toNat
  BitVec.ofNat 48 (at_ body 16 + crc16 Config.crcStart.toNat (at_ body 128 + headerBits h) 160)

/-- Units of 32 bytes that a frame takes of its channel's credit: its header, its extension and its payload (log 64). -/
def Frame.size (f : Frame) : Nat := 1 + ceilDiv f.ext.length 32 + ceilDiv f.data.length 32

/-- Credit of a virtual channel that no frame still unacknowledged has taken: an acknowledgement returns it (R470; log 64). -/
def creditLeft (x : Lane) (vc : Nat) : Nat :=
  x.credits.getD vc 0 - ((x.unacked.filter (fun f => f.header.type != 0xB && f.header.vc.toNat == vc)).map Frame.size).foldl (· + ·) 0

/-- A frame may leave: a KEEPALIVE has no virtual channel; any other needs the credit of its own, and its turn there (R470). -/
def mayLeave (x : Lane) (f : Frame) : Bool :=
  f.header.type == 0xB ||
    (!(x.waiting.any (fun w => w.header.vc == f.header.vc)) && decide (f.size ≤ creditLeft x f.header.vc.toNat))

/-- A frame leaves on a lane with its link word: it is kept until the peer acknowledges it, the last 512 of them (R464, R469). -/
def putFrame (s : State) (l : Nat) (f : Frame) : State :=
  let x := getLane s l
  let h := { f.header with seq := BitVec.ofNat 12 x.sendSeq, ack := BitVec.ofNat 12 (x.recvSeq + 4095) }
  let u := x.unacked ++ [{ f with seq := x.sendSeq, header := h, replays := 0 }]
  emit (setLane s l { x with sendSeq := (x.sendSeq + 1) % 4096, lastSent := s.time, unacked := u.drop (u.length - 512) }) (.frame l (linkWord h) h f.ext f.data)

/-- A frame leaves on a lane, or waits there for credit (R470). -/
def sendOn (s : State) (l : Nat) (f : Frame) : State :=
  if mayLeave (getLane s l) f then putFrame s l f else modLane s l (fun x => { x with waiting := x.waiting ++ [f] })

/-- Frames that waited on a lane leave as far as the credit goes. -/
def sendWaiting (s : State) (l : Nat) : State := (getLane s l).waiting.foldl (fun s f => sendOn s l f) (modLane s l (fun x => { x with waiting := [] }))

/-- A frame without an extension leaves on a lane. -/
def sendFrame (s : State) (l : Nat) (h : FrameHeader) (data : List Byte) : State := sendOn s l { seq := 0, header := h, data := data }

/-- A frame leaves through a port (R456). -/
def sendVia (s : State) (p : Nat) (f : Frame) : State :=
  match portLane s p with
  | some l => sendOn { s with portTurn := tset 0 s.portTurn p (tget 0 s.portTurn p + 1) } l f
  | none => s

/-- The header of a frame that this module sends (R465, R473). -/
def ownHeader (s : State) (dst type vc kind off len tag op poison : Nat) : FrameHeader :=
  { dstId := BitVec.ofNat 12 dst, srcId := BitVec.ofNat 12 (fabricId s), job := BitVec.ofNat 16 (ownJob s), off := BitVec.ofNat 52 off,
    type := BitVec.ofNat 5 type, vc := BitVec.ofNat 2 vc, len := BitVec.ofNat 3 len, tag := BitVec.ofNat 12 tag, kind := BitVec.ofNat 2 kind,
    poison := BitVec.ofNat 8 poison, op := BitVec.ofNat 4 op }

/-! ### Requests, R467, R476 -/

/-- A tag that no outstanding request uses. -/
def freeTag (s : State) : Nat := (nextTag (s.remote.map (·.tag)) 4096 s.nextTag)
where
  nextTag (used : List Nat) : Nat → Nat → Nat
    | 0, x => x % 4096
    | fuel + 1, x => if used.contains (x % 4096) then nextTag used fuel (x + 1) else x % 4096

/-- The stream has responses outstanding to the destination from under another set of up ports (R476). -/
def portsMoved (s : State) (stream dst : Nat) : Bool :=
  s.remote.any (fun r => r.stream == stream && r.dst == dst && r.route == 0 && r.held.isNone && r.ups != upFabric s)

/-- A request frame leaves for another module, and awaits its response: the tag, or the status with which it completes here. While its stream issues nothing
to the destination it waits (R476). -/
def issueRequest (s : State) (r : RemoteRequest) (h : FrameHeader) (data : List Byte) : Nat ⊕ Nat × State :=
  match choosePort s r.stream r.dst r.route with
  | none => .inl 8
  | some p =>
    let tag := freeTag s
    let h := { h with tag := BitVec.ofNat 12 tag }
    let r := { r with tag := tag, sentAt := s.time, ups := upFabric s }
    let s := { s with nextTag := (tag + 1) % 4096 }
    if r.route = 0 ∧ portsMoved s r.stream r.dst = true then .inr (tag, { s with remote := s.remote ++ [{ r with held := some (h, data) }] })
    else .inr (tag, sendVia { s with remote := s.remote ++ [r] } p { seq := 0, header := h, data := data })

/-- OFFSET of a request by its address kind (R465). -/
def frameOffset (kind addr : Nat) : Nat := if kind = 1 then addr % 2 ^ 44 else addr % 2 ^ 52

/-- A READ or WRITE of at most 8 granules (R466, R467). -/
def sendRequest (m : Master) (s : State) (dst route kind addr granules : Nat) (isWrite : Bool) (data : List Byte) (poison : Nat) : Nat ⊕ Nat × State :=
  issueRequest s { tag := 0, master := m, addr := addr, granules := granules, isWrite := isWrite, sentAt := 0, kind := kind, stream := streamOf m, dst := dst, route := route }
    (ownHeader s dst (if isWrite then 2 else 1) 0 kind (frameOffset kind addr) (granules - 1) 0 0 poison) data

/-- A request leaves the list of those that await a response. -/
def dropRemote (s : State) (tag : Nat) : State := { s with remote := s.remote.filter (fun r => r.tag != tag) }

/-! ### The bytes of messages, R466, R468; 08_routing_exchange.md R289, R297; 11_collectives.md R401, R405, R412 -/

/-- Bytes padded with zeros to whole granules. -/
def pad32 (bs : List Byte) : List Byte := bs ++ List.replicate (32 * ceilDiv bs.length 32 - bs.length) 0

/-- The 32-byte header of scout, grant and abort messages (R289). -/
def headerBytes (h : DispatchHeader) (nent kind : Nat) : List Byte :=
  bytesOf (at_ h.digest.toNat 192 + at_ h.dispatchId.toNat 176 + at_ h.gen.toNat 160 + at_ h.srcRank.toNat 148 + at_ (nent % 4096) 136 + at_ kind 132 + at_ h.fault.toNat 124) 32

def scoutBytes (h : DispatchHeader) (es : List ScoutEntry) : List Byte :=
  headerBytes h es.length 1 ++ es.flatMap (fun e => bytesOf (at_ e.slot.toNat 24 + at_ e.rank.toNat 21 + e.count.toNat) 4)

def grantBytes (h : DispatchHeader) (es : List GrantEntry) : List Byte :=
  headerBytes h es.length 2 ++ es.flatMap (fun e => bytesOf (at_ e.slot.toNat 56 + at_ e.rank.toNat 53 + at_ e.granted.toNat 32 + e.base.toNat) 8)

/-- The row tag of a carry (KIND 0x3) or a return (KIND 0x4) (R297). -/
def rowTagBits (t : RowTag) (kind : Nat) : Nat :=
  at_ t.dispatchId.toNat 496 + at_ t.gen.toNat 480 + at_ t.srcRank.toNat 468 + at_ t.token.toNat 448 + at_ kind 444 + at_ (t.targets.length % 16) 440 +
    ((t.targets.zipIdx).map (fun g => at_ (at_ (g.1.1 % 8) 28 + at_ (g.1.2.1 % 256) 20 + g.1.2.2 % 2 ^ 20) (32 * g.2))).foldl (· + ·) 0

/-- The contribution tag: KIND 0x6 a contribution, 0x7 a result (R468). -/
def collTagBits (k : CollId) (gen : BitVec 16) (src kind unit off : Nat) : Nat :=
  at_ k.index.toNat 496 + at_ gen.toNat 480 + at_ (src % 4096) 468 + at_ kind 444 + at_ (off % 2 ^ 20) 256 + at_ k.epoch.toNat 224 + at_ (unit % 2 ^ 24) 200

/-- What a message carries: whether it is BULK, its extension, its payload and the payload's poisoned granules. -/
structure MessageBody where
  bulk : Bool
  ext : List Byte := []
  data : List Byte
  poison : List Nat := []
deriving DecidableEq, Repr

def laidOut (kind : Config.Layout) (fields : List Nat) (granules : Nat) : List Byte :=
  (List.range granules).flatMap (fun i => bytesOf (Config.layout kind fields i).toNat 32)

/-- The content of a message that a rank sends. -/
def Message.body (own : Nat) : Message → MessageBody
  | .scout h es => { bulk := false, data := pad32 (scoutBytes h es) }
  | .grant h es => { bulk := false, data := pad32 (grantBytes h es) }
  | .abort h => { bulk := false, data := headerBytes h 0 5 }
  | .carry t row p => { bulk := true, ext := bytesOf (rowTagBits t 3) 64, data := row, poison := p }
  | .returned t row p => { bulk := true, ext := bytesOf (rowTagBits t 4) 64, data := row, poison := p }
  | .openMsg k g d => { bulk := false, data := laidOut .openMessage [k.index.toNat, k.epoch.toNat, g.toNat, d.toNat] 1 }
  | .presence k first bits =>
    { bulk := false, data := laidOut .presence ([k.index.toNat, k.epoch.toNat, first] ++ bits.map b2n) (1 + ceilDiv bits.length 256) }
  | .contribution k g u o d p => { bulk := true, ext := bytesOf (collTagBits k g own 6 u o) 64, data := d, poison := p }
  | .result k g u o d p => { bulk := true, ext := bytesOf (collTagBits k g own 7 u o) 64, data := d, poison := p }
  | .collAbort k c b => { bulk := false, data := laidOut .collAbort [k.index.toNat, k.epoch.toNat, c.toNat, b] 1 }

/-- FLOW_ID, MSG and FRAME within OFFSET (R465). -/
def flowOffset (flow msg frame : Nat) : Nat := at_ (flow % 2 ^ 16) 36 + at_ (msg % 2 ^ 24) 12 + frame % 2 ^ 12

/-- The frames of a message: at most 8 granules each, the total in frame 0 (R465, R466, R468). Address kind `kind` says nothing here. -/
def messageFrames (s : State) (dstId kind : Nat) (m : SentMessage) : List Frame :=
  let b := m.what.body (ownRank s)
  let n := b.data.length / 32
  (List.range (max 1 (ceilDiv n 8))).map (fun i =>
    let part := (b.data.drop (256 * i)).take 256
    { seq := 0, ext := if i = 0 then b.ext else [], data := part, part := some (m.kind, m.flow, m.dst, m.msg),
      header := ownHeader s dstId (if b.bulk then 7 else 6) (if b.bulk then 3 else 2) kind (flowOffset m.flow m.msg i) (part.length / 32 - 1)
        (if i = 0 then n - 1 else 0) m.kind (bitsOf 8 (fun j => b.poison.contains (8 * i + j))) })

/-! ### Messages of flows, R466, R471, R472, R483 -/

/-- The key of a flow towards, or from, a rank. -/
def flowKey (kind flow rank : Nat) : Nat := (kind * 2 ^ 16 + flow % 2 ^ 16) * 2 ^ 12 + rank % 2 ^ 12

/-- The stream that sends a flow's messages (R476): the dispatch machinery, or the collective engine. -/
def flowStream (kind : Nat) : Nat := if kind = 1 then streamOf (.dispatch 0) else streamOf .collRecord

/-- A message leaves towards its rank: one for this module's own rank stays in it (R278); one without a route, without a usable port or towards a major-1
port is lost (R475, R476, R483), and the answer says so. -/
def emitMessage (s : State) (m : SentMessage) : Bool × State :=
  if m.dst = ownRank s then (true, { s with looped := s.looped ++ [m] })
  else if !isEnabled s FABRIC then (false, s)
  else
    let (e, s) := rankEntry s m.dst
    if !bit e.toNat 31 then (false, s)
    else
      match choosePort s (flowStream m.kind) (fld e.toNat 11 0) (fld e.toNat 30 24) with
      | none => (false, s)
      | some p =>
        if portMajor s p = 1 then (false, count s FABRIC 0x088 32)
        else
          let (v, s) := fresh s
          (true, (messageFrames s (fld e.toNat 11 0) (v % 4) m).foldl (fun s f => sendVia s p f) s)

/-- A flow to a destination is stopped by DEFER. -/
def flowStopped (s : State) (kind flow dst : Nat) : Bool := s.deferred.any (fun d => d.kind == kind && d.flow == flow && d.dst == dst)

/-- Two entries are the same message. -/
def SentMessage.same (x y : SentMessage) : Bool := x.kind == y.kind && x.flow == y.flow && x.dst == y.dst && x.msg == y.msg

/-- A message of the list leaves, or is lost. -/
def launchMessage (s : State) (m : SentMessage) : State :=
  let (ok, s) := emitMessage s m
  { s with messages := mapIf m.same (fun x => { x with sent := true, lost := !ok }) s.messages }

/-- A message of a flow is numbered, and sent, or waits behind a deferred one (R465, R472). -/
def sendMessage (s : State) (kind flow dst : Nat) (w : Message) : State :=
  let key := flowKey kind flow dst
  let n := tget 0 s.sendNext key
  let m : SentMessage := { kind := kind, flow := flow, dst := dst, msg := n, sent := false, what := w }
  let s := { s with sendNext := tset 0 s.sendNext key ((n + 1) % 2 ^ 24), messages := s.messages ++ [m] }
  if flowStopped s kind flow dst then s else launchMessage s m

/-- DEFER reaches the source of a message: the flow to its destination stops there, or the message waits behind the one that stopped it (R472). -/
def stopFlow (s : State) (kind flow dst msg : Nat) : State :=
  let mine := fun (m : SentMessage) => m.kind == kind && m.flow == flow && m.dst == dst && m.msg == msg
  if !(s.messages.any mine) then s
  else if flowStopped s kind flow dst then { s with messages := mapIf mine (fun m => { m with sent := false }) s.messages }
  else { s with deferred := s.deferred ++ [⟨kind, flow, dst, msg⟩] }

/-- RESUME reaches it: the deferred message again, then the messages behind it (R472). -/
def resumeFlow (s : State) (kind flow dst : Nat) : State :=
  match s.deferred.find? (fun d => d.kind == kind && d.flow == flow && d.dst == dst) with
  | none => s
  | some d =>
    let mine := s.messages.filter (fun x => x.kind == kind && x.flow == flow && x.dst == dst && (x.msg == d.msg || !x.sent))
    mine.foldl launchMessage { s with deferred := s.deferred.filter (fun d => !(d.kind == kind && d.flow == flow && d.dst == dst)) }

/-- A message is acknowledged: it has left, is not deferred, and no frame of it awaits the peer's acknowledgement (R308, R403). -/
def acknowledged (s : State) (m : SentMessage) : Bool :=
  m.sent && !m.lost && !(s.deferred.any (fun d => d.kind == m.kind && d.flow == m.flow && d.dst == m.dst && d.msg == m.msg)) && !(s.looped.any m.same) &&
    !(s.lanes.any (fun x => (x.unacked ++ x.waiting).any (fun f => f.part == some (m.kind, m.flow, m.dst, m.msg))))

/-- A message is in flight: it will still leave, or is on its way. -/
def inFlight (s : State) (m : SentMessage) : Bool := !m.lost && !acknowledged s m

/-- Messages of a flow that have not left, and deferred ones, are given up. -/
def dropUnsent (s : State) (kind flow : Nat) : State :=
  { s with messages := s.messages.filter (fun x => !(x.kind == kind && x.flow == flow &&
             (!x.sent || s.deferred.any (fun d => d.kind == kind && d.flow == flow && d.dst == x.dst && d.msg == x.msg)))),
           deferred := s.deferred.filter (fun x => !(x.kind == kind && x.flow == flow)) }

/-- The messages and stops of a flow end with its work. -/
def endFlow (s : State) (kind flow : Nat) : State :=
  { s with messages := s.messages.filter (fun x => !(x.kind == kind && x.flow == flow)),
           deferred := s.deferred.filter (fun x => !(x.kind == kind && x.flow == flow)) }

/-- FLOW_ID and MSG of a header (R465). -/
def flowOf (h : FrameHeader) : Nat := fld h.off.toNat 51 36
def msgOf (h : FrameHeader) : Nat := fld h.off.toNat 35 12

/-- A message of a flow, with its number, arrives from a source. -/
def noteArrival (s : State) (kind flow src msg : Nat) : State := { s with arrivals := tset 0 s.arrivals (flowKey kind flow src) ((msg + 1) % 2 ^ 24) }

/-- The number of a message that arrives: the one its frame 0 names, or without frames the next one of its source (R465, R482; log 32). -/
def arrivalNumber (s : State) (via : Via) (kind flow src : Nat) : Nat :=
  match via with
  | (_, h) :: _ => msgOf h
  | [] => tget 0 s.arrivals (flowKey kind flow src)

/-- The number of the message of a source that arrived last. -/
def lastArrival (s : State) (kind flow src : Nat) : Nat := (tget 0 s.arrivals (flowKey kind flow src) + 2 ^ 24 - 1) % 2 ^ 24

/-- A DEFER (0x08) or RESUME (0x09) frame towards a source, with the flow kind in OP and FLOW_ID and MSG in their places (R465, R466, R471; log 32). -/
def sendControl (s : State) (type kind flow dst msg : Nat) : State :=
  let (e, s) := rankEntry s dst
  match choosePort s (flowStream kind) (fld e.toNat 11 0) (fld e.toNat 30 24) with
  | none => s
  | some p =>
    if !bit e.toNat 31 ∨ portMajor s p = 1 then s
    else
      let (v, s) := fresh s
      sendVia s p { seq := 0, header := ownHeader s (fld e.toNat 11 0) type 1 (v % 4) (flowOffset flow msg 0) 0 0 kind 0, data := [] }

/-- DEFER towards the source of the message that arrived last; within this module it acts at once (R471, R472). -/
def sendDefer (s : State) (kind flow src : Nat) : State :=
  let s := count s FABRIC 0x080 32
  if src = ownRank s then stopFlow s kind flow src (lastArrival s kind flow src) else sendControl s 8 kind flow src (lastArrival s kind flow src)

/-- RESUME towards the source of a deferred message, which comes next from there (R471, R472). -/
def sendResume (s : State) (w : Awaited) : State :=
  let s := { s with arrivals := tset 0 s.arrivals (flowKey w.kind w.flow w.src) w.msg }
  if w.src = ownRank s then resumeFlow s w.kind w.flow w.src else sendControl s 9 w.kind w.flow w.src w.msg

end Sys2Proof.Machine
end

