-- ==== Sys2Proof/Machine/Pool.lean ====
section
/-! DEFINITION. The buffer pool: admission by class, chains of cells, releases, 12_memory_system.md R441 to R449. -/

namespace Sys2Proof.Machine

/-- POOL.FLOORc, cells. -/
def poolFloor (s : State) (c : Nat) : Nat := if c < 3 then getReg s POOL (0x018 + 8 * c) else 0

def sumNat (l : List Nat) : Nat := l.foldl (· + ·) 0

/-- Cells held from the floor of a class. -/
def floorUsed (s : State) (c : Nat) : Nat :=
  sumNat ((s.chains.filter (fun h => h.fromFloor && h.cls == c)).map (fun h => h.cells.length)) +
  sumNat ((s.reservations.filter (fun r => r.fromFloor && r.cls == c)).map (·.cells))

def floorFree (s : State) (c : Nat) : Nat := poolFloor s c - floorUsed s c

/-- Cells held from the shared part by the requests that a test selects. -/
def sharedHeld (s : State) (p : Nat → Nat → Bool) : Nat :=
  sumNat ((s.chains.filter (fun h => !h.fromFloor && p h.cls h.account)).map (fun h => h.cells.length)) +
  sumNat ((s.reservations.filter (fun r => !r.fromFloor && p r.cls r.account)).map (·.cells))

/-- Free shared cells (R444). -/
def sharedFree (s : State) : Nat :=
  262144 - (poolFloor s 0 + poolFloor s 1 + poolFloor s 2) - sharedHeld s (fun _ _ => true)

/-- The free cells of a request's class floor do not cover it: it needs shared cells (R444). -/
def needsShared (s : State) (r : PoolRequest) : Bool := decide (floorFree s r.cls < r.cells)

/-- A request is over quota (R446); never in FCFS mode, nor where its class floor covers it. -/
def overQuota (s : State) (r : PoolRequest) : Bool :=
  needsShared s r && getReg s POOL 0x010 == 1 &&
  (if r.cls = 0 then decide (sharedHeld s (fun c a => c == 0 && a == r.account) + r.cells > getReg s POOL 0x038)
   else decide (sharedHeld s (fun c a => c != 0 && a == r.account) + r.cells > getReg s POOL 0x030))

/-- Cells granted to a request. -/
def grantCells (s : State) (r : PoolRequest) (fromFloor : Bool) : State :=
  { s with reservations := s.reservations ++ [⟨r.id, r.cls, r.account, r.cells, fromFloor⟩],
           poolQueue := s.poolQueue.filter (fun q => q.id != r.id),
           poolOver := s.poolOver.filter (fun q => q.id != r.id) }

/-- Arrival order: by cycle, and within one in ascending class and then account (R445). -/
def PoolRequest.before (a b : PoolRequest) : Bool :=
  decide (a.cycle < b.cycle ∨ (a.cycle = b.cycle ∧ (a.cls < b.cls ∨ (a.cls = b.cls ∧ (a.account < b.account ∨ (a.account = b.account ∧ a.id < b.id))))))

/-- Requests still waiting, in the queue or over quota. -/
def waitingRequests (s : State) : List PoolRequest := s.poolQueue ++ s.poolOver

/-- The next floor grant: a request that its class floor covers and behind no earlier request of its class (R445). -/
def floorGrant (s : State) : Option PoolRequest :=
  let w := waitingRequests s
  w.find? (fun r => !needsShared s r && !(w.any (fun q => q.cls == r.cls && q.before r)))

/-- Requests over quota leave the queue, wherever they stand; those no longer over quota join its tail (R446). -/
def applyQuota (s : State) : State :=
  let back := s.poolOver.filter (fun r => !overQuota s r)
  { s with poolQueue := s.poolQueue.filter (fun r => !overQuota s r) ++ back.mergeSort PoolRequest.before,
           poolOver := s.poolOver.filter (overQuota s) ++ s.poolQueue.filter (overQuota s) }

/-- Grants, one after another: the floors first, then the head of the queue of requests that need shared cells, which no later request passes
(R445, R446). A request that its floor covers and that waits behind an earlier one of its class needs no shared cells (DEDUCED, log 84). -/
def serveLoop : Nat → State → State
  | 0, s => s
  | fuel + 1, s =>
    match floorGrant s with
    | some r => serveLoop fuel (grantCells s r true)
    | none =>
      match (applyQuota s).poolQueue.find? (needsShared s) with
      | some r => if r.cells ≤ sharedFree s then serveLoop fuel (grantCells (applyQuota s) r false) else applyQuota s
      | none => applyQuota s

/-- The pool serves its waiting requests until no more can be granted, at each event that could free cells for one; nothing is granted while it is disabled
(R445, R449). -/
def poolServe (s : State) : State := if takesWork s POOL then serveLoop ((waitingRequests s).length + 1) s else s

/-- A request joins the queue behind those of earlier cycles and in class and account order among those of its own (R445). -/
def enqueue (q : List PoolRequest) (r : PoolRequest) : List PoolRequest :=
  let old := q.length - (q.reverse.takeWhile (fun x => x.cycle == r.cycle)).length
  let now := q.drop old
  q.take old ++ now.takeWhile (fun x => x.before r) ++ [r] ++ now.dropWhile (fun x => x.before r)

/-- A request for cells of a class and account; it is granted at once or waits (R444, R447). The answer is its number. -/
def requestCells (s : State) (cls account cells : Nat) : Nat × State :=
  let r : PoolRequest := ⟨s.nextPool, cls, account, cells, s.cycles⟩
  let s := { s with nextPool := s.nextPool + 1 }
  let s := if overQuota s r then { s with poolOver := s.poolOver ++ [r] } else { s with poolQueue := enqueue s.poolQueue r }
  (r.id, poolServe s)

/-- The cells granted to a request and not yet placed in a chain. -/
def granted (s : State) (id : Nat) : Option Reservation := s.reservations.find? (fun r => r.id == id)

/-- A waiting request withdrawn, or its remaining cells returned. -/
def dropRequest (s : State) (id : Nat) : State :=
  poolServe { s with reservations := s.reservations.filter (fun r => r.id != id),
                     poolQueue := s.poolQueue.filter (fun r => r.id != id), poolOver := s.poolOver.filter (fun r => r.id != id) }

/-- The first cell at or after x, cyclically, that no chain holds; `fuel` bounds the search. -/
def nextFree (used : List Nat) : Nat → Nat → Nat
  | 0, x => x % 262144
  | fuel + 1, x => if used.contains (x % 262144) then nextFree used fuel (x + 1) else x % 262144

/-- n free cells, each chosen by a free value: which cells a chain receives is open (R441). -/
def pickCells : Nat → State → List Nat → List Nat × State
  | 0, s, _ => ([], s)
  | n + 1, s, used =>
    let (f, s) := fresh s
    let c := nextFree used (used.length + 1) f
    let (rest, s) := pickCells n s (c :: used)
    (c :: rest, s)

/-- Cells in use by chains. -/
def usedCells (s : State) : List Nat := s.chains.flatMap (·.cells)

def cellAddr (c : Nat) : Nat := poolBase + 256 * c

/-- The address by which a chain is named (R441). -/
def Chain.head (c : Chain) : Nat := cellAddr (c.cells.headD 0)

/-- A chain of n cells taken from a request's cells, with a reference count; the answer is its head. -/
def makeChain (s : State) (id n refs : Nat) : Option Nat × State :=
  match granted s id with
  | none => (none, s)
  | some r =>
    if r.cells < n ∨ n = 0 then (none, s)
    else
      let (cs, s) := pickCells n s (usedCells s)
      let rest := if r.cells = n then s.reservations.filter (fun q => q.id != id)
        else mapIf (fun q => q.id == id) (fun q => { q with cells := q.cells - n }) s.reservations
      (some (cellAddr (cs.headD 0)), { s with chains := s.chains ++ [⟨cs, refs, r.cls, r.account, r.fromFloor⟩], reservations := rest,
                                              freedHeads := s.freedHeads.filter (fun a => !(cs.map cellAddr).contains a) })

/-- The chain whose head has an address. -/
def chainAt (s : State) (a : Nat) : Option Chain := s.chains.find? (fun c => c.head == a)

/-- Local address of byte k of a chain, where the chain has it (R441). -/
def Chain.byteAddr (c : Chain) (k : Nat) : Option Nat := (c.cells[k / 256]?).map (fun x => cellAddr x + k % 256)

/-- A release that changes nothing, counted and logged: [0] of DETAIL tells a chain whose count is already zero, as long as no chain has taken its head
cell again, from what is not a chain head (R442, R548). -/
def releaseError (kind : Nat) (s : State) (a : Nat) : State :=
  logEntry (count s POOL 0x058 32) POOL 0 0x08 (detailAddr a 0 + at_ kind 8 + b2n (!s.freedHeads.contains a))

/-- A release of a chain by its head; the cells return when the count reaches zero, and a release of anything else is counted and logged (R442). -/
def releaseChain (kind : Nat) (s : State) (a : Nat) : State :=
  match chainAt s a with
  | some c =>
    if c.count ≤ 1 then poolServe { s with chains := s.chains.filter (fun x => x.head != a), freedHeads := s.freedHeads.filter (· != a) ++ [a] }
    else { s with chains := mapIf (fun x => x.head == a) (fun x => { x with count := x.count - 1 }) s.chains }
  | none => releaseError kind s a

/-- Every cell that the dispatch of a list still holds returns (R443). -/
def freeDispatchCells (s : State) (list : Nat) : State :=
  poolServe { s with chains := s.chains.filter (fun c => !(c.cls == 0 && c.account == list)),
                     reservations := s.reservations.filter (fun r => !(r.cls == 0 && r.account == list)),
                     poolQueue := s.poolQueue.filter (fun r => !(r.cls == 0 && r.account == list)),
                     poolOver := s.poolOver.filter (fun r => !(r.cls == 0 && r.account == list)) }

/-- Bytes written into a chain from its first byte on, cell by cell, with newly made codes or the poison of the data's 32-byte granules. -/
def writeChain (s : State) (c : Chain) (bs : List Byte) (poison : List Nat) : State :=
  ((chunks 32 (bs.length / 32 + 1) bs).zipIdx).foldl (fun s p =>
    match c.byteAddr (32 * p.2) with
    | some a => storeBytes s (a / 32) 0 p.1 (poison.contains p.2)
    | none => s) s

/-- Bytes of a chain with the granules (numbered within it) that read poisoned; bytes beyond the chain's length read poisoned. -/
def readChain (s : State) (c : Chain) (k n : Nat) : List Byte × List Nat × Nat × State :=
  ((List.range (ceilDiv n 32)).foldl (fun (acc : List Byte × List Nat × Nat × State) i =>
    let (bs, ps, corr, s) := acc
    match c.byteAddr (k + 32 * i) with
    | some a =>
      let (d, r, s) := readGranule s (a / 32) false
      (bs ++ d, (match r with | .poison => ps ++ [i] | .uncorrectable => ps ++ [i] | _ => ps), (match r with | .corrected _ => corr + 1 | _ => corr), s)
    | none => (bs ++ List.replicate 32 0, ps ++ [i], corr, s)) ([], [], 0, s))

end Sys2Proof.Machine
end

