-- ==== Sys2Proof/Machine/Forage.lean ====
section
/-! DEFINITION. Forage lists, mailboxes, launch arbitration and hive barriers, 06_core_programs.md R236 to R258 and 01_architecture.md R613. -/

namespace Sys2Proof.Machine

def getList (s : State) (l : Nat) : ForageList := (s.forage[l]?).getD {}

def setList (s : State) (l : Nat) (f : ForageList) : State := { s with forage := s.forage.set l f }

/-- Descriptors of a full list (R237). -/
def listRoom : Nat := 16384

/-- A descriptor enters a list that has room; the list is COMPLETE once every tile of its total has been appended (R237). -/
def takeAppend (f : ForageList) (d : BitVec 256) : ForageList :=
  let f := { f with descs := f.descs ++ [d], appended := f.appended + 1 }
  if f.totalKnown && f.appended == f.total then { f with state := 2 } else f

/-- The oldest held append enters a list that has room again (R237). -/
def admitAppend (f : ForageList) : ForageList :=
  match f.waiting with
  | d :: ds => if f.descs.length < listRoom then takeAppend { f with waiting := ds } d else f
  | [] => f

/-- The FORAGE unit answers held requests, oldest first: with the oldest descriptor, or DONE once the list is COMPLETE and empty; otherwise it holds them (R239). -/
def serveHeld : Nat → ForageList → ForageList
  | 0, f => f
  | fuel + 1, f =>
    match f.held with
    | [] => f
    | n :: rest =>
      match f.descs with
      | d :: ds => if f.state = 0 then f
        else serveHeld fuel (admitAppend { f with held := rest, descs := ds, taken := f.taken + 1, answers := f.answers ++ [(n, d)] })
      | [] => if f.state = 2 then serveHeld fuel { f with held := rest, answers := f.answers ++ [(n, 2)] } else f

def serveList (s : State) (l : Nat) : State :=
  let f := getList s l
  let g := serveHeld (f.held.length + 1) f
  countN (setList s l g) EXCH 0x060 32 (g.appended - f.appended)

/-- A request of a core reaches the unit (R239). -/
def arriveRequest (s : State) (n l : Nat) : State :=
  let f := getList s l
  if f.requests.contains n then
    serveList (setList s l { f with requests := f.requests.erase n, held := f.held ++ [n] }) l
  else s

/-- The mailbox of a core for a list (R238). -/
def mailbox (c : Core) (l : Nat) : Mailbox := tget .empty c.mailboxes l

def setMailbox (c : Core) (l : Nat) (m : Mailbox) : Core := { c with mailboxes := tset .empty c.mailboxes l m }

/-- Descriptors appended to a list and held for it: the append position of the next one (R236). -/
def nextSeq (s : State) (l : Nat) : Nat := (getList s l).appended + (getList s l).waiting.length

/-- The exchange appends a descriptor; while the list is full, it holds further appends until an entry is taken (R237). -/
def appendDesc (s : State) (l : Nat) (d : BitVec 256) : State :=
  let f := getList s l
  if f.waiting.isEmpty && decide (f.descs.length < listRoom) then serveList (count (setList s l (takeAppend f d)) EXCH 0x060 32) l
  else setList s l { f with waiting := f.waiting ++ [d] }

/-- A dispatch opens a list: its counts become zero (R244). -/
def openList (s : State) (l : Nat) : State :=
  let f := getList s l
  setList s l { f with state := 1, descs := [], waiting := [], total := 0, totalKnown := false, appended := 0, taken := 0 }

/-- The list's total becomes known; it is COMPLETE at once where every tile has been appended (R237, R293). -/
def setTotal (s : State) (l total : Nat) : State :=
  let f := getList s l
  let f := { f with total := total, totalKnown := true, state := if total = f.appended then 2 else f.state }
  serveList (setList s l f) l

/-! ### Ends of launches, 01_architecture.md R613 -/

/-- The arbiter remembers an ended launch, the last 64 of them, with its outcome. -/
def rememberEnd (s : State) (ordinal : Nat) (halted : Bool) : State :=
  { s with ended := (s.ended ++ [(ordinal, halted)]).drop ((s.ended.length + 1) - 64) }

/-- The most recent remembered launch with an ordinal: whether it ended halted. -/
def endedAs (s : State) (ordinal : Nat) : Option Bool := (s.ended.reverse.find? (fun e => e.1 == ordinal)).map (·.2)

/-- An ended launch decides the work that waits on its ordinal: dispatches (R282), collectives (R398) and head jobs (R362). -/
def armWaiters (s : State) (ordinal : Nat) (halted : Bool) : State :=
  { s with
    dispatches := mapIf (fun d => d.waits == some ordinal) (fun d => { d with waits := none, armFail := halted }) s.dispatches,
    collectives := mapIf (fun c => c.waits == some ordinal) (fun c => { c with waits := none, armFail := halted, armedAt := s.time }) s.collectives,
    heads := s.heads.map (fun h => h.map (fun j => if j.waits == some ordinal then { j with waits := none, armFail := halted, armedAt := s.time } else j)) }

/-- The end of a launch (R613). -/
def endLaunch (s : State) (id : Nat) (halted : Bool) : State :=
  match s.launches.find? (fun l => l.id == id) with
  | none => s
  | some l =>
    let s := { s with launches := s.launches.filter (fun x => x.id != id) }
    armWaiters (rememberEnd s l.ordinal halted) l.ordinal halted

/-- A named core reached its launch boundary: the launch ends when the last one did (R613). -/
def coreDone (s : State) (id n : Nat) : State :=
  let s := { s with launches := mapIf (fun l => l.id == id) (fun l => { l with remaining := l.remaining.filter (· != n) }) s.launches }
  if s.launches.any (fun l => l.id == id && l.remaining.isEmpty) then endLaunch s id false else s

end Sys2Proof.Machine
end

