-- ==== Sys2Proof/Machine/Sparse.lean ====
section
/-! DEFINITION. Compressed tiles: header, regions, metadata, and the checks of a reader, 04_sparse_operands.md R143 to R152. -/

namespace Sys2Proof.Machine

/-- The fields of a tile header (R144). -/
structure TileHeader where
  tscale : Nat
  num : Nat
  kT : Nat
  kLimit : Nat
  form : Nat
  dense : Bool
  excess : Bool
  moff : Nat
  soff : Nat
  tsize : Nat
  rsvd : Nat
  hver : Nat
deriving DecidableEq, Repr

def tileHeader (h : Nat) : TileHeader :=
  { tscale := fld h 255 248, num := fld h 247 216, kT := 32 * (fld h 215 208 + 1), kLimit := fld h 207 194, form := fld h 193 192,
    dense := bit h 191, excess := bit h 190, moff := fld h 189 174, soff := fld h 173 158, tsize := fld h 157 142, rsvd := fld h 141 4, hver := fld h 3 0 }

/-- The 256 bits of a tile header. -/
def TileHeader.bits (h : TileHeader) : Nat :=
  at_ (h.tscale % 256) 248 + at_ (h.num % 2 ^ 32) 216 + at_ ((h.kT / 32 - 1) % 256) 208 + at_ (h.kLimit % 2 ^ 14) 194 + at_ (h.form % 4) 192 +
    at_ (b2n h.dense) 191 + at_ (b2n h.excess) 190 + at_ (h.moff % 65536) 174 + at_ (h.soff % 65536) 158 + at_ (h.tsize % 65536) 142 + h.hver % 16

/-- N of a form code (R144): 0b01 = 4:8, 0b10 = 2:8, 0b11 = 1:8. -/
def formN (form : Nat) : Nat := if form = 1 then 4 else if form = 2 then 2 else if form = 3 then 1 else 8

/-- Where a tile's regions lie: bytes of a value row, metadata row and scale row, region starts and the size in 32-byte units (R145, R148, R149). -/
structure TileLayout where
  valueRow : Nat
  metaRow : Nat
  scaleRow : Nat
  moff : Nat
  soff : Nat
  size : Nat
deriving DecidableEq, Repr

/-- The layout of a tile of form N:8, depth kT, element width w and block size b. -/
def tileLayout (n kT w b : Nat) (dense scaled : Bool) : TileLayout :=
  let vr := if dense then kT * w / 8 else kT * n * w / 64
  let mr := if dense then 0 else kT * n / 16
  let sr := if scaled then ceilDiv (if dense then kT else kT * n / 8) b else 0
  let m := 1 + ceilDiv (64 * vr) 32
  let s := m + ceilDiv (64 * mr) 32
  { valueRow := vr, metaRow := mr, scaleRow := sr, moff := if dense then 0 else m, soff := if scaled then s else 0, size := s + ceilDiv (64 * sr) 32 }

/-- The layout that a header's own fields give. -/
def TileHeader.layout (h : TileHeader) : TileLayout :=
  let num := numericOf h.num
  tileLayout (formN h.form) h.kT (fmtBits num.format) num.block h.dense (num.scaling == 1)

/-- The SPARSE_HEADER conditions of R150 for an operation of depth k, form and numeric word. -/
def headerBad (h : TileHeader) (form aNum k : Nat) : Bool :=
  let num := numericOf h.num
  let want := numericOf aNum
  let l := h.layout
  h.hver != 1 || h.rsvd != 0 || (h.tscale != 0 && num.scaling != 2) || h.form == 0 || h.form != form ||
    num.format != want.format || num.scaling != want.scaling || num.block != want.block || decide (h.kT < k) ||
    h.kLimit == 0 || decide (h.kT < h.kLimit) || (h.excess && !h.dense) || h.moff != l.moff || h.soff != l.soff || h.tsize != l.size

/-- The metadata of one group: its count and its position codes (R146). -/
def groupMeta (n code : Nat) : Nat × List Nat :=
  (code / 2 ^ (3 * n), (List.range n).map (fun i => fld code (3 * i + 2) (3 * i)))

/-- Strictly rising. -/
def rising : List Nat → Bool
  | a :: b :: t => decide (a < b) && rising (b :: t)
  | _ => true

/-- A tile's bytes, from its header on, as elements: the code of value slot or dense element j of row r. -/
def tileCode (h : TileHeader) (tile : List Byte) (r j : Nat) : Nat :=
  unpack (tile.drop (32 + r * h.layout.valueRow)) (fmtBits (numericOf h.num).format) j

/-- Metadata field of group g of row r; a field of 4N bits never straddles a byte unless it is whole bytes. -/
def tileMeta (h : TileHeader) (tile : List Byte) (r g : Nat) : Nat :=
  unpack (tile.drop (32 * h.moff + r * h.layout.metaRow)) (4 * formN h.form) g

/-- The scale byte that covers slot or dense element j of row r. -/
def tileScale (h : TileHeader) (tile : List Byte) (r j : Nat) : Nat :=
  let num := numericOf h.num
  if num.scaling = 1 then ((tile[32 * h.soff + r * h.layout.scaleRow + j / num.block]?).getD 0).toNat
  else if num.scaling = 2 then h.tscale else 127

/-- Element code is ±0. -/
def codeZero (format code : Nat) : Bool :=
  match fmtOf format with
  | some f => code % 2 ^ (f.exp + f.frac) == 0
  | none => code == 0

/-- The decoded value of slot or dense element j of row r (R81). -/
def tileValue (h : TileHeader) (tile : List Byte) (r j : Nat) : F32 :=
  match fmtOf (numericOf h.num).format with
  | some f => decodeScaled f (tileCode h tile r j) (tileScale h tile r j)
  | none => 0

/-- What R151 finds in group g of row r: 0 nothing, else the halt reason. -/
def groupFault (h : TileHeader) (tile : List Byte) (r g : Nat) : Nat :=
  let n := formN h.form
  if h.dense then
    let nz := (List.range 8).filter (fun p => !codeZero (numericOf h.num).format (tileCode h tile r (8 * g + p)))
    if nz.length > n then 0x21
    else if nz.any (fun p => decide (h.kLimit ≤ 8 * g + p)) then 0x20 else 0
  else
    let (c, ps) := groupMeta n (tileMeta h tile r g)
    if c > n then 0x21
    else
      let used := ps.take c
      if !rising used || used.any (fun p => decide (h.kLimit ≤ 8 * g + p)) then 0x20 else 0

/-- The first faulting group, lowest group first and then lowest row (R151), among the first groups of the tile: (reason, row, group). -/
def firstGroupFault (h : TileHeader) (tile : List Byte) (groups : Nat) : Option (Nat × Nat × Nat) :=
  (List.range groups).findSome? (fun g =>
    (List.range 64).findSome? (fun r =>
      let f := groupFault h tile r g
      if f = 0 then none else some (f, r, g)))

/-- The eight positions of group g of row r: the decoded value where the tile stores one (R147, R152). -/
def groupValues (h : TileHeader) (tile : List Byte) (r g : Nat) : List (Option F32) :=
  let n := formN h.form
  if h.dense then
    (List.range 8).map (fun p =>
      if codeZero (numericOf h.num).format (tileCode h tile r (8 * g + p)) then none else some (tileValue h tile r (8 * g + p)))
  else
    let (c, ps) := groupMeta n (tileMeta h tile r g)
    (List.range 8).map (fun p =>
      ((List.range (min c n)).find? (fun i => ps.getD i 8 == p)).map (fun i => tileValue h tile r (n * g + i)))

/-- Byte ranges of a tile, from its header on, that an operation over the first k positions uses (R133, R150); the header not included. -/
def tileRanges (h : TileHeader) (k : Nat) : List (Nat × Nat) :=
  let l := h.layout
  let n := formN h.form
  let num := numericOf h.num
  let w := fmtBits num.format
  let slots := if h.dense then k else k * n / 8
  (List.range 64).flatMap (fun r =>
    [(32 + r * l.valueRow, ceilDiv (slots * w) 8)] ++
    (if h.dense then [] else [(32 * h.moff + r * l.metaRow, k * n / 16)]) ++
    (if num.scaling = 1 then [(32 * h.soff + r * l.scaleRow, ceilDiv slots num.block)] else []))

/-! ### Reads of a core's own memories -/

/-- Bytes as a reader receives them, corrected where the guard code corrects them. -/
def peekBytes (s : State) (a n : Nat) : List Byte :=
  (pieces a n).flatMap (fun p => ((peekGranule s p.1).1.drop p.2.1).take p.2.2)

/-- The granules that byte ranges from a base touch, ascending by range, each once. -/
def rangeGranules (base : Nat) (ranges : List (Nat × Nat)) : List Nat :=
  (ranges.flatMap (fun r => (pieces (base + r.1) r.2).map (·.1))).eraseDups

/-- A bad granule met: the first of each halt reason is kept (06_core_programs.md R256). -/
def addBad (bad : List (BitVec 8 × Nat)) (x : BitVec 8 × Nat) : List (BitVec 8 × Nat) := if bad.any (fun b => b.1 == x.1) then bad else bad ++ [x]

/-- What a core meets when it consumes granules (R541, R542): the first poisoned and the first uncorrectable one as (reason, local address). -/
def consume (s : State) (n : Nat) (gs : List Nat) : List (BitVec 8 × Nat) × State :=
  gs.foldl (fun (acc : List (BitVec 8 × Nat) × State) g =>
    let (_, r, s) := readGranule acc.2 g false
    let note := fun (reason : BitVec 8) => (addBad acc.1 (reason, 32 * g),
      notePoisonConsumed (modCore s n (fun c => { c with guardUncorr := c.guardUncorr + 1 })) (CORE n) (32 * g) n)
    match r with
    | .clean => (acc.1, s)
    | .corrected _ => (acc.1, modCore s n (fun c => { c with guardCorr := c.guardCorr + 1 }))
    | .poison => note 0x40
    | .uncorrectable => note 0x41) ([], s)

/-- The halts of bad granules that a slot consumed. -/
def badHalts (bad : List (BitVec 8 × Nat)) (pc slot : Nat) : List HaltInfo :=
  bad.map (fun b => ⟨b.1, pc, BitVec.ofNat 3 slot, BitVec.ofNat 64 b.2⟩)

/-- One read of an internal file by slot x.1: file x.2.1, place x.2.2. What it finds is corrected, or halts the core with no local address (R537, R542). -/
def meetFile (n pc : Nat) (acc : List HaltInfo × State) (x : Nat × Nat × Nat) : List HaltInfo × State :=
  match (getCore acc.2 n).fileErrors.find? (fun e => e.1 == x.2.1 && e.2.1 == x.2.2) with
  | none => acc
  | some e =>
    let point := 0x14 + n / 64
    if e.2.2 = 0 then
      (acc.1, noteCorr (modCore acc.2 n (fun c => { c with fileErrors := c.fileErrors.erase e, guardCorr := c.guardCorr + 1 })) point)
    else
      let s := if e.2.2 = 1 then noteUncorr acc.2 point (CORE n) 0 else acc.2
      let s := modCore s n (fun c => { c with fileErrors := mapIf (fun y => y == e) (fun y => (y.1, y.2.1, 2)) c.fileErrors, guardUncorr := c.guardUncorr + 1 })
      (acc.1 ++ [⟨if e.2.2 = 1 then 0x41 else 0x40, pc, BitVec.ofNat 3 x.1, BitVec.ofNat 64 (at_ 0xF 60 + x.2.1)⟩], notePoisonConsumed s (CORE n) 0 n)

/-- What a core meets when it reads its internal files, each place once (R542, R544). -/
def meetFiles (s : State) (n pc : Nat) (xs : List (Nat × Nat × Nat)) : List HaltInfo × State := xs.eraseDups.foldl (meetFile n pc) ([], s)

/-- A whole place of an internal file is written: its damage is gone. -/
def mendFile (c : Core) (file place : Nat) : Core := { c with fileErrors := c.fileErrors.filter (fun e => !(e.1 == file && e.2.1 == place)) }

/-- A read of a core that carries what it finds counts its check for the completion record (15_integrity_faults.md R541, R549). -/
def noteGuard (s : State) (n : Nat) (r : Guard) : State :=
  match r with
  | .clean => s
  | .corrected _ => modCore s n (fun c => { c with guardCorr := c.guardCorr + 1 })
  | _ => modCore s n (fun c => { c with guardUncorr := c.guardUncorr + 1 })

end Sys2Proof.Machine
end

