-- ==== Sys2Proof/Machine/Matrix.lean ====
section
/-! DEFINITION. The matrix engine: product descriptors, checks at issue, staged operands, accumulation and the sentry's sampling, 03_matrix_engine.md R119 to R142 and 02_number_formats.md R103 to R108. -/

namespace Sys2Proof.Machine

/-! ### Descriptors, R119, R217 -/

/-- A product descriptor's fields at their bits (R119). -/
def productOf (d : BitVec 256) : Product :=
  let v := d.toNat
  { aNum := fld v 255 224, bNum := fld v 223 192, aAddr := fld v 191 175, aPitch := fld v 174 163, aCol := fld v 162 154, aSoff := fld v 153 142,
    bAddr := fld v 141 125, bPitch := fld v 124 113, bCol := fld v 112 104, bSoff := fld v 103 92, k := 32 * (fld v 91 84 + 1), tile := fld v 83 78,
    cmode := fld v 77 76, sparse := fld v 75 74, aTrans := bit v 73, bTrans := bit v 72, op := fld v 71 68, rsvd := fld v 67 0 }

/-- A window over stored rows (R121): rows, columns, first stored column. -/
structure Window where
  addr : Nat
  pitch : Nat
  rows : Nat
  col : Nat
  cols : Nat
  soff : Nat
  num : Nat
deriving DecidableEq, Repr

/-- The window of a dense A and of B (R121). -/
def Product.winA (p : Product) : Window :=
  { addr := p.aAddr, pitch := p.aPitch, rows := if p.aTrans then p.k else 64, col := 32 * p.aCol, cols := if p.aTrans then 64 else p.k, soff := p.aSoff, num := p.aNum }
def Product.winB (p : Product) : Window :=
  { addr := p.bAddr, pitch := p.bPitch, rows := if p.bTrans then p.k else 32, col := 32 * p.bCol, cols := if p.bTrans then 32 else p.k, soff := p.bSoff, num := p.bNum }

/-- Start and length of the value bytes of a window row, counted from the row's start. -/
def Window.valueRange (w : Window) : Nat × Nat :=
  let b := fmtBits (numericOf w.num).format
  let lo := w.col * b / 8
  (lo, ceilDiv ((w.col + w.cols) * b) 8 - lo)

/-- Start and length of the scale bytes of a window row of a block-scaled operand. -/
def Window.scaleRange (w : Window) : Nat × Nat :=
  let n := (numericOf w.num).block
  (32 * w.soff + w.col / n, (w.col + w.cols - 1) / n - w.col / n + 1)

/-- Start of stored row r. -/
def Window.rowStart (w : Window) (r : Nat) : Nat := 32 * (w.addr + r * w.pitch)

/-- Byte ranges that a window uses, in the tile store (R133). -/
def Window.ranges (w : Window) : List (Nat × Nat) :=
  let n := numericOf w.num
  (List.range w.rows).flatMap (fun r =>
    [(w.rowStart r + w.valueRange.1, w.valueRange.2)] ++
    (if n.scaling = 1 then [(w.rowStart r + w.scaleRange.1, w.scaleRange.2)] else [])) ++
  (if n.scaling = 2 then [(32 * (w.addr - 1), 1)] else [])

/-- The start of the first range of a window that reaches beyond the 4 MiB tile store. -/
def Window.beyond (w : Window) : Option Nat :=
  (w.ranges.find? (fun r => decide (0x400000 < r.1 + r.2))).map (·.1)

/-- The placement rules of R124's fourth row that have no offending address. -/
def Window.misplaced (w : Window) : Bool :=
  let n := numericOf w.num
  (n.scaling == 1 && decide (32 * w.soff < ceilDiv ((w.col + w.cols) * fmtBits n.format) 8)) || (n.scaling == 2 && w.addr == 0)

/-- One decoded element of a window: stored row r, window column c (R122). -/
def Window.value (s : State) (base : Nat) (w : Window) (r c : Nat) : F32 :=
  let n := numericOf w.num
  let bits := fmtBits n.format
  let x := w.col + c
  let at0 := base + w.rowStart r
  let code := fld (ofBytes (peekBytes s (at0 + x * bits / 8) 6)) (x * bits % 8 + bits - 1) (x * bits % 8)
  let scale := if n.scaling = 1 then ofBytes (peekBytes s (at0 + 32 * w.soff + x / n.block) 1)
    else if n.scaling = 2 then ofBytes (peekBytes s (base + 32 * (w.addr - 1)) 1) else 127
  match fmtOf n.format with
  | some f => decodeScaled f code scale
  | none => 0

/-- The window's elements, row by row. -/
def Window.values (s : State) (base : Nat) (w : Window) : List (List F32) :=
  (List.range w.rows).map (fun r => (List.range w.cols).map (fun c => w.value s base r c))

/-- Rows and columns exchanged; `n` is the number of columns. -/
def transposed {α : Type} (n : Nat) (d : α) (m : List (List α)) : List (List α) :=
  (List.range n).map (fun c => m.map (fun row => row.getD c d))

/-! ### Occupancy, R125, R126 -/

/-- The rate class as a number of eighths of a position pair: 8κ of R126 is 16, 8 or 4. -/
def rate8 (fa fb : Nat) (stat : Bool) : Nat :=
  if stat || fa == 2 || fa == 3 || fb == 2 || fb == 3 then 4 else if fa == 8 && fb == 8 then 16 else 8

/-- S' = max(S, 4) of an operation. -/
def Product.occupancy (p : Product) (aFormat : Nat) : Nat :=
  let n := if p.sparse = 0 then 8 else formN p.sparse
  max (p.k * n / rate8 aFormat (numericOf p.bNum).format (p.op == 1)) 4

/-! ### Checks at issue, R124, R139, R150 -/

/-- A halt condition of a bundle's check: reason and detail. -/
structure Stop where
  reason : BitVec 8
  detail : Nat
deriving DecidableEq, Repr

/-- KIND of R614 in a detail. -/
def kindDetail (kind rest : Nat) : Nat := at_ kind 60 + rest

/-- The first condition that holds. -/
def firstStop : List (Bool × Stop) → Option Stop
  | [] => none
  | (b, x) :: t => if b then some x else firstStop t

/-- A numeric word's fault and its detail: FORMAT_MISMATCH with the word, SCALE_MISSING with the steward slot. -/
def numStop (want w : Nat) : Bool × Stop :=
  (numericFault w == want, ⟨BitVec.ofNat 8 want, if want = 0x11 then w else (numericOf w).slot⟩)

/-- What one issue of the matrix slot starts: one operation, or the two halves of an alternating pair (R138). -/
structure MatIssue where
  first : Product
  second : Option Product
deriving DecidableEq, Repr

/-- The dW half's operation: its A is the dX half's B window read transposed (R139). -/
def dwHalf (x w : Product) : Product :=
  { w with aNum := x.bNum, aAddr := x.bAddr, aPitch := x.bPitch, aCol := x.bCol, aSoff := x.bSoff, sparse := 0, aTrans := true }

/-- The effective descriptors of a matrix slot (R217), with the sums that exceed their field. -/
def effective (c : Core) (m : MatSlot) (reg : BitVec 5 → Nat) : MatIssue × List (Nat × Nat) :=
  let p := productOf (tget 0 c.productFile m.e.toNat)
  let a := p.aAddr + reg m.ar
  let b := p.bAddr + reg m.br
  if p.op = 2 then
    let w := productOf (tget 0 c.productFile ((m.e.toNat + 1) % 16))
    let t := w.tile + reg m.cr
    let x := { p with aAddr := a % 2 ^ 17, bAddr := b % 2 ^ 17 }
    (⟨x, some (dwHalf x { w with tile := t % 64 })⟩,
      (if 2 ^ 17 ≤ a then [(0, a)] else []) ++ (if 2 ^ 17 ≤ b then [(1, b)] else []) ++ (if 64 ≤ t then [(2, t)] else []))
  else
    let t := p.tile + reg m.cr
    (⟨{ p with aAddr := a % 2 ^ 17, bAddr := b % 2 ^ 17, tile := t % 64 }, none⟩,
      (if 2 ^ 17 ≤ a then [(0, a)] else []) ++ (if 2 ^ 17 ≤ b then [(1, b)] else []) ++ (if 64 ≤ t then [(2, t)] else []))

/-- A sparse A in a tensor-scaled format has no unit before its header for a scale byte at address 0 (R124's fourth row). -/
def Product.misplacedSparse (p : Product) : Bool := p.sparse != 0 && (numericOf p.aNum).scaling == 2 && p.aAddr == 0

/-- Bounds and placement of the windows that an operation reads from the tile store (R124). -/
def windowStops (n : Nat) (entry : Nat) (ws : List Window) : List (Bool × Stop) :=
  ws.flatMap (fun w =>
    [(w.beyond.isSome, ⟨0x10, (tileBase n + w.beyond.getD 0) % 2 ^ 42⟩), (w.misplaced, ⟨0x10, kindDetail 3 entry⟩)])

/-- The checks of R124 on the matrix slot, in table order. -/
def matChecks (c : Core) (n : Nat) (csf1 : Bool) (m : MatSlot) (bits : Nat) (reg : BitVec 5 → Nat) : Option Stop :=
  let e := m.e.toNat
  let (i, sums) := effective c m reg
  let x := i.first
  let pair := x.op == 2
  let raw := productOf (tget 0 c.productFile ((e + 1) % 16))
  let w := i.second
  let wins := (if x.sparse = 0 then [x.winA] else []) ++ [x.winB] ++ (match w with | some d => [d.winB] | none => [])
  let nums := [x.aNum, x.bNum] ++ (match w with | some d => [d.bNum] | none => [])
  let wide := fun (v : Nat) => (numericOf v).format == 0 || (numericOf v).format == 1
  let bad := fun (p : Product) => decide (3 ≤ p.op) || decide (2 ≤ p.cmode)
  firstStop (
    [(bad x || (pair && (e % 2 == 1 || raw.op != 0 || decide (2 ≤ raw.cmode))) || (csf1 && (x.op == 1 || pair)), ⟨0x01, bits⟩),
     (x.rsvd != 0 || (pair && raw.rsvd != 0) || (x.sparse != 0 && (x.aPitch != 0 || x.aCol != 0 || x.aSoff != 0)), ⟨0x02, bits⟩),
     (decide (c.cycle < c.matFree), ⟨0x03, kindDetail 1 e⟩)] ++
    sums.map (fun o => (true, ⟨0x10, kindDetail 2 (at_ o.1 48 + o.2 % 2 ^ 48)⟩)) ++
    [(x.misplacedSparse, ⟨0x10, kindDetail 3 e⟩)] ++
    windowStops n e wins ++
    [(pair && (x.k != 64 || x.bTrans || raw.k != 32), ⟨0x10, kindDetail 3 e⟩)] ++
    nums.map (numStop 0x11) ++
    nums.map (fun v => (wide v, ⟨0x11, v⟩)) ++
    [(x.sparse != 0 && (x.aTrans || x.op == 1), ⟨0x11, x.aNum⟩)] ++
    nums.map (numStop 0x12))

/-- The header granule of a sparse A (R150). -/
def headerAt (s : State) (n : Nat) (p : Product) : TileHeader := tileHeader (ofBytes (peekBytes s (tileBase n + 32 * p.aAddr) 32))

/-- The header checks of R150, in table order. -/
def headerChecks (p : Product) (n : Nat) (h : TileHeader) : Option Stop :=
  firstStop
    [(headerBad h p.sparse p.aNum p.k, ⟨0x22, p.aAddr⟩),
     (decide (0x400000 < 32 * p.aAddr + 32 * h.tsize), ⟨0x10, (tileBase n + 32 * p.aAddr) % 2 ^ 42⟩),
     (h.excess, ⟨0x21, p.aAddr⟩)]

/-! ### Staged operands and accumulation, R121, R127, R128, R141 -/

/-- An element rounded to BF16 by nearest-even, beyond its range to infinity (R141). -/
def toBf16 (x : F32) : F32 := toF32 (decodeFmt bf16 (convert bf16 true none (ofF32 x)).code)

/-- The cell rows of A: 64 lists of K positions, none where a sparse A stores nothing. -/
def stageA (s : State) (n : Nat) (p : Product) : List (List (Option F32)) :=
  let base := tileBase n
  if p.sparse = 0 then
    let v := p.winA.values s base
    let rows := if p.aTrans then transposed 64 0 v else v
    rows.map (fun r => r.map (fun x => some (if p.op = 1 then toBf16 x else x)))
  else
    let h := headerAt s n p
    let tile := peekBytes s (base + 32 * p.aAddr) (32 * h.tsize)
    (List.range 64).map (fun r => (List.range (p.k / 8)).flatMap (fun g => groupValues h tile r g))

/-- The cell columns of B: 32 lists of K positions. -/
def stageB (s : State) (n : Nat) (p : Product) : List (List F32) :=
  let v := p.winB.values s (tileBase n)
  let cols := if p.bTrans then transposed 32 0 v else v
  if p.op = 1 then cols.map (fun c => c.map toBf16) else cols

/-- The granules of the tile store that an operation consumes (R133), the sparse header excepted. -/
def stageGranules (s : State) (n : Nat) (p : Product) (withA : Bool) : List Nat :=
  let a := if !withA then [] else if p.sparse = 0 then p.winA.ranges
    else (tileRanges (headerAt s n p) p.k).map (fun r => (32 * p.aAddr + r.1, r.2))
  rangeGranules (tileBase n) (a ++ p.winB.ranges)

/-- The exact sum of the products of one chunk; none where no product is formed (R127, R128). -/
def chunkSum : List (Option F32) → List F32 → Option Flt
  | some a :: as, b :: bs =>
    let p := (ofF32 a).mul (ofF32 b)
    match chunkSum as bs with
    | some t => some (p.add t)
    | none => some p
  | none :: as, _ :: bs => chunkSum as bs
  | _, _ => none

/-- One cell: chunks of 8 positions in ascending order, each rounded once (R127). -/
def cell : Nat → F32 → List (Option F32) → List F32 → F32
  | 0, x, _, _ => x
  | fuel + 1, x, a, b =>
    if a.isEmpty then x
    else
      let x := match chunkSum (a.take 8) (b.take 8) with
        | some t => toF32 ((ofF32 x).add t)
        | none => x
      cell fuel x (a.drop 8) (b.drop 8)

/-- C_after, row by row. -/
def productAfter (before : List F32) (a : List (List (Option F32))) (b : List (List F32)) : List F32 :=
  (a.zipIdx).flatMap (fun ra => (b.zipIdx).map (fun cb => cell (ra.1.length / 8 + 1) (before.getD (32 * ra.2 + cb.2) 0) ra.1 cb.1))

/-! ### Sentry sampling, 02_number_formats.md R104 to R106 -/

/-- The seed of a core's sentry generator at a launch (R104). -/
def sentrySeed (s : State) (n ordinal : Nat) : Nat :=
  let x := Nat.xor (Nat.xor (fld (getReg s NUMERIC 0x010) 46 15 % 2 ^ 32) (n * 0x00010001)) (ordinal % 2 ^ 32)
  if x = 0 then 1 else x

/-- RATE_LOG2 as it acts; zero disables sampling. -/
def sentryRate (s : State) : Nat :=
  let r := fld (getReg s NUMERIC 0x010) 4 0
  if r = 0 then 0 else max 4 (min r 16)

/-- Bytes of an operand of `rows` stored rows: values and scales (R105). -/
def Window.captureBytes (w : Window) : Nat :=
  w.rows * w.valueRange.2 + (match (numericOf w.num).scaling with | 1 => w.rows * w.scaleRange.2 | 2 => 1 | _ => 0)

/-- Bytes of an operation's capture (R105, R106): the operands in their stored formats, those of a statistics product too, with their scales and, for a
sparse A, its metadata; the scale of a tensor-scaled sparse A is its header's TSCALE byte (DESIGN CHOICE where R105 leaves the form open, log 80). -/
def Product.captureBytes (s : State) (n : Nat) (p : Product) : Nat :=
  (if p.sparse = 0 then p.winA.captureBytes
   else ((tileRanges (headerAt s n p) p.k).map (·.2)).foldl (· + ·) 0 + (if (numericOf p.aNum).scaling = 2 then 1 else 0)) +
    p.winB.captureBytes + Config.captureFixedBytes

/-- Bytes that captures hold in a core's buffer; a capture in flight has its bytes reserved from its issue on (DESIGN CHOICE, log 80). -/
def captureUsed (c : Core) : Nat := (c.captures.map (·.bytes)).foldl (· + ·) 0 + c.capturesInFlight

/-! ### The start of an operation, R129 to R131 -/

def addEvents (c : Core) (es : List (Nat × CoreEvent)) : Core := { c with events := c.events ++ es }

/-- One product operation starts at core cycle t with its operands read (R129); operands are read in its issue cycle (log 15), and the free part of the
capture buffer is judged there (R106; log 80). -/
def startProduct (s : State) (n : Nat) (pc t : Nat) (aud : Bool) (p : Product) (a : List (List (Option F32))) (b : List (List F32)) (bytes : Nat) : State :=
  let c := getCore s n
  let occ := p.occupancy (numericOf p.aNum).format
  let gen := lfsrStep c.sentryGen.toNat
  let rate := sentryRate s
  let sel := bit (getReg s NUMERIC 0x008) 0 && rate != 0 && gen % 2 ^ rate == 0
  let fits := decide (captureUsed c + bytes ≤ 65536)
  let s := if sel && !fits then count s NUMERIC 0x070 32 else s
  let id := c.nextId
  let fwd := match c.lastTile with
    | some (tile, op) => if p.cmode = 0 && tile == p.tile then some op else none
    | none => none
  -- the ended operations are dropped; the last one is kept while a later one can forward from it
  let before := match fwd.bind (fun f => c.matOps.find? (fun o => o.id == f)) with
    | some o => if o.after.isEmpty then [] else o.after
    | none => if p.cmode = 1 then List.replicate 2048 0 else []
  let o : MatrixOp := { id := id, pc := pc, tile := p.tile, forward := fwd, before := before, a := a, b := b, issued := t,
                        occupancy := occ, captured := sel && fits, captureBytes := bytes, number := c.productOps + 1 }
  let reads := if p.cmode = 1 || fwd.isSome then [] else [(t + 10, CoreEvent.readC id 0 aud), (t + 11, CoreEvent.readC id 1 aud)]
  setCore s n { addEvents c (reads ++ [(t + 12 + occ, .writeC id 0 aud), (t + 13 + occ, .writeC id 1 aud), (t + 13 + occ, .endOp id)]) with
    nextId := id + 1, matFree := t + occ, lastTile := some (p.tile, id), sentryGen := BitVec.ofNat 32 gen, productOps := c.productOps + 1,
    matOps := (c.matOps.filter (fun o => !o.ended)) ++ [o],
    capturesInFlight := if sel && fits then c.capturesInFlight + bytes else c.capturesInFlight }

/-- A fault that R151 finds in a sparse A: it halts the core in the cycle before its chunk enters the array, which R151 bounds by t + 11 + S'; the cycle within
that bound is taken in proportion to the chunk (DESIGN CHOICE, log 84). -/
def metaHalt (h : TileHeader) (tile : List Byte) (p : Product) (t pc : Nat) : List (Nat × CoreEvent) :=
  match firstGroupFault h tile (p.k / 8) with
  | none => []
  | some (r, row, g) =>
    let occ := p.occupancy (numericOf p.aNum).format
    [(t + 11 + g * occ / (p.k / 8), .haltWith ⟨BitVec.ofNat 8 r, pc, 1, BitVec.ofNat 64 (p.aAddr + at_ row 17 + at_ g 23)⟩)]

/-- The halts of poisoned or uncorrectable operand granules, in the next core cycle (log 15). -/
def poisonLater (t pc : Nat) (bad : List (BitVec 8 × Nat)) : List (Nat × CoreEvent) := (badHalts bad pc 1).map (fun h => (t + 1, CoreEvent.haltWith h))

/-- The effects of a matrix slot that has passed its checks (R129, R138, R153): one operation starts, and the dW half of a pair starts in its own issue
cycle t + S'_x (R138, R140). -/
def issueMatrix (s : State) (n : Nat) (pc : Nat) (aud : Bool) (i : MatIssue) : State :=
  let t := (getCore s n).cycle
  let x := i.first
  let h := headerAt s n x
  let s := if x.sparse ≠ 0 ∧ h.dense then count s (CORE n) 0x0A8 32 else s
  let a := stageA s n x
  let b := stageB s n x
  let bytes := x.captureBytes s n
  let gs := stageGranules s n x true
  let faults := if x.sparse = 0 then [] else metaHalt h (peekBytes s (tileBase n + 32 * x.aAddr) (32 * h.tsize)) x t pc
  let (bad, s) := consume s n gs
  let id := (getCore s n).nextId
  let s := startProduct s n pc t aud x a b bytes
  let s := modCore s n (fun c => addEvents c (poisonLater t pc bad ++ faults))
  match i.second with
  | none => s
  | some w =>
    let t2 := t + x.occupancy (numericOf x.aNum).format
    modCore s n (fun c => { addEvents c [(t2, .startHalf id w pc aud)] with matFree := t2 + w.occupancy (numericOf w.aNum).format })

/-- The dW half of an alternating pair issues (R138, R140): its A is the dX half's staged B, and its B window is read now. -/
def startHalf (s : State) (n first : Nat) (w : Product) (pc : Nat) (aud : Bool) : State :=
  let c := getCore s n
  let t := c.cycle
  let xb := ((c.matOps.find? (fun o => o.id == first)).map (·.b)).getD []
  let a := (transposed 64 0 xb).map (fun r => r.map some)
  let b := stageB s n w
  let bytes := w.captureBytes s n
  let (bad, s) := consume s n (rangeGranules (tileBase n) w.winB.ranges)
  let s := startProduct s n pc t aud w a b bytes
  modCore s n (fun c => addEvents c (poisonLater t pc bad))

/-! ### The later cycles of an operation -/

def accTileAddr (n tile half : Nat) : Nat := accBase n + 8192 * tile + 4096 * half

/-- Words of a byte list. -/
def words4 (bs : List Byte) : List F32 := (chunks 4 (bs.length / 4 + 1) bs).map (fun w => BitVec.ofNat 32 (ofBytes w))

def bytes4 (ws : List F32) : List Byte := ws.flatMap (fun w => bytesOf w.toNat 4)

/-- The engine port reads half of C_before. -/
def readCHalf (s : State) (n id half : Nat) : List HaltInfo × State :=
  match (getCore s n).matOps.find? (fun o => o.id == id) with
  | none => ([], s)
  | some o =>
    let a := accTileAddr n o.tile half
    let ws := words4 (peekBytes s a 4096)
    let (bad, s) := consume s n ((List.range 128).map (fun i => a / 32 + i))
    let s := modCore s n (fun c => { c with matOps := mapIf (fun o => o.id == id) (fun o => { o with before := o.before ++ ws }) c.matOps })
    (badHalts bad o.pc 1, s)

/-- C_after becomes known; an operation that forwards from it takes it as C_before (R131). -/
def finishC (s : State) (n id : Nat) : State :=
  modCore s n (fun c =>
    match c.matOps.find? (fun o => o.id == id) with
    | none => c
    | some o =>
      let after := productAfter o.before o.a o.b
      { c with matOps := c.matOps.map (fun q =>
          if q.id == id then { q with after := after } else if q.forward == some id && q.before.isEmpty then { q with before := after } else q) })

/-- The engine port writes half of C_after. -/
def writeCHalf (s : State) (n id half : Nat) : State :=
  let s := if half = 0 then finishC s n id else s
  match (getCore s n).matOps.find? (fun o => o.id == id) with
  | none => s
  | some o =>
    let a := accTileAddr n o.tile half
    let bs := bytes4 ((o.after.drop (1024 * half)).take 1024)
    (chunks 32 128 bs).zipIdx.foldl (fun s p => storeGranule s (a / 32 + p.2) p.1 false) s

/-- The operation has ended: a captured one is placed in the capture buffer (R105). -/
def endProduct (s : State) (n id : Nat) : State :=
  modCore s n (fun c =>
    match c.matOps.find? (fun o => o.id == id) with
    | none => c
    | some o =>
      let c := { c with matOps := mapIf (fun q => q.id == id) (fun q => { q with ended := true }) c.matOps }
      if o.captured then
        { c with capturesInFlight := c.capturesInFlight - o.captureBytes,
                 captures := c.captures ++ [⟨o.captureBytes, n, (c.launch.map recOrdinal).getD 0, o.number, o.a, o.b, o.before, o.after⟩] }
      else c)

end Sys2Proof.Machine
end

