-- ==== Sys2Proof/Machine/Special.lean ====
section
/-! DEFINITION. The special functions of 05_vector_chain.md R189 and R615: the stated values at zeros, infinities and negative inputs, and elsewhere a
result within the error bound of the exact value, which is computed here in fixed point (assumption log 11). -/

namespace Sys2Proof.Machine

/-! ### Fixed point: a number x stands for x / 2^448 -/

/-- Fraction bits. -/
def fxBits : Nat := 448

/-- One. -/
def fxOne : Nat := 2 ^ fxBits

/-- The product of two magnitudes. -/
def fxMul (a b : Nat) : Nat := a * b / fxOne

/-- The quotient of two magnitudes. -/
def fxDiv (a b : Nat) : Nat := a * fxOne / b

/-- The magnitude m × 2^e. -/
def fxOf (m : Nat) (e : Int) : Nat := if 0 ≤ e + fxBits then m * 2 ^ (e + fxBits).toNat else m / 2 ^ (-(e + fxBits)).toNat

/-- The terms of e^−z from the k-th on, z below 2^−8. -/
def expTerms (z : Nat) : Nat → Nat → Int
  | 0, _ => fxOne
  | fuel + 1, k => (fxOne : Int) - (z * expTerms z fuel (k + 1) / fxOne) / k

/-- n squarings. -/
def fxSquares : Nat → Nat → Nat
  | 0, x => x
  | n + 1, x => fxSquares n (fxMul x x)

/-- e^−y for 0 ≤ y ≤ 256: e^(−y / 2^16) squared 16 times. -/
def expNeg (y : Nat) : Nat := fxSquares 16 (expTerms (y / 2 ^ 16) 48 1).toNat

/-- The terms z^j / j + z^(j+2) / (j+2) + …, `p` the power z^j, for z up to 1/3. -/
def atanhTerms (zz : Nat) : Nat → Nat → Nat → Nat
  | 0, _, _ => 0
  | fuel + 1, p, j => p / j + atanhTerms zz fuel (fxMul p zz) (j + 2)

/-- 2 artanh z = ln ((1 + z) / (1 − z)), for z up to 1/3. -/
def lnRatio (z : Nat) : Nat := 2 * atanhTerms (fxMul z z) 150 z 1

/-- ln 2. -/
def fxLn2 : Nat := lnRatio (fxOne / 3)

/-- The logarithm of m × 2^e, m ≠ 0: (e + log2 m) ln 2 and the logarithm of the significand in [1, 2). -/
def fxLn (m : Nat) (e : Int) : Int :=
  let l := m.log2
  let x := fxOf m (-(l : Int))
  (e + l) * (fxLn2 : Int) + (lnRatio (fxDiv (x - fxOne) (x + fxOne)) : Int)

/-- σ(y) and 1 − σ(y) for a sign and a magnitude up to 256. -/
def fxSigmoid (neg : Bool) (y : Nat) : Nat × Nat :=
  let t := expNeg y
  let hi := fxDiv fxOne (fxOne + t)
  let lo := fxDiv t (fxOne + t)
  if neg then (lo, hi) else (hi, lo)

/-- Twice √(2/π), and the cubic coefficient 0.044715, of the tanh form of GELU (PRESUMED: the published form; log 11). -/
def geluScale : Nat := 15957691216057307117597842397375274738 * fxOne / 10 ^ 37
def geluCubic : Nat := 44715 * fxOne / 10 ^ 6

/-- The magnitude of y = 2 √(2/π) (A + 0.044715 A³), at most 256, and of dy/dA, for a magnitude of A up to 64. -/
def geluArg (a : Nat) : Nat × Nat :=
  let sq := fxMul a a
  (min (256 * fxOne) (fxMul geluScale (a + fxMul geluCubic (fxMul a sq))), fxMul geluScale (fxOne + 3 * fxMul geluCubic sq))

/-! ### Exact values -/

/-- A magnitude m × 2^e, its sign, and whether the true value lies above it by less than any place of it. -/
structure Exact where
  neg : Bool
  m : Nat
  e : Int
  more : Bool := true
deriving DecidableEq, Repr

/-- An exact value from a fixed-point number. -/
def Exact.ofFx (v : Int) : Exact := ⟨decide (v < 0), v.natAbs, -(fxBits : Int), decide (v ≠ 0)⟩

/-- √(2^(2k) / d) × 2^(−k − h), d ≠ 0. -/
def invRoot (d : Nat) (h : Int) : Exact :=
  let k := 200 + d.log2
  let r := isqrt (2 ^ (2 * k) / d)
  ⟨false, r, -(k : Int) - h, decide (r * r * d ≠ 2 ^ (2 * k))⟩

/-- The exact value of function `op` at (−1)^neg × m × 2^e, m ≠ 0, where the function is real (R189). -/
def specialExact (op : Nat) (neg : Bool) (m : Nat) (e : Int) : Exact :=
  let clamp := fun (k : Nat) => min (k * fxOne) (fxOf m e)
  let sgn := fun (x : Nat) => if neg then -(x : Int) else (x : Int)
  -- m × 2^e with an even exponent
  let me := if e % 2 = 0 then (m, e) else (2 * m, e - 1)
  match op with
  | 1 =>
    let t := expNeg (clamp 200)
    Exact.ofFx (if neg then t else fxDiv fxOne t)
  | 2 =>
    let a := sgn (clamp 400)
    let n := a / (fxOne : Int)
    let f := (a - n * (fxOne : Int)).toNat
    ⟨false, fxDiv fxOne (expNeg (fxMul f fxLn2)), n - (fxBits : Int), decide (f ≠ 0)⟩
  | 3 => Exact.ofFx (fxLn m e)
  | 4 => ⟨neg, 2 ^ 200 / m, -200 - e, decide (2 ^ 200 % m ≠ 0)⟩
  | 5 =>
    let x := me.1 * 2 ^ 200
    ⟨false, isqrt x, me.2 / 2 - 100, decide (isqrt x * isqrt x ≠ x)⟩
  | 6 => invRoot me.1 (me.2 / 2)
  | 7 => invRoot (me.1 * me.1 * me.1) (3 * (me.2 / 2))
  | 8 =>
    let t := expNeg (2 * clamp 100)
    Exact.ofFx (sgn (fxDiv (fxOne - t) (fxOne + t)))
  | 9 => Exact.ofFx (fxSigmoid neg (clamp 200)).1
  | 10 =>
    let g := (fxSigmoid neg (clamp 200)).1
    ⟨neg, m * g, e - (fxBits : Int), true⟩
  | 11 =>
    let g := (fxSigmoid neg (geluArg (clamp 64)).1).1
    ⟨neg, m * g, e - (fxBits : Int), true⟩
  | 12 =>
    let a := clamp 64
    let y := geluArg a
    let g := fxSigmoid neg y.1
    Exact.ofFx ((g.1 : Int) + sgn (fxMul (fxMul a y.2) (fxMul g.1 g.2)))
  | _ =>
    let g := fxSigmoid neg (clamp 200)
    Exact.ofFx ((g.1 : Int) + sgn (fxMul (clamp 200) (fxMul g.1 g.2)))

/-- The error bound of a function in ulp (R189). -/
def specialBound (op : Nat) : Nat := if op ≤ 6 then 1 else if op = 11 ∨ op = 12 then 4 else 2

/-- The FP32 results within k ulp of an exact value, of which `pick` names one: magnitudes count by their codes, so that one code is one ulp; a result
never changes the exact value's sign (R189, R615; log 11). -/
def withinUlp (x : Exact) (k pick : Nat) : F32 :=
  let r := if x.m = 0 then (0, 0, 0) else floorOrd fp32 x.m x.e
  let exact := r.2.1 == 0 && !x.more
  let lo : Int := (r.1 : Int) + (if exact then 0 else 1) - k
  let n := if exact then 2 * k + 1 else 2 * k
  BitVec.ofNat 32 (withSign fp32 x.neg (min (lo + (pick % n : Nat)).toNat 0x7F800000))

/-- A special function (R189, R615): the stated values at NaN, zeros, infinities and negative inputs; elsewhere one fixed mapping within its bound (log 11). -/
def special (op : Nat) (a : F32) : F32 :=
  let nan : F32 := 0x7FC00000
  let pick := fun (ninf nzero pzero pinf : F32) =>
    if a = 0xFF800000 then ninf else if a = 0x80000000 then nzero else if a = 0 then pzero else if a = 0x7F800000 then pinf
    else if 2 ^ 31 ≤ a.toNat ∧ (op = 3 ∨ op = 5 ∨ op = 6 ∨ op = 7) then nan
    else match ofF32 a with
      | .fin neg m e => withinUlp (specialExact op neg m e) (specialBound op) (Config.specialPick op a)
      | _ => nan
  if isNaN a then nan
  else if op = 0 then a
  else match op with
    | 1 => pick 0 0x3F800000 0x3F800000 0x7F800000
    | 2 => pick 0 0x3F800000 0x3F800000 0x7F800000
    | 3 => pick nan 0xFF800000 0xFF800000 0x7F800000
    | 4 => pick 0x80000000 0xFF800000 0x7F800000 0
    | 5 => pick nan 0x80000000 0 0x7F800000
    | 6 => pick nan 0xFF800000 0x7F800000 0
    | 7 => pick nan 0xFF800000 0x7F800000 0
    | 8 => pick 0xBF800000 0x80000000 0 0x3F800000
    | 9 => pick 0 0x3F000000 0x3F000000 0x3F800000
    | 10 => pick 0x80000000 0x80000000 0 0x7F800000
    | 11 => pick 0x80000000 0x80000000 0 0x7F800000
    | 12 => pick 0x80000000 0x3F000000 0x3F000000 0x3F800000
    | _ => pick 0x80000000 0x3F000000 0x3F000000 0x3F800000

/-- e^x as SF_OP 0x1 gives it. -/
def fexp (x : F32) : F32 := special 1 x

end Sys2Proof.Machine
end

