-- ==== Sys2Proof/Machine/Steward.lean ====
section
/-! DEFINITION. The scale steward: slots, writers, reports and commits, 02_number_formats.md R86 to R97, and the sentry's commands. -/

namespace Sys2Proof.Machine

/-- A steward slot's 128 bits (R86). -/
def slotBits (s : State) (k : Nat) : Nat := (tget 0 s.steward k).toNat

def setSlot (s : State) (k v : Nat) : State := { s with steward := tset 0 s.steward k (BitVec.ofNat 128 v) }

/-- ENABLED, WRITERS, CURRENT, COMMIT_PENDING and FORMAT of a slot. -/
def slotEnabled (v : Nat) : Bool := bit v 9
def slotWriters (v : Nat) : Nat := fld v 47 32
def slotCurrent (v : Nat) : Int := toInt 8 (fld v 63 56)
def slotPending (v : Nat) : Bool := bit v 12

/-- Slot k is enabled. -/
def stewardOn (s : State) (k : Nat) : Bool := slotEnabled (slotBits s k)

/-- E_max of a format code, zero where the format has none. -/
def emaxOf (code : Nat) : Int := if 3 ≤ code ∧ code ≤ 8 then (match fmtOf code with | some f => f.emax | none => 0) else 0

/-- The amplitude and the exponent that a commit of a slot installs (R92). -/
def commitValues (v : Nat) : F32 × Int :=
  let k := fld v 27 24
  let amp := BitVec.ofNat 32 (fld v 127 96)
  let d : F32 := if k = 0 then 0 else toF32 ((ofF32 amp).mul (.fin false (2 ^ k - 1) (-(k : Int))))
  let im : F32 := BitVec.ofNat 32 (fld v 95 64)
  let a := if fkey d ≤ fkey im then im else d
  let cur := slotCurrent v
  let ovf := bit v 10
  let b : Int := (fld v 23 21 : Int) + 1
  let g : Int := fld v 20 17
  let h : Int := fld v 31 28
  let t := match ofF32 a with
    | .fin _ m e =>
      if m = 0 then (if ovf then cur - b else cur)
      else
        let t := emaxOf (fld v 16 13) - ceilLog2 m e - h
        let t := if ovf then min t (cur - b) else t
        if t > cur then min t (cur + g) else t
    | _ => cur
  (a, clampInt t (-127) 127)

/-- A commit of a slot (R92). -/
def commitSlot (v : Nat) : Nat :=
  let (a, t) := commitValues v
  let v := setFld v 127 96 a.toNat
  let v := setFld v 63 56 (ofInt 8 t)
  let v := setFld v 55 48 (ofInt 8 t)
  let v := setFld v 95 64 0
  setFld v 12 10 0

/-- A slot disabled: a rejection that names it falls (R88). -/
def disableSlot (s : State) (k : Nat) : State :=
  let s := setSlot s k (setFld (slotBits s k) 9 9 0)
  { s with disables := s.disables.filter (· != k), slotRejected := if s.slotRejected = some k then none else s.slotRejected }

/-- A writer takes CURRENT and counts itself (R89). -/
def takeWriter (s : State) (k : Nat) : Int × State :=
  let v := slotBits s k
  (slotCurrent v, setSlot s k (setFld v 47 32 (slotWriters v + 1)))

/-- The step driver keeps the slots that a running step has written, for its stage 7 (09_training_step.md R317). -/
def noteWritten (s : State) (k : Nat) : State :=
  if s.driver.mode = 1 ∧ s.driver.written.contains k = false then { s with driver := { s.driver with written := s.driver.written ++ [k] } } else s

/-- A writer's report (R89, R90, R94, R96): maxima and flags, then a pending commit and a pending disable once no writer holds the slot. -/
def reportWriter (s : State) (w : Writer) : State :=
  let k := w.slot
  let v := slotBits s k
  let v := if fkey (BitVec.ofNat 32 (fld v 95 64)) < fkey w.maximum then setFld v 95 64 w.maximum.toNat else v
  let v := setFld v 10 10 (b2n (bit v 10 || w.ovf))
  let v := setFld v 11 11 (b2n (bit v 11 || w.nan))
  let v := setFld v 55 48 (ofInt 8 (commitValues v).2)
  let v := setFld v 47 32 (slotWriters v - 1)
  let v := if slotWriters v = 0 ∧ slotPending v = true then commitSlot v else v
  let s := noteWritten (setSlot s k v) k
  let s := if w.ovf then count s NUMERIC 0x080 32 else s
  let s := if w.nan then count s NUMERIC 0x088 32 else s
  if slotWriters v = 0 && s.disables.contains k then disableSlot s k else s

/-- What a tensor-scaled writer notes of one converted value (R89): the largest finite magnitude, overflows and NaNs. -/
def Writer.note (w : Writer) (x : F32) (c : Conv) : Writer :=
  { w with maximum := if isFinite x && decide (fmag w.maximum < fmag x) then fabs x else w.maximum,
           ovf := w.ovf || c.ovf, nan := w.nan || c.nan }

/-- A request of commits, NUMERIC.STEWARD_COMMIT (R93, R583): each named enabled slot commits at once, or once its writers are gone. -/
def requestCommits (s : State) (w : Nat) : State :=
  let first := fld w 11 0
  let n := fld w 24 12
  if n = 0 ∨ n > 4096 then s
  else s.steward.foldl (fun s e =>
    if first ≤ e.1 ∧ e.1 < first + n ∧ slotEnabled e.2.toNat = true then
      (if slotWriters e.2.toNat = 0 then setSlot s e.1 (commitSlot e.2.toNat) else setSlot s e.1 (setFld e.2.toNat 12 12 1))
    else s) s

/-- The guarded bits of the low half: CURRENT, NEXT, HEADROOM, DECAY, BACKOFF, GROWTH and FORMAT (R87). -/
def guardedMask : Nat := 0xFFFF0000FFFFE000

/-- A write of the low half of the slot that STEWARD_INDEX names (R87, R88). -/
def writeSlotLow (s : State) (w : Nat) : State :=
  let k := getReg s NUMERIC 0x020
  let v := slotBits s k
  let on := slotEnabled v
  let reject := fun (s : State) => setReg { s with slotRejected := some k } NUMERIC 0x040 k
  let accept := fun (s : State) => if !on && s.slotRejected == some k then { s with slotRejected := none } else s
  if on then
    let refused := Nat.land (Nat.xor v w) guardedMask != 0
    let s := if bit w 9 then { s with disables := s.disables.filter (· != k) }
      else if slotWriters v = 0 then disableSlot s k
      else { s with disables := (s.disables.filter (· != k)) ++ [k] }
    if refused then reject s else accept s
  else
    let v' := v - Nat.land v guardedMask + Nat.land w guardedMask
    let fmt := fld w 16 13
    if bit w 9 then
      (if 3 ≤ fmt ∧ fmt ≤ 8 then accept (setSlot s k (setFld v' 9 9 1)) else reject (setSlot s k v'))
    else accept (setSlot s k v')

/-- A write of the high half: AMP_EST and INTERVAL_MAX are read only to software (R87), so it is a write without rejection and changes no field. -/
def writeSlotHigh (s : State) : State :=
  let k := getReg s NUMERIC 0x020
  if !stewardOn s k && s.slotRejected == some k then { s with slotRejected := none } else s

/-- STEWARD_REPORT: a writer ends and reports (R90). It needs a writer that holds the slot. -/
def execStewardReport (slot : Fin 4096) (mag : F32) (ovf nan : Bool) (s : State) : Host.Outcome State Fault Refusal :=
  .next (if slotWriters (slotBits s slot.val) = 0 then s
    else reportWriter s { slot := slot.val, scale := slotCurrent (slotBits s slot.val), maximum := mag, ovf := ovf, nan := nan })

/-- STEWARD_COMMIT: a write of NUMERIC.STEWARD_COMMIT (R93). -/
def execStewardCommit (v : Word64) (s : State) : Host.Outcome State Fault Refusal := .next (powered s (fun s => requestCommits s v.toNat))

/-- STEWARD_SLOT_WRITE: a write of a slot half (R87, R88). -/
def execStewardSlotWrite (hi : Bool) (v : Word64) (s : State) : Host.Outcome State Fault Refusal :=
  .next (powered s (fun s => if hi then writeSlotHigh s else writeSlotLow s v.toNat))

end Sys2Proof.Machine
end

