-- ==== Sys2Proof/Machine/Vector.lean ====
section
/-! DEFINITION. The vector chain: recipes, checks at issue, loads, stages, reductions, top-k, quantise and store, 05_vector_chain.md R175 to R206 and R615 to R617. -/

namespace Sys2Proof.Machine

/-! ### Recipes and streams, R178 to R184 -/

/-- A stream of a recipe with its numeric word (R180). -/
structure Stream where
  en : Bool
  space : Nat
  rel : Bool
  lstr : Bool
  vstr : Bool
  addr : Nat
  pitch : Nat
  aux : Nat
  rsvd : Nat
  word : Nat
deriving DecidableEq, Repr

/-- Stream s of a recipe. -/
def streamAt (v s : Nat) : Stream :=
  let d := fld v (64 * s + 1471) (64 * s + 1408)
  { en := bit d 63, space := fld d 62 61, rel := bit d 60, lstr := bit d 59, vstr := bit d 58, addr := fld d 57 41, pitch := fld d 40 24,
    aux := fld d 23 7, rsvd := fld d 6 0, word := fld v (32 * s + 1119) (32 * s + 1088) }

/-- The controls that the chain uses (R179). -/
structure Recipe where
  bits : Nat
  rows : Nat
  vpr : Nat
  last : Nat
  order : Bool
  tkEn : Bool
  k : Nat
  gate : Nat
  gsrc : Nat
  rrBase : Nat
  master : Bool
  scatter : Bool
  sidx : Nat
deriving DecidableEq, Repr

def recipeOf (v : Nat) : Recipe :=
  { bits := v, rows := fld v 831 820, vpr := fld v 819 812, last := fld v 811 806, order := bit v 805, tkEn := bit v 703, k := fld v 702 700 + 1,
    gate := fld v 699 698, gsrc := fld v 697 693, rrBase := fld v 644 637, master := bit v 616, scatter := bit v 615, sidx := fld v 614 612 }

def Recipe.stream (p : Recipe) (s : Nat) : Stream := streamAt p.bits s
def Recipe.ms (p : Recipe) (s : Nat) : Nat := fld p.bits (5 * s + 779) (5 * s + 775)
def Recipe.osrc (p : Recipe) (o : Nat) : Nat := fld p.bits (5 * o + 621) (5 * o + 617)
def Recipe.imm (p : Recipe) (j : Nat) : F32 := BitVec.ofNat 32 (fld p.bits (32 * j + 863) (32 * j + 832))

/-- A reduction channel (R191): mode, source, LOSS, TENSOR, reserved bit. -/
structure Channel where
  mode : Nat
  src : Nat
  loss : Bool
  tensor : Bool
  rsvd : Bool
deriving DecidableEq, Repr

def Recipe.channel (p : Recipe) (c : Nat) : Channel :=
  let d := fld p.bits (12 * c + 656) (12 * c + 645)
  { mode := fld d 11 8, src := fld d 7 3, loss := bit d 2, tensor := bit d 1, rsvd := bit d 0 }

/-- Stage fields: operation, operands A, B, C; stages 0 FMA 1, 1 FMA 2, 2 special function, 3 compare and select. -/
def Recipe.stage (p : Recipe) (i : Nat) : Nat × Nat × Nat × Nat :=
  let v := p.bits
  match i with
  | 0 => (fld v 774 773, fld v 772 768, fld v 767 763, fld v 762 758)
  | 1 => (fld v 757 756, fld v 755 751, fld v 750 746, fld v 745 741)
  | 2 => (fld v 740 737, fld v 736 732, fld v 731 727, fld v 726 722)
  | _ => (fld v 721 719, fld v 718 714, fld v 713 709, fld v 708 704)

/-- Elements of a row. -/
def Recipe.rowLength (p : Recipe) : Nat := p.vpr * 64 + p.last + 1

/-- Row and vector of vector q of a pass (R176). -/
def Recipe.place (p : Recipe) (q : Nat) : Nat × Nat :=
  if p.order then (q % p.rows, q / p.rows) else (q / (p.vpr + 1), q % (p.vpr + 1))

/-- Unmasked lanes of vector v of a row (R177). -/
def Recipe.lanes (p : Recipe) (v : Nat) : Nat := if v = p.vpr then p.last + 1 else 64

/-- An input stream named by SIDX of a scattering recipe (R181). -/
def Recipe.isIndex (p : Recipe) (s : Nat) : Bool := p.scatter && p.sidx == s && decide (s < 6)

/-- O3 takes choice records (R199). -/
def Recipe.takesRecords (p : Recipe) : Bool := p.tkEn && (p.stream 9).en

/-- Start of row r of a stream, in 32-byte units (R181). -/
def Stream.unit (d : Stream) (base r : Nat) : Nat := d.addr + (if d.rel then base else 0) + r * d.pitch

/-- First element of vector v of a stream, and how many elements its lanes take. -/
def Stream.elements (d : Stream) (v lanes : Nat) : Nat × Nat := (if d.vstr then 64 * v else 0, if d.lstr then lanes else 1)

def Stream.num (d : Stream) : Numeric := numericOf d.word
def Stream.isX8 (d : Stream) : Bool := d.num.format == 1

/-- Width of an element in the stream's main plane. -/
def Stream.width (d : Stream) : Nat := if d.isX8 then 32 else fmtBits d.num.format

/-- Offset of the extension bytes of row r (R181). -/
def Stream.extOffset (d : Stream) (base r : Nat) : Nat := 32 * (d.aux + (if d.rel then base else 0)) + 8 * r * d.pitch

/-- Byte ranges of row r, vector v of an element stream in the tile store or the accumulator; `first` adds the tensor scale byte. -/
def Stream.ranges (d : Stream) (base r v lanes : Nat) (first : Bool) : List (Nat × Nat) :=
  let b := d.unit base r
  let (n0, k) := d.elements v lanes
  let w := d.width
  let lo := 32 * b + n0 * w / 8
  [(lo, 32 * b + ceilDiv ((n0 + k) * w) 8 - lo)] ++
  (if d.num.scaling = 1 then [(32 * (b + d.aux) + n0 / d.num.block, (n0 + k - 1) / d.num.block - n0 / d.num.block + 1)] else []) ++
  (if d.num.scaling = 2 ∧ first = true then [(32 * (d.addr + (if d.rel then base else 0) - 1), 1)] else []) ++
  (if d.isX8 then [(d.extOffset base r + n0, k)] else [])

/-- Bytes of a stream's space. -/
def spaceSize (space : Nat) : Nat := if space = 0 then 0x400000 else 0x80000

def spaceBase (n space : Nat) : Nat := if space = 0 then tileBase n else accBase n

/-! ### Accesses of one vector -/

/-- An access through a shared port: space (0 tile store, 1 accumulator), offset, length. -/
abbrev Access := Nat × Nat × Nat

/-- A vector is the first of its pass. -/
def firstVector (r v : Nat) : Bool := r == 0 && v == 0

/-- Bytes of a line: a tile-store line is 64, an accumulator line 128. -/
def lineBytes (space : Nat) : Nat := if space = 0 then 64 else 128

/-- Lines that an access touches: (space, line). -/
def accessLines (a : Access) : List (Nat × Nat) :=
  if a.2.2 = 0 then []
  else
    let w := lineBytes a.1
    (List.range ((a.2.1 + a.2.2 - 1) / w - a.2.1 / w + 1)).map (fun i => (a.1, a.2.1 / w + i))

/-- Banks that an access uses: (space, bank). -/
def accessBanks (a : Access) : List (Nat × Nat) := (accessLines a).map (fun l => (l.1, l.2 % 32))

/-- The reads of vector (r, v), per input stream (R181 to R183, R205). A tensor scale byte is read with the pass's first vector alone, so that a pass which
adds to a tensor in place decodes the old contents with the old byte throughout (02_number_formats.md R91; DEDUCED, log 84). -/
def Recipe.loads (p : Recipe) (base r v : Nat) : List Access :=
  (List.range 6).flatMap (fun s =>
    let d := p.stream s
    if !d.en then []
    else if p.isIndex s then (if v = 0 then [(d.space, 32 * d.unit base r, 4)] else [])
    else match d.space with
      | 2 => []
      | 3 => if r < 2 then [(1, 8192 * (d.unit base 0 + v * d.pitch) + 4096 * r, 4096)] else []
      | _ => (d.ranges base r v (p.lanes v) (firstVector r v)).map (fun x => (d.space, x.1, x.2)))

/-- Whether output o writes in the store cycle of vector (r, v), and which vectors of the row it writes then (R199, R200, R205). -/
def Recipe.stores (p : Recipe) (o v : Nat) : List Nat :=
  let d := p.stream (6 + o)
  if !d.en || (o = 3 && p.tkEn) || (o = 2 && p.scatter) then []
  else if d.num.scaling = 1 ∧ d.num.block = 128 then (if v % 2 = 1 then [v - 1, v] else [])
  else [v]

/-- The writes of the store cycle of vector (r, v), per output. -/
def Recipe.writes (p : Recipe) (base r v q : Nat) : List (List Access) :=
  (List.range 4).map (fun o =>
    let d := p.stream (6 + o)
    if o = 3 && p.takesRecords then (if v = p.vpr then [(d.space, 32 * d.unit base r, 64)] else [])
    else (p.stores o v).flatMap (fun x => (d.ranges base r x (p.lanes x) (q == 0)).map (fun y => (d.space, y.1, y.2))))

/-! ### Checks at issue, R206 -/

/-- The first stage at which an operand code may be named (R187): 0 scale, 1 FMA 1, 2 FMA 2, 3 special function, 4 compare, 5 top-k, 6 quantise; 9 nowhere. -/
def codeFrom (c : Nat) : Nat :=
  if c < 0x08 ∨ 0x18 ≤ c then 0 else if c < 0x0E then 1 else if c = 0x0E then 2 else if c = 0x0F then 3 else if c = 0x10 then 4
  else if c = 0x11 then 5 else if c = 0x12 then 6 else 9

/-- Operand fields with the stage at which each names its operand. -/
def Recipe.operands (p : Recipe) : List (Nat × Nat) :=
  (List.range 6).map (fun s => (p.ms s, 0)) ++
  (List.range 4).flatMap (fun i => let t := p.stage i; [(t.2.1, i + 1), (t.2.2.1, i + 1), (t.2.2.2, i + 1)]) ++
  [(p.gsrc, 5)] ++ (List.range 4).map (fun c => ((p.channel c).src, 5)) ++
  (List.range 4).flatMap (fun o => if o = 3 && p.takesRecords then [] else [(p.osrc o, 6)])

/-- The UNDEF_OP conditions of R206. -/
def Recipe.undefined (p : Recipe) : Bool :=
  let ch := fun c => p.channel c
  p.operands.any (fun o => decide (o.2 < codeFrom o.1)) ||
  p.operands.any (fun o => decide (2 ≤ o.1 ∧ o.1 < 0x0E) && (!(p.stream ((o.1 - 2) % 6)).en || p.isIndex ((o.1 - 2) % 6))) ||
  p.osrc 0 == 0x12 || (!p.master && (List.range 4).any (fun o => !(o == 3 && p.takesRecords) && p.osrc o == 0x12)) ||
  p.rows == 0 || decide (0xD < (p.stage 2).1) || decide (5 < (p.stage 3).1) ||
  (List.range 4).any (fun c =>
    decide (9 < (ch c).mode) ||
    (((ch c).mode == 7 || (ch c).mode == 9) &&
      (c == 0 || (ch (c - 1)).mode != (ch c).mode - 1 || (ch (c - 1)).tensor != (ch c).tensor ||
        ((ch c).mode == 9 && (ch (c - 1)).src != (ch c).src)))) ||
  (p.tkEn && (p.order || decide (127 < p.vpr))) ||
  (p.tkEn && p.gate == 0 && !((ch 0).mode == 6 && !(ch 0).tensor && (ch 0).src == p.gsrc)) ||
  (p.order && decide (256 < p.rows) && (List.range 4).any (fun c => (ch c).mode != 0)) ||
  (List.range 10).any (fun s =>
    let d := p.stream s
    d.en && ((decide (6 ≤ s) && decide (2 ≤ d.space)) ||
      (decide (6 ≤ s) && !(s == 9 && p.tkEn) && !d.lstr && (d.vstr || p.vpr != 0)) ||
      (decide (s < 6) && d.space == 3 && !p.isIndex s && !(p.order && decide (2 ≤ p.rows ∧ p.rows ≤ 32))))) ||
  (p.master && (p.isIndex 0 || !((p.stream 0).en && (p.stream 6).en && (p.stream 0).isX8 && (p.stream 6).isX8))) ||
  (p.scatter &&
    !((p.stream 8).en && (p.stream 8).space == 1 && (p.stream 8).num.format == 0 && (p.stream 8).num.scaling == 0 && (p.stream 8).lstr &&
      (p.stream 8).vstr && decide (p.sidx < 6) && (p.stream p.sidx).en && decide ((p.stream p.sidx).space < 2)))

/-- The RSVD_NZ conditions of R206, with the fields that R180 and R182 require to be zero. -/
def Recipe.reserved (p : Recipe) : Bool :=
  fld p.bits 611 0 != 0 || (List.range 4).any (fun c => (p.channel c).rsvd) ||
  (List.range 10).any (fun s =>
    let d := p.stream s
    d.rsvd != 0 ||
    (d.en && !p.isIndex s && !(s == 9 && p.tkEn) &&
      ((d.space == 2 && (d.addr / 1024 != 0 || d.pitch != 0 || d.lstr || d.vstr || d.aux != 0)) ||
       (d.space != 2 && d.aux != 0 && d.num.scaling != 1 && !d.isX8))))

/-- Every range of a stream whose highest rows and vectors decide the bound. -/
def Recipe.bounded (p : Recipe) (base s : Nat) : Bool :=
  let d := p.stream s
  let r := p.rows - 1
  if !d.en || d.space = 2 || d.space = 3 || (s = 8 && p.scatter) then true
  else
    let ok := fun (x : Nat × Nat) => decide (x.1 + x.2 ≤ spaceSize d.space)
    if p.isIndex s then ok (32 * d.unit base r, 4)
    else if s = 9 && p.tkEn then ok (32 * d.unit base r, 64)
    else (d.ranges base r p.vpr (p.lanes p.vpr) true).all ok && (p.vpr = 0 || (d.ranges base r (p.vpr - 1) 64 true).all ok)

/-- The start of the first range of a stream, in the order of its rows and vectors, that reaches beyond its space. -/
def Recipe.beyond (p : Recipe) (base s : Nat) : Nat :=
  let d := p.stream s
  let far := fun (x : Nat × Nat) => decide (spaceSize d.space < x.1 + x.2)
  ((List.range p.rows).findSome? (fun r =>
    (List.range (p.vpr + 1)).findSome? (fun v =>
      ((if p.isIndex s then [(32 * d.unit base r, 4)] else if s = 9 && p.tkEn then [(32 * d.unit base r, 64)]
        else d.ranges base r v (p.lanes v) true).find? far).map (·.1)))).getD 0

/-- Streams whose numeric words are checked at issue (R181, R199). -/
def Recipe.checked (p : Recipe) : List Nat := (List.range 10).filter (fun s => (p.stream s).en && !p.isIndex s && !(s == 9 && p.tkEn))

/-- The checks of R206 on the vector slot, in table order. A row-result stream whose legal numeric word is not FP32 breaks R182, for which R206's table
names no reason: it halts with 0x11 like a C-tile stream (DESIGN CHOICE, log 84). -/
def vecChecks (s : State) (c : Core) (n : Nat) (v : VecSlot) (base bits : Nat) : Option Stop :=
  let p := recipeOf (tget 0 c.recipeFile v.rcp.toNat).toNat
  let shape : Stop := ⟨0x10, kindDetail 3 (16 + v.rcp.toNat)⟩
  let st := fun i => p.stream i
  firstStop (
    [(p.undefined, ⟨0x01, bits⟩), (p.reserved, ⟨0x02, bits⟩), (decide (c.cycle < c.vecFree), ⟨0x03, kindDetail 2 v.rcp.toNat⟩)] ++
    (List.range 10).flatMap (fun i =>
      let d := st i
      if !d.en then []
      else
        [(!p.isIndex i && d.space == 3 && decide (63 < d.unit base 0 + p.vpr * d.pitch), ⟨0x10, kindDetail 1 ((d.unit base 0 + p.vpr * d.pitch) % 4096)⟩),
         (p.checked.contains i && decide (d.space < 2) && d.num.scaling == 1 && (p.rowLength % d.num.block != 0 || (d.num.block == 128 && p.order)), shape),
         (p.checked.contains i && decide (d.space < 2) && d.isX8 && d.pitch % 4 != 0, shape),
         (p.checked.contains i && decide (d.space < 2) && d.num.scaling == 2 && d.unit base 0 == 0, shape),
         (!p.bounded base i, ⟨0x10, (spaceBase n d.space + p.beyond base i) % 2 ^ 42⟩)]) ++
    p.checked.flatMap (fun i =>
      let d := st i
      [(numericFault d.word == 0x11 || (d.isX8 && i != 0 && i != 6) || (decide (2 ≤ d.space) && (d.num.format != 0 || d.num.scaling != 0)),
        ⟨0x11, d.word⟩)]) ++
    p.checked.map (fun i => numStop 0x12 (st i).word) ++
    p.checked.map (fun i =>
      let d := st i
      (decide (6 ≤ i) && d.num.scaling == 2 && (!stewardOn s d.num.slot || slotPending (slotBits s d.num.slot)), ⟨0x12, d.num.slot⟩)))

/-! ### Stages, R186 to R190, R615 -/

/-- max and min of R190. -/
def fmax (a b : F32) : F32 :=
  if isNaN a || isNaN b then 0x7FC00000
  else if fkey a = fkey b then (if a = 0x80000000 then b else a)
  else if fkey a < fkey b then b else a
def fmin (a b : F32) : F32 :=
  if isNaN a || isNaN b then 0x7FC00000
  else if fkey a = fkey b then (if a = 0x80000000 then a else b)
  else if fkey a < fkey b then a else b

/-- FMA_OP (R188). -/
def fmaStage (op : Nat) (a b c : F32) : F32 :=
  match op with
  | 0 => canonF32 a
  | 1 => ffma a b c
  | 2 => ffma a b (fneg c)
  | _ => ffma (fneg a) b c

/-- CS_OP (R190). -/
def selectStage (op : Nat) (a b c : F32) : F32 :=
  match op with
  | 0 => a
  | 1 => fmax a b
  | 2 => fmin a b
  | 3 => fmin (fmax a b) c
  | 4 => if !isNaN c && decide (0 < fkey c) then a else b
  | _ => if !isNaN c && decide (fkey c ≠ 0) then a else b

/-- What one lane holds after the compare stage: inputs, products and stage outputs. -/
structure LaneVals where
  i : List F32
  p : List F32 := []
  y1 : F32 := 0
  y2 : F32 := 0
  f : F32 := 0
  g : F32 := 0
deriving DecidableEq, Repr

/-- The value of an operand code in a lane (R187); an immediate NaN is the canonical one (R64). -/
def operand (rc : Recipe) (x : LaneVals) (c : Nat) : F32 :=
  if c = 0 then 0
  else if c = 1 then 0x3F800000
  else if c < 8 then x.i.getD (c - 2) 0
  else if c < 0x0E then x.p.getD (c - 8) 0
  else if c = 0x0E then x.y1
  else if c = 0x0F then x.y2
  else if c = 0x10 then x.f
  else if c = 0x11 then x.g
  else if 0x18 ≤ c then canonF32 (rc.imm (c - 0x18))
  else 0

/-- One lane through the stages. -/
def laneStages (rc : Recipe) (ins : List F32) : LaneVals :=
  let x : LaneVals := { i := ins }
  let x := { x with p := (List.range 6).map (fun s => fmul (ins.getD s 0) (operand rc x (rc.ms s))) }
  let st := fun (x : LaneVals) (k : Nat) => let t := rc.stage k; (operand rc x t.2.1, operand rc x t.2.2.1, operand rc x t.2.2.2)
  let a1 := st x 0
  let x := { x with y1 := fmaStage (rc.stage 0).1 a1.1 a1.2.1 a1.2.2 }
  let a2 := st x 1
  let x := { x with y2 := fmaStage (rc.stage 1).1 a2.1 a2.2.1 a2.2.2 }
  let a3 := st x 2
  let x := { x with f := ffma (special (rc.stage 2).1 a3.1) a3.2.1 a3.2.2 }
  let a4 := st x 3
  { x with g := selectStage (rc.stage 3).1 a4.1 a4.2.1 a4.2.2 }

/-! ### Reductions, R191 to R195, R616, R617 -/

/-- An exact value divided by a natural number, rounded once to FP32. -/
def divNat (x : Flt) (d : Nat) : F32 :=
  match x with
  | .fin n m e =>
    let q := m * 2 ^ 64
    toF32 (.fin n (2 * (q / d) + b2n (q % d != 0)) (e - 65))
  | y => toF32 y

/-- An exact sum, +0 when there is nothing to add. -/
def exactSum : List Flt → Flt
  | [] => .fin false 0 0
  | [x] => x
  | x :: xs => x.add (exactSum xs)

def natFlt (n : Nat) : Flt := .fin false n 0

/-- One vector enters a channel's row state; xs are the lanes' sources and as the partner channel's (R192, R616, R617). -/
def reduceVector (mode : Nat) (st : RowState) (xs as : List F32) : RowState :=
  let st := { st with nan := st.nan || xs.any isNaN, posInf := st.posInf || xs.contains 0x7F800000, negInf := st.negInf || xs.contains 0xFF800000 }
  let n := xs.length
  let lse := fun (st : RowState) (vals ys : List F32) =>
    let m' := vals.foldl fmax st.m
    if m' = 0xFF800000 then { st with m := m', count := st.count + n }
    else
      let e0 := fexp (fsub st.m m')
      let es := vals.map (fun x => fexp (fsub x m'))
      { st with m := m', count := st.count + n,
                acc := toF32 (((ofF32 st.acc).mul (ofF32 e0)).add (exactSum (es.map ofF32))),
                dot := if ys.isEmpty then st.dot
                  else toF32 (((ofF32 st.dot).mul (ofF32 e0)).add (exactSum ((ys.zip es).map (fun ye => (ofF32 ye.1).mul (ofF32 ye.2))))) }
  let moments := fun (st : RowState) =>
    let sum := exactSum (xs.map ofF32)
    let meanV := divNat sum n
    let m2V := toF32 (exactSum (xs.map (fun x => let d := (ofF32 x).add (ofF32 meanV).neg; d.mul d)))
    if st.count = 0 then { st with count := n, acc := meanV, dot := m2V }
    else
      let t := st.count + n
      let d := (ofF32 meanV).add (ofF32 st.acc).neg
      { st with count := t,
                acc := divNat (((ofF32 st.acc).mul (natFlt t)).add (d.mul (natFlt n))) t,
                dot := divNat ((((ofF32 st.dot).add (ofF32 m2V)).mul (natFlt t)).add ((d.mul d).mul (natFlt (st.count * n)))) t }
  match mode with
  | 1 => { st with count := st.count + n, acc := toF32 ((ofF32 st.acc).add (exactSum (xs.map ofF32))) }
  | 2 => { st with count := st.count + n, acc := toF32 ((ofF32 st.acc).add (exactSum (xs.map (fun x => (ofF32 x).mul (ofF32 x))))) }
  | 3 => { st with count := st.count + n, acc := if st.count = 0 then (xs.drop 1).foldl fmax (xs.headD 0) else xs.foldl fmax st.acc }
  | 4 => { st with count := st.count + n, acc := if st.count = 0 then (xs.drop 1).foldl fmin (xs.headD 0) else xs.foldl fmin st.acc }
  | 5 => { st with count := st.count + n, acc := (xs.map fabs).foldl fmax st.acc }
  | 6 => lse st xs []
  | 7 => lse st as xs
  | 8 => moments st
  | 9 => moments st
  | _ => st

/-- A channel's result for a row. -/
def rowResult (mode : Nat) (st : RowState) : F32 :=
  let nan : F32 := 0x7FC00000
  match mode with
  | 6 => if st.nan then nan else if st.m = 0xFF800000 then 0xFF800000 else fadd st.m (special 3 st.acc)
  | 7 => if st.m = 0xFF800000 then 0 else fdiv st.dot st.acc
  | 8 => if st.nan || (st.posInf && st.negInf) then nan else if st.posInf then 0x7F800000 else if st.negInf then 0xFF800000 else st.acc
  | 9 => if st.nan || st.posInf || st.negInf then nan else divNat (ofF32 st.dot) st.count
  | _ => if st.nan then nan else if isNaN st.acc then nan else st.acc

/-- The starting state of a row in a channel. -/
def rowStart (row channel : Nat) : RowState := { row := row, channel := channel, acc := 0 }

/-- A result enters the loss accumulator (R195). -/
def addLoss (c : Core) (x : F32) : Core :=
  if isFinite x then
    let y := fsub x c.lossComp
    let t := fadd c.lossSum y
    { c with lossComp := fsub (fsub t c.lossSum) y, lossSum := t, lossRows := BitVec.ofNat 32 (min (c.lossRows.toNat + 1) (2 ^ 32 - 1)) }
  else { c with lossNonfinite := BitVec.ofNat 32 (min (c.lossNonfinite.toNat + 1) (2 ^ 32 - 1)) }

/-! ### Top-k, R197 to R199 -/

/-- A lane's key enters the row's choices: greater keys first, equal keys by lower expert. -/
def insertChoice (k : Nat) (l : List (Nat × F32 × F32)) (x : Nat × F32 × F32) : List (Nat × F32 × F32) :=
  if isNaN x.2.1 || x.2.1 = 0xFF800000 then l
  else ((l.takeWhile (fun y => decide (fkey x.2.1 ≤ fkey y.2.1))) ++ [x] ++ (l.dropWhile (fun y => decide (fkey x.2.1 ≤ fkey y.2.1)))).take k

/-- The gates of a row's choices (R198). -/
def gates (mode : Nat) (lse : F32) (gs : List F32) : List F32 :=
  let share := fun (nums : List F32) => nums.map (fun x => fdiv x ((nums.drop 1).foldl fadd (nums.headD 0)))
  match mode with
  | 0 => gs.map (fun g => fexp (fsub g lse))
  | 1 => share (gs.map (fun g => fexp (fsub g (gs.headD 0))))
  | 2 => gs
  | _ => share (gs.map (special 9))

/-- The 64 bytes of a choice record (R199). -/
def choiceRecord (es : List Nat) (gs : List F32) : List Byte :=
  (List.range 8).flatMap (fun j =>
    match es[j]?, gs[j]? with
    | some e, some g => bytesOf (at_ (e % 65536) 32 + g.toNat) 8
    | _, _ => bytesOf (at_ 0xFFFF 32) 8)

/-! ### Issue and loads, R175 to R183 -/

/-- A pass starts (R175, R176, R201): each tensor-scaled output takes its slot's exponent. -/
def issuePass (s : State) (n pc : Nat) (v : VecSlot) (base : Nat) (audited : Bool) : State :=
  let c := getCore s n
  let p := recipeOf (tget 0 c.recipeFile v.rcp.toNat).toNat
  let (ws, s) := (List.range 4).foldl (fun (acc : List (Nat × Writer) × State) o =>
    let d := p.stream (6 + o)
    if d.en && d.num.scaling == 2 && !(o == 3 && p.tkEn) then
      let (sc, s) := takeWriter acc.2 d.num.slot
      (acc.1 ++ [(o, { slot := d.num.slot, scale := sc })], s)
    else acc) ([], s)
  let vectors := p.rows * (p.vpr + 1)
  modCore s n (fun c => { c with
    nextId := c.nextId + 1, vecFree := c.cycle + vectors,
    passes := c.passes ++ [{ id := c.nextId, pc := pc, recipe := p.bits, base := base, issued := c.cycle,
                             vectors := vectors, audited := audited, writers := ws }] })

/-- The 40-bit FP32X8 code (sign, 8, 31) of an FP32 pattern. -/
def toX8 (x : F32) : Nat := x.toNat * 256

/-- A pass of a core changed. -/
def updPass (c : Core) (id : Nat) (f : Pass → Pass) : Core := { c with passes := mapIf (fun y => y.id == id) f c.passes }

/-- The row-result entry and channel that row r of a stream reads, S_b added to ADDR under REL (R180, R182). -/
def Stream.resultAt (d : Stream) (base r : Nat) : Nat × Nat :=
  let a := d.addr + (if d.rel then base else 0)
  ((fld a 7 0 + r) % 256, fld a 9 8)

/-- The tensor scale bytes of a pass's inputs, by stream (R181). -/
def tensorScales (s : State) (n : Nat) (p : Recipe) (base : Nat) : List (Nat × Nat) :=
  ((List.range 6).filter (fun i => (p.stream i).en && !p.isIndex i && decide ((p.stream i).space < 2) && (p.stream i).num.scaling == 2)).map
    (fun i => (i, ofBytes (peekBytes s (spaceBase n (p.stream i).space + 32 * ((p.stream i).unit base 0 - 1)) 1)))

/-- One input's lanes of vector (r, v), as FP32 patterns, with the full codes of an FP32X8 input (R81, R102, R181, R182); `scales` holds the tensor scale
bytes of the pass. -/
def loadStream (s : State) (n : Nat) (c : Core) (p : Recipe) (scales : List (Nat × Nat)) (base i r v : Nat) : List F32 × List Nat :=
  let d := p.stream i
  let lanes := p.lanes v
  if !d.en || p.isIndex i then (List.replicate lanes 0, [])
  else match d.space with
    | 2 => (List.replicate lanes (let x := d.resultAt base r; tget 0 c.rowResults (4 * x.1 + x.2)), [])
    | 3 => (List.replicate lanes 0, [])
    | _ =>
      let b := spaceBase n d.space
      let u := d.unit base r
      let (n0, k) := d.elements v lanes
      let w := d.width
      let body := peekBytes s (b + 32 * u + n0 * w / 8) (ceilDiv ((n0 + k) * w) 8 - n0 * w / 8)
      let code := fun j => fld (ofBytes ((body.drop (j * w / 8)).take 5)) (j * w % 8 + w - 1) (j * w % 8)
      if d.isX8 then
        let ext := peekBytes s (b + d.extOffset base r + n0) k
        let full := (List.range k).map (fun j => joinX8 (code j) (ext.getD j 0).toNat)
        let f := full.map (fun x => toF32 (decodeFmt fp32x8 x))
        (if d.lstr then f else List.replicate lanes (f.headD 0), if d.lstr then full else List.replicate lanes (full.headD 0))
      else
        let scale := fun j =>
          if d.num.scaling = 1 then ofBytes (peekBytes s (b + 32 * (u + d.aux) + (n0 + j) / d.num.block) 1)
          else if d.num.scaling = 2 then ((scales.find? (fun x => x.1 == i)).map (·.2)).getD 127 else 127
        let vals := (List.range k).map (fun j => match fmtOf d.num.format with
          | some f => decodeScaled f (code j) (scale j)
          | none => 0)
        (if d.lstr then vals else List.replicate lanes (vals.headD 0), [])

/-- Vector q of a pass is loaded in the current core cycle: the halt that a poisoned granule causes, and the state (R181, R183, R541). -/
def loadVector (s : State) (n id : Nat) : List HaltInfo × State :=
  let c := getCore s n
  match c.passes.find? (fun x => x.id == id) with
  | none => ([], s)
  | some x =>
    let p := recipeOf x.recipe
    let (r, v) := p.place (c.cycle - x.issued)
    let scales := if firstVector r v then tensorScales s n p x.base else x.scales
    let acc := p.loads x.base r v
    let gs := (acc.flatMap (fun a => (pieces (spaceBase n a.1 + a.2.1) a.2.2).map (·.1))).eraseDups
    let ins := (List.range 6).map (fun i => loadStream s n c p scales x.base i r v)
    let idx := if p.scatter ∧ v = 0 then
        (let d := p.stream p.sidx; [(r, ofBytes (peekBytes s (spaceBase n d.space + 32 * d.unit x.base r) 4))]) else []
    -- C-tile columns: a half of the tile is read in the load cycles of rows 0 and 1; REL adds S_b to the tile number (DEDUCED from R180, log 84)
    let tiles := (List.range 6).foldl (fun (ts : List (Nat × List F32)) i =>
      let d := p.stream i
      if d.en && d.space == 3 && !p.isIndex i && decide (r < 2) then
        let half := words4 (peekBytes s (accBase n + 8192 * (d.unit x.base 0 + v * d.pitch) + 4096 * r) 4096)
        if r = 0 then ts.filter (fun t => t.1 != i) ++ [(i, half)]
        else ts.map (fun t => if t.1 == i then (i, t.2 ++ half) else t)
      else ts) x.tiles
    let column := fun (i row lo k : Nat) =>
      match tiles.find? (fun t => t.1 == i) with
      | some t => (List.range k).map (fun l => canonF32 (t.2.getD (32 * (lo + l) + row) 0))
      | none => List.replicate k 0
    let isTile := fun (i : Nat) => (p.stream i).en && (p.stream i).space == 3 && !p.isIndex i
    let inputs := ((ins.map (·.1)).zipIdx).map (fun y => if isTile y.2 then column y.2 r 0 (p.lanes v) else y.1)
    let mine : LoadedVector := ⟨r, v, inputs, (ins.getD 0 ([], [])).2⟩
    let before := x.loaded.map (fun y =>
      if r = 1 ∧ y.r = 0 then { y with inputs := (y.inputs.zipIdx).map (fun z => if isTile z.2 then column z.2 0 0 (p.lanes v) else z.1) } else y)
    let (bad, s) := consume s n gs
    let s := modCore s n (fun c => updPass c id (fun y => { y with tiles := tiles, scales := scales, indices := y.indices ++ idx, loaded := before }))
    (badHalts bad x.pc 2,
     modCore s n (fun c => { c with nextLoaded := c.nextLoaded ++ [(id, mine)] }))

/-- The vector loaded in the previous core cycle passes through the stages; its results are scheduled (R186, R193, R199). -/
def computeVector (c : Core) (x : Pass) (l : LoadedVector) : Core :=
  let p := recipeOf x.recipe
  let u := c.cycle - 1
  let q := u - x.issued
  let k := p.lanes l.v
  let lanes := (List.range k).map (fun j => laneStages p (l.inputs.map (fun i => i.getD j 0)))
  let rowEnd := l.v == p.vpr
  let passEnd := q + 1 == x.vectors
  -- reductions
  let red := (List.range 4).foldl (fun (acc : List RowState × List (Nat × CoreEvent)) ch =>
    let d := p.channel ch
    if d.mode = 0 then acc
    else
      let key := if d.tensor then 0 else l.r
      let st := (acc.1.find? (fun z => z.channel == ch && z.row == key)).getD (rowStart key ch)
      let st := reduceVector d.mode st (lanes.map (fun z => operand p z d.src)) (lanes.map (fun z => operand p z (p.channel (ch - 1)).src))
      let rest := acc.1.filter (fun z => !(z.channel == ch && z.row == key))
      let fin := if d.tensor then passEnd else rowEnd
      if fin then
        (rest ++ [st], acc.2 ++ [(u + 28, .rowResult ((p.rrBase + (if d.tensor then 0 else l.r)) % 256) ch (rowResult d.mode st) d.loss)])
      else (rest ++ [st], acc.2)) (x.rows, [])
  let lse := match red.1.find? (fun z => z.channel == 0 && z.row == l.r) with
    | some st => rowResult 6 st
    | none => 0
  -- top-k
  let keep := if p.tkEn then (lanes.zipIdx).foldl (fun t z => insertChoice p.k t (64 * l.v + z.2, z.1.g, operand p z.1 p.gsrc)) (if l.v = 0 then [] else x.topk) else []
  let rcd := if p.takesRecords && rowEnd then some (choiceRecord (keep.map (·.1)) (gates p.gate lse (keep.map (·.2.2)))) else none
  -- operands of the outputs, as FP32X8 codes; the master's update stands in the place of output 0
  let outs := (List.range 4).map (fun o => if (p.stream (6 + o)).en then lanes.map (fun z => toX8 (operand p z (p.osrc o))) else [])
  let done := fun (st : RowState) => !(p.channel st.channel).tensor && st.row == l.r && rowEnd
  addEvents (updPass c x.id (fun y => { y with rows := red.1.filter (fun st => !done st), topk := keep, loaded := none }))
    (red.2 ++ [(u + 31, .store x.id l.r l.v outs l.i0 rcd passEnd)])

/-! ### Quantise, pack and store, R200 to R205 -/

/-- Bytes written by a core: whole or partial granules with newly made codes. -/
def coreStore (s : State) (a : Nat) (bs : List Byte) : State :=
  ((pieces a bs.length).foldl (fun (acc : State × List Byte) p =>
    (storeBytes acc.1 p.1 p.2.1 (acc.2.take p.2.2) false, acc.2.drop p.2.2)) (s, bs)).1

/-- k codes of w bits written from bit 0 of a byte address; the bits of a last byte beyond them keep their contents. -/
def storeBits (s : State) (a w : Nat) (codes : List Nat) : State :=
  let bs := pack w codes
  let bits := codes.length * w
  if bits % 8 = 0 then coreStore s a bs
  else
    let old := ofBytes (peekBytes s (a + bits / 8) 1)
    let top := (bs.getLast?.getD 0).toNat + old / 2 ^ (bits % 8) * 2 ^ (bits % 8)
    coreStore s a (bs.dropLast ++ [BitVec.ofNat 8 top])

/-- One lane's conversion: the code, and the generator's new state where it steps (R77). -/
def convertLane (nw : Numeric) (isW : Bool) (gen : Nat) (code : Nat) (scaleExp : Int) : Conv × Nat :=
  match fmtOf nw.format with
  | none => ({ code := 0 }, gen)
  | some f =>
    let x := decodeFmt fp32x8 code
    let finite := match x with | .fin _ _ _ => true | _ => false
    let exact := nw.format == 1 || (nw.format == 0 && !isW)
    if nw.sr && finite && !exact then
      let g := lfsrStep gen
      (convert f nw.ovf (some (g % 65536)) (x.scale scaleExp), g)
    else (convert f nw.ovf none (x.scale scaleExp), gen)

/-- A list of lanes' codes converted in lane order under one scale; generators are lane by lane. -/
def convertLanes (nw : Numeric) (isW : Bool) (gens : List Nat) (codes : List Nat) (scaleExp : Int) : List Conv × List Nat :=
  let r := (codes.zip gens).map (fun x => convertLane nw isW x.2 x.1 scaleExp)
  (r.map (·.1), r.map (·.2))

/-- The scale code of a block, and the exponent by which its values are divided; none for a block that holds a NaN or an infinity (R82 to R84). R82 takes
the magnitudes in FP32: a value of the master W that is finite and rounds to infinity there makes its block non-finite (DESIGN CHOICE, log 84). -/
def blockScale (nw : Numeric) (codes : List Nat) : Option (Nat × Int) :=
  let vals := codes.map (fun c => fabs (toF32 (decodeFmt fp32x8 c)))
  if vals.any (fun v => !isFinite v) then none
  else
    let top := vals.foldl (fun a b => if fmag a < fmag b then b else a) 0
    match fmtOf nw.format, ofF32 top with
    | some f, .fin _ m e =>
      if m = 0 then some (127, 0)
      else
        let x := blockExponent f nw.noclip m e
        some ((x + 127).toNat, x)
    | _, _ => some (127, 0)

/-- A block-scaled run of lanes: codes, scale bytes, generators, blocks that were not finite. In a block that is not finite every code is written as zero
(R84) and no value is rounded: none of its lanes' generators steps (DESIGN CHOICE beside R77, log 84). -/
def quantBlocks (nw : Numeric) (isW : Bool) : Nat → List Nat → List Nat → List Nat × List Nat × List Nat × Nat
  | 0, _, _ => ([], [], [], 0)
  | fuel + 1, codes, gens =>
    if codes.isEmpty then ([], [], [], 0)
    else
      let cs := codes.take nw.block
      let gs := gens.take nw.block
      let (rest, scales, gens', nans) := quantBlocks nw isW fuel (codes.drop nw.block) (gens.drop nw.block)
      match blockScale nw cs with
      | none => (cs.map (fun _ => 0) ++ rest, 0xFF :: scales, gs ++ gens', nans + 1)
      | some (sc, e) =>
        let r := convertLanes nw isW gs cs (-e)
        (r.1.map (·.code) ++ rest, sc :: scales, r.2 ++ gens', nans)

/-- The generators of a core's first k lanes, and their new states put back. -/
def laneGens (c : Core) (k : Nat) : List Nat := (List.range k).map (fun i => (tget 0 c.generators i).toNat)
def putGens (c : Core) (gs : List Nat) : Core :=
  { c with generators := (gs.zipIdx).foldl (fun t g => tset 0 t g.2 (BitVec.ofNat 32 g.1)) c.generators }

/-- The master's update (R101, R203): W as FP32X8 codes, and the generators. -/
def masterUpdate (nw : Numeric) (gens i0 us : List Nat) : List Nat × List Nat :=
  let r := ((i0.zip us).zip gens).map (fun x =>
    let w := (decodeFmt fp32x8 x.1.1).add (decodeFmt fp32x8 x.1.2)
    let finite := match w with | .fin _ _ _ => true | _ => false
    if nw.sr && finite then
      let g := lfsrStep x.2
      ((convert fp32x8 nw.ovf (some (g % 65536)) w).code, g)
    else ((convert fp32x8 nw.ovf none w).code, x.2))
  (r.map (·.1), r.map (·.2))

/-- An FP32X8 code split into its planes: extension zero for zeros, infinities and NaNs (R100). -/
def splitX8 (code : Nat) : Nat × Nat :=
  match decodeFmt fp32x8 code with
  | .fin _ m _ => (code / 256, if m = 0 then 0 else code % 256)
  | .inf _ => (code / 256, 0)
  | .nan => (0x7FC00000, 0)

/-- Output o of one vector converted and written (R200 to R204). `vals` are FP32X8 codes; two vectors together for B = 128. -/
def storeOutput (s : State) (n id o r v : Nat) (vals : List Nat) (isW first : Bool) : State :=
  let c := getCore s n
  match c.passes.find? (fun x => x.id == id) with
  | none => s
  | some x =>
    let p := recipeOf x.recipe
    let d := p.stream (6 + o)
    let nw := d.num
    let base := spaceBase n d.space
    let u := d.unit x.base r
    let vals := if d.lstr then vals else vals.take 1
    let n0 := if d.vstr then 64 * v else 0
    let a := base + 32 * u + n0 * d.width / 8
    if nw.format = 1 then
      let pl := vals.map (fun x => splitX8 (convert fp32x8 nw.ovf none (decodeFmt fp32x8 x)).code)
      let s := coreStore s a (pl.flatMap (fun y => bytesOf y.1 4))
      coreStore s (base + d.extOffset x.base r + n0) (pl.map (fun y => BitVec.ofNat 8 y.2))
    else if nw.scaling = 1 then
      let double := nw.block == 128
      let gens := laneGens c vals.length
      if double then
        -- one lane rounds its value of vector 2j before its value of vector 2j + 1
        let half := 64
        -- each vector's elements lie at their own element place
        let b := base + 32 * u + (if d.vstr then 64 * (v + 1) else 0) * d.width / 8
        let put := fun (s : State) (lo hi : List Nat) (sc : Nat) =>
          coreStore (storeBits (storeBits s a d.width lo) b d.width hi) (base + 32 * (u + d.aux) + n0 / 128) [BitVec.ofNat 8 sc]
        match blockScale nw vals with
        | none => count (put s ((vals.take half).map (fun _ => 0)) ((vals.drop half).map (fun _ => 0)) 0xFF) NUMERIC 0x090 32
        | some (sc, e) =>
          let r1 := convertLanes nw isW (laneGens c half) (vals.take half) (-e)
          let r2 := convertLanes nw isW r1.2 (vals.drop half) (-e)
          let s := modCore s n (fun c => putGens c (r2.2 ++ r1.2.drop r2.2.length))
          put s (r1.1.map (·.code)) (r2.1.map (·.code)) sc
      else
        let (codes, scales, gens', nans) := quantBlocks nw isW (vals.length + 1) vals gens
        let s := modCore s n (fun c => putGens c gens')
        let s := storeBits s a d.width codes
        countN (coreStore s (base + 32 * (u + d.aux) + n0 / nw.block) (scales.map (BitVec.ofNat 8))) NUMERIC 0x090 32 nans
    else
      let w := (x.writers.find? (fun w => w.1 == o)).map (·.2)
      let e : Int := (w.map (·.scale)).getD 0
      let (cv, gens') := convertLanes nw isW (laneGens c vals.length) vals e
      let w' := w.map (fun w => (vals.zip cv).foldl (fun w y => w.note (toF32 (decodeFmt fp32x8 y.1)) { y.2 with nan := isNaN (toF32 (decodeFmt fp32x8 y.1)) }) w)
      let s := modCore s n (fun c => updPass (putGens c gens') id (fun y =>
        { y with writers := match w' with | some w => y.writers.map (fun q => if q.1 == o then (o, w) else q) | none => y.writers }))
      let s := storeBits s a d.width (cv.map (·.code))
      if nw.scaling = 2 ∧ first = true then coreStore s (base + 32 * (d.unit x.base 0 - 1)) [BitVec.ofNat 8 (127 - e).toNat] else s

/-- The targets of a vector's scatter-add: byte offsets in the accumulator (R205). -/
def scatterTargets (p : Recipe) (x : Pass) (r v : Nat) : List Nat :=
  let d := p.stream 8
  let i := ((x.indices.find? (fun y => y.1 == r)).map (·.2)).getD 0
  (List.range (p.lanes v)).map (fun l => 32 * (d.addr + (if d.rel then x.base else 0) + i * d.pitch) + 4 * (64 * v + l))

/-- Lanes merged by line, in ascending order of each line's lowest lane (R170). -/
def mergeLanes (ts : List (Nat × F32)) : List ScatterWrite :=
  ((ts.map (fun t => t.1 / 128)).eraseDups).map (fun line => ⟨line, (ts.filter (fun t => t.1 / 128 == line)).map (fun t => (t.1 % 128 / 4, t.2))⟩)

/-- The first target of a scatter-add beyond the accumulator, and the pass's bundle (R205). -/
def scatterBeyond (c : Core) (id r v : Nat) : Option (Nat × Nat) :=
  match c.passes.find? (fun x => x.id == id) with
  | none => none
  | some x =>
    let p := recipeOf x.recipe
    if p.scatter then ((scatterTargets p x r v).find? (fun t => decide (0x80000 < t + 4))).map (fun t => (t, x.pc)) else none

/-- O2's lanes of a scatter-add, converted under NUM2 (R200, R202, R205): FP32 patterns, and the generators. -/
def scatterLanes (nw : Numeric) (isW : Bool) (gens vals : List Nat) : List F32 × List Nat :=
  let r := convertLanes nw isW gens vals 0
  (r.1.map (fun x => BitVec.ofNat 32 x.code), r.2)

/-- The store cycle of one vector: its outputs in the order O0 to O3 (R202); the merged scattered writes that it brings are the answer. -/
def storeVector (s : State) (n id r v : Nat) (lanes : List (List Nat)) (i0 : List Nat) (rcd : Option (List Byte)) (last : Bool) : List ScatterWrite × State :=
  match (getCore s n).passes.find? (fun x => x.id == id) with
  | none => ([], s)
  | some x =>
    let p := recipeOf x.recipe
    let first := r == 0 && v == 0
    let out := fun o => lanes.getD o []
    -- the master first: its rounding is output 0's
    let (ws, s) := if p.master then
        (let m := masterUpdate (p.stream 6).num (laneGens (getCore s n) (out 0).length) i0 (out 0)
         (m.1, modCore s n (fun c => putGens c m.2)))
      else ([], s)
    let (sc, s) := (List.range 4).foldl (fun (acc : List ScatterWrite × State) o =>
      let s := acc.2
      let d := p.stream (6 + o)
      let isW := p.osrc o == 0x12
      let vals := if (o = 0 && p.master) || isW then ws else out o
      if !d.en || (o = 3 && p.tkEn) then acc
      else if o = 2 && p.scatter then
        let r2 := scatterLanes d.num isW (laneGens (getCore s n) vals.length) vals
        (mergeLanes ((scatterTargets p x r v).zip r2.1), modCore s n (fun c => putGens c r2.2))
      else if d.num.scaling = 1 ∧ d.num.block = 128 then
        (acc.1,
         if v % 2 = 0 then
           modCore s n (fun c => updPass c id (fun y => { y with held := y.held ++ [⟨r, o, vals⟩] }))
         else
           let y := ((getCore s n).passes.find? (fun y => y.id == id)).getD x
           let h := ((y.held.find? (fun h => h.row == r && h.output == o)).map (·.values)).getD []
           let s := modCore s n (fun c => updPass c id (fun y => { y with held := y.held.filter (fun h => !(h.row == r && h.output == o)) }))
           storeOutput s n id o r (v - 1) (h ++ vals) isW first)
      else (acc.1, storeOutput s n id o r v vals isW first)) ([], s)
    let s := match rcd with
      | some bs => coreStore s (spaceBase n (p.stream 9).space + 32 * (p.stream 9).unit x.base r) bs
      | none => s
    if last then
      let ws := (((getCore s n).passes.find? (fun y => y.id == id)).map (·.writers)).getD []
      let s := ws.foldl (fun s w => reportWriter s w.2) s
      (sc, modCore s n (fun c => { c with passes := c.passes.filter (fun y => y.id != id) }))
    else (sc, s)

/-- Writers of every pass in flight report, at a halt or a core reset (R201, R577). -/
def reportPasses (s : State) (n : Nat) : State :=
  let s := (getCore s n).passes.foldl (fun s x => x.writers.foldl (fun s w => reportWriter s w.2) s) s
  modCore s n (fun c => { c with passes := [] })

end Sys2Proof.Machine
end

