-- ==== Sys2Proof/Machine/Movers.lean ====
section
/-! DEFINITION. The data movers: move descriptors, checks at issue, line requests and completions, 06_core_programs.md R221 to R226. -/

namespace Sys2Proof.Machine

/-- The fields of a move descriptor (R222). -/
structure MoveDesc where
  extPitch : Nat
  corePitch : Nat
  rows : Nat
  rowLines : Nat
  due : Nat
  pace : Nat
  kind : Nat
  outbound : Bool
  space : Nat
  release : Bool
  rsvd : Nat
deriving DecidableEq, Repr

def moveDesc (v : Nat) : MoveDesc :=
  { extPitch := fld v 255 224, corePitch := fld v 223 208, rows := fld v 207 192, rowLines := fld v 191 180, due := fld v 179 168, pace := fld v 167 164,
    kind := fld v 163 162, outbound := bit v 161, space := fld v 160 160, release := bit v 159, rsvd := fld v 158 0 }

def MoveDesc.lines (d : MoveDesc) : Nat := d.rows * d.rowLines

/-- Core-side offset of line i, counted from the move's own offset (R223). -/
def MoveDesc.coreAt (d : MoveDesc) (i : Nat) : Nat := 64 * (i / d.rowLines * d.corePitch + i % d.rowLines)

/-- External offset of line i of a MOVE (R223). -/
def MoveDesc.extAt (d : MoveDesc) (i : Nat) : Nat := 32 * (i / d.rowLines) * d.extPitch + 64 * (i % d.rowLines)

def getMover (c : Core) (m : Nat) : Mover := if m = 0 then c.mover0 else c.mover1
def setMover (c : Core) (m : Nat) (x : Mover) : Core := if m = 0 then { c with mover0 := x } else { c with mover1 := x }
def modMover (s : State) (n m : Nat) (f : Mover → Mover) : State := modCore s n (fun c => setMover c m (f (getMover c m)))

/-- The checks of a data mover slot, in the order operation, reserved bits, occupancy, ranges (R209, R223, R226). -/
def moveChecks (c : Core) (n m : Nat) (csf1 : Bool) (d : DmSlot) (crg bits : Nat) : Option Stop :=
  let v := moveDesc (tget 0 c.moveFile d.e.toNat).toNat
  let gather := d.dop == 2
  let far := crg + v.coreAt (v.lines - 1) + 64
  firstStop
    [(v.rows == 0 || v.rowLines == 0 || decide (v.due < 16) || v.kind == 3 || (gather && (v.outbound || v.kind != 0)) || (gather && csf1), ⟨0x01, bits⟩),
     (v.rsvd != 0 || (!gather && v.release), ⟨0x02, bits⟩),
     (decide (c.cycle < (getMover c m).nextIssue), ⟨0x03, kindDetail 3 (16 * m + d.e.toNat)⟩),
     (crg % 64 != 0 || decide (spaceSize v.space < far), ⟨0x10, (spaceBase n v.space + crg) % 2 ^ 42⟩)]

/-- A move starts (R223). -/
def issueMove (s : State) (n m pc : Nat) (d : DmSlot) (xr crg : Nat) : State :=
  modCore s n (fun c =>
    let v := (tget 0 c.moveFile d.e.toNat).toNat
    let md := moveDesc v
    let x := getMover c m
    let mv : Move := { id := c.nextId, pc := pc, gather := d.dop == 2, issued := c.cycle, desc := v, ext := xr, coreOff := crg, lines := md.lines }
    setMover { c with nextId := c.nextId + 1 } m { x with nextIssue := c.cycle + 1 + md.lines * (md.pace + 1), moves := x.moves ++ [mv] })

/-- Core-side local address of line i of a move. -/
def Move.coreAddr (n : Nat) (v : Move) (i : Nat) : Nat := let d := moveDesc v.desc; spaceBase n d.space + v.coreOff + d.coreAt i

/-- External address of line i of a MOVE, 64 bits. -/
def Move.extAddr (v : Move) (i : Nat) : Nat := (v.ext + (moveDesc v.desc).extAt i) % 2 ^ 64

/-- Poison bits of granules relative to a first one. -/
def poisonBits (first : Nat) (gs : List Nat) : Nat := bitsOf 8 (fun j => gs.contains (first + j))

/-- Where the external side of one line lies: a remote line's request leaves at once, an outbound one with its source read now (R224, R474 to R476). -/
def placeLine (s : State) (n m : Nat) (v : Move) (l : MoverLine) : MoverLine × State :=
  let d := moveDesc v.desc
  let mine : Master := if m = 0 then .coreMover (Fin.ofNat 128 n) 0 else .coreMover (Fin.ofNat 128 n) 1
  if v.gather then (l, s)
  else
    match resolve mine s d.kind (v.extAddr l.line) (b2n d.outbound) false with
    | (.here a, s) => ({ l with addr := some a, held := false }, s)
    | (.bad _, s) => ({ l with addr := none, held := false }, s)
    | (.miss r, s) => ({ l with held := true, rank := r }, s)
    | (.away dst route, s) =>
      let (data, poison, s) := if d.outbound then
          (let r := readSpan mine s (v.coreAddr n l.line) 64
           (r.1.data, poisonBits (v.coreAddr n l.line / 32) r.1.poison, modCore r.2 n (fun c => { c with guardCorr := c.guardCorr + r.1.corr, guardUncorr := c.guardUncorr + r.1.bad })))
        else ([], 0, s)
      let s := if poison ≠ 0 then modCore s n (fun c => { c with wrotePoison := true }) else s
      match sendRequest mine s dst route d.kind (v.extAddr l.line) 2 d.outbound data poison with
      | .inl _ => ({ l with addr := none, held := false }, s)
      | .inr (tag, s) => ({ l with remoteTag := some tag, held := false }, s)

/-- Row-list entry r of a GATHER is read in the request cycle of the row's first line (R225): its value and whether it is poisoned. -/
def readEntry (s : State) (n m : Nat) (v : Move) (r : Nat) : (Nat × Bool) × State :=
  let mine : Master := .coreMover (Fin.ofNat 128 n) (Fin.ofNat 2 m)
  let (rd, s) := readSpan mine s ((v.ext + 8 * r) % 2 ^ 42) 8
  ((ofBytes rd.data, !rd.poison.isEmpty || rd.unmapped), modCore s n (fun c => { c with guardCorr := c.guardCorr + rd.corr, guardUncorr := c.guardUncorr + rd.bad }))

/-- The line of a mover that has reached its request cycle takes a credit, if the mover has one (R223, R226). -/
def requestLine (s : State) (n m : Nat) : State :=
  let c := getCore s n
  let x := getMover c m
  match x.moves.find? (fun v => decide (v.next < v.lines) && decide (v.nextRequest ≤ c.cycle)) with
  | none => s
  | some v =>
    if x.credits = 0 then s
    else
      let d := moveDesc v.desc
      let r := v.next / d.rowLines
      let (v, s) := if v.gather ∧ v.next % d.rowLines = 0 then
          (let e := readEntry s n m v r; ({ v with entries := v.entries ++ [e.1] }, e.2)) else (v, s)
      let l : MoverLine := { move := v.id, line := v.next, due := v.issued + d.due + v.next * (d.pace + 1) }
      let (l, s) := placeLine s n m v l
      let s := if l.held then count s FABRIC 0x078 32 else s
      let v' := { v with next := v.next + 1 }
      modMover s n m (fun x =>
        { x with credits := x.credits - 1, lines := x.lines ++ [l], moves := mapIf (fun y => y.id == v.id) (fun _ => v') x.moves })

/-- Every line of a mover has been requested and has returned its credit (R241). -/
def moverIdle (x : Mover) : Bool := x.moves.all (fun v => decide (v.lines ≤ v.next)) && x.lines.isEmpty

/-- A move that the hazard audit no longer needs: its lines are back and their due cycles have passed (R233). -/
def Move.past (x : Mover) (cycle : Nat) (v : Move) : Bool :=
  let d := moveDesc v.desc
  decide (v.lines ≤ v.next) && !(x.lines.any (fun l => l.move == v.id)) && decide (v.issued + d.due + (v.lines - 1) * (d.pace + 1) < cycle)

/-- A core's movers without the moves that are past. -/
def dropMoves (c : Core) : Core :=
  let drop := fun (x : Mover) => { x with moves := x.moves.filter (fun v => !v.past x c.cycle) }
  { c with mover0 := drop c.mover0, mover1 := drop c.mover1 }

/-- A line returns its credit (R226). -/
def returnCredit (s : State) (n m move line : Nat) : State :=
  modMover s n m (fun x =>
    { x with credits := x.credits + 1, lines := x.lines.filter (fun l => !(l.move == move && l.line == line)) })

/-- An inbound line's data are written into the core side, poisoned granules poisoned, and its credit returns; a discarded line only returns it (R226, R577). -/
def landLine (s : State) (n m : Nat) (v : Move) (l : MoverLine) (data : List Byte) (poison : List Bool) : State :=
  let a := v.coreAddr n l.line
  let s := if l.discard then s
    else storeGranule (storeGranule s (a / 32) (data.take 32) (poison.getD 0 false)) (a / 32 + 1) (data.drop 32) (poison.getD 1 false)
  returnCredit s n m v.id l.line

/-- The data of one line of a GATHER (R225): zeros of an absent row, a poisoned line of a poisoned entry, or the line of the row's chain. -/
def gatherLine (s : State) (n : Nat) (v : Move) (i : Nat) : List Byte × List Bool × State :=
  let d := moveDesc v.desc
  let (e, bad) := v.entries.getD (i / d.rowLines) (0, false)
  if bad then (List.replicate 64 0, [true, true], s)
  else if e = 0 then (List.replicate 64 0, [false, false], s)
  else
    match chainAt s e with
    | some ch =>
      let (bs, ps, corr, s) := readChain s ch (64 * (i % d.rowLines)) 64
      (bs, [ps.contains 0, ps.contains 1], modCore s n (fun c => { c with guardCorr := c.guardCorr + corr, guardUncorr := c.guardUncorr + ps.length }))
    | none => (List.replicate 64 0, [true, true], s)

/-- A GATHER with RELEASE releases a present row once after its last line has been read (R225). -/
def noteRow (s : State) (n m : Nat) (v : Move) (i : Nat) : State :=
  let d := moveDesc v.desc
  let r := i / d.rowLines
  let k := ((v.rowDone.find? (fun x => x.1 == r)).map (·.2)).getD 0 + 1
  let mark := fun (y : Move) => { y with rowDone := y.rowDone.filter (fun z => z.1 != r) ++ [(r, k)] }
  let s := modMover s n m (fun x => { x with moves := mapIf (fun y => y.id == v.id) mark x.moves })
  let (e, bad) := v.entries.getD r (0, false)
  if d.release && k == d.rowLines && e != 0 && !bad then releaseChain 1 s e else s

/-- RANK_CACHE_FILL: a missing rank map entry arrives, and the requests held for it proceed (R57, R474). -/
def execRankCacheFill (rank : BitVec 12) (s : State) : Host.Outcome State Fault Refusal :=
  let heldFor := fun (l : MoverLine) => l.held && l.rank == rank.toNat
  .next (if s.cores.any (fun c => (c.mover0.lines ++ c.mover1.lines).any heldFor) then
    (let s := (loadRank s rank.toNat).2
     (List.range 256).foldl (fun s k =>
       let n := k / 2
       let m := k % 2
       ((getMover (getCore s n) m).lines.filter heldFor).foldl (fun s l =>
         match (getMover (getCore s n) m).moves.find? (fun v => v.id == l.move) with
         | none => s
         | some v =>
           let (l', s) := placeLine s n m v l
           modMover s n m (fun x => { x with lines := mapIf (fun y => y.move == l.move && y.line == l.line) (fun _ => l') x.lines })) s) s)
   else s)

end Sys2Proof.Machine
end

