-- ==== Sys2Proof/Machine/Sequencer.lean ====
section
/-! DEFINITION. Bundles and their checks, the sequencer slot, loops, breaks and halts, 06_core_programs.md R207 to R220, R228, R234, R235, R255 to R258, and 07_program_debug.md R260 to R265, R275. -/

namespace Sys2Proof.Machine

/-! ### Bundle bits, R208 -/

def seqBits (x : SeqSlot) : Nat := at_ x.sop.toNat 58 + at_ x.d.toNat 53 + at_ x.a.toNat 48 + at_ x.b.toNat 43 + at_ x.rsvd.toNat 32 + x.imm.toNat
def matBits (x : MatSlot) : Nat := at_ x.mop.toNat 22 + at_ x.e.toNat 18 + at_ x.ar.toNat 13 + at_ x.br.toNat 8 + at_ x.cr.toNat 3 + x.rsvd.toNat
def vecBits (x : VecSlot) : Nat := at_ x.vop.toNat 14 + at_ x.rcp.toNat 10 + at_ x.sb.toNat 5 + x.rsvd.toNat
def dmBits (x : DmSlot) : Nat := at_ x.dop.toNat 29 + at_ x.e.toNat 25 + at_ x.xr.toNat 20 + at_ x.crg.toNat 15 + x.rsvd.toNat
def accBits (x : AccSlot) : Nat := at_ x.aop.toNat 21 + at_ x.dst.toNat 15 + at_ x.src.toNat 9 + at_ x.n.toNat 3 + x.rsvd.toNat

/-- The bundle that 256 bits hold (R208). -/
def bundleOf (v : Nat) : Bundle :=
  let bv := fun (w x : Nat) => BitVec.ofNat w x
  let dm := fun (x : Nat) => (⟨bv 3 (fld x 31 29), bv 4 (fld x 28 25), bv 5 (fld x 24 20), bv 5 (fld x 19 15), bv 15 (fld x 14 0)⟩ : DmSlot)
  let q := fld v 191 128
  let m := fld v 127 104
  let c := fld v 103 88
  let a := fld v 23 0
  { tag := bv 16 (fld v 255 240), pred := bv 6 (fld v 239 234), rsvd := bv 42 (fld v 233 192),
    seq := ⟨bv 6 (fld q 63 58), bv 5 (fld q 57 53), bv 5 (fld q 52 48), bv 5 (fld q 47 43), bv 11 (fld q 42 32), bv 32 (fld q 31 0)⟩,
    mat := ⟨bv 2 (fld m 23 22), bv 4 (fld m 21 18), bv 5 (fld m 17 13), bv 5 (fld m 12 8), bv 5 (fld m 7 3), bv 3 (fld m 2 0)⟩,
    vec := ⟨bv 2 (fld c 15 14), bv 4 (fld c 13 10), bv 5 (fld c 9 5), bv 5 (fld c 4 0)⟩,
    dm0 := dm (fld v 87 56), dm1 := dm (fld v 55 24),
    acc := ⟨bv 3 (fld a 23 21), bv 6 (fld a 20 15), bv 6 (fld a 14 9), bv 6 (fld a 8 3), bv 3 (fld a 2 0)⟩ }

/-- Bits of a slot, in the numbering of R258: 0 sequencer to 5 accumulator. -/
def slotWord (b : Bundle) (k : Nat) : Nat :=
  match k with
  | 0 => seqBits b.seq
  | 1 => matBits b.mat
  | 2 => vecBits b.vec
  | 3 => dmBits b.dm0
  | 4 => dmBits b.dm1
  | _ => accBits b.acc

/-- PRED bit of a slot (R208). -/
def predBit (b : Bundle) (k : Nat) : Bool := bit b.pred.toNat (5 - k)

/-! ### Registers -/

/-- A scalar register as read; S0 reads zero (R211). -/
def sreg (c : Core) (i : BitVec 5) : Nat := if i = 0 then 0 else (tget 0 c.sregs i.toNat).toNat

/-- A scalar register written; writes to S0 are discarded (R211). -/
def putSreg (c : Core) (i : Nat) (v : Word64) : Core := if i % 32 = 0 then c else { c with sregs := tset 0 c.sregs (i % 32) v }

/-- IMM sign-extended to 64 bits. -/
def imm32 (x : SeqSlot) : Nat := ofInt 64 (toInt 32 x.imm.toNat)

/-- The register operands that a slot's operation names. -/
def seqUses (op : Nat) : Bool × Bool × Bool × Nat :=   -- D, A, B, bits of IMM
  match op with
  | 0x00 => (false, false, false, 0)
  | 0x01 => (false, true, false, 11)
  | 0x02 => (false, false, false, 0)
  | 0x03 => (false, false, false, 16)
  | 0x04 => (false, false, false, 4)
  | 0x05 => (true, false, false, 2)
  | 0x06 => (false, false, false, 2)
  | 0x07 => (true, false, false, 2)
  | 0x08 => (true, false, false, 32)
  | 0x09 => (true, true, false, 32)
  | 0x15 => (true, true, false, 32)
  | 0x18 => (true, true, false, 32)
  | 0x19 => (false, true, true, 32)
  | 0x1A => (false, true, false, 5)
  | 0x1B => (false, true, false, 4)
  | 0x1C => (true, false, false, 0)
  | _ => (true, true, true, 0)

/-! ### Encoding, reserved bits, R209 -/

/-- The core runs a CSF-1 launch (R254). -/
def isCsf1 (c : Core) : Bool := (c.launch.map (·.csf1)).getD false

/-- A slot's encoding is illegal (R209 step 1, R210, R213, R214, R254). -/
def slotUndefined (b : Bundle) (csf1 : Bool) (k : Nat) : Bool :=
  match k with
  | 0 =>
    let op := b.seq.sop.toNat
    op == 0x17 || decide (0x1D ≤ op) || (predBit b 0 && decide (1 ≤ op ∧ op ≤ 6)) ||
      (op == 5 && (b.seq.d.toNat % 4 != 0 || b.seq.d.toNat == 0)) || (csf1 && (op == 4 || op == 5 || op == 6 || op == 7 || op == 0x1C))
  | 1 => decide (2 ≤ b.mat.mop.toNat)
  | 2 => decide (2 ≤ b.vec.vop.toNat)
  | 3 => decide (3 ≤ b.dm0.dop.toNat) || (csf1 && b.dm0.dop == 2)
  | 4 => decide (3 ≤ b.dm1.dop.toNat) || (csf1 && b.dm1.dop == 2)
  | _ => decide (3 ≤ b.acc.aop.toNat)

/-- A slot's reserved bits and unused fields are not all zero (R209 step 3); under CSF-1 its PRED bit is one of them (R254). -/
def slotReserved (b : Bundle) (csf1 : Bool) (k : Nat) : Bool :=
  (csf1 && predBit b k) ||
  (let dm := fun (x : DmSlot) => x.rsvd != 0 || (x.dop == 0 && dmBits x != 0)
   match k with
   | 0 =>
     let u := seqUses b.seq.sop.toNat
     b.seq.rsvd != 0 || (!u.1 && b.seq.d != 0) || (!u.2.1 && b.seq.a != 0) || (!u.2.2.1 && b.seq.b != 0) || b.seq.imm.toNat / 2 ^ u.2.2.2 != 0
   | 1 => b.mat.rsvd != 0 || (b.mat.mop == 0 && matBits b.mat != 0)
   | 2 => b.vec.rsvd != 0 || (b.vec.vop == 0 && vecBits b.vec != 0)
   | 3 => dm b.dm0
   | 4 => dm b.dm1
   | _ => b.acc.rsvd != 0 || (b.acc.aop == 0 && accBits b.acc != 0) || (b.acc.aop == 1 && b.acc.src != 0))

/-- A slot is suppressed (R210). -/
def suppressed (c : Core) (b : Bundle) (k : Nat) : Bool := predBit b k && !c.wf

/-! ### Pending writes, R228 and R233 -/

/-- The cycle of an event's write to scalar register i. -/
def sregWriteAt (i : Nat) (e : Nat × CoreEvent) : Option Nat :=
  match e.2 with
  | .writeSreg j _ => if j = i then some e.1 else none
  | .readSld d _ _ _ => if d = i then some (e.1 + 1) else none
  | .writeForage d _ => if d ≤ i ∧ i ≤ d + 3 then some e.1 else none
  | _ => none

/-- The cycle of an event's write to entry i of a file: 0 product, 1 move, 2 recipe. -/
def fileWriteAt (kind i : Nat) (e : Nat × CoreEvent) : Option Nat :=
  match e.2 with
  | .writeFile k j _ => if k = kind ∧ j = i then some e.1 else none
  | .readFile k j _ _ _ => if k = kind ∧ j = i then some (e.1 + 1) else none
  | _ => none

/-- The cycle of an event's write to WF. -/
def wfWriteAt (e : Nat × CoreEvent) : Option Nat :=
  match e.2 with
  | .writeForage _ _ => some e.1
  | _ => none

/-- The first pending write that a test finds, in the current cycle or later. -/
def pendingWrite (c : Core) (f : Nat × CoreEvent → Option Nat) : Option Nat := c.events.findSome? f

/-! ### Checks of the sequencer and accumulator slots -/

/-- The scalar register that an operation writes and the cycle of the write, counted from issue. -/
def seqWrites (x : SeqSlot) : List (Nat × Nat) :=
  let op := x.sop.toNat
  if op = 5 then (List.range 4).map (fun i => (x.d.toNat + i, 1))
  else if op = 0x18 then [(x.d.toNat, 2)]
  else if op = 0x19 ∨ op = 0x1A ∨ op = 0x1B ∨ op ≤ 4 ∨ op = 6 then []
  else [(x.d.toNat, 1)]

/-- R228 on the sequencer slot: a write to a register or entry in the cycle of an earlier pending write. -/
def seqCollision (c : Core) (x : SeqSlot) : Option Stop :=
  let regs := (seqWrites x).filter (fun w => w.1 != 0 && (c.events.any (fun e => sregWriteAt w.1 e == some (c.cycle + w.2))))
  match regs with
  | w :: _ => some ⟨0x03, kindDetail 6 w.1⟩
  | [] =>
    let op := x.sop.toNat
    let kind := if op = 0x1B then 2 else fld x.imm.toNat 4 4
    let entry := fld x.imm.toNat 3 0
    if (op = 0x1A ∨ op = 0x1B) ∧ c.events.any (fun e => fileWriteAt kind entry e == some (c.cycle + 2)) = true then
      some ⟨0x03, kindDetail 6 (at_ (kind + 1) 5 + entry)⟩ else none

/-- The tile-store access of a sequencer operation: offset, length, alignment (R213, R214). -/
def seqAccess (c : Core) (x : SeqSlot) : Option (Nat × Nat) :=
  let a := sreg c x.a
  match x.sop.toNat with
  | 0x18 => some ((a + imm32 x) % 2 ^ 64, 8)
  | 0x19 => some ((a + imm32 x) % 2 ^ 64, 8)
  | 0x1A => some (a, 32)
  | 0x1B => some (a, 256)
  | _ => none

/-- The checks of the sequencer slot (R214, R228, R235). -/
def seqChecks (c : Core) (n pc : Nat) (x : SeqSlot) : Option Stop :=
  let body := x.imm.toNat % 2048
  let isLoop := x.sop == 1
  match seqCollision c x with
  | some t => some t
  | none =>
    let acc := (seqAccess c x).getD (0, 8)
    firstStop
      [(isLoop && (decide (4 ≤ c.loops.length) || body == 0 || (match c.loops with | f :: _ => decide (f.last < pc + body) | [] => false)), ⟨0x04, pc⟩),
       (isLoop && decide (2 ^ 32 ≤ sreg c x.a), ⟨0x05, sreg c x.a⟩),
       (acc.1 % acc.2 != 0 || decide (0x400000 < acc.1 + acc.2), ⟨0x10, (tileBase n + acc.1) % 2 ^ 42⟩)]

/-- The checks of the accumulator slot (R220). -/
def accChecks (c : Core) (x : AccSlot) : Option Stop :=
  let d := x.dst.toNat + x.n.toNat
  let q := x.src.toNat + x.n.toNat
  firstStop
    [(decide (c.cycle < c.accFree), ⟨0x03, kindDetail 4 x.dst.toNat⟩), (decide (63 < d), ⟨0x10, kindDetail 1 d⟩),
     (x.aop == 2 && decide (63 < q), ⟨0x10, kindDetail 1 q⟩)]

/-- The sparse header's checks, after R124's: poison first, then R150's table. -/
def sparseChecks (s : State) (n : Nat) (c : Core) (x : MatSlot) : Option Stop × State :=
  let p := (effective c x (sreg c)).1.first
  if p.sparse = 0 then (none, s)
  else
    match consume s n [(tileBase n + 32 * p.aAddr) / 32] with
    | ((r, a) :: _, s) => (some ⟨r, a⟩, s)
    | ([], s) => (headerChecks p n (headerAt s n p), s)

/-- One slot's checks of R209 step 4. -/
def slotChecks (s : State) (n pc : Nat) (b : Bundle) (k : Nat) : Option Stop × State :=
  let c := getCore s n
  let csf1 := isCsf1 c
  if suppressed c b k then (none, s)
  else match k with
    | 0 => (seqChecks c n pc b.seq, s)
    | 1 => if b.mat.mop = 0 then (none, s)
      else match matChecks c n csf1 b.mat (matBits b.mat) (sreg c) with
        | some t => (some t, s)
        | none => sparseChecks s n c b.mat
    | 2 => (if b.vec.vop = 0 then none else vecChecks s c n b.vec (sreg c b.vec.sb) (vecBits b.vec), s)
    | 3 => (if b.dm0.dop = 0 then none else moveChecks c n 0 csf1 b.dm0 (sreg c b.dm0.crg) (dmBits b.dm0), s)
    | 4 => (if b.dm1.dop = 0 then none else moveChecks c n 1 csf1 b.dm1 (sreg c b.dm1.crg) (dmBits b.dm1), s)
    | _ => (if b.acc.aop = 0 then none else accChecks c b.acc, s)

/-- The checks of R209 in their order; the answer names the slot. -/
def bundleChecks (s : State) (n pc : Nat) (b : Bundle) : Option HaltInfo × State :=
  let c := getCore s n
  let csf1 := isCsf1 c
  let info := fun (k : Nat) (t : Stop) => (⟨t.reason, pc, BitVec.ofNat 3 k, BitVec.ofNat 64 t.detail⟩ : HaltInfo)
  match (List.range 6).find? (slotUndefined b csf1) with
  | some k => (some (info k ⟨0x01, slotWord b k⟩), s)
  | none =>
    if b.rsvd ≠ 0 then (some (info 7 ⟨0x02, b.rsvd.toNat⟩), s)
    else
      match (List.range 6).find? (fun k => (!suppressed c b k || csf1) && slotReserved b csf1 k) with
      | some k => (some (info k ⟨0x02, slotWord b k⟩), s)
      | none =>
        (List.range 6).foldl (fun (acc : Option HaltInfo × State) k =>
          match acc.1 with
          | some _ => acc
          | none => let r := slotChecks acc.2 n pc b k; (r.1.map (info k), r.2)) (none, s)

/-! ### Hazard audit at issue, R233, R275, R276 -/

/-- The launch is audited, and the bundle is not exempt (R275). -/
def auditedBundle (s : State) (n : Nat) (b : Bundle) : Bool :=
  let c := getCore s n
  let on := match c.launch with
    | some l => !l.csf1 && bit l.record.toNat 45
    | none => false
  on && Nat.land (Nat.xor b.tag.toNat (getReg s (CORE n) 0x0F8)) (getReg s (CORE n) 0x100) != 0

/-- HALT_DETAIL of reason 0x30 (R257, R276). -/
def hazardDetail (kind loc dist : Nat) : Nat := at_ (min dist 65535) 48 + at_ kind 44 + loc % 2 ^ 42

/-- Ranges overlap. -/
def meets (a n b m : Nat) : Bool := decide (a < b + m ∧ b < a + n)

/-- The pending writes of a core's memories: space, offset, length, cycle of the write, cycle of issue (R233); scattered writes are not among them. -/
def pendingRanges (c : Core) : List (Nat × Nat × Nat × Nat × Nat) :=
  c.events.flatMap (fun e =>
    match e.2 with
    | .writeSst off _ _ _ => [(0, off, 8, e.1, e.1 - 1)]
    | .zeroHalf t h _ i _ => [(1, 8192 * t + 4096 * h, 4096, e.1, i)]
    | .copyHalf _ t h _ i _ => [(1, 8192 * t + 4096 * h, 4096, e.1 + 1, i)]
    | .writeAcc off bs _ _ i _ => [(1, off, bs.length, e.1, i)]
    | .writeC id h _ => match c.matOps.find? (fun o => o.id == id) with
      | some o => [(1, 8192 * o.tile + 4096 * h, 4096, e.1, o.issued)]
      | none => []
    | _ => []) ++
  c.passes.flatMap (fun x =>
    let p := recipeOf x.recipe
    -- vectors whose store cycle is the current cycle or later
    (List.range x.vectors).flatMap (fun q =>
      if c.cycle ≤ x.issued + q + 31 then
        (let rv := p.place q
         ((p.writes x.base rv.1 rv.2 q).flatten).map (fun a => (a.1, a.2.1, a.2.2, x.issued + q + 31, x.issued)))
      else []))

/-- Row results that passes have still to write: entry, channel, cycle of the write, cycle of issue (R193, R194). -/
def pendingResults (c : Core) : List (Nat × Nat × Nat × Nat) :=
  c.passes.flatMap (fun x =>
    let p := recipeOf x.recipe
    (List.range x.vectors).flatMap (fun q =>
      let rv := p.place q
      (List.range 4).flatMap (fun ch =>
        let d := p.channel ch
        if d.mode = 0 ∨ x.issued + q + 28 < c.cycle then []
        else if d.tensor then (if q + 1 = x.vectors then [(p.rrBase % 256, ch, x.issued + q + 28, x.issued)] else [])
        else if rv.2 = p.vpr then [((p.rrBase + rv.1) % 256, ch, x.issued + q + 28, x.issued)] else [])))

/-- Lines of moves that have not passed their due cycle: space, offset, due cycle (R233). -/
def moverRanges (c : Core) (outbound : Bool) : List (Nat × Nat × Nat) :=
  [c.mover0, c.mover1].flatMap (fun x => x.moves.flatMap (fun v =>
    let d := moveDesc v.desc
    if d.outbound = outbound then
      (List.range v.lines).flatMap (fun i =>
        let due := v.issued + d.due + i * (d.pace + 1)
        if c.cycle ≤ due then [(d.space, v.coreOff + d.coreAt i, due)] else [])
    else []))

/-- The first hazard of a read of the core's memories by an operation issued in cycle `iss`: (kind, location, distance). -/
def readHazard (c : Core) (n iss : Nat) (as : List Access) : Option (Nat × Nat × Nat) :=
  (as.findSome? (fun a =>
    ((pendingRanges c).find? (fun w => w.1 == a.1 && decide (c.cycle ≤ w.2.2.2.1) && decide (w.2.2.2.2 < iss) && meets a.2.1 a.2.2 w.2.1 w.2.2.1)).map (fun w =>
      let line := if a.1 = 0 then 64 else 128
      (if a.1 = 0 then 8 else 6, spaceBase n a.1 + max a.2.1 w.2.1 / line * line, w.2.2.2.1 - c.cycle)))) <|>
  (as.findSome? (fun a =>
    ((moverRanges c false).find? (fun l => l.1 == a.1 && meets a.2.1 a.2.2 l.2.1 64)).map (fun l => (9, spaceBase n a.1 + l.2.1, l.2.2 - c.cycle))))

/-- The first hazard of a read of row-result entries (entry, channel) by an operation issued in cycle `iss`. -/
def resultHazard (c : Core) (iss : Nat) (es : List (Nat × Nat)) : Option (Nat × Nat × Nat) :=
  es.findSome? (fun e =>
    ((pendingResults c).find? (fun w => w.1 == e.1 && w.2.1 == e.2 && decide (w.2.2.2 < iss))).map (fun w => (7, at_ e.2 8 + e.1, w.2.2.1 - c.cycle)))

/-- The first hazard of a write of the core's memories: an outbound source in or before its due cycle. -/
def writeHazard (c : Core) (n : Nat) (as : List Access) : Option (Nat × Nat × Nat) :=
  as.findSome? (fun a =>
    ((moverRanges c true).find? (fun l => l.1 == a.1 && meets a.2.1 a.2.2 l.2.1 64)).map (fun l => (10, spaceBase n a.1 + l.2.1, l.2.2 - c.cycle)))

/-- Registers that a slot reads in its issue cycle. -/
def slotReads (b : Bundle) (k : Nat) : List (BitVec 5) :=
  match k with
  | 0 => let u := seqUses b.seq.sop.toNat; (if u.2.1 then [b.seq.a] else []) ++ (if u.2.2.1 then [b.seq.b] else [])
  | 1 => if b.mat.mop = 0 then [] else [b.mat.ar, b.mat.br, b.mat.cr]
  | 2 => if b.vec.vop = 0 then [] else [b.vec.sb]
  | 3 => if b.dm0.dop = 0 then [] else [b.dm0.xr, b.dm0.crg]
  | 4 => if b.dm1.dop = 0 then [] else [b.dm1.xr, b.dm1.crg]
  | _ => []

/-- File entries that a slot reads: kind of R276's table and file. -/
def slotEntries (c : Core) (b : Bundle) (k : Nat) : List (Nat × Nat × Nat) :=
  match k with
  | 1 => if b.mat.mop = 0 then []
    else [(3, 0, b.mat.e.toNat)] ++ (if (productOf (tget 0 c.productFile b.mat.e.toNat)).op = 2 then [(3, 0, (b.mat.e.toNat + 1) % 16)] else [])
  | 2 => if b.vec.vop = 0 then [] else [(5, 2, b.vec.rcp.toNat)]
  | 3 => if b.dm0.dop = 0 then [] else [(4, 1, b.dm0.e.toNat)]
  | 4 => if b.dm1.dop = 0 then [] else [(4, 1, b.dm1.e.toNat)]
  | _ => []

/-- Places of the internal files that a bundle's slots read at issue, with the slot (15_integrity_faults.md R542). -/
def fileReads (c : Core) (b : Bundle) : List (Nat × Nat × Nat) :=
  (List.range 5).flatMap (fun k =>
    if suppressed c b k then []
    else ((slotReads b k).filter (· != 0)).map (fun r => (k, 1, r.toNat / 4)) ++ (slotEntries c b k).map (fun e => (k, e.2.1 + 2, e.2.2)) ++
      (if k = 0 ∧ b.seq.sop = 5 then [(0, 6, b.seq.imm.toNat % 4)] else []))

/-- Operand ranges of the tile store that the matrix slot's operation reads. -/
def slotOperands (s : State) (n : Nat) (c : Core) (b : Bundle) (k : Nat) : List Access :=
  if k = 1 ∧ b.mat.mop ≠ 0 then
    (let i := (effective c b.mat (sreg c)).1
     let x := i.first
     let a := if x.sparse = 0 then x.winA.ranges
       else (32 * x.aAddr, 32) :: (tileRanges (headerAt s n x) x.k).map (fun r => (32 * x.aAddr + r.1, r.2))
     (a ++ x.winB.ranges ++ (match i.second with | some w => w.winB.ranges | none => [])).map (fun r => (0, r.1, r.2)))
  else []

/-- The first hazard of a bundle's own reads (R233): WF, registers, entries, staged operands; slot by slot. -/
def issueHazard (s : State) (n pc : Nat) (b : Bundle) : Option HaltInfo :=
  let c := getCore s n
  let mk := fun (k kind loc w : Nat) => (⟨0x30, pc, BitVec.ofNat 3 k, BitVec.ofNat 64 (hazardDetail kind loc (w - c.cycle))⟩ : HaltInfo)
  (List.range 6).findSome? (fun k =>
    (if predBit b k then (pendingWrite c wfWriteAt).map (mk k 2 0) else none) <|>
    (if suppressed c b k then none
     else
       ((slotReads b k).findSome? (fun r => if r = 0 then none else (pendingWrite c (sregWriteAt r.toNat)).map (mk k 1 r.toNat))) <|>
       ((slotEntries c b k).findSome? (fun e => (pendingWrite c (fileWriteAt e.2.1 e.2.2)).map (mk k e.1 e.2.2))) <|>
       ((readHazard c n c.cycle (slotOperands s n c b k)).map (fun h => mk k h.1 h.2.1 (c.cycle + h.2.2)))))

/-! ### Effects of the slots -/

/-- The scalar operations that write one register in t + 1 (R213). -/
def aluResult (s : State) (n : Nat) (c : Core) (x : SeqSlot) : Nat × State :=
  let a := sreg c x.a
  let b := sreg c x.b
  let sh := b % 64
  match x.sop.toNat with
  | 0x07 => (match (c.loops.reverse)[x.imm.toNat % 4]? with | some l => l.index | none => 0, s)
  | 0x08 => (imm32 x, s)
  | 0x09 => (x.imm.toNat * 2 ^ 32 + a % 2 ^ 32, s)
  | 0x0A => (a + b, s)
  | 0x0B => (a + 2 ^ 64 - b, s)
  | 0x0C => (Nat.land a b, s)
  | 0x0D => (Nat.lor a b, s)
  | 0x0E => (Nat.xor a b, s)
  | 0x0F => (a * 2 ^ sh, s)
  | 0x10 => (a / 2 ^ sh, s)
  | 0x11 => (ofInt 64 (toInt 64 a / (2 ^ sh : Nat)), s)
  | 0x12 => (a * b, s)
  | 0x13 => (min a b, s)
  | 0x14 => (max a b, s)
  | 0x15 => (a + imm32 x, s)
  | 0x16 => (b2n (decide (a < b)), s)
  | _ => readTime s (CORE n)

/-- A mailbox request leaves for the FORAGE unit (R238). -/
def sendRequestTo (s : State) (n l : Nat) : State :=
  let f := getList s l
  modCore (setList s l { f with requests := f.requests ++ [n] }) n (fun c => setMailbox c l .pending)

/-- FORAGE (R238): the answer's four words and WF are written in t + 1. -/
def doForage (s : State) (n d l : Nat) : State :=
  let c := getCore s n
  match mailbox c l with
  | .full a =>
    let s := modCore s n (fun c => addEvents (setMailbox c l .empty) [(c.cycle + 1, .writeForage d a)])
    if a.toNat % 16 = 1 then count s (CORE n) 0x088 32 else if a.toNat % 16 = 0 then count s (CORE n) 0x090 32 else s
  | .pending => count (modCore s n (fun c => addEvents c [(c.cycle + 1, .writeForage d 0)])) (CORE n) 0x090 32
  | .empty => count (sendRequestTo (modCore s n (fun c => addEvents c [(c.cycle + 1, .writeForage d 0)])) n l) (CORE n) 0x090 32

/-- A core arrives at a hive barrier (R241, R243): at a failed one it halts, which the caller carries out. -/
def arriveBarrier (s : State) (n pc : Nat) (mask : BitVec 4) : Bool × State :=
  let c := getCore s n
  match c.launch with
  | none => (false, s)
  | some l =>
    let k := c.barrierCount
    let s := modCore s n (fun c => { c with barrierCount := k + 1, barrierPc := pc })
    match s.barriers.find? (fun b => b.launch == l.id && b.number == k) with
    | some b =>
      let add := fun (x : Barrier) => { x with arrived := x.arrived ++ [n], mask := x.mask ||| mask }
      let s := { s with barriers := mapIf (fun x => x.launch == l.id && x.number == k) add s.barriers }
      if b.failed then (true, s) else (false, modCore s n (fun c => { c with run := .atBarrier }))
    | none =>
      let (t, s) := readTime s FORAGE
      let b : Barrier := { launch := l.id, number := k, group := bitList (fld l.record.toNat 511 384) 128, arrived := [n], mask := mask, firstArrival := t }
      (false, modCore { s with barriers := s.barriers ++ [b] } n (fun c => { c with run := .atBarrier }))

/-- The sequencer slot's effect, except for the bundle that follows. -/
def seqEffect (s : State) (n pc : Nat) (x : SeqSlot) (aud : Bool) : State :=
  let c := getCore s n
  let t := c.cycle
  let add := fun (es : List (Nat × CoreEvent)) => modCore s n (fun c => addEvents c es)
  let off := ((seqAccess c x).getD (0, 0)).1
  match x.sop.toNat with
  | 0x00 => s
  | 0x01 => s
  | 0x02 => modCore s n (fun c => { c with ended := true })
  | 0x03 => s
  | 0x04 => s
  | 0x05 => doForage s n x.d.toNat (x.imm.toNat % 4)
  | 0x06 => if mailbox c (x.imm.toNat % 4) = .empty then sendRequestTo s n (x.imm.toNat % 4) else s
  | 0x18 => add [(t + 1, .readSld x.d.toNat off pc aud)]
  | 0x19 => add [(t + 1, .writeSst off (BitVec.ofNat 64 (sreg c x.b)) pc aud)]
  | 0x1A => add [(t + 1, .readFile (fld x.imm.toNat 4 4) (fld x.imm.toNat 3 0) off pc aud)]
  | 0x1B => add [(t + 1, .readFile 2 (fld x.imm.toNat 3 0) off pc aud)]
  | _ =>
    let r := aluResult s n c x
    modCore r.2 n (fun c => addEvents c [(t + 1, .writeSreg x.d.toNat (BitVec.ofNat 64 r.1))])

/-- The accumulator slot's effect (R220). -/
def accEffect (s : State) (n pc : Nat) (x : AccSlot) (aud : Bool) : State :=
  modCore s n (fun c =>
    let t := c.cycle
    let k := x.n.toNat + 1
    let ev := fun (j h : Nat) => if x.aop = 1 then (t + 1 + 2 * j + h, CoreEvent.zeroHalf (x.dst.toNat + j) h pc t aud)
      else (t + 1 + 2 * j + h, CoreEvent.copyHalf (x.src.toNat + j) (x.dst.toNat + j) h pc t aud)
    addEvents { c with accFree := t + 2 * k + (if x.aop = 2 then 1 else 0) } ((List.range k).flatMap (fun j => [ev j 0, ev j 1])))

/-- The loops after bundle p has issued and the bundle that follows it (R234). -/
def afterBundle : List LoopFrame → Nat → Nat × List LoopFrame
  | [], p => (p + 1, [])
  | f :: rest, p =>
    if f.last = p then
      (if 1 < f.remain then (f.first, { f with remain := f.remain - 1, index := f.index + 1 } :: rest) else afterBundle rest p)
    else (p + 1, f :: rest)

/-- The next bundle and the loops after a bundle with this sequencer slot (R234). -/
def nextBundle (c : Core) (pc : Nat) (x : SeqSlot) : Nat × List LoopFrame :=
  if x.sop = 1 then
    (let body := x.imm.toNat % 2048
     let k := sreg c x.a
     if k = 0 then afterBundle c.loops (pc + body)
     else (pc + 1, { first := pc + 1, last := pc + body, remain := k, index := 0 } :: c.loops))
  else afterBundle c.loops pc

/-- Every slot of a bundle that has passed its checks takes effect; the core moves on to the next bundle. The answer says whether a failed barrier halts it. -/
def performBundle (s : State) (n pc : Nat) (b : Bundle) : Bool × State :=
  let c := getCore s n
  let aud := auditedBundle s n b
  let on := fun k => !suppressed c b k
  let i := (effective c b.mat (sreg c)).1
  let (npc, loops) := if on 0 then nextBundle c pc b.seq else afterBundle c.loops pc
  let s := if on 0 then seqEffect s n pc b.seq aud else s
  let s := if on 1 && b.mat.mop != 0 then issueMatrix s n pc aud i else s
  let s := if on 2 && b.vec.vop != 0 then issuePass s n pc b.vec (sreg c b.vec.sb) aud else s
  let s := if on 3 && b.dm0.dop != 0 then issueMove s n 0 pc b.dm0 (sreg c b.dm0.xr) (sreg c b.dm0.crg) else s
  let s := if on 4 && b.dm1.dop != 0 then issueMove s n 1 pc b.dm1 (sreg c b.dm1.xr) (sreg c b.dm1.crg) else s
  let s := if on 5 && b.acc.aop != 0 then accEffect s n pc b.acc aud else s
  let s := modCore s n (fun c => { c with pc := npc, loops := loops, bundles := c.bundles + 1, breakExempt := false })
  if b.seq.sop = 4 then arriveBarrier s n pc (BitVec.ofNat 4 (b.seq.imm.toNat % 16)) else (false, s)

/-! ### Breaks, R260 to R263 -/

/-- How a bundle matches the break settings: on count, on tag (R260). -/
def breakMatch (s : State) (n : Nat) (b : Bundle) : Bool × Bool :=
  let c := getCore s n
  let ctl := getReg s (CORE n) 0x0D0
  (bit ctl 0 && Nat.land (Nat.xor (c.bundles % 2 ^ 48) (getReg s (CORE n) 0x0D8)) (getReg s (CORE n) 0x0E0) == 0,
   bit ctl 1 && Nat.land (Nat.xor b.tag.toNat (getReg s (CORE n) 0x0E8)) (getReg s (CORE n) 0x0F0) == 0)

/-- The break that the core takes instead of issuing a bundle: its own match, or a broadcast or request (R260, R263, R266, R268). RESUME exempts its first
bundle from the break settings alone (R270). A match on count and a broadcast in one cycle give the same reason, and the own match is then the SOURCE
(DESIGN CHOICE, log 84). -/
def breakAt (s : State) (n : Nat) (b : Bundle) : Option BreakInfo :=
  let c := getCore s n
  if isCsf1 c then none
  else
    let m := if c.breakExempt then (false, false) else breakMatch s n b
    if m.1 then some ⟨m.2, true, 0, n, c.bundles, c.pc⟩
    else match c.breakRequest with
      | some (src, core, _) => some ⟨m.2, false, src, core, c.bundles, c.pc⟩
      | none => if m.2 then some ⟨true, false, 0, n, c.bundles, c.pc⟩ else none

/-- The halt that a break ends in: a match on tag alone gives 0x61, and one beside a match on count or a broadcast gives 0x60 with HALT_MULTIPLE (R256, R263, R266). -/
def breakHaltInfo (b : BreakInfo) : HaltInfo × Bool :=
  let d := at_ (b2n b.tagHit) 59 + at_ (b2n b.countHit) 58 + at_ b.source.toNat 56 + at_ (b.srcCore % 128) 48 + b.count % 2 ^ 48
  let other := b.countHit || b.source != 0
  let reason : BitVec 8 := if b.tagHit && !other then 0x61 else 0x60
  (⟨reason, b.pc, 7, BitVec.ofNat 64 d⟩, b.tagHit && other)

/-! ### Halts, R255, R256, R265 -/

/-- A mover of a halting core requests no further lines (R255). A quiescent core that breaks keeps its finished moves for the audit after a RESUME. -/
def stopMover (isBreak : Bool) (x : Mover) : Mover :=
  { x with moves := (x.moves.map (fun v => { v with lines := v.next })).filter (fun v => isBreak || x.lines.any (fun l => l.move == v.id)) }

/-- The core halts (R255): pipelines stop, movers request no further lines, writers report, the launch ends halted, and the break broadcast leaves, but not
that of a CSF-1 launch, for which the break unit is disabled (R254, R264, R265, R613). A core that breaks keeps its last product operation, from which
the launch may forward after a RESUME (03_matrix_engine.md R131). -/
def haltCore (s : State) (n : Nat) (h : HaltInfo) (multiple isBreak : Bool) : State :=
  let s := reportPasses s n
  let wasAt := (getCore s n).run == .atBarrier
  let s := modCore s n (fun c =>
    { c with run := .halted, halt := h, haltMultiple := multiple, recordPending := true, events := [],
             matOps := if isBreak then c.matOps.filter (fun o => c.lastTile.map (·.2) == some o.id) else [],
             lastTile := if isBreak then c.lastTile else none, nextLoaded := [], capturesInFlight := 0,
             mover0 := stopMover isBreak c.mover0, mover1 := stopMover isBreak c.mover1, brk := none, breakRequest := none,
             resumeAtBarrier := wasAt && isBreak })
  let out := fld (getReg s (CORE n) 0x0D0) 3 2
  let own := isBreak && (fld h.detail.toNat 57 56 == 0)
  let s := if isCsf1 (getCore s n) = false ∧ (out = 2 ∨ (out = 1 ∧ own = true)) then
      { s with broadcasts := s.broadcasts ++ ((List.range 128).filter (· != n)).map (fun d => (n, d)) } else s
  match (getCore s n).launch with
  | some l => endLaunch s l.id true
  | none => s

/-- Of halts that arise in one cycle, the lowest code is reported, and more than one reason raises HALT_MULTIPLE (R256); a halt in a break's drain raises it too (R262). -/
def haltAmong (s : State) (n : Nat) (hs : List HaltInfo) : State :=
  match hs with
  | [] => s
  | h :: t =>
    let low := t.foldl (fun (a b : HaltInfo) => if b.reason.toNat < a.reason.toNat then b else a) h
    haltCore s n low ((getCore s n).brk.isSome || hs.any (fun x => x.reason != low.reason)) false

/-- A core is quiescent (R241): no fixed-latency write is to come, every line's credit is back, the queues are empty. -/
def quiescent (c : Core) : Bool :=
  c.events.isEmpty && c.passes.isEmpty && c.nextLoaded.isEmpty && moverIdle c.mover0 && moverIdle c.mover1 && c.queues.isEmpty && c.waiting.isEmpty

end Sys2Proof.Machine
end

