-- ==== Sys2Proof/Machine/CoreCycle.lean ====
section
/-! DEFINITION. One core cycle: fetch and issue, static reads and writes, conflict queues and freezes, 06_core_programs.md R207 to R248, 05_vector_chain.md R185 and 04_sparse_operands.md R170 to R173; and the commands of a core's slots. -/

namespace Sys2Proof.Machine

/-! ### Fetch, R207, R247, R248 -/

def recCsf1Or (l : CoreLaunch) (hi1 lo1 hi2 lo2 : Nat) : Nat := if l.csf1 then fld l.record.toNat hi1 lo1 else fld l.record.toNat hi2 lo2

/-- ENTRY, LENGTH, BANK and CR_ADDR of a launch record (R249, R253). -/
def recEntry (l : CoreLaunch) : Nat := recCsf1Or l 165 155 69 59
def recLength (l : CoreLaunch) : Nat := recCsf1Or l 154 143 58 47
def recBank (l : CoreLaunch) : Nat := recCsf1Or l 142 142 46 46
def recAddr (l : CoreLaunch) : Nat := recCsf1Or l 207 166 143 102

/-- State of the bank that a launch names. -/
def namedBank (c : Core) (l : CoreLaunch) : BankState := if recBank l = 0 then c.bank0 else c.bank1

/-- The bundle that a core fetches: its halts, or the bundle. -/
def fetchBundle (s : State) (n : Nat) : (List HaltInfo ⊕ Bundle) × State :=
  let c := getCore s n
  match c.launch with
  | none => (.inr (bundleOf 0), s)
  | some l =>
    let info := fun (r : BitVec 8) (d : Nat) => (⟨r, c.pc, 6, BitVec.ofNat 64 d⟩ : HaltInfo)
    if namedBank c l ≠ .active ∨ c.bankOk = false then (.inl [info 0x06 (recBank l)], s)
    else if c.pc < recEntry l ∨ recEntry l + recLength l ≤ c.pc ∨ 2048 ≤ c.pc then (.inl [info 0x07 (c.pc % 4096)], s)
    else
      let a := imemBase n (recBank l) + 32 * c.pc
      match consume s n [a / 32] with
      | (b :: bs, s) => (.inl (badHalts (b :: bs) c.pc 6), s)
      | ([], s) => (.inr (bundleOf (ofBytes (peekBytes s a 32))), s)

/-! ### Static accesses and bank conflicts, R185, R215 -/

/-- One read or write of a core cycle with every range it touches, scale and extension bytes included (R185), the bundle and the slot that issued it. -/
structure Use where
  accs : List Access
  pc : Nat
  slot : Nat
deriving DecidableEq, Repr

/-- The row and vector that a pass loads in a cycle. -/
def Pass.loading (x : Pass) (cycle : Nat) : Option (Nat × Nat) :=
  if x.issued ≤ cycle ∧ cycle < x.issued + x.vectors then some ((recipeOf x.recipe).place (cycle - x.issued)) else none

/-- The static reads of the current cycle through the shared ports. -/
def staticReads (c : Core) : List Use :=
  c.events.flatMap (fun e =>
    if e.1 ≠ c.cycle then []
    else match e.2 with
      | .readSld _ off pc _ => [⟨[(0, off, 8)], pc, 0⟩]
      | .readFile kind _ off pc _ => [⟨[(0, off, if kind = 2 then 256 else 32)], pc, 0⟩]
      | .copyHalf src _ half pc _ _ => [⟨[(1, 8192 * src + 4096 * half, 4096)], pc, 5⟩]
      | _ => []) ++
  c.passes.flatMap (fun x =>
    match x.loading c.cycle with
    | some (r, v) => ((recipeOf x.recipe).loads x.base r v).map (fun a => ⟨[a], x.pc, 2⟩)
    | none => [])

/-- The writes of a pass's store event. -/
def storeWrites (c : Core) (id r v : Nat) : List Use :=
  match c.passes.find? (fun x => x.id == id) with
  | some x => ((recipeOf x.recipe).writes x.base r v (if r = 0 ∧ v = 0 then 0 else 1)).map (fun as => ⟨as, x.pc, 2⟩)
  | none => []

/-- The static writes of the current cycle through the shared ports. -/
def staticWrites (c : Core) : List Use :=
  c.events.flatMap (fun e =>
    if e.1 ≠ c.cycle then []
    else match e.2 with
      | .writeSst off _ pc _ => [⟨[(0, off, 8)], pc, 0⟩]
      | .zeroHalf t h pc _ _ => [⟨[(1, 8192 * t + 4096 * h, 4096)], pc, 5⟩]
      | .writeAcc off bs _ pc _ _ => [⟨[(1, off, bs.length)], pc, 5⟩]
      | .store id r v _ _ _ _ => storeWrites c id r v
      | _ => [])

/-- Lines touched so far, and the first use that needs a second access of a bank: (space, bank). Reads of one line count once. -/
def addLines (reads : Bool) (u : Use) (acc : List (Nat × Nat) × Option (Nat × Nat × Use)) : List (Nat × Nat) × Option (Nat × Nat × Use) :=
  match acc.2 with
  | some _ => acc
  | none =>
    let ls := ((u.accs.flatMap accessLines).eraseDups).filter (fun l => !(reads && acc.1.contains l))
    match ls.find? (fun l => acc.1.any (fun m => m.1 == l.1 && m.2 % 32 == l.2 % 32) || (ls.filter (fun m => m.2 % 32 == l.2 % 32)).length != 1) with
    | some l => (acc.1, some (l.1, l.2 % 32, u))
    | none => (acc.1 ++ ls, none)

/-- The first bank conflict among accesses of one direction. -/
def bankConflict (reads : Bool) (us : List Use) : Option (Nat × Nat × Use) := (us.foldl (fun a u => addLines reads u a) ([], none)).2

/-- The halt of a bank conflict in the current cycle (R185, R614 KIND 0x5). -/
def conflictHalt (c : Core) : Option HaltInfo :=
  ((bankConflict true (staticReads c)) <|> (bankConflict false (staticWrites c))).map (fun x =>
    ⟨0x03, x.2.2.pc, BitVec.ofNat 3 x.2.2.slot, BitVec.ofNat 64 (kindDetail 5 (at_ x.1 5 + x.2.1))⟩)

/-! ### Reads of a cycle -/

/-- The halt of an audited access. -/
def hazardHalt (pc slot : Nat) (h : Nat × Nat × Nat) : HaltInfo := ⟨0x30, pc, BitVec.ofNat 3 slot, BitVec.ofNat 64 (hazardDetail h.1 h.2.1 h.2.2)⟩

/-- The halts that the audit and the guard check find, gathered in order. -/
abbrev Found := List HaltInfo × State

def Found.note (f : Found) (h : Option HaltInfo) : Found := (f.1 ++ h.toList, f.2)

/-- The halts of a cycle that need no access: one that an earlier operation found, and a scatter-add's target beyond the accumulator (R205). -/
def dueHalt (c : Core) (n : Nat) (e : CoreEvent) : List HaltInfo :=
  match e with
  | .haltWith h => [h]
  | .store id r v _ _ _ _ =>
    match scatterBeyond c id r v with
    | some (t, pc) => [⟨0x10, pc, 2, BitVec.ofNat 64 ((accBase n + t) % 2 ^ 42)⟩]
    | none => []
  | _ => []

/-- One due read of a core. -/
def doRead (n : Nat) (e : CoreEvent) (f : Found) : Found :=
  let s := f.2
  let c := getCore s n
  let later := fun (s : State) (x : CoreEvent) => modCore s n (fun c => addEvents c [(c.cycle + 1, x)])
  let tile := fun (off len pc iss : Nat) (aud : Bool) (g : List Byte → CoreEvent) =>
    let hz := if aud then (readHazard c n iss [(0, off, len)]).map (hazardHalt pc 0) else none
    let (bad, s) := consume s n ((pieces (tileBase n + off) len).map (·.1))
    let s := later s (g (peekBytes s (tileBase n + off) len))
    ((f.1 ++ hz.toList ++ badHalts bad pc 0, s) : Found)
  match e with
  | .readSld d off pc aud => tile off 8 pc (c.cycle - 1) aud (fun bs => .writeSreg d (BitVec.ofNat 64 (ofBytes bs)))
  | .readFile kind entry off pc aud => tile off (if kind = 2 then 256 else 32) pc (c.cycle - 1) aud (fun bs => .writeFile kind entry (ofBytes bs))
  | .copyHalf src dst half pc iss aud =>
    let off := 8192 * src + 4096 * half
    let hz := if aud then (readHazard c n iss [(1, off, 4096)]).map (hazardHalt pc 5) else none
    let (rd, s) := (List.range 128).foldl (fun (acc : (List Byte × List Nat) × State) i =>
      let (d, r, s) := readGranule acc.2 ((accBase n + off) / 32 + i) false
      let s := noteGuard s n r
      ((acc.1.1 ++ d, match r with | .poison => acc.1.2 ++ [i] | .uncorrectable => acc.1.2 ++ [i] | _ => acc.1.2), s)) (([], []), s)
    (f.1 ++ hz.toList, later s (.writeAcc (8192 * dst + 4096 * half) rd.1 rd.2 pc iss aud))
  | .readC id half aud =>
    let o := c.matOps.find? (fun o => o.id == id)
    let hz := match o with
      | some o => if aud then (readHazard c n o.issued [(1, 8192 * o.tile + 4096 * half, 4096)]).map (hazardHalt o.pc 1) else none
      | none => none
    let (bad, s) := readCHalf s n id half
    (f.1 ++ hz.toList ++ bad, s)
  | .startHalf first w pc aud =>
    let hz := if aud then (readHazard c n c.cycle (w.winB.ranges.map (fun (r : Nat × Nat) => ((0, r.1, r.2) : Access)))).map (hazardHalt pc 1) else none
    (f.1 ++ hz.toList, startHalf s n first w pc aud)
  | e => (f.1 ++ dueHalt c n e, s)

/-- The row-result entries that vector (r, v) of a pass reads. -/
def resultReads (p : Recipe) (base r : Nat) : List (Nat × Nat) :=
  (List.range 6).flatMap (fun i =>
    let d := p.stream i
    if d.en && d.space == 2 && !p.isIndex i then [d.resultAt base r] else [])

/-- One pass loads its vector of the cycle. -/
def doLoad (n id : Nat) (f : Found) : Found :=
  let c := getCore f.2 n
  match c.passes.find? (fun x => x.id == id) with
  | none => f
  | some x =>
    match x.loading c.cycle with
    | none => f
    | some (r, v) =>
      let p := recipeOf x.recipe
      let hz := if x.audited then
          ((readHazard c n x.issued (p.loads x.base r v)) <|> (resultHazard c x.issued (resultReads p x.base r))).map (hazardHalt x.pc 2) else none
      let (file, s) := meetFiles f.2 n x.pc ((resultReads p x.base r).map (fun y => (2, 5, (4 * y.1 + y.2) / 8)))
      let (bad, s) := loadVector s n id
      (f.1 ++ hz.toList ++ file ++ bad, s)

/-- The vectors loaded in the last cycle pass through the stages, and those of this cycle take their place. -/
def runVectors (c : Core) : Core :=
  let c := c.passes.foldl (fun c x =>
    match (c.passes.find? (fun y => y.id == x.id)).bind (·.loaded) with
    | some l => computeVector c x l
    | none => c) c
  { c with passes := c.passes.map (fun x => { x with loaded := ((c.nextLoaded.find? (fun y => y.1 == x.id)).map (·.2)) }), nextLoaded := [] }

/-- Hazards of the audited writes of the cycle (R233, KIND 0xA). -/
def writeHazards (c : Core) (n : Nat) : List HaltInfo :=
  c.events.flatMap (fun e =>
    if e.1 ≠ c.cycle then []
    else
      let one := fun (pc slot : Nat) (aud : Bool) (as : List Access) => if aud then ((writeHazard c n as).map (hazardHalt pc slot)).toList else []
      match e.2 with
      | .writeSst off _ pc aud => one pc 0 aud [(0, off, 8)]
      | .zeroHalf t h pc _ aud => one pc 5 aud [(1, 8192 * t + 4096 * h, 4096)]
      | .writeAcc off bs _ pc _ aud => one pc 5 aud [(1, off, bs.length)]
      | .writeC id h aud => (match c.matOps.find? (fun o => o.id == id) with
        | some o => one o.pc 1 aud [(1, 8192 * o.tile + 4096 * h, 4096)]
        | none => [])
      | .store id r v _ _ _ _ => (match c.passes.find? (fun x => x.id == id) with
        | some x => one x.pc 2 x.audited ((storeWrites c id r v).flatMap (·.accs))
        | none => [])
      | _ => [])

/-! ### Writes of a cycle and the conflict queues -/

/-- One due write through a register, a file or a shared port. -/
def doWrite (n : Nat) (e : CoreEvent) (acc : List ScatterWrite × State) : List ScatterWrite × State :=
  let s := acc.2
  match e with
  | .writeSreg i v => (acc.1, modCore s n (fun c => putSreg c i v))
  | .writeForage d a =>
    (acc.1, modCore s n (fun c =>
      let c := if d % 4 = 0 then mendFile c 1 (d / 4) else c
      let c := (List.range 4).foldl (fun c j => putSreg c (d + j) (BitVec.ofNat 64 (a.toNat / 2 ^ (64 * j)))) c
      { c with wf := a.toNat % 16 == 1 }))
  | .writeSst off v _ _ => (acc.1, coreStore s (tileBase n + off) (bytesOf v.toNat 8))
  | .writeFile kind entry v =>
    (acc.1, modCore s n (fun c =>
      let c := mendFile c (kind + 2) entry
      if kind = 0 then { c with productFile := tset 0 c.productFile entry (BitVec.ofNat 256 v) }
      else if kind = 1 then { c with moveFile := tset 0 c.moveFile entry (BitVec.ofNat 256 v) }
      else { c with recipeFile := tset 0 c.recipeFile entry (BitVec.ofNat 2048 v) }))
  | .zeroHalf t h _ _ _ => (acc.1, (List.range 128).foldl (fun s i => storeGranule s (accTileAddr n t h / 32 + i) (List.replicate 32 0) false) s)
  | .writeAcc off bs poison _ _ _ =>
    (acc.1, ((chunks 32 128 bs).zipIdx).foldl (fun s p => storeGranule s ((accBase n + off) / 32 + p.2) p.1 (poison.contains p.2))
      s)
  | .rowResult entry ch v loss =>
    (acc.1, modCore s n (fun c =>
      let c := { c with rowResults := tset 0 c.rowResults (4 * entry + ch) v }
      if loss then addLoss c v else c))
  | .store id r v lanes i0 choices last =>
    let (ws, s) := storeVector s n id r v lanes i0 choices last
    (acc.1 ++ ws, s)
  | _ => acc

/-- One due write of the matrix engine's own port, which stands over the shared port's (R169). -/
def doEngineWrite (n : Nat) (e : CoreEvent) (s : State) : State :=
  match e with
  | .writeC id half _ => writeCHalf s n id half
  | .endOp id => endProduct s n id
  | _ => s

/-- The accumulator bank of a 128-byte line (03_matrix_engine.md R116). -/
def accBank (line : Nat) : Nat := line % 32

/-- The shared ports' banks used so far in the current core cycle. -/
def portsNow (s : State) (c : Core) : List (Nat × Nat × Nat) := if c.portsAt = s.cycles then c.ports else []

/-- Uses of shared-port banks in the current core cycle added to a core's. -/
def usePorts (s : State) (n : Nat) (xs : List (Nat × Nat × Nat)) : State :=
  modCore s n (fun c => { c with ports := portsNow s c ++ xs, portsAt := s.cycles })

/-- A new core cycle of one core has no bank in use. -/
def clearPorts (s : State) (n : Nat) : State := modCore s n (fun c => { c with ports := [], portsAt := s.cycles })

/-- A queued scattered write is applied: each addition an FP32 addition, a poisoned granule staying poisoned (R170, R541). -/
def applyScatter (s : State) (n : Nat) (w : ScatterWrite) : State :=
  (List.range 4).foldl (fun s q =>
    let mine := w.adds.filter (fun a => a.1 / 8 == q)
    if mine.isEmpty then s
    else
      let g := (accBase n + 128 * w.line) / 32 + q
      let (d, r, s) := readGranule s g false
      let s := noteGuard s n r
      let ws := mine.foldl (fun (ws : List F32) a => modifyAt ws (a.1 % 8) (fun x => fadd x a.2)) (words4 d)
      let bad := match r with | .poison => true | .uncorrectable => true | _ => false
      storeGranule s g (bytes4 ws) bad) s

/-- The head of a bank's conflict queue is applied. -/
def applyHead (s : State) (n bank : Nat) : State :=
  match (getCore s n).queues.find? (fun q => q.1 == bank) with
  | none => s
  | some q =>
    let s := applyScatter s n q.2
    modCore s n (fun c => { c with queues := c.queues.eraseP (fun x => x.1 == bank) })

/-- The banks outside a list whose conflict queues hold a write. -/
def headBanks (c : Core) (busy : List Nat) : List Nat := (List.range 32).filter (fun b => !busy.contains b && c.queues.any (fun q => q.1 == b))

/-- Every bank outside a list applies its head, which uses the bank's shared port (R168). -/
def applyHeads (s : State) (n : Nat) (busy : List Nat) : State :=
  let bs := headBanks (getCore s n) busy
  usePorts (bs.foldl (fun s b => applyHead s n b) s) n (bs.map (fun b => (1, b, 1)))

/-- A merged write joins its bank's queue, or waits for room (R170, R171). -/
def joinQueue (s : State) (n : Nat) (w : ScatterWrite) : State :=
  let b := accBank w.line
  let c := getCore s n
  if (c.queues.filter (fun q => q.1 == b)).length < 16 && !(c.waiting.any (fun q => q.1 == b)) then
    count (modCore s n (fun c => { c with queues := c.queues ++ [(b, w)] })) (CORE n) 0x0A0 32
  else modCore s n (fun c => { c with waiting := c.waiting ++ [(b, w)] })

/-- One waiting write joins each bank that has one and has room. -/
def joinWaiting (s : State) (n : Nat) : State :=
  (List.range 32).foldl (fun s b =>
    let c := getCore s n
    match c.waiting.find? (fun q => q.1 == b) with
    | some q =>
      if (c.queues.filter (fun q => q.1 == b)).length < 16 then
        count (modCore s n (fun c => { c with queues := c.queues ++ [q], waiting := c.waiting.eraseP (fun x => x.1 == b) })) (CORE n) 0x0A0 32
      else s
    | none => s) s

/-- A frozen core cycle (R230, R231, R171, R172). -/
def frozenCycle (s : State) (n : Nat) : State :=
  let c := getCore s n
  let credit := creditFreeze c
  let xlate := xlateFreeze c
  let acc := accFreeze c
  let s := if credit then count s (CORE n) 0x078 32 else s
  let s := if xlate then count s (CORE n) 0x080 32 else s
  let s := if acc then count s (CORE n) 0x098 32 else s
  if acc && !credit && !xlate then joinWaiting (applyHeads s n []) n else s

/-! ### Issue -/

/-- Where the bundle of a cycle comes from: none may issue, the core fetches it, or a command gives it. -/
inductive Source where
  | none
  | fetch
  | given (b : Bundle)

/-- The halt of a core that arrives at a failed barrier, or whose barrier times out (R243). -/
def barrierHalt (b : Barrier) (pc : Nat) : HaltInfo := ⟨0x51, pc, 0, BitVec.ofNat 64 (at_ ((b.number + 1) % 2 ^ 32) 8 + b.arrived.length % 256)⟩

/-- A bundle reaches issue: a break, a halt of its checks, or its effects. A bundle that the hazard audit or a damaged internal file halts counts as issued: neither is
a check of R209 (R255). -/
def issueBundle (s : State) (n : Nat) (b : Bundle) (brk : Option BreakInfo) : Found :=
  let c := getCore s n
  match brk with
  | some k => ([], modCore s n (fun c => { c with brk := some k, breakRequest := none }))
  | none =>
    let (bad, s) := meetFiles s n c.pc (fileReads c b)
    match bundleChecks s n c.pc b with
    | (some h, s) => (bad ++ [h], s)
    | (none, s) =>
      match bad ++ (if auditedBundle s n b then issueHazard s n c.pc b else none).toList with
      | h :: hs => (h :: hs, modCore s n (fun c => { c with bundles := c.bundles + 1, breakExempt := false }))
      | [] =>
        if b.seq.sop = 3 then
          ([⟨0x62, c.pc, 0, BitVec.ofNat 64 (b.seq.imm.toNat % 65536)⟩], modCore s n (fun c => { c with bundles := c.bundles + 1, breakExempt := false }))
        else
          let (failed, s') := performBundle s n c.pc b
          let k := (getCore s n).barrierCount
          match s'.barriers.find? (fun x => failed && some x.launch == c.launch.map (·.id) && x.number == k) with
          | some x => ([barrierHalt x c.pc], s')
          | none => ([], s')

/-- A core may issue: it runs, has not met END and is not draining a break. -/
def mayIssue (c : Core) : Bool := c.run == .running && !c.ended && c.brk.isNone

/-- The bundle of a cycle issues, where one may. -/
def issueFrom (s : State) (n : Nat) (src : Source) : Found :=
  if mayIssue (getCore s n) then
    match src with
    | .none => ([], s)
    | .given b => issueBundle s n b (breakAt s n b)
    | .fetch =>
      match fetchBundle s n with
      | (.inl hs, s) => (hs, s)
      | (.inr b, s) => issueBundle s n b (breakAt s n b)
  else ([], s)

/-- Events of the current cycle. -/
def dueEvents (c : Core) : List CoreEvent := (c.events.filter (fun e => e.1 == c.cycle)).map (·.2)

/-- The reads of a cycle, unless a bank conflict stops it before any access; conditions that need no access arise beside it (R185, R256). -/
def cycleReads (n : Nat) (f : Found) : Found :=
  let c := getCore f.2 n
  match conflictHalt c with
  | some h => (f.1 ++ [h] ++ (dueEvents c).flatMap (dueHalt c n), f.2)
  | none =>
    let f := (dueEvents c).foldl (fun f e => doRead n e f) f
    let f := (c.passes.map (·.id)).foldl (fun f id => doLoad n id f) f
    (f.1 ++ writeHazards (getCore f.2 n) n, modCore f.2 n runVectors)

/-- The writes of a cycle, the queue heads that the free banks apply, and the merged writes that join (R168 to R171); the core's cycle count moves on. -/
def cycleWrites (s : State) (n : Nat) : State :=
  let c := getCore s n
  let due := dueEvents c
  let used := (((staticReads c ++ staticWrites c).flatMap (·.accs)).flatMap accessBanks).eraseDups
  let (ws, s) := due.foldl (fun acc e => doWrite n e acc) ([], usePorts s n (used.map (fun b => (b.1, b.2, 0))))
  let s := applyHeads s n ((used.filter (fun b => b.1 == 1)).map (·.2))
  let s := due.foldl (fun s e => doEngineWrite n e s) s
  let s := joinWaiting s n
  let s := ws.foldl (fun s w => joinQueue s n w) s
  modCore s n (fun c => dropMoves { c with events := c.events.filter (fun e => c.cycle < e.1), cycle := c.cycle + 1 })

/-- One core cycle of a core that runs or waits at a barrier. Where an operation issued earlier halts the core in this cycle, the cycle's bundle neither
issues nor is checked (R209, R255, and the worked example of 15_integrity_faults.md; log 17). -/
def coreCycle (s : State) (n : Nat) (src : Source) : State :=
  let c := getCore s n
  if c.run = .running ∨ c.run = .atBarrier then
    let s := requestLine (requestLine (clearPorts s n) n 0) n 1
    if coreFrozen (getCore s n) then frozenCycle s n
    else
      match cycleReads n ([], s) with
      | (h :: hs, s) => haltAmong s n (h :: hs)
      | ([], _) =>
        match cycleReads n (issueFrom s n src) with
        | ([], s) => cycleWrites s n
        | (hs, s) => haltAmong s n hs
  else s

/-- A halted core's queues drain (R173, R255). -/
def drainQueues (s : State) (n : Nat) : State := joinWaiting (applyHeads (clearPorts s n) n []) n

/-- One core cycle of a core that is not idle: a halted core drains. -/
def anyCycle (s : State) (n : Nat) : State :=
  if (getCore s n).run = .halted then drainQueues s n else coreCycle s n .fetch

/-! ### The commands of the slots -/

/-- Core n issues a bundle with an operation in one of its slots, in its current cycle (log 3). -/
def issueRow (s : State) (n : Fin 128) (b : Bundle) : Host.Outcome State Fault Refusal :=
  .next (if mayIssue (getCore s n.val) then coreCycle s n.val (.given b) else s)

/-- The bundle with a sequencer operation. -/
def withSop (b : Bundle) (op : BitVec 6) : Bundle := { b with seq := { b.seq with sop := op } }

/-- NOP: the sequencer slot does nothing (R213). -/
def execNop (n : Fin 128) (b : Bundle) (s : State) : Host.Outcome State Fault Refusal := issueRow s n (withSop b 0x00)

/-- LOOP: a hardware loop (R234). -/
def execLoop (n : Fin 128) (b : Bundle) (s : State) : Host.Outcome State Fault Refusal := issueRow s n (withSop b 0x01)

/-- END: the launch ends at the next boundary (R213, R251). -/
def execEndLaunch (n : Fin 128) (b : Bundle) (s : State) : Host.Outcome State Fault Refusal := issueRow s n (withSop b 0x02)

/-- HALT: a software halt (R213). -/
def execHalt (n : Fin 128) (b : Bundle) (s : State) : Host.Outcome State Fault Refusal := issueRow s n (withSop b 0x03)

/-- BARRIER: the core arrives at a hive barrier (R241). -/
def execBarrier (n : Fin 128) (b : Bundle) (s : State) : Host.Outcome State Fault Refusal := issueRow s n (withSop b 0x04)

/-- FORAGE: the mailbox of a list is taken (R236, R238). -/
def execForage (n : Fin 128) (b : Bundle) (s : State) : Host.Outcome State Fault Refusal := issueRow s n (withSop b 0x05)

/-- FPRIME: a descriptor is requested (R238). -/
def execFprime (n : Fin 128) (b : Bundle) (s : State) : Host.Outcome State Fault Refusal := issueRow s n (withSop b 0x06)

/-- LIDX: R213. -/
def execLidx (n : Fin 128) (b : Bundle) (s : State) : Host.Outcome State Fault Refusal := issueRow s n (withSop b 0x07)

/-- LI: R213. -/
def execLi (n : Fin 128) (b : Bundle) (s : State) : Host.Outcome State Fault Refusal := issueRow s n (withSop b 0x08)

/-- LUI: R213. -/
def execLui (n : Fin 128) (b : Bundle) (s : State) : Host.Outcome State Fault Refusal := issueRow s n (withSop b 0x09)

/-- ADD: R213. -/
def execAdd (n : Fin 128) (b : Bundle) (s : State) : Host.Outcome State Fault Refusal := issueRow s n (withSop b 0x0A)

/-- SUB: R213. -/
def execSub (n : Fin 128) (b : Bundle) (s : State) : Host.Outcome State Fault Refusal := issueRow s n (withSop b 0x0B)

/-- AND: R213. -/
def execAnd (n : Fin 128) (b : Bundle) (s : State) : Host.Outcome State Fault Refusal := issueRow s n (withSop b 0x0C)

/-- OR: R213. -/
def execOr (n : Fin 128) (b : Bundle) (s : State) : Host.Outcome State Fault Refusal := issueRow s n (withSop b 0x0D)

/-- XOR: R213. -/
def execXor (n : Fin 128) (b : Bundle) (s : State) : Host.Outcome State Fault Refusal := issueRow s n (withSop b 0x0E)

/-- SHL: R213. -/
def execShl (n : Fin 128) (b : Bundle) (s : State) : Host.Outcome State Fault Refusal := issueRow s n (withSop b 0x0F)

/-- SHR: R213. -/
def execShr (n : Fin 128) (b : Bundle) (s : State) : Host.Outcome State Fault Refusal := issueRow s n (withSop b 0x10)

/-- SAR: R213. -/
def execSar (n : Fin 128) (b : Bundle) (s : State) : Host.Outcome State Fault Refusal := issueRow s n (withSop b 0x11)

/-- MUL: R213. -/
def execMul (n : Fin 128) (b : Bundle) (s : State) : Host.Outcome State Fault Refusal := issueRow s n (withSop b 0x12)

/-- MINU: R213. -/
def execMinu (n : Fin 128) (b : Bundle) (s : State) : Host.Outcome State Fault Refusal := issueRow s n (withSop b 0x13)

/-- MAXU: R213. -/
def execMaxu (n : Fin 128) (b : Bundle) (s : State) : Host.Outcome State Fault Refusal := issueRow s n (withSop b 0x14)

/-- ADDI: R213. -/
def execAddi (n : Fin 128) (b : Bundle) (s : State) : Host.Outcome State Fault Refusal := issueRow s n (withSop b 0x15)

/-- SLTU: R213. -/
def execSltu (n : Fin 128) (b : Bundle) (s : State) : Host.Outcome State Fault Refusal := issueRow s n (withSop b 0x16)

/-- SLD: R213. -/
def execSld (n : Fin 128) (b : Bundle) (s : State) : Host.Outcome State Fault Refusal := issueRow s n (withSop b 0x18)

/-- SST: R213. -/
def execSst (n : Fin 128) (b : Bundle) (s : State) : Host.Outcome State Fault Refusal := issueRow s n (withSop b 0x19)

/-- WDESC: R213. -/
def execWdesc (n : Fin 128) (b : Bundle) (s : State) : Host.Outcome State Fault Refusal := issueRow s n (withSop b 0x1A)

/-- WRCP: R213. -/
def execWrcp (n : Fin 128) (b : Bundle) (s : State) : Host.Outcome State Fault Refusal := issueRow s n (withSop b 0x1B)

/-- TBR: R213. -/
def execTbr (n : Fin 128) (b : Bundle) (s : State) : Host.Outcome State Fault Refusal := issueRow s n (withSop b 0x1C)

/-- The bundle with the matrix slot issuing its entry. -/
def withMat (b : Bundle) : Bundle := { b with mat := { b.mat with mop := 1 } }

/-- The OP of the descriptor that a bundle's matrix slot names. -/
def slotOp (s : State) (n : Fin 128) (b : Bundle) : Nat := (productOf (tget 0 (getCore s n.val).productFile b.mat.e.toNat)).op

/-- PRODUCT_OPERATION: the matrix slot issues a product operation (R129). It occurs where the named descriptor's OP is not that of the two rows below. -/
def execProductOperation (n : Fin 128) (b : Bundle) (s : State) : Host.Outcome State Fault Refusal :=
  if slotOp s n b = 1 ∨ slotOp s n b = 2 then .next s else issueRow s n (withMat b)

/-- STATISTICS_PRODUCT: the descriptor's OP is 0x1 (R141). -/
def execStatisticsProduct (n : Fin 128) (b : Bundle) (s : State) : Host.Outcome State Fault Refusal :=
  if slotOp s n b = 1 then issueRow s n (withMat b) else .next s

/-- ALTERNATING_PAIR: the descriptor's OP is 0x2 (R138). -/
def execAlternatingPair (n : Fin 128) (b : Bundle) (s : State) : Host.Outcome State Fault Refusal :=
  if slotOp s n b = 2 then issueRow s n (withMat b) else .next s

/-- PASS: the vector slot starts a pass (R176). -/
def execPass (n : Fin 128) (b : Bundle) (s : State) : Host.Outcome State Fault Refusal := issueRow s n { b with vec := { b.vec with vop := 1 } }

/-- A data mover slot with an operation. -/
def withDop (b : Bundle) (m : Fin 2) (op : BitVec 3) : Bundle :=
  if m = 0 then { b with dm0 := { b.dm0 with dop := op } } else { b with dm1 := { b.dm1 with dop := op } }

/-- MOVE: R223. -/
def execMove (n : Fin 128) (m : Fin 2) (b : Bundle) (s : State) : Host.Outcome State Fault Refusal := issueRow s n (withDop b m 1)

/-- GATHER: R225. -/
def execGather (n : Fin 128) (m : Fin 2) (b : Bundle) (s : State) : Host.Outcome State Fault Refusal := issueRow s n (withDop b m 2)

/-- ZERO: R220. -/
def execZero (n : Fin 128) (b : Bundle) (s : State) : Host.Outcome State Fault Refusal := issueRow s n { b with acc := { b.acc with aop := 1 } }

/-- COPY: R220. -/
def execCopy (n : Fin 128) (b : Bundle) (s : State) : Host.Outcome State Fault Refusal := issueRow s n { b with acc := { b.acc with aop := 2 } }

/-- SCATTERED_WRITE_APPLY: the core cycle of core n in which a bank serves the head of its conflict queue (R168, R170 to R173). In a cycle that R168 does not
give to the head, which a static access uses or a credit or a fabric miss freezes, the command has no effect (log 85). -/
def execScatteredWriteApply (n : Fin 128) (bank : Fin 32) (s : State) : Host.Outcome State Fault Refusal :=
  .next (let s' := anyCycle s n.val
         if (portsNow s' (getCore s' n.val)).contains (1, bank.val, 1) then s' else s)

/-- The bundle of a break command reaches issue: it breaks where the given kind of match holds, and otherwise the command has no effect. -/
def breakRow (s : State) (n : Fin 128) (b : Bundle) (wanted : Bool × Bool → Bool) : State :=
  let c := getCore s n.val
  let m := breakMatch s n.val b
  if mayIssue c && !isCsf1 c && !c.breakExempt && wanted m then coreCycle s n.val (.given b) else s

/-- BREAK_COUNT: a bundle matches on count (R260, R263). -/
def execBreakCount (n : Fin 128) (b : Bundle) (s : State) : Host.Outcome State Fault Refusal := .next (breakRow s n b (·.1))

/-- BREAK_TAG: a bundle matches on tag alone (R260, R263). -/
def execBreakTag (n : Fin 128) (b : Bundle) (s : State) : Host.Outcome State Fault Refusal := .next (breakRow s n b (fun m => m.2 && !m.1))

end Sys2Proof.Machine
end

