-- ==== Sys2Proof/Machine/Debug.lean ====
section
/-! DEFINITION. Breaks taken from outside, halts and their records, resumption and the debug commands, 07_program_debug.md R261 to R271 and 06_core_programs.md R255 to R258. -/

namespace Sys2Proof.Machine

/-- The fields of a launch's completion record (06_core_programs.md R251, R255; 15_integrity_faults.md R550). -/
def launchRecord (c : Core) (n : Nat) (l : CoreLaunch) (status reason total detail : Nat) : Record :=
  { type := 1, status := status, reason := reason, unit := n,
    tag := if l.csf1 then 0 else fld l.record.toNat 101 86, gen := if l.csf1 then 0 else fld l.record.toNat 85 70,
    ordinal := recOrdinal l, done := c.bundles, total := total, start := l.started, corr := c.guardCorr, uncorr := c.guardUncorr, detail := detail }

/-- The loss of a launch that ends while the step driver runs, kept for the driver (05_vector_chain.md R195; 09_training_step.md R336, R338). -/
def noteLoss (s : State) (a : Nat) (c : Core) : State :=
  if s.driver.mode = 1 then
    { s with driver := { s.driver with losses := s.driver.losses.filter (fun x => x.1 != a) ++ [(a, c.lossSum, c.lossNonfinite.toNat)] } }
  else s

/-- A core writes the completion record of its launch at CR_ADDR + 64n; a record that replaces an earlier one first clears its TYPE (R552). -/
def writeLaunchRecord (s : State) (n : Nat) (status reason total detail : Nat) : State :=
  let c := getCore s n
  match c.launch with
  | none => s
  | some l =>
    let m : Master := .coreRecord (Fin.ofNat 128 n)
    let a := recAddr l + 64 * n
    let s := if c.resumed then (writeSpan m s a (List.replicate 32 0) []).2 else s
    writeRecord m (noteLoss s a c) a (launchRecord c n l status reason total detail)

/-- The type-specific detail of a halted launch (R258). -/
def haltDetailBits (c : Core) : Nat :=
  let bank := match c.launch with
    | some l => if c.bank0 = .active then 0 else if c.bank1 = .active then 1 else recBank l
    | none => 0
  at_ c.halt.detail.toNat 64 + at_ c.halt.slot.toNat 13 + at_ bank 12 + at_ (b2n c.haltMultiple) 11 + c.halt.pc % 2048

/-- A draining core has become quiescent and halts with its break's reason (R261). -/
def breakHalt (s : State) (n : Nat) : State :=
  let c := getCore s n
  match c.brk with
  | some k =>
    if (c.run = .running ∨ c.run = .atBarrier) ∧ quiescent c = true then
      (let h := breakHaltInfo k
       haltCore s n h.1 h.2 true)
    else s
  | none => s

/-- BREAK_HALT: R261. -/
def execBreakHalt (n : Fin 128) (s : State) : Host.Outcome State Fault Refusal := .next (breakHalt s n.val)

/-- Of several broadcasts that reach a core in one cycle, the lowest-numbered source is kept (R266). -/
def earlierSource (now : Nat) (old : BitVec 2 × Nat × Nat) (source : BitVec 2) (src : Nat) : BitVec 2 × Nat × Nat :=
  if old.1 = 1 ∧ source = 1 ∧ old.2.2 = now ∧ src < old.2.1 then (1, src, now) else old

/-- The break of a core that waits at a barrier, and the core's halt, name the lowest-numbered source of one cycle (R266). -/
def renameSource (c : Core) (src : Nat) : Core :=
  let d := c.halt.detail.toNat
  match c.brk with
  | some k => if k.source = 1 ∧ src < k.srcCore then { c with brk := some { k with srcCore := src } } else c
  | none =>
    if c.run = .halted ∧ c.recordPending = true ∧ c.halt.reason = 0x60 ∧ fld d 57 56 = 1 ∧ src < fld d 54 48 then
      { c with halt := { c.halt with detail := BitVec.ofNat 64 (setFld d 54 48 src) } }
    else c

/-- A core that waits at a hive barrier takes a break (R267): it halts at once where it is quiescent, and otherwise drains first, so that no write issued
before its BARRIER is lost (R261, R272; DEDUCED, log 86). -/
def breakWaiting (s : State) (n : Nat) (source : BitVec 2) (src : Nat) : State :=
  let c := getCore s n
  let k : BreakInfo := ⟨false, false, source, src, c.bundles, c.barrierPc⟩
  breakHalt (modCore s n (fun c => { c with brk := some k, breakRequest := none, brokenAt := s.cycles })) n

/-- A broadcast or request reaches a core (R264, R266 to R268): a running core takes a break at its next bundle, one at a barrier halts. -/
def acceptBreak (s : State) (n : Nat) (source : BitVec 2) (src : Nat) : State :=
  let c := getCore s n
  if bit (getReg s (CORE n) 0x0D0) 4 && !isCsf1 c then
    if c.brokenAt = s.cycles ∧ source = 1 ∧ (c.run = .halted ∨ (c.run = .atBarrier ∧ c.brk.isSome = true)) then modCore s n (fun c => renameSource c src)
    else match c.run with
      | .running =>
        if c.brk.isSome then s
        else modCore s n (fun c => { c with breakRequest := some (match c.breakRequest with
          | some old => earlierSource s.cycles old source src
          | none => (source, src, s.cycles)) })
      | .atBarrier => if c.brk.isSome then s else breakWaiting s n source src
      | _ => s
  else s

/-- BREAK_BROADCAST: a broadcast on its way from one core reaches another (R266). -/
def execBreakBroadcast (src n : Fin 128) (s : State) : Host.Outcome State Fault Refusal :=
  .next (if s.broadcasts.contains (src.val, n.val) then
    acceptBreak { s with broadcasts := s.broadcasts.erase (src.val, n.val) } n.val 1 src.val
  else s)

/-- A write of CHIP.BREAK_REQUEST (R268). -/
def requestBreak (s : State) (v : Nat) : State :=
  if bit v 0 then (List.range 128).foldl (fun s n => acceptBreak s n 2 0) s else s

/-- BREAK_REQUEST: R268. -/
def execBreakRequest (v : Word64) (s : State) : Host.Outcome State Fault Refusal := .next (powered s (fun s => requestBreak s v.toNat))

/-- A halted core whose movers and queues have drained writes its record and reports itself halted (R173, R255). -/
def haltRecord (s : State) (n : Nat) : State :=
  let c := getCore s n
  if c.run = .halted && c.recordPending && c.mover0.lines.isEmpty && c.mover1.lines.isEmpty && c.queues.isEmpty && c.waiting.isEmpty then
    let s := writeLaunchRecord s n 1 c.halt.reason.toNat 0 (haltDetailBits c)
    modCore s n (fun c => { c with recordPending := false })
  else s

/-- HALT_RECORD: R255. -/
def execHaltRecord (n : Fin 128) (s : State) : Host.Outcome State Fault Refusal := .next (haltRecord s n.val)

/-- A core reports itself halted. -/
def isHalted (c : Core) : Bool := c.run == .halted && !c.recordPending

/-- RESUME is accepted (R270). -/
def mayResume (c : Core) : Bool := isHalted c && (c.halt.reason == 0x60 || c.halt.reason == 0x61) && !c.haltMultiple

/-- The outcome of a debug command (R267, R270, R271). -/
def debugCommand (s : State) (n code : Nat) : State :=
  let c := getCore s n
  let ok := fun (f : Core → Core) => modCore s n (fun c => f { c with debugReject := false })
  let no := modCore s n (fun c => { c with debugReject := true })
  match code % 4 with
  | 0 => ok (fun c => c)
  | 1 =>
    if mayResume c then
      ok (fun c =>
        let c := { c with halt := ⟨0, 0, 0, 0⟩, resumed := true, brk := none, breakRequest := none }
        if c.resumeAtBarrier then { c with run := .atBarrier, resumeAtBarrier := false }
        else { c with run := .running, breakExempt := true })
    else no
  | 2 => if isHalted c then ok (fun c => { c with run := .idle, halt := ⟨0, 0, 0, 0⟩, resumeAtBarrier := false }) else no
  | _ => no

/-- RESUME: DEBUG_CMD 0b01 (R270). -/
def execResume (n : Fin 128) (s : State) : Host.Outcome State Fault Refusal := .next (powered s (fun s => debugCommand s n.val 1))

/-- ABORT: DEBUG_CMD 0b10 (R270). -/
def execAbort (n : Fin 128) (s : State) : Host.Outcome State Fault Refusal := .next (powered s (fun s => debugCommand s n.val 2))

/-- A write of CORE.SREG1 to SREG31 is accepted only while the core is halted (R259, R269). -/
def writeSregWindow (s : State) (n i : Nat) (v : Word64) : State :=
  if isHalted (getCore s n) then modCore s n (fun c => putSreg c i v) else s

/-- SREG_WRITE: R269. -/
def execSregWrite (n : Fin 128) (i : Fin 32) (v : Word64) (s : State) : Host.Outcome State Fault Refusal := .next (powered s (fun s => writeSregWindow s n.val i.val v))

/-- A command of CORE.IMEM_CMD (06_core_programs.md R246): bits [2:1] the command, bit 0 the bank. -/
def imemCommand (s : State) (n v : Nat) : State :=
  let cmd := fld v 2 1
  let b := v % 2
  let st := if b = 0 then (getCore s n).bank0 else (getCore s n).bank1
  let put := fun (c : Core) (x : BankState) => if b = 0 then { c with bank0 := x } else { c with bank1 := x }
  if cmd = 0 then s
  else if cmd = 1 ∧ st = .ready then modCore s n (fun c => put { c with imemReject := false } .loading)
  else if cmd = 2 ∧ st = .loading then modCore s n (fun c => put { c with imemReject := false } .ready)
  else modCore s n (fun c => { c with imemReject := true })

/-- LOAD: R246. -/
def execLoad (n : Fin 128) (bank : Fin 2) (s : State) : Host.Outcome State Fault Refusal := .next (powered s (fun s => imemCommand s n.val (2 + bank.val)))

/-- SEAL: R246. -/
def execSeal (n : Fin 128) (bank : Fin 2) (s : State) : Host.Outcome State Fault Refusal := .next (powered s (fun s => imemCommand s n.val (4 + bank.val)))

end Sys2Proof.Machine
end

