-- ==== Sys2Proof/Machine/Launch.lean ====
section
/-! DEFINITION. Launch queues, deliveries, launch starts and boundaries, hive barriers, forage traffic and core resets, 06_core_programs.md R237 to R254, 14_startup_host.md R512 to R514 and 16_register_interface.md R577. -/

namespace Sys2Proof.Machine

/-! ### Launch queues, 14_startup_host.md R512 to R514 -/

/-- A master owns a launch queue: queues 0 to 3 the Keeper, 4 to 7 the host. -/
def ownsQueue (m : Master) (q : Nat) : Bool :=
  match m with
  | .keeper _ => decide (q < 4)
  | .host => decide (4 ≤ q)
  | _ => false

/-- A record or a staging write that is not taken is counted and logged (R513). -/
def dropLaunch (s : State) (m : Master) (q : Nat) (owner : Bool) : State :=
  logEntry (count s HOSTIF (0x108 + 16 * q) 32) HOSTIF 0 0x09 (at_ (masterId m).1 8 + at_ (b2n (!owner)) 4 + q)

/-- A record reaches the arbiter: behind the earlier ones, and among those of the same cycle behind the ones of its own and lower-numbered queues (01_architecture.md R47). -/
def arriveLaunch (h : HostIf) (now q : Nat) (r : BitVec 512) : HostIf :=
  let k := if h.arrivedAt = now then min h.arrivedNow h.queues.length else 0
  let older := h.queues.take (h.queues.length - k)
  let same := h.queues.drop (h.queues.length - k)
  { h with queues := older ++ same.filter (fun x => decide (x.1 ≤ q)) ++ [(q, r)] ++ same.filter (fun x => decide (q < x.1)),
           arrivedAt := now, arrivedNow := k + 1 }

/-- A write of staging word w of queue q; REC7 appends the record and zeroes the words (R512, R513). -/
def writeStaging (s : State) (m : Master) (q w : Nat) (v : Word64) : State :=
  if !ownsQueue m q then dropLaunch s m q false
  else
    let h := { s.host with staging := tset 0 s.host.staging (8 * q + w) v }
    if w ≠ 7 then { s with host := h }
    else if lqFree s q = 0 then dropLaunch s m q true
    else
      let rec512 := BitVec.ofNat 512 (ofBytes ((tgetList 0 h.staging (8 * q) 8).flatMap (fun x => bytesOf x.toNat 8)))
      { s with host := arriveLaunch { h with staging := tclear h.staging (8 * q) 8 } s.cycles q rec512 }

/-- LAUNCH_APPEND: a write of HOSTIF.LQq_REC7 (R512). -/
def execLaunchAppend (m : Master) (q : Fin 8) (v : Word64) (s : State) : Host.Outcome State Fault Refusal := .next (powered s (fun s => writeStaging s m q.val 7 v))

/-- A record of a launch, as a core sees it. -/
def recordCsf1 (r : BitVec 512) : Bool := fld r.toNat 3 0 == 1

/-- The cores that a record names (R249). -/
def recordCores (r : BitVec 512) : List Nat := bitList (fld r.toNat 511 384) 128

/-- The cores that a queue's head record names and that have no copy of it yet. -/
def uncopied (h : HostIf) (q : Nat) : List Nat :=
  match h.copying.find? (fun x => x.1 == q) with
  | some x => x.2.2
  | none => match h.queues.find? (fun r => r.1 == q) with
    | some r => recordCores r.2
    | none => []

/-- The heads of the queues that reached the arbiter before a queue's head: their queues. -/
def earlierHeads (h : HostIf) (q : Nat) : List Nat := ((h.queues.takeWhile (fun r => r.1 != q)).map (·.1)).eraseDups

/-- A head record may be copied for core n: the core has room, and no head that reached the arbiter earlier still waits for the core (R47, R514). -/
def mayCopy (s : State) (q n : Nat) : Bool :=
  decide ((getCore s n).deliveries.length < 8) && !((earlierHeads s.host q).any (fun p => (uncopied s.host p).contains n))

/-- The arbiter takes a queue's head record: it is a launch of its own from then on (R613). -/
def takeLaunch (s : State) (q : Nat) (r : BitVec 512) : Nat × State :=
  match s.host.copying.find? (fun x => x.1 == q) with
  | some x => (x.2.1, s)
  | none =>
    let id := s.nextLaunch
    (id, { s with nextLaunch := id + 1, launches := s.launches ++ [⟨id, recOrdinal ⟨id, r, recordCsf1 r, 0⟩, recordCores r⟩] })

/-- A queue's head record is copied for every named core that may have it; once each has its copy, the record leaves its queue, and one that names no core
ends at once (R47, R514, R613). Nothing is taken before READY (R493). -/
def deliver (s : State) (q : Nat) : State :=
  match s.host.queues.find? (fun r => r.1 == q) with
  | none => s
  | some (_, r) =>
    let all := uncopied s.host q
    let now := all.filter (mayCopy s q)
    if isReady s && !(blk s HOSTIF).errorStopped && (all.isEmpty || !now.isEmpty) then
      let (id, s) := takeLaunch s q r
      let left := all.filter (fun n => !now.contains n)
      let rest := s.host.copying.filter (fun x => x.1 != q)
      let s := { s with host := if left.isEmpty then { s.host with queues := s.host.queues.eraseP (fun x => x.1 == q), copying := rest }
                                else { s.host with copying := rest ++ [(q, id, left)] } }
      if all.isEmpty then endLaunch s id false
      else now.foldl (fun s n => modCore s n (fun c => { c with deliveries := c.deliveries ++ [(id, r)] })) s
    else s

/-- LAUNCH_DELIVERY: R514. -/
def execLaunchDelivery (q : Fin 8) (s : State) : Host.Outcome State Fault Refusal := .next (deliver s q.val)

/-! ### Starts and boundaries, 06_core_programs.md R247, R250, R251 -/

/-- A record that a core can run: a known version, TYPE 0x1 and zero reserved bits (R249, R250, R253). -/
def recordGood (r : BitVec 512) : Bool :=
  let v := r.toNat
  if fld v 3 0 = 1 then fld v 141 4 == 0 else fld v 3 0 == 2 && fld v 7 4 == 1 && fld v 44 8 == 0

/-- The bank states after a launch boundary, and whether the named bank could be taken (R247). -/
def takeBank (c : Core) (bank : Nat) : Core :=
  let named := if bank = 0 then c.bank0 else c.bank1
  match named with
  | .active => { c with bankOk := true }
  | .ready =>
    let rest := fun (x : BankState) => if x = .active then .ready else x
    if bank = 0 then { c with bank0 := .active, bank1 := rest c.bank1, bankOk := true } else { c with bank1 := .active, bank0 := rest c.bank0, bankOk := true }
  | .loading => { c with bankOk := false }

/-- The scalar registers at a launch start (R250). -/
def startSregs (n : Nat) (arg0 arg1 : Nat) : Table Word64 :=
  tset 0 (tset 0 (tset 0 [] 1 (BitVec.ofNat 64 arg0)) 2 (BitVec.ofNat 64 arg1)) 3 (BitVec.ofNat 64 n)

/-- The generators of a core's lanes at a launch start (02_number_formats.md R76). -/
def startGenerators (seed n : Nat) : Table F32 :=
  (List.range 64).foldl (fun t i => tset 0 t i (BitVec.ofNat 32 (lfsrSeed seed n i))) []

/-- A core at a launch boundary takes its next delivered record (R250). -/
def startLaunch (s : State) (n : Nat) : State :=
  let c := getCore s n
  match c.run, c.deliveries with
  | .idle, (id, r) :: rest =>
    let (t, s) := readTime s (CORE n)
    let csf1 := recordCsf1 r
    let l : CoreLaunch := ⟨id, r, csf1, t⟩
    let v := r.toNat
    let arg0 := if csf1 then fld v 383 320 else fld v 255 192
    let arg1 := fld v 319 256
    let seed := if csf1 then 0 else fld v 383 320
    let gen := sentrySeed s n (recOrdinal l)
    let good := recordGood r
    let bank := fun (c : Core) => if good then takeBank c (recBank l) else c
    let s := modCore s n (fun c => bank { c with
      run := .running, launch := some l, ordinal := BitVec.ofNat 48 (recOrdinal l), deliveries := rest, pc := recEntry l, cycle := 0, bundles := 0, ended := false, sregs := startSregs n arg0 arg1,
      fileErrors := c.fileErrors.filter (fun e => e.1 != 1 && e.1 != 6),
      wf := false, loops := [], mailboxes := [], generators := startGenerators seed n, sentryGen := BitVec.ofNat 32 gen, productOps := 0,
      lossSum := 0, lossComp := 0, lossRows := 0, lossNonfinite := 0, halt := ⟨0, 0, 0, 0⟩, haltMultiple := false,
      matFree := 0, lastTile := none, matOps := [], vecFree := 0, accFree := 0, events := [],
      mover0 := stopMover false { c.mover0 with nextIssue := 0 }, mover1 := stopMover false { c.mover1 with nextIssue := 0 },
      brk := none, breakRequest := none, breakExempt := false, barrierCount := 0, guardUncorr := 0, guardCorr := 0, wrotePoison := false, resumed := false })
    if good then s
    else haltCore s n ⟨0x70, (getCore s n).pc, 6, BitVec.ofNat 64 (v % 256)⟩ false false
  | _, _ => s

/-- LAUNCH_START: R250. -/
def execLaunchStart (n : Fin 128) (s : State) : Host.Outcome State Fault Refusal := .next (startLaunch s n.val)

/-- After END, a quiescent core writes its record and reaches a launch boundary (R251). -/
def reachBoundary (s : State) (n : Nat) : State :=
  let c := getCore s n
  match c.launch with
  | none => s
  | some l =>
    if c.run = .running && c.ended && quiescent c then
      let s := writeLaunchRecord s n (if c.wrotePoison then 3 else 0) 0 c.bundles 0
      coreDone (modCore s n (fun c => { c with run := .idle, ended := false })) l.id n
    else s

/-- LAUNCH_BOUNDARY: R251. -/
def execLaunchBoundary (n : Fin 128) (s : State) : Host.Outcome State Fault Refusal := .next (reachBoundary s n.val)

/-! ### Hive barriers, 06_core_programs.md R241 to R243 -/

/-- A core waits at a barrier. -/
def waitsAt (c : Core) (b : Barrier) : Bool := c.run == .atBarrier && c.launch.map (·.id) == some b.launch && b.number + 1 == c.barrierCount

/-- The barrier at which a core waits. -/
def barrierOf (s : State) (n : Nat) : Option Barrier :=
  let c := getCore s n
  s.barriers.find? (fun b => !b.failed && b.arrived.contains n && waitsAt c b)

/-- A TILE held for a core by its mailbox of a list, or on its way there (R242). -/
def holdsTile (s : State) (n l : Nat) : Bool :=
  (match mailbox (getCore s n) l with | .full a => a.toNat % 16 == 1 | _ => false) ||
  (getList s l).answers.any (fun a => a.1 == n && a.2.toNat % 16 == 1)

/-- A list is undrained at a release (R242). -/
def undrained (s : State) (group : List Nat) (l : Nat) : Bool :=
  let f := getList s l
  f.state != 2 || !f.descs.isEmpty || group.any (fun n => holdsTile s n l)

/-- Pending requests of a group to a list are cancelled (R242, R577). -/
def cancelRequests (s : State) (group : List Nat) (l : Nat) : State :=
  let f := getList s l
  setList s l { f with held := f.held.filter (fun n => !group.contains n), requests := f.requests.filter (fun n => !group.contains n) }

/-- A named list returns to IDLE, and every group mailbox of it becomes empty; the cells that its dispatch holds return (R237, R242, R303). -/
def closeList (s : State) (group : List Nat) (l : Nat) : State :=
  let f := getList s l
  let s := freeDispatchCells (setList s l { f with state := 0, descs := [], waiting := [], answers := f.answers.filter (fun a => !group.contains a.1) }) l
  -- with its last list FORAGE counts as disabled, and a rejection of its fields falls (16_register_interface.md R567, R579)
  let s := if s.forage.all (fun x => x.state == 0) then setBlk s FORAGE { blk s FORAGE with rejected := false, rejectSlot := 0 } else s
  group.foldl (fun s n => modCore s n (fun c => setMailbox c l .empty)) s

/-- The release of a barrier (R242). -/
def releaseBarrier (s : State) (b : Barrier) : State :=
  let lists := bitList b.mask.toNat 4
  let s := lists.foldl (fun s l => cancelRequests s b.group l) s
  let bad := lists.filter (undrained s b.group)
  let s := countN s FORAGE 0x010 32 bad.length
  let s := lists.foldl (fun s l => closeList s b.group l) s
  let s := { s with barriers := s.barriers.filter (fun x => !(x.launch == b.launch && x.number == b.number)) }
  let here := b.group.filter (fun n => waitsAt (getCore s n) b)
  if bad.isEmpty then here.foldl (fun s n => modCore s n (fun c => { c with run := .running })) s
  else here.foldl (fun s n => haltCore s n ⟨0x50, (getCore s n).barrierPc, 0, BitVec.ofNat 64 (bitsOf 4 (fun l => bad.contains l))⟩ false false) s

/-- Every core of a barrier's group has arrived, none takes or is in a break, and each is quiescent in the barrier's launch (R241, R267). A core that has
left that launch, by an ABORT, has arrived and has nothing of it in flight (log 86). -/
def barrierReady (s : State) (b : Barrier) : Bool :=
  b.group.all (fun n =>
    let c := getCore s n
    b.arrived.contains n && !breakHalted c && !(waitsAt c b && c.brk.isSome) &&
      (quiescent c || !(c.launch.map (·.id) == some b.launch && c.run != .idle)))

/-- BARRIER_RELEASE: the barrier at which core n waits is released (R241, R242). -/
def execBarrierRelease (n : Fin 128) (s : State) : Host.Outcome State Fault Refusal :=
  .next (match barrierOf s n.val with
    | some b => if barrierReady s b then releaseBarrier s b else s
    | none => s)

/-- A barrier fails: every core that waits at it halts (R243). -/
def failBarrier (s : State) (b : Barrier) : State :=
  let s := { s with barriers := mapIf (fun x => x.launch == b.launch && x.number == b.number) (fun x => { x with failed := true }) s.barriers }
  b.arrived.foldl (fun s n => if waitsAt (getCore s n) b then haltCore s n (barrierHalt b (getCore s n).barrierPc) false false else s) s

/-- BARRIER_TIMEOUT: not every core has arrived in time at the barrier of core n (R243, R267). -/
def execBarrierTimeout (n : Fin 128) (s : State) : Host.Outcome State Fault Refusal :=
  .next (match barrierOf s n.val with
    | some b =>
      let limit := getReg s FORAGE 0x008
      let (now, s') := readTime s FORAGE
      if limit ≠ 0 ∧ b.group.any (fun n => !b.arrived.contains n) = true ∧ limit < now - b.firstArrival - b.pausedFor then failBarrier s' b else s
    | none => s)

/-! ### Forage traffic, 06_core_programs.md R238, R239 -/

/-- FORAGE_REQUEST: a core's request reaches the unit (R239). -/
def execForageRequest (n : Fin 128) (l : Fin 4) (s : State) : Host.Outcome State Fault Refusal := .next (arriveRequest s n.val l.val)

/-- An answer lands in a mailbox (R238). -/
def landAnswer (s : State) (n l : Nat) : State :=
  let f := getList s l
  match f.answers.find? (fun a => a.1 == n) with
  | none => s
  | some a => modCore (setList s l { f with answers := f.answers.eraseP (fun x => x.1 == n) }) n (fun c => setMailbox (mendFile c 6 l) l (.full a.2))

/-- FORAGE_ANSWER: R238. -/
def execForageAnswer (n : Fin 128) (l : Fin 4) (s : State) : Host.Outcome State Fault Refusal := .next (landAnswer s n.val l.val)

/-! ### Core resets, 16_register_interface.md R577 -/

/-- The lines of a mover after a core reset: requested ones complete, their core-side writes discarded. -/
def resetMover (x : Mover) : Mover :=
  { x with nextIssue := 0, lines := x.lines.map (fun l => { l with discard := true }),
           moves := (x.moves.map (fun v => { v with lines := v.next })).filter (fun v => x.lines.any (fun l => l.move == v.id)) }

/-- The register table without the stored registers of a block. -/
def clearBlock (s : State) (b : Nat) : State := { s with regs := s.regs.filter (fun r => r.1 / 4096 != b) }

/-- One core is reset. -/
def resetCore (s : State) (n : Nat) : State :=
  let s := reportPasses s n
  let c := getCore s n
  let mine := (match c.run with | .running => (c.launch.map (·.id)).toList | .atBarrier => (c.launch.map (·.id)).toList | _ => []) ++ c.deliveries.map (·.1)
  let s := (List.range 4).foldl (fun s l =>
    let s := cancelRequests s [n] l
    let f := getList s l
    setList s l { f with answers := f.answers.filter (fun a => a.1 != n) }) s
  let s := { s with barriers := s.barriers.map (fun (b : Barrier) => if b.failed then b else { b with arrived := b.arrived.filter (· != n) }) }
  let s := { s with barriers := s.barriers.filter (fun b => b.failed || !b.arrived.isEmpty) }
  let fresh : Core := { rowResults := c.rowResults, generators := c.generators, sentryGen := c.sentryGen, captures := c.captures,
                        mover0 := resetMover c.mover0, mover1 := resetMover c.mover1, nextId := c.nextId }
  let s := clearBlock (setCore s n fresh) (CORE n)
  mine.foldl (fun s id => endLaunch s id true) s

/-- A write of CORE_RESET_LO or HI. -/
def resetCores (s : State) (base v : Nat) : State := (bitList v 64).foldl (fun s k => resetCore s (base + k)) s

/-- CORE_RESET: R577. -/
def execCoreReset (hi : Bool) (v : Word64) (s : State) : Host.Outcome State Fault Refusal := .next (powered s (fun s => resetCores s (if hi then 64 else 0) v.toNat))

end Sys2Proof.Machine
end

