-- ==== Sys2Proof/Machine/Blocks.lean ====
section
/-! DEFINITION. Enables and disables of blocks, legal settings, the inbound window table's writes, margin sweeps, and the commands that are such writes, 16_register_interface.md R566 to R573, 12_memory_system.md R434, R435, R449 to R451, 13_fabric_links.md R458, R478. -/

namespace Sys2Proof.Machine

/-! ### Legal settings, R569 -/

/-- Lanes of the ports in use, with repetitions. -/
def allPortLanes (s : State) : List Nat := (List.range 96).flatMap (portLanes s)

/-- Ports that overlap, run beyond lane 95 or hold more than 16 lanes. -/
def portsBad (s : State) : Bool :=
  (List.range 96).any (fun p => decide (16 < fld (getReg s FABRIC (0x100 + 8 * p)) 4 0)) ||
  (allPortLanes s).any (fun l => decide (95 < l)) || (allPortLanes s).eraseDups.length != (allPortLanes s).length

/-- A field of a block holds a value, or a combination, that its chapter does not permit. -/
def configIllegal (s : State) (b : Nat) : Bool :=
  if b = EXCH then decide (12 < getReg s EXCH 0x018)
  else if b = COLL then decide (12 < getReg s COLL 0x048 ∨ 12 < getReg s COLL 0x068)
  else if b = SOLVER then (List.range 16).any (fun c => decide (12 < fld (getReg s SOLVER (0x108 + 32 * c)) 4 0))
  else if b = SCACHE then decide (16 < scratchWays s)
  else if b = POOL then decide (262144 < 4097 + poolFloor s 0 + poolFloor s 1 + poolFloor s 2)
  else if b = FABRIC then portsBad s
  else false

/-! ### Training, 13_fabric_links.md R457, R458, R462 -/

/-- A plan result is reported: each other than MATCH and UNUSED is logged when a lane comes to report it (R462; log 20). -/
def setResult (s : State) (l result partner : Nat) : State :=
  let old := (getLane s l).result
  let s := modLane s l (fun x => { x with result := result, partner := partner })
  if old = result ∨ result = 1 ∨ result = 7 then s else logNoted s (LINK (l / 12)) 2 .planResult [l, result]

/-- A lane starts training: nothing is known of its peer. -/
def startTraining (s : State) (l : Nat) : State :=
  modLane (setResult s l 0 0) l (fun x => { x with status := 1, major := 0, minor := 0, peerKnown := false, trainStart := s.time })

/-- The lane of a port that has been UP longest, the lowest-numbered of several. -/
def firstUp (s : State) (p : Nat) : Option Nat :=
  (upLanes s p).foldl (fun (b : Option Nat) l =>
    match b with
    | none => some l
    | some a => if (getLane s l).failedAt < (getLane s a).failedAt then some l else b) none

/-- UP lanes with another peer or version than the first lane of their port are kept out of it: PORT_SPLIT (R457). -/
def splitPorts (s : State) : State :=
  (List.range 96).foldl (fun s p =>
    match firstUp s p with
    | none => s
    | some a => (upLanes s p).foldl (fun s l => if samePeer (getLane s a) (getLane s l) then s else modLane s l (fun x => { x with status := 5 })) s) s

/-- Both enables that a lane needs. -/
def laneEnabled (s : State) (l : Nat) : Bool := isEnabled s FABRIC && isEnabled s (LINK (l / 12))

/-- Every lane of a list that may train and is not UP starts training. -/
def trainLanes (s : State) (ls : List Nat) : State :=
  ls.foldl (fun s l => if laneEnabled s l && (getLane s l).status != 2 then startTraining s l else s) s

/-- Lanes that were training stop. -/
def stopLanes (s : State) (ls : List Nat) : State :=
  ls.foldl (fun s l => if (getLane s l).status = 1 then modLane s l (fun x => { x with status := 0 }) else s) s

/-! ### Enables, R566, R569 -/

/-- The condition that a deferred disable waits for (R316, R387, R435, R573). -/
def mayDisable (s : State) (b : Nat) : Bool :=
  if b = EXCH then s.dispatches.isEmpty
  else if b = SOLVER then s.units.all (·.isNone)
  else if b = SCACHE then s.cacheLines.all (fun l => !l.2)
  else if b = NUMERIC then s.cores.all (fun c => c.captures.isEmpty && c.capturesInFlight == 0)
  else true

/-- What starts with a block. -/
def onEnable (s : State) (b : Nat) : State :=
  if b = SCACHE then
    { s with mem := tclear s.mem 0x10000000000 0xA000000, guard := tclear s.guard (0x10000000000 / 32) (0xA000000 / 32) }
  else if b = POOL then poolServe s
  else if b = FABRIC then splitPorts (trainLanes s (List.range 96))
  else if 0x030 ≤ b ∧ b ≤ 0x037 then trainLanes s ((List.range 12).map (fun i => 12 * (b - 0x030) + i))
  else s

/-- What ends with a block. -/
def onDisable (s : State) (b : Nat) : State :=
  if b = SCACHE then { s with cacheLines := [], reserved := [] }
  else if b = FABRIC then stopLanes s (List.range 96)
  else if 0x030 ≤ b ∧ b ≤ 0x037 then stopLanes s ((List.range 12).map (fun i => 12 * (b - 0x030) + i))
  else s

/-- The block becomes disabled: a rejection of its RWD fields falls (R567). -/
def disableNow (s : State) (b : Nat) : State :=
  let st := blk s b
  if st.enabled then onDisable (setBlk s b { st with enabled := false, disabling := false, rejected := false, rejectSlot := 0 }) b else s

/-- A write of an ENABLE field with a value. -/
def writeEnable (s : State) (b : Nat) (on : Bool) : State :=
  let st := blk s b
  if on then
    if st.errorStopped then setBlk s b { st with configBad := false }
    else if configIllegal s b then setBlk s b { st with configBad := true }
    else if st.enabled then setBlk s b { st with disabling := false, configBad := false }
    else onEnable (setBlk s b { st with enabled := true, disabling := false, configBad := false }) b
  else
    let s := setBlk s b { st with configBad := false }
    if !st.enabled then s
    else if mayDisable s b then disableNow s b
    else setBlk s b { blk s b with disabling := true }

/-- A deferred disable takes effect once its condition holds. -/
def settle (s : State) (b : Nat) : State := if (blk s b).disabling && mayDisable s b then disableNow s b else s

def settleAll (s : State) : State := settle (settle (settle (settle s EXCH) SOLVER) SCACHE) NUMERIC

/-! ### Writes of a register with RWD fields, R567, R568, R570 -/

/-- The block counts as enabled for the RWD fields of a register (R571). -/
def rwdLocked (s : State) (b off : Nat) : Bool :=
  if b = DMA then (if 0x100 ≤ off ∧ off < 0x500 then dmaChanEnabled s ((off - 0x100) / 32) else false) else blockEnabled s b

/-- A refused RWD field is shown (R567, R571). -/
def noteReject (s : State) (b off : Nat) : State :=
  let st := blk s b
  let s := setBlk s b { st with rejected := true, rejectSlot := BitVec.ofNat 9 (off / 8) }
  if b = DMA ∧ s.dmaRejected.contains ((off - 0x100) / 32) = false then { s with dmaRejected := s.dmaRejected ++ [(off - 0x100) / 32] } else s

/-- A write of an RW register: RWD fields that differ keep their values while the block is enabled. -/
def writeField (s : State) (b off : Nat) (d : RegDef) (v : Nat) : State :=
  let cur := getReg s b off
  let v := Nat.land v d.mask
  if rwdLocked s b off then
    let kept := Nat.land (Nat.xor cur v) d.rwd
    let s := if kept = 0 then s else noteReject s b off
    setReg s b off (Nat.xor v kept)
  else setReg s b off v

/-- A write of a CTL register: the fields first, then the enable (R568). -/
def writeCtl (s : State) (b off : Nat) (d : RegDef) (v : Nat) : State := writeEnable (writeField s b off d v) b (bit v 0)

/-- The definition of the register at an exact offset of a block. -/
def regAt (b off : Nat) : RegDef := ((blockMap b).bind (fun m => findReg m.2 off)).getD ⟨off, 8, 1, .ro, 0, 0⟩

def writeBlockCtl (s : State) (b v : Nat) : State := writeCtl s b 0x008 (regAt b 0x008) v

/-- A write of DMA.CHAN_ENABLE: each bit enables or disables its channel (R160, R569, R571). -/
def writeChannels (s : State) (v : Nat) : State :=
  let s := setReg s DMA 0x008 (v % 2 ^ 32)
  let bad := (bitList v 32).filter (fun n => decide (16 < getReg s DMA (0x108 + 32 * n)) && !bit s.dmaOn.toNat n)
  let st := blk s DMA
  let s := setBlk s DMA { st with configBad := !bad.isEmpty }
  let on := (bitList v 32).filter (fun n => bit s.dmaOn.toNat n || (!st.errorStopped && !bad.contains n))
  let s := { s with dmaOn := BitVec.ofNat 32 (bitsOf 32 (fun n => on.contains n)) }
  { s with dmaRejected := s.dmaRejected.filter (dmaChanEnabled s) }

/-! ### The inbound window table's writes, 13_fabric_links.md R478 -/

/-- The entry that a write would make is out of range. -/
def windowIllegal (v : Nat) : Bool :=
  bit v 127 && (fld v 81 66 == 0 || decide (2 ^ 26 < fld v 107 82 + fld v 81 66) || decide (2 ^ 16 < fld v 65 50 + fld v 81 66))

/-- A write of one half of the window entry that WINDOW_INDEX names. -/
def windowWrite (s : State) (hi : Bool) (v : Nat) : State :=
  let k := getReg s FABRIC 0x030
  let old := (tget 0 s.windows k).toNat
  -- reserved bits [49:0] read as zero
  let new := if hi then setFld old 127 64 v else setFld old 63 50 (v / 2 ^ 50)
  let refused := if bit old 127 then new != old - 2 ^ 127 else windowIllegal new
  if refused then { setReg s FABRIC 0x050 k with windowRejected := some k }
  else
    let s := { s with windows := tset 0 s.windows k (BitVec.ofNat 128 new) }
    if !bit new 127 && s.windowRejected == some k then { s with windowRejected := none } else s

/-! ### Margin sweeps, 12_memory_system.md R450, R451 -/

/-- A write of MEMCk.MARGIN_CTL with GO = 1 starts a sweep while the controller is disabled. -/
def startMargin (s : State) (k v : Nat) : State :=
  if bit v 22 && !isEnabled s (MEMC k) && !((s.margins[k]?).getD {}).busy then
    { s with margins := s.margins.set k { busy := true, failed := false, passing := 0 } }
  else s

/-- MARGIN_SWEEP: a write of MARGIN_CTL (R451). -/
def execMarginSweep (k : Fin 12) (v : Word64) (s : State) : Host.Outcome State Fault Refusal :=
  .next (powered s (fun s => let s' := writeField s (MEMC k.val) 0x058 (regAt (MEMC k.val) 0x058) v.toNat
         startMargin s' k.val (getReg s' (MEMC k.val) 0x058)))

/-- The local address at a bank, row and byte of a channel's pseudo-channel: the inverse of R424 and R425; none for a channel that is mapped out. -/
def hbmAddr (s : State) (channel pseudo bank row byte : Nat) : Option Nat :=
  let n := activeCount s
  match (List.range n).find? (fun i => activeChannel s i == channel) with
  | none => none
  | some i =>
    let r := row * 128 + byte / 512 * 64 + Nat.xor bank (row % 64)
    let f := ((r * 0x9E3779B9) % 2 ^ 32) * n / 2 ^ 32
    some (1024 * (r * n + (i + n - f) % n) + 512 * pseudo + byte % 512)

/-- Granule g of the 4,096 that a sweep of pseudo-channel pc of controller k writes: 64 in each of the 64 banks, two whole rows (R451; log 84). -/
def sweepAddr (s : State) (k pc g : Nat) : Option Nat :=
  hbmAddr s (32 * k + pc / 2) (pc % 2) (g % 64) (((Config.marginRow (64 * k + pc) (g % 64)).val + g / 2048) % 20480) (32 * (g / 64 % 32))

/-- The pattern as the last step leaves it in the stack; a granule of a line that the shared cache holds keeps its cached contents. -/
def sweepWrites (s : State) (k pc pattern : Nat) : State :=
  (List.range 4096).foldl (fun s g =>
    match sweepAddr s k pc g with
    | none => s
    | some a =>
      if s.cacheLines.any (fun l => l.1 == a / 128) then s
      else storeGranule s (a / 32) ((List.range 32).map (Config.marginByte pattern g)) false) s

/-- The accesses of the steps of a sweep: 4,096 writes and as many reads a step; how many of them turn the pseudo-channel or open a row is open
(R451, R452; log 84). -/
def sweepCounts (s : State) (k pc steps : Nat) : State :=
  let s := countN (countN s (MEMC k) 0x020 48 (4096 * steps)) (MEMC k) 0x028 48 (4096 * steps)
  let (t, s) := fresh s
  let (m, s) := fresh s
  let s := countN (countN s (MEMC k) 0x030 48 (t % (8192 * steps + 1))) (MEMC k) 0x038 48 (m % (8192 * steps + 1))
  { s with pcDir := tset 0 s.pcDir (64 * k + pc) 1 }

/-- The sweep of a controller reports: it has written and read back its steps, the last one with a mismatch where it failed (R451). -/
def endSweep (s : State) (k passing : Nat) (failed : Bool) : State :=
  let v := getReg s (MEMC k) 0x058
  let steps := passing + b2n failed
  let s := if steps = 0 ∨ (sweepAddr s k (fld v 21 16) 0).isNone = true then s else sweepCounts (sweepWrites s k (fld v 21 16) (fld v 4 0)) k (fld v 21 16) steps
  { s with margins := s.margins.set k { busy := false, failed := failed, passing := passing } }

/-- MARGIN_SWEEP_END: the sweep stops at its first mismatch or after the last step and reports (R451). -/
def execMarginSweepEnd (k : Fin 12) (passing : Fin 128) (failed : Bool) (s : State) : Host.Outcome State Fault Refusal :=
  .next (if ((s.margins[k.val]?).getD {}).busy then endSweep s k.val passing.val failed else s)

/-! ### The enable commands -/

/-- NUMERIC_ENABLE: R573. -/
def execNumericEnable (v : Word64) (s : State) : Host.Outcome State Fault Refusal := .next (powered s (fun s => writeBlockCtl s NUMERIC v.toNat))

/-- DMA_CHAN_ENABLE: R160. -/
def execDmaChanEnable (v : Word64) (s : State) : Host.Outcome State Fault Refusal := .next (powered s (fun s => writeChannels s v.toNat))

/-- EXCH_ENABLE: R316. -/
def execExchEnable (v : Word64) (s : State) : Host.Outcome State Fault Refusal := .next (powered s (fun s => writeBlockCtl s EXCH v.toNat))

/-- SOLVER_ENABLE: R387. -/
def execSolverEnable (v : Word64) (s : State) : Host.Outcome State Fault Refusal := .next (powered s (fun s => writeBlockCtl s SOLVER v.toNat))

/-- COLL_ENABLE: R419. -/
def execCollEnable (v : Word64) (s : State) : Host.Outcome State Fault Refusal := .next (powered s (fun s => writeBlockCtl s COLL v.toNat))

/-- SCACHE_ENABLE: R435. -/
def execScacheEnable (v : Word64) (s : State) : Host.Outcome State Fault Refusal := .next (powered s (fun s => writeBlockCtl s SCACHE v.toNat))

/-- POOL_ENABLE: R449. -/
def execPoolEnable (v : Word64) (s : State) : Host.Outcome State Fault Refusal := .next (powered s (fun s => writeBlockCtl s POOL v.toNat))

/-- MEMC_ENABLE: R450. -/
def execMemcEnable (k : Fin 12) (v : Word64) (s : State) : Host.Outcome State Fault Refusal := .next (powered s (fun s => writeBlockCtl s (MEMC k.val) v.toNat))

/-- LINK_ENABLE: R458. -/
def execLinkEnable (k : Fin 8) (v : Word64) (s : State) : Host.Outcome State Fault Refusal := .next (powered s (fun s => writeBlockCtl s (LINK k.val) v.toNat))

/-- FABRIC_ENABLE: R572. -/
def execFabricEnable (v : Word64) (s : State) : Host.Outcome State Fault Refusal := .next (powered s (fun s => writeBlockCtl s FABRIC v.toNat))

/-- WINDOW_WRITE: R478. -/
def execWindowWrite (hi : Bool) (v : Word64) (s : State) : Host.Outcome State Fault Refusal := .next (powered s (fun s => windowWrite s hi v.toNat))

/-- CACHE_DISABLED: the last dirty line is written back, and a cache that was disabling becomes disabled (R435). -/
def execCacheDisabled (s : State) : Host.Outcome State Fault Refusal :=
  .next (if (blk s SCACHE).disabling then
    settle ((s.cacheLines.filter (·.2)).foldl (fun s l => evictLine s l.1 true) s) SCACHE
  else s)

/-- WCB_DRAIN: one pseudo-channel's entries drain as a batch when they cover 1 KiB, four entries of 256 bytes (R429), when the controller holds 48 or more, or when the oldest is 1 µs old (R430). -/
def execWcbDrain (k : Fin 12) (pc : Fin 64) (s : State) : Host.Outcome State Fault Refusal :=
  .next (let mine := channelEntries s k.val pc.val
         let all := s.wcb.filter (fun e => e.channel / 32 == k.val)
         if decide (4 ≤ mine.length) || decide (48 ≤ all.length) || mine.any (fun e => decide (e.since + 1000 ≤ s.time)) then
           drainBatch s k.val pc.val
         else s)

/-- SCRUB_WRITE: a repaired codeword is written back unless another write has reached the granule since the read (15_integrity_faults.md R538, R539). -/
def execScrubWrite (granule : Nat) (s : State) : Host.Outcome State Fault Refusal :=
  .next (if s.scrubs.contains (granule, false) then storeGranule s granule (peekGranule s granule).1 false else s)

/-- POISON_WRITE: an uncorrectable granule is poisoned where it rests (15_integrity_faults.md R538, R539). -/
def execPoisonWrite (granule : Nat) (s : State) : Host.Outcome State Fault Refusal :=
  .next (if s.scrubs.contains (granule, true) then storeGranule s granule (memBytes s (32 * granule) 32) true else s)

/-- POOL_RELEASE: a write of POOL.RELEASE (12_memory_system.md R442). -/
def execPoolRelease (m : Master) (addr : BitVec 42) (s : State) : Host.Outcome State Fault Refusal := .next (powered s (fun s => releaseChain (masterId m).1 s addr.toNat))

end Sys2Proof.Machine
end

