-- ==== Sys2Proof/Machine/Inbound.lean ====
section
/-! DEFINITION. Frames that arrive on a lane, the checks of inbound requests and the responses, 13_fabric_links.md R464 to R469, R479 to R481 and 16_register_interface.md R572. -/

namespace Sys2Proof.Machine

/-! ### Leaving UP and replays, R457, R463, R469 -/

/-- Frames replayed on a lane are sent again with a new link word, counted by the lane. -/
def replayFrames (s : State) (l : Nat) (fs : List Frame) : State :=
  fs.foldl (fun s f =>
    let h := { f.header with ack := BitVec.ofNat 12 ((getLane s l).recvSeq + 4095) }
    emit (count s (LINK (l / 12)) (0x130 + 64 * (l % 12)) 32) (.frame l (linkWord h) h f.ext f.data)) s

/-- A frame that its lane has lost: one that another lane of the port takes is a replay there, and one that none takes is lost, with its message. -/
def moveFrame (s : State) (p : Option Nat) (replay : Bool) (f : Frame) : State :=
  match p, p.bind (portLane s) with
  | some p, some b => sendVia (if replay then count s (LINK (b / 12)) (0x130 + 64 * (b % 12)) 32 else s) p f
  | _, _ =>
    match f.part with
    | none => s
    | some (kind, flow, dst, msg) => { s with messages := mapIf (fun m => m.kind == kind && m.flow == flow && m.dst == dst && m.msg == msg) (fun m => { m with lost := true }) s.messages }

/-- Frames that a lost lane had not had acknowledged are replayed on the lanes that remain in its port (R457), and those that waited follow. -/
def moveFrames (s : State) (l : Nat) (unacked waiting : List Frame) : State :=
  waiting.foldl (fun s f => moveFrame s (portOf s l) false f) (unacked.foldl (fun s f => moveFrame s (portOf s l) (f.header.type != 0xB) f) s)

/-- A lane leaves UP and trains again; LANE_DOWN is logged (R463, R469; 15_integrity_faults.md R548). -/
def leaveUp (s : State) (l : Nat) : State :=
  let x := getLane s l
  let s := modLane s l (fun x => { x with status := 0, unacked := [], waiting := [], uncorrAt := [], suspect := none })
  let s := if laneEnabled s l then startTraining s l else s
  moveFrames (logEntry s (LINK (l / 12)) 0 0x06 (at_ (getLane s l).status 4 + l % 12)) l (x.unacked.filter (fun f => f.header.type != 0xB)) x.waiting

/-! ### Frames that arrive, R464, R466, R469, R470; 15_integrity_faults.md R537 -/

/-- Sequence number x lies at or before ack, within half the number range. -/
def acked (ack x : Nat) : Bool := decide ((ack + 4096 - x) % 4096 < 2048)

/-- The lane carries frames. -/
def laneUp (s : State) (l : Nat) : Bool := (getLane s l).status == 2

/-- A frame whose TYPE is reserved, or one that the lane's version lacks: major 1 carries READ, WRITE, WRITE_MASKED, ATOMIC, RESPONSE and KEEPALIVE only (R466, R483). -/
def lacksType (s : State) (l type : Nat) : Bool := type == 0 || decide (0xB < type) || ((getLane s l).major == 1 && decide (6 ≤ type ∧ type ≤ 0xA))

/-- A frame discarded by its lane (R466). -/
def discardFrame (s : State) (l : Nat) : State := count s (LINK (l / 12)) (0x138 + 64 * (l % 12)) 32

/-- Payload granules whose check, in detecting mode, is UNCORRECTABLE. -/
def failedGranules (h : FrameHeader) : Nat := (h.guards.filter (fun d => detectGuard d == .uncorrectable)).length

/-- The codewords that brought a frame are counted; the sixteenth that cannot be corrected within 1 ms takes the lane out of UP (R463, R489). -/
def countCodewords (s : State) (l : Nat) (h : FrameHeader) : State :=
  let s := countN (countN s (LINK (l / 12)) (0x120 + 64 * (l % 12)) 48 h.fecCorr) (LINK (l / 12)) (0x128 + 64 * (l % 12)) 32 h.fecUncorr
  if h.fecUncorr = 0 then s
  else
    let s := modLane s l (fun x => { x with uncorrAt := x.uncorrAt.filter (fun t => decide (s.time < t + 1000000)) ++ List.replicate h.fecUncorr s.time })
    if 16 ≤ (getLane s l).uncorrAt.length then leaveUp s l else s

/-- A frame that failed for its granules arrives clean: each of them counts as corrected (15_integrity_faults.md R537, R545). -/
def countSuspect (s : State) (l : Nat) : State :=
  match (getLane s l).suspect with
  | none => s
  | some (_, n) => countN (countN (modLane s l (fun x => { x with suspect := none })) CHIP (0x100 + 8 * 0x13) 32 n) CHIP 0x088 32 n

/-- A frame arrives in order: its number is taken, and its ACK releases frames kept for replay, and with them credit (R469, R470). -/
def frameArrives (s : State) (l : Nat) (h : FrameHeader) : State :=
  let s := countSuspect s l
  sendWaiting (modLane s l (fun x => { x with recvSeq := (x.recvSeq + 1) % 4096, unacked := x.unacked.filter (fun f => !acked h.ack.toNat f.seq) })) l

/-- A frame arrives on a lane. One whose codewords, CRC or granules fail is discarded, and so is each later one until the frame with the next number comes
again (R469); one in order of a type that the lane lacks is discarded and counted (R466). The answer says whether the frame is to be served. -/
def acceptFrame (s : State) (l : Nat) (h : FrameHeader) : Bool × State :=
  if !laneUp s l then (false, s)
  else
    let s := countCodewords (modLane s l (fun x => { x with lastHeard := s.time })) l h
    if !laneUp s l || h.fecUncorr != 0 || !h.crcOk || h.seq.toNat != (getLane s l).recvSeq then (false, s)
    else if failedGranules h ≠ 0 then (false, modLane s l (fun x => { x with suspect := some (h.seq.toNat, failedGranules h) }))
    else
      let s := frameArrives s l h
      if lacksType s l h.type.toNat then (false, discardFrame s l) else (true, s)

/-- The frames of a message arrive. The message is served once the last of them has been accepted; frames that come again after a failed one are named
anew (R469; log 32). -/
def acceptFrames : State → Via → Bool × State
  | s, [] => (true, s)
  | s, (l, h) :: rest =>
    let (ok, s) := acceptFrame s l.val h
    if ok then acceptFrames s rest else (false, s)

/-- Poisoned granules of a payload: those that the header names, and those whose check finds poison (R465; 15_integrity_faults.md R541). -/
def framePoison (h : FrameHeader) : Nat := Nat.lor h.poison.toNat (bitsOf 8 (fun j => h.guards.getD j 0 == poisonDev))

/-- Frame types whose meanings are given here. -/
inductive Request where
  | read
  | write
  | masked
  | atomic (op size : Nat)
deriving DecidableEq, Repr

/-- Bytes that a request touches: the start from its offset and the length. -/
def Request.span (r : Request) (h : FrameHeader) : Nat × Nat :=
  match r with
  | .masked => (0, 2 ^ h.op.toNat)
  | .atomic _ size => (0, size)
  | _ => (0, 32 * (h.len.toNat + 1))

/-- What a request needs (R480): 0 read, 1 write, 2 atomic. -/
def Request.need : Request → Nat
  | .read => 0
  | .write => 1
  | .masked => 1
  | .atomic .. => 2

/-- TYPE, OP or KIND not legal for the frame, or JOB above 0x0FFF on a major-1 port (R480, R483; R460 for ADDV_F32). More than the 4 granules that a frame of
major 1 carries is answered in the same way (log 64). -/
def typeBad (s : State) (l : Nat) (r : Request) (h : FrameHeader) : Bool :=
  let x := getLane s l
  (h.kind != 1 && h.kind != 2) || (x.major == 1 && (decide (0x0FFF < h.job.toNat) || decide (3 < h.len.toNat))) ||
  (match r with
   | .masked => decide (3 < h.op.toNat) || h.len != 0 || (decide (h.op.toNat ≤ 3) && h.off.toNat % 2 ^ h.op.toNat != 0)
   | .atomic op _ => h.op == 0 || h.op == 0xF || (op == 0xE && x.major == 2 && x.minor == 0) || (x.major == 1 && decide (0xA < op))
   | _ => false)

/-- The checks of R480 up to UNMAPPED: a status, or the local address; a disabled FABRIC answers NO_WINDOW (R572). -/
def checkInbound (s : State) (l : Nat) (r : Request) (h : FrameHeader) : Nat ⊕ Nat :=
  let off := h.off.toNat
  if !isEnabled s FABRIC then .inl 3
  else if typeBad s l r h then .inl 1
  else
    let mapped := fun (a : Nat) => if (pieces a (r.span h).2).any (fun p => regionOf s (32 * p.1 + p.2.1) == .unmapped) then Sum.inl 5 else Sum.inr a
    if h.kind = 1 then
      (let slot := h.srcId.toNat % 4
       if h.srcId.toNat / 4 ≠ fabricId s / 4 ∨ bit (getReg s FABRIC 0x028) (3 * slot + r.need) = false then .inl 2
       else mapped (off % 2 ^ 42))
    else
      match windowFor s h.job.toNat off with
      | none => .inl 3
      | some v => if !windowPerm r.need v then .inl 4 else mapped (windowAddr v off)

/-- The RESPONSE to a request, on the lane that brought it (R465, R466, R480). -/
def respond (s : State) (l : Nat) (h : FrameHeader) (status : Nat) (data : List Byte) (poison : Nat) : State :=
  sendFrame s l (ownHeader s h.srcId.toNat 5 1 h.kind.toNat h.off.toNat (if data.isEmpty then 0 else data.length / 32 - 1) h.tag.toNat status poison) data

/-- The refusal is one of R438 too: a reserved atomic code, or an atomic outside HBM and the mapped scratch window. -/
def refusedAtomic (r : Request) (h : FrameHeader) (status : Nat) : Bool :=
  match r with
  | .atomic .. => status == 5 || (status == 1 && (h.op == 0 || h.op == 0xF))
  | _ => false

/-- A refused request: counted, shown, and answered; reads and atomics answer poisoned granules (R480, R53). -/
def refuseInbound (s : State) (l : Nat) (h : FrameHeader) (status granules addr : Nat) : State :=
  let s := if status = 5 then noteUnmapped (.link (Fin.ofNat 96 l)) s addr else s
  respond (refuse s status h.srcId.toNat h.job.toNat h.off.toNat) l h status (List.replicate (32 * granules) 0) (ones granules)

/-- The address that a check names, for the log of an unmapped access. -/
def inboundAddr (s : State) (h : FrameHeader) : Nat :=
  if h.kind = 1 then h.off.toNat % 2 ^ 42
  else match windowFor s h.job.toNat h.off.toNat with
    | some v => windowAddr v h.off.toNat
    | none => 0

/-- A request frame on a lane: served at its address, or refused. A frame that its lane does not accept changes nothing else. -/
def inboundRequest (s : State) (l : Nat) (r : Request) (h : FrameHeader) (serve : State → Nat → State) : State :=
  match acceptFrame s l h with
  | (false, s) => s
  | (true, s) =>
    match checkInbound s l r h with
    | .inr a => serve s a
    | .inl st => refuseInbound (if refusedAtomic r h st then count s SCACHE 0x038 32 else s) l h st (match r with | .read => h.len.toNat + 1 | .atomic .. => 1 | _ => 0) (inboundAddr s h)

end Sys2Proof.Machine
end

