-- ==== Sys2Proof/Machine/Atomics.lean ====
section
/-! DEFINITION. Atomics in the shared cache, load-reserved and store-conditional, 12_memory_system.md R437 to R440. -/

namespace Sys2Proof.Machine

/-- The new value of an atomic of `size` bytes (R437). -/
def atomicValue (op size old v cmp : Nat) : Nat :=
  let w := 8 * size
  let m := 2 ^ w
  let v := v % m
  let f := fun (g : F32 → F32 → F32) => (g (BitVec.ofNat 32 old) (BitVec.ofNat 32 v)).toNat
  match op with
  | 0x1 => v
  | 0x2 => if old = cmp % m then v else old
  | 0x3 => (old + v) % m
  | 0x4 => Nat.land old v
  | 0x5 => Nat.lor old v
  | 0x6 => Nat.xor old v
  | 0x7 => max old v
  | 0x8 => min old v
  | 0x9 => if toInt w old < toInt w v then v else old
  | 0xA => if toInt w v < toInt w old then v else old
  | 0xB => f fadd
  | 0xC => f fmax
  | 0xD => f fmin
  | _ => (List.range 8).foldl (fun acc i =>
      acc + at_ (fadd (BitVec.ofNat 32 (fld old (32 * i + 31) (32 * i))) (BitVec.ofNat 32 (fld v (32 * i + 31) (32 * i)))).toNat (32 * i)) 0

/-- The operation returns the old value. -/
def atomicReturns (op : Nat) : Bool := decide (op ≤ 0xA)

/-- The operation of a size exists (R437): 4 or 8 bytes for the integer ones, 4 for the FP32 ones, 32 for the vector. -/
def atomicSize (op size : Nat) : Bool :=
  if op = 0xE then size == 32 else if 0xB ≤ op then size == 4 else size == 4 || size == 8

/-- An atomic is refused (R438). -/
def atomicRefused (s : State) (op size a : Nat) : Bool :=
  !inCacheSpace s a || a % size != 0 || !atomicSize op size || !isEnabled s SCACHE

/-- The read of an atomic's line: an atomic allocates (R433). -/
def atomicRead (s : State) (a : Nat) : State :=
  match regionOf s a with
  | .hbm => hbmReadNote s (32 * (a / 32)) true true
  | _ => s

/-- The write of an atomic that is performed: its line is dirty, or its granule goes to the write-combining buffer. -/
def atomicWrite (s : State) (a : Nat) : State :=
  match regionOf s a with
  | .hbm =>
    if s.cacheLines.any (fun l => l.1 == a / 128) then { s with cacheLines := mapIf (fun l => l.1 == a / 128) (fun l => (l.1, true)) s.cacheLines }
    else wcbWrite s (32 * (a / 32)) 0 32
  | _ => s

/-- A granule of HBM whose controller is disabled (R450). -/
def atomicOff (s : State) (a : Nat) : Bool := regionOf s a == .hbm && memcOff s a

/-- An atomic that is not refused: the old value, whether its granule is poisoned, and the state (R437, R440); on a disabled controller its read returns poison (R450). -/
def performAtomic (s : State) (op size a v cmp : Nat) : Nat × Bool × State :=
  if atomicOff s a then (0, true, count s (MEMC ((hbmMap s a).1 / 32)) 0x050 32)
  else
  let s := atomicRead s a
  let g := a / 32
  let (d, r) := peekGranule s g
  let s := noteCheck s g r
  let bad := match r with | .poison => true | .uncorrectable => true | _ => false
  if bad then (0, true, s)
  else
    let old := ofBytes ((d.drop (a % 32)).take size)
    let s := count (atomicWrite s a) SCACHE 0x030 48
    (old, false, storeGranule s g (d.take (a % 32) ++ bytesOf (atomicValue op size old v cmp) size ++ d.drop (a % 32 + size)) false)

/-- An access to an unmapped address is counted and logged (01_architecture.md R53). -/
def noteIfUnmapped (m : Master) (s : State) (a : Nat) : State := if regionOf s a = .unmapped then noteUnmapped m s a else s

/-- An atomic of a Keeper core or of an inbound frame (R438, R440, R480). -/
def atomicBy (s : State) (i : AtomicIssuer) (op addr size v cmp : Nat) : State :=
  match i with
  | .keeper c =>
    if atomicRefused s op size addr then emit (count (noteIfUnmapped (.keeper c) s addr) SCACHE 0x038 32) (.accessFault (.keeper c) addr)
    else
      let (old, bad, s) := performAtomic s op size addr v cmp
      if atomicReturns op then emit s (.atomicOld (BitVec.ofNat 64 old) bad) else s
  | .link lane h =>
    inboundRequest s lane.val (.atomic op size) h (fun s a =>
      if atomicRefused s op size a then refuseInbound (count s SCACHE 0x038 32) lane.val h 6 1 a
      else
        let (old, bad, s) := performAtomic s op size a v cmp
        respond s lane.val h 0 (if atomicReturns op then bytesOf old 32 else []) (b2n (atomicReturns op && bad)))

/-- The operand of ADDV_F32: eight lanes, lane 0 lowest. -/
def laneBits (v : List F32) : Nat := ofBytes ((v.take 8).flatMap (fun x => bytesOf x.toNat 4))

/-- SWAP: code 0x1 of R437. -/
def execSwap (i : AtomicIssuer) (addr : BitVec 42) (size : Nat) (v : Word64) (s : State) : Host.Outcome State Fault Refusal :=
  .next (powered s (fun s => atomicBy s i 0x1 addr.toNat size v.toNat 0))

/-- FETCH_ADD: code 0x3 of R437. -/
def execFetchAdd (i : AtomicIssuer) (addr : BitVec 42) (size : Nat) (v : Word64) (s : State) : Host.Outcome State Fault Refusal :=
  .next (powered s (fun s => atomicBy s i 0x3 addr.toNat size v.toNat 0))

/-- FETCH_AND: code 0x4 of R437. -/
def execFetchAnd (i : AtomicIssuer) (addr : BitVec 42) (size : Nat) (v : Word64) (s : State) : Host.Outcome State Fault Refusal :=
  .next (powered s (fun s => atomicBy s i 0x4 addr.toNat size v.toNat 0))

/-- FETCH_OR: code 0x5 of R437. -/
def execFetchOr (i : AtomicIssuer) (addr : BitVec 42) (size : Nat) (v : Word64) (s : State) : Host.Outcome State Fault Refusal :=
  .next (powered s (fun s => atomicBy s i 0x5 addr.toNat size v.toNat 0))

/-- FETCH_XOR: code 0x6 of R437. -/
def execFetchXor (i : AtomicIssuer) (addr : BitVec 42) (size : Nat) (v : Word64) (s : State) : Host.Outcome State Fault Refusal :=
  .next (powered s (fun s => atomicBy s i 0x6 addr.toNat size v.toNat 0))

/-- FETCH_MAXU: code 0x7 of R437. -/
def execFetchMaxu (i : AtomicIssuer) (addr : BitVec 42) (size : Nat) (v : Word64) (s : State) : Host.Outcome State Fault Refusal :=
  .next (powered s (fun s => atomicBy s i 0x7 addr.toNat size v.toNat 0))

/-- FETCH_MINU: code 0x8 of R437. -/
def execFetchMinu (i : AtomicIssuer) (addr : BitVec 42) (size : Nat) (v : Word64) (s : State) : Host.Outcome State Fault Refusal :=
  .next (powered s (fun s => atomicBy s i 0x8 addr.toNat size v.toNat 0))

/-- FETCH_MAXS: code 0x9 of R437. -/
def execFetchMaxs (i : AtomicIssuer) (addr : BitVec 42) (size : Nat) (v : Word64) (s : State) : Host.Outcome State Fault Refusal :=
  .next (powered s (fun s => atomicBy s i 0x9 addr.toNat size v.toNat 0))

/-- FETCH_MINS: code 0xA of R437. -/
def execFetchMins (i : AtomicIssuer) (addr : BitVec 42) (size : Nat) (v : Word64) (s : State) : Host.Outcome State Fault Refusal :=
  .next (powered s (fun s => atomicBy s i 0xA addr.toNat size v.toNat 0))

/-- CAS: code 0x2 of R437. -/
def execCas (i : AtomicIssuer) (addr : BitVec 42) (size : Nat) (v cmp : Word64) (s : State) : Host.Outcome State Fault Refusal :=
  .next (powered s (fun s => atomicBy s i 0x2 addr.toNat size v.toNat cmp.toNat))

/-- ADD_F32: code 0xB of R437. -/
def execAddF32 (i : AtomicIssuer) (addr : BitVec 42) (v : F32) (s : State) : Host.Outcome State Fault Refusal := .next (powered s (fun s => atomicBy s i 0xB addr.toNat 4 v.toNat 0))

/-- MAX_F32: code 0xC of R437. -/
def execMaxF32 (i : AtomicIssuer) (addr : BitVec 42) (v : F32) (s : State) : Host.Outcome State Fault Refusal := .next (powered s (fun s => atomicBy s i 0xC addr.toNat 4 v.toNat 0))

/-- MIN_F32: code 0xD of R437. -/
def execMinF32 (i : AtomicIssuer) (addr : BitVec 42) (v : F32) (s : State) : Host.Outcome State Fault Refusal := .next (powered s (fun s => atomicBy s i 0xD addr.toNat 4 v.toNat 0))

/-- ADDV_F32: code 0xE of R437. -/
def execAddvF32 (i : AtomicIssuer) (addr : BitVec 42) (v : List F32) (s : State) : Host.Outcome State Fault Refusal := .next (powered s (fun s => atomicBy s i 0xE addr.toNat 32 (laneBits v) 0))

/-- PCIE_ATOMICOP: completes with Unsupported Request (R438). -/
def execPcieAtomicop (addr : BitVec 42) (s : State) : Host.Outcome State Fault Refusal :=
  .next (if s.host.linkUp && !s.host.inReset then emit s (.unsupported .host addr.toNat) else s)

/-- LR: the Keeper core reads and reserves the 128-byte line (R439); an access that R438 would refuse reserves nothing. -/
def execLr (c : Fin 4) (addr : BitVec 42) (size : Nat) (s : State) : Host.Outcome State Fault Refusal :=
  .next (powered s (fun s => let a := addr.toNat
         if atomicRefused s 1 size a then emit (noteIfUnmapped (.keeper c) s a) (.accessFault (.keeper c) a)
         else
           let (rd, s) := readSpan (.keeper c) s a size
           if rd.poison.isEmpty then
             emit { s with reserved := tset 0 s.reserved c.val (a / 128 + 1) } (.readData (.keeper c) a rd.data [])
           else emit (notePoisonConsumed s KEEPER a c.val) (.accessFault (.keeper c) a)))

/-- SC: the store succeeds only while the core's reservation of the line stands (R439); one where R438 would refuse an atomic always fails. -/
def execSc (c : Fin 4) (addr : BitVec 42) (size : Nat) (v : Word64) (s : State) : Host.Outcome State Fault Refusal :=
  .next (powered s (fun s => let a := addr.toNat
         if atomicRefused s 1 size a = false ∧ tget 0 s.reserved c.val = a / 128 + 1 then
           (let s := (writeSpan (.keeper c) s a (bytesOf v.toNat size) []).2
            emit { s with reserved := tset 0 s.reserved c.val 0 } (.storeConditional true))
         else emit { s with reserved := tset 0 s.reserved c.val 0 } (.storeConditional false)))

end Sys2Proof.Machine
end

