-- ==== Sys2Proof/Machine/Sentry.lean ====
section
/-! DEFINITION. The sentry engine: recomputation and comparison of sampled products, 02_number_formats.md R107 to R110. -/

namespace Sys2Proof.Machine

/-- An operand value is exactly representable in BF16. -/
def bf16Exact (x : F32) : Bool := isNaN x || x.toNat % 65536 == 0

/-- One element of W: one rounding for each position, in ascending order; positions that the matrix engine skips are skipped (R107). -/
def sentryCell : F32 → List (Option F32) → List F32 → F32
  | x, some a :: as, b :: bs => sentryCell (ffma a b x) as bs
  | x, none :: as, _ :: bs => sentryCell x as bs
  | x, _, _ => x

/-- W, row by row (R107). -/
def sentryW (c : Capture) : List F32 :=
  (c.a.zipIdx).flatMap (fun ra => (c.b.zipIdx).map (fun cb => sentryCell (c.before.getD (32 * ra.2 + cb.2) 0) ra.1 cb.1))

/-- Every operand value is exact in BF16. -/
def captureExact (c : Capture) : Bool :=
  c.a.all (fun r => r.all (fun x => match x with | some v => bf16Exact v | none => true)) && c.b.all (fun r => r.all bf16Exact)

/-- NaN and infinity do not agree in class and sign (R108). -/
def classDiffers (w n : F32) : Bool :=
  (!isFinite w || !isFinite n) && !(isNaN w == isNaN n && isFinite w == isFinite n && bit w.toNat 31 == bit n.toNat 31)

/-- A finite value in units of 2^−149. -/
def unitsOf (x : F32) : Int :=
  match ofF32 x with
  | .fin neg m e => (if neg then -1 else 1) * ((m * 2 ^ (e + 149).toNat : Nat) : Int)
  | _ => 0

/-- Outcomes of a comparison (R108). -/
inductive SentryOutcome where
  | clean
  | warn
  | fault
deriving DecidableEq, Repr

/-- max|N − W| and max(max|W|, 2^−126) over the elements where both are finite, in units of 2^−149 (R108). -/
def sentryRatio (ws ns : List F32) : Nat × Nat :=
  ((ws.zip ns).filter (fun p => isFinite p.1 && isFinite p.2)).foldl
    (fun (a : Nat × Nat) p => (max a.1 (unitsOf p.2 - unitsOf p.1).natAbs, max a.2 (unitsOf p.1).natAbs)) (0, 2 ^ 23)

/-- A special-value mismatch of W and N (R108). -/
def sentryMismatch (ws ns : List F32) : Bool := (ws.zip ns).any (fun p => classDiffers p.1 p.2)

/-- The comparison of W with N (R108): r ≤ 2^−k exactly when 2^k times the numerator does not exceed the denominator. CLEAN is tested before FAULT; with
FAULT_LOG2 above WARN_LOG2 the two conditions of R108 can hold of one r, and the spec does not say which outcome counts (DESIGN CHOICE, log 84). -/
def sentryJudge (warnLog2 faultLog2 : Nat) (ws ns : List F32) : SentryOutcome :=
  if sentryMismatch ws ns then .fault
  else
    let r := sentryRatio ws ns
    if r.1 * 2 ^ warnLog2 ≤ r.2 then .clean
    else if r.1 * 2 ^ faultLog2 ≤ r.2 then .warn
    else .fault

/-- floor(log2 of a / b), counted from 1,074 so that it is a natural number; zero for a ratio of zero. -/
def ratioLog2 (a b : Nat) : Nat :=
  if a = 0 ∨ b = 0 then 0
  else
    let k := a.log2 + 1074 - b.log2
    if a * 2 ^ 1074 < b * 2 ^ k then k - 1 else k

/-- The fields that the log entry of a sentry fault holds (R109). -/
def sentryFields (c : Capture) : List Nat :=
  let w := sentryW c
  let r := sentryRatio w c.after
  [c.core, c.ordinal, c.op, ratioLog2 r.1 r.2, b2n (sentryMismatch w c.after)]

/-- The oldest capture of a core reaches the engine, is discarded or compared, and leaves the buffer; a deferred disable may take effect (R107 to R109, R573). -/
def sentryCompare (s : State) (n : Nat) : State :=
  match (getCore s n).captures with
  | [] => s
  | c :: rest =>
    let s := modCore s n (fun k => { k with captures := rest })
    let s := if !captureExact c then count s NUMERIC 0x078 32
      else
        let s := count s NUMERIC 0x048 32
        let cfg := getReg s NUMERIC 0x010
        match sentryJudge (fld cfg 9 5) (fld cfg 14 10) (sentryW c) c.after with
        | .clean => count s NUMERIC 0x050 32
        | .warn => count s NUMERIC 0x058 32
        | .fault => logNoted (count s NUMERIC 0x060 32) NUMERIC 0 .sentryFault (sentryFields c)
    settle s NUMERIC

/-- SENTRY_COMPARE: R108. -/
def execSentryCompare (n : Fin 128) (s : State) : Host.Outcome State Fault Refusal := .next (sentryCompare s n.val)

end Sys2Proof.Machine
end

