-- ==== Sys2Proof/Machine/Dma.lean ====
section
/-! DEFINITION. DMA channels: copies, compression and expansion, 04_sparse_operands.md R155 to R166. -/

namespace Sys2Proof.Machine

/-! ### The descriptor, R155 -/

/-- The fields of a DMA descriptor. -/
structure DmaDesc where
  src : Nat
  dst : Nat
  dst2 : Nat
  srcNum : Nat
  dstNum : Nat
  rows : Nat
  cols : Nat
  srcPitch : Nat
  dstPitch : Nat
  dst2Pitch : Nat
  kT : Nat
  kT2 : Nat
  form : Nat
  form2 : Nat
  policy : Nat
  policy2 : Nat
  dual : Bool
  orient : Bool
  expand : Bool
  srcKind : Nat
  dstKind : Nat
  dst2Kind : Nat
  tag : Nat
  record : Nat
  rsvd : Nat
deriving DecidableEq, Repr

def dmaDesc (v : Nat) : DmaDesc :=
  { src := fld v 511 448, dst := fld v 447 384, dst2 := fld v 383 320, srcNum := fld v 319 288, dstNum := fld v 287 256,
    rows := fld v 255 236, cols := fld v 235 216, srcPitch := fld v 215 192, dstPitch := fld v 191 168, dst2Pitch := fld v 167 144,
    kT := 32 * (fld v 143 136 + 1), kT2 := 32 * (fld v 135 128 + 1), form := fld v 127 126, form2 := fld v 125 124,
    policy := fld v 123 122, policy2 := fld v 121 120, dual := bit v 119, orient := bit v 118, expand := bit v 117,
    srcKind := fld v 116 115, dstKind := fld v 114 113, dst2Kind := fld v 112 111, tag := fld v 110 95, record := fld v 94 53, rsvd := fld v 52 0 }

/-- The mode of a descriptor (R156): 0 copy, 1 compress, 2 expand. -/
def DmaDesc.mode (d : DmaDesc) : Nat := if d.expand then 2 else if d.form = 0 then 0 else 1

/-- Row extent and K extent of the primary orientation (R156). -/
def DmaDesc.rowExt (d : DmaDesc) : Nat := if d.orient then d.cols else d.rows
def DmaDesc.kExt (d : DmaDesc) : Nat := if d.orient then d.rows else d.cols

/-- Column blocks and tiles of the two orientations (R156, R157). -/
def DmaDesc.blocks (d : DmaDesc) : Nat := ceilDiv d.kExt d.kT
def DmaDesc.blocks2 (d : DmaDesc) : Nat := ceilDiv d.rowExt d.kT2
def DmaDesc.tiles (d : DmaDesc) : Nat := ceilDiv d.rowExt 64 * d.blocks
def DmaDesc.tiles2 (d : DmaDesc) : Nat := if d.dual then ceilDiv d.kExt 64 * d.blocks2 else 0

/-- Units of a descriptor (R156, R164). -/
def DmaDesc.units (d : DmaDesc) : Nat := match d.mode with | 0 => d.rows | 1 => d.tiles + d.tiles2 | _ => d.tiles

/-- An address of a kind whose unused upper bits are non-zero, or that is not 32-byte aligned (log 24). -/
def addressBad (kind a : Nat) : Bool := kind == 3 || a % 32 != 0 || (kind == 0 && decide (2 ^ 42 ≤ a)) || (kind == 1 && decide (2 ^ 44 ≤ a))

/-- A numeric word that no DMA channel works with: R70, R71, or FP32X8 (R158). -/
def dmaNumBad (w : Nat) : Bool := numericFault w != 0 || fld w 3 0 == 1

/-- The destination is tensor-scaled (R89). -/
def DmaDesc.tensorDst (d : DmaDesc) : Bool := (numericOf d.dstNum).scaling == 2

/-- A descriptor fault (R158), or a tensor-scaled destination whose slot is not enabled (R71). -/
def descriptorBad (s : State) (d : DmaDesc) : Bool :=
  d.rsvd != 0 || addressBad d.srcKind d.src || addressBad d.dstKind d.dst || d.dst2Kind == 3 || (d.dual && addressBad d.dst2Kind d.dst2) ||
    d.policy == 3 || d.policy2 == 3 || d.rows == 0 || d.cols == 0 || dmaNumBad d.srcNum || dmaNumBad d.dstNum ||
    (d.dual && (d.form == 0 || d.form2 == 0 || d.expand)) || (d.expand && d.form == 0) || (d.mode == 1 && fld d.dstNum 3 0 == 0) ||
    (d.tensorDst && !stewardOn s (numericOf d.dstNum).slot)

/-! ### Jobs -/

def getJob (s : State) (c : Nat) : Option DmaJob := (s.dma[c]?).getD none
def setJob (s : State) (c : Nat) (j : Option DmaJob) : State := { s with dma := s.dma.set c j }
def modJob (s : State) (c : Nat) (f : DmaJob → DmaJob) : State :=
  match getJob s c with
  | some j => setJob s c (some (f j))
  | none => s

def dmaMaster (c : Nat) : Master := .dma (Fin.ofNat 32 c)

/-- The descriptor at the tail of a channel's ring (R160). -/
def ringSlot (s : State) (c : Nat) : Nat :=
  getReg s DMA (0x100 + 32 * c) + 64 * (getReg s DMA (0x118 + 32 * c) % 2 ^ getReg s DMA (0x108 + 32 * c))

/-- The channel may take a descriptor: enabled, not error-stopped, idle, its ring of a legal size and not empty (R159, R160). -/
def mayTake (s : State) (c : Nat) : Bool :=
  bit s.dmaOn.toNat c && !(blk s DMA).errorStopped && (getJob s c).isNone && getReg s DMA (0x110 + 32 * c) != getReg s DMA (0x118 + 32 * c) &&
    decide (1 ≤ getReg s DMA (0x108 + 32 * c) ∧ getReg s DMA (0x108 + 32 * c) ≤ 16)

/-- The channel takes its next descriptor, if that one is of a mode (R158, R159): a descriptor fault ends it at once, and a tensor-scaled destination
makes it a writer, which waits for a pending commit (R89, R93). -/
def takeDescriptor (s : State) (c mode : Nat) : State :=
  if mayTake s c then
    let (rd, s') := readSpan (dmaMaster c) s (ringSlot s c) 64
    let v := ofBytes rd.data
    let d := dmaDesc v
    if d.mode ≠ mode then s
    else
      let bad := !rd.poison.isEmpty || descriptorBad s' d
      let slot := (numericOf d.dstNum).slot
      if !bad && d.tensorDst && slotPending (slotBits s slot) then s
      else
        let (t, s) := readTime s' DMA
        let s := setReg s DMA (0x118 + 32 * c) ((getReg s DMA (0x118 + 32 * c) + 1) % 2 ^ 32)
        let (w, s) := if !bad && d.tensorDst then
            (let r := takeWriter s slot; ((some ({ slot := slot, scale := r.1 } : Writer)), r.2)) else (none, s)
        setJob s c (some { desc := BitVec.ofNat 512 v, started := t, total := d.units, fault := if bad then 5 else 0, finished := bad,
                           poisonReads := rd.bad, corrReads := rd.corr, writer := w })
  else s

/-! ### Source granules -/

/-- A byte range cut at 128-byte boundaries. -/
def accessChunks (a n : Nat) : List (Nat × Nat) :=
  if n = 0 then []
  else (List.range ((a + n - 1) / 128 - a / 128 + 1)).map (fun i =>
    let lo := max a (128 * (a / 128 + i))
    (lo, min (a + n) (128 * (a / 128 + i) + 128) - lo))

/-- Granules of a range, by address. -/
def rangeAddrs (a n : Nat) : List Nat := (pieces a n).map (fun p => 32 * p.1)

def DmaJob.has (j : DmaJob) (a : Nat) : Bool := j.got.any (fun g => g.1 == a)

/-- Granules that an access brings join the job's. -/
def gotGranules (a : Nat) (data : List Byte) (bad : Nat → Bool) : List (Nat × List Byte × Bool) :=
  ((chunks 32 (data.length / 32 + 1) data).zipIdx).map (fun p => (a + 32 * p.2, p.1, bad p.2))

/-- The channel waits for a response. -/
def dmaWaits (s : State) (c : Nat) (write : Bool) : Bool := s.remote.any (fun r => r.master == dmaMaster c && r.isWrite == write)

/-- One chunk of a source range is read, or its request leaves; `consumes` is false for a copy that carries codewords (R541). -/
def fetchChunk (s : State) (c kind : Nat) (consumes : Bool) (x : Nat × Nat) : State :=
  match getJob s c with
  | none => s
  | some j =>
    if (rangeAddrs x.1 x.2).all j.has || s.remote.any (fun r => r.master == dmaMaster c && !r.isWrite && r.addr == x.1) then s
    else
      let lost := fun (s : State) => modJob s c (fun j =>
        { j with got := j.got ++ gotGranules x.1 (List.replicate x.2 0) (fun _ => true), poisonReads := j.poisonReads + x.2 / 32 })
      match resolve (dmaMaster c) s kind x.1 0 true with
      | (.here a, s) =>
        let (rd, s) := readSpan (dmaMaster c) s a x.2
        let s := if consumes then rd.poison.foldl (fun s g => notePoisonConsumed s DMA (32 * g) c) s else s
        modJob s c (fun j => { j with got := j.got ++ gotGranules x.1 rd.data (fun i => rd.poison.contains (a / 32 + i)),
                                      poisonReads := j.poisonReads + rd.bad, corrReads := j.corrReads + rd.corr })
      | (.away dst route, s) =>
        (match sendRequest (dmaMaster c) s dst route kind x.1 (x.2 / 32) false [] 0 with
         | .inl _ => lost s
         | .inr r => r.2)
      | (_, s) => lost s

/-- The whole granules of source ranges are read; the answer says whether all have arrived. -/
def fetchRanges (s : State) (c kind : Nat) (consumes : Bool) (rs : List (Nat × Nat)) : Bool × State :=
  let xs := rs.flatMap (fun r => accessChunks (r.1 / 32 * 32) (32 * ((r.1 + r.2 + 31) / 32) - r.1 / 32 * 32))
  let s := xs.foldl (fun s x => fetchChunk s c kind consumes x) s
  (match getJob s c with
   | some j => xs.all (fun x => (rangeAddrs x.1 x.2).all j.has)
   | none => false, s)

/-- Bytes of a source range that has arrived, and whether a granule of it is poisoned. -/
def DmaJob.bytes (j : DmaJob) (a n : Nat) : List Byte × Bool :=
  (pieces a n).foldl (fun (acc : List Byte × Bool) p =>
    match j.got.find? (fun g => g.1 == 32 * p.1) with
    | some g => (acc.1 ++ ((g.2.1.drop p.2.1).take p.2.2), acc.2 || g.2.2)
    | none => (acc.1 ++ List.replicate p.2.2 0, true)) ([], false)

/-! ### Dense rows, R65, R66 -/

/-- Bytes of a row's value region and scale region. -/
def rowShape (num len : Nat) : Nat × Nat :=
  let n := numericOf num
  let v := ceilDiv (len * fmtBits n.format) 8
  if n.scaling = 1 then (32 * ceilDiv v 32, 32 * ceilDiv (ceilDiv len n.block) 32) else (v, 0)

/-- Ranges of a dense source: row i, and the tensor scale byte in the 32 bytes before the tensor (log 22). -/
def DmaDesc.rowRange (d : DmaDesc) (i : Nat) : Nat × Nat :=
  let sh := rowShape d.srcNum d.cols
  (d.src + 32 * d.srcPitch * i, sh.1 + sh.2)

def DmaDesc.scaleRange (d : DmaDesc) : List (Nat × Nat) := if (numericOf d.srcNum).scaling = 2 then [(d.src - 32, 1)] else []

/-- Element (i, j) of a dense source, and whether it depends on a poisoned granule. -/
def sourceAt (d : DmaDesc) (j : DmaJob) (row col : Nat) : F32 × Bool :=
  let n := numericOf d.srcNum
  let a := (d.rowRange row).1
  let w := fmtBits n.format
  let (bs, p) := j.bytes (a + col * w / 8) (((col * w % 8) + w + 7) / 8)
  let code := fld (ofBytes bs) (col * w % 8 + w - 1) (col * w % 8)
  let (sc, q) := if n.scaling = 1 then j.bytes (a + (rowShape d.srcNum d.cols).1 + col / n.block) 1
    else if n.scaling = 2 then j.bytes (d.src - 32) 1 else ([127], false)
  if p || q then (0, true)
  else match fmtOf n.format with
    | some f => (decodeScaled f code (ofBytes sc), false)
    | none => (0, false)

/-! ### Conversion of runs of values, R72, R78 to R85 -/

/-- Element codes, scale bytes, blocks that were not finite, and the writer's notes. -/
structure Packed where
  codes : List Nat
  scales : List Nat := []
  nans : Nat := 0
  writer : Option Writer := none
deriving DecidableEq, Repr

/-- A run of values that starts at a block boundary, converted by nearest-even. -/
def packValues (num : Nat) (w : Option Writer) (vals : List F32) : Packed :=
  let n := { numericOf num with sr := false }
  if n.scaling = 1 then
    let r := quantBlocks n false (vals.length + 1) (vals.map (fun v => 256 * v.toNat)) (vals.map (fun _ => 0))
    { codes := r.1, scales := r.2.1, nans := r.2.2.2, writer := w }
  else
    match fmtOf n.format with
    | none => { codes := [], writer := w }
    | some f =>
      let e := if n.scaling = 2 then (w.map (·.scale)).getD 0 else 0
      let cv := vals.map (fun v => convert f n.ovf none ((ofF32 v).scale e))
      { codes := cv.map (·.code),
        writer := w.map (fun w => (vals.zip cv).foldl (fun w x => w.note x.1 x.2) w) }

/-! ### Writes -/

/-- A byte range cut into aligned pieces of 8, 4, 2 or 1 bytes (R466); `fuel` bounds their number. -/
def maskedPieces : Nat → Nat → Nat → List (Nat × Nat)
  | 0, _, _ => []
  | fuel + 1, a, n =>
    if n = 0 then []
    else
      let k := if a % 8 = 0 ∧ 8 ≤ n then 8 else if a % 4 = 0 ∧ 4 ≤ n then 4 else if a % 2 = 0 ∧ 2 ≤ n then 2 else 1
      (a, k) :: maskedPieces fuel (a + k) (n - k)

/-- A WRITE_MASKED of 1, 2, 4 or 8 bytes, which stand in the payload granule where they stand in their own (log 25). -/
def sendMasked (m : Master) (s : State) (dst route kind a : Nat) (bs : List Byte) (poison : Bool) : Nat ⊕ Nat × State :=
  issueRequest s { tag := 0, master := m, addr := a, granules := 1, isWrite := true, sentAt := 0, kind := kind, stream := streamOf m, dst := dst, route := route }
    (ownHeader s dst 3 0 kind (frameOffset kind a) 0 0 bs.length.log2 (b2n poison)) (List.replicate (a % 32) 0 ++ bs ++ List.replicate (32 - a % 32 - bs.length) 0)

/-- A write that leaves for another module: whole granules in one frame, parts in masked writes. False where one cannot leave. -/
def sendWrite (m : Master) (s : State) (dst route kind a : Nat) (bs : List Byte) (poison : List Nat) : Bool × State :=
  if a % 32 = 0 ∧ bs.length % 32 = 0 then
    match sendRequest m s dst route kind a (bs.length / 32) true bs (poisonBits (a / 32) poison) with
    | .inl _ => (false, s)
    | .inr r => (true, r.2)
  else
    (maskedPieces (bs.length + 1) a bs.length).foldl (fun (acc : Bool × State) p =>
      match sendMasked m acc.2 dst route kind p.1 ((bs.drop (p.1 - a)).take p.2) (poison.contains (p.1 / 32)) with
      | .inl _ => (false, acc.2)
      | .inr r => (acc.1, r.2)) (true, s)

/-- One write of a channel's destination: a discarded one is noted in the job (R164, R481). Poisoned granules are numbered by their addresses. -/
def dmaWrite (s : State) (c kind a : Nat) (bs : List Byte) (poison : Bool) (carried : List Nat) : State :=
  (accessChunks a bs.length).foldl (fun s x =>
    let part := (bs.drop (x.1 - a)).take x.2
    let bad := (pieces x.1 x.2).map (·.1) |>.filter (fun g => poison || carried.contains g)
    let s := if bad.isEmpty then s else modJob s c (fun j => { j with poisoned := true })
    let lost := fun (s : State) => modJob s c (fun j => { j with unmapped := true })
    match resolve (dmaMaster c) s kind x.1 1 true with
    | (.here la, s) =>
      let r := writeSpan (dmaMaster c) s la part (bad.map (fun g => g - x.1 / 32 + la / 32))
      if r.1 then lost r.2 else noteLines r.2 la part.length
    | (.away dst route, s) =>
      let r := sendWrite (dmaMaster c) s dst route kind x.1 part bad
      if r.1 then r.2 else lost r.2
    | (_, s) => lost s) s

/-! ### Dense destinations -/

/-- Elements after which a dense row of a numeric word can be cut. -/
def cutSize (num : Nat) : Nat := let n := numericOf num; if n.scaling = 1 then n.block else if fmtBits n.format % 8 = 0 then 1 else 4

/-- The elements of a row of `len` that are complete once elements lo to hi − 1 are, and were not before. -/
def completeRange (num len lo hi : Nat) : Nat × Nat :=
  let g := cutSize num
  (lo / g * g, if len ≤ hi then len else hi / g * g)

/-- Elements x to y − 1 of destination row r written, with the row's padding after its last element (R65, R66). -/
def writeRow (s : State) (c : Nat) (d : DmaDesc) (len r x y : Nat) (vals : List F32) (poison : Bool) : State :=
  match getJob s c with
  | none => s
  | some j =>
    let n := numericOf d.dstNum
    let w := fmtBits n.format
    let sh := rowShape d.dstNum len
    let a := d.dst + 32 * d.dstPitch * r
    let p := packValues d.dstNum j.writer vals
    let fill := fun (bs : List Byte) (start stop : Nat) => if y = len then bs ++ List.replicate (stop - start - bs.length) 0 else bs
    let s := setJob s c (some { j with writer := p.writer })
    let s := countN s NUMERIC 0x090 32 p.nans
    let s := dmaWrite s c d.dstKind (a + x * w / 8) (fill (pack w p.codes) (x * w / 8) sh.1) poison []
    if n.scaling = 1 then dmaWrite s c d.dstKind (a + sh.1 + x / n.block) (fill (p.scales.map (BitVec.ofNat 8)) (x / n.block) sh.2) poison [] else s

/-- The tensor scale byte of a tensor-scaled dense destination, written with the first unit (R89; log 22). -/
def writeTensorScale (s : State) (c : Nat) (d : DmaDesc) : State :=
  match getJob s c with
  | some j =>
    (match j.writer with
     | some w => if j.done = 0 then dmaWrite s c d.dstKind (d.dst - 32) [BitVec.ofInt 8 (127 - w.scale)] false [] else s
     | none => s)
  | none => s

/-! ### Copies, R156 -/

/-- The codewords are carried: FORMAT and scaling are the same, not tensor-scaled, and the rows keep their place (R536, R541; log 22). -/
def DmaDesc.carries (d : DmaDesc) : Bool :=
  let a := numericOf d.srcNum
  let b := numericOf d.dstNum
  !d.orient && a.format == b.format && a.scaling == b.scaling && a.scaling != 2 && (a.scaling != 1 || a.block == b.block)

/-- One unit of a copy; none while a response is awaited. -/
def copyUnit (s : State) (c : Nat) (d : DmaDesc) (u : Nat) : Option State × State :=
  let all := (List.range d.rows).map d.rowRange
  let (ok, s) := fetchRanges s c d.srcKind (!d.carries) ((if d.orient then all else [d.rowRange u]) ++ d.scaleRange)
  match ok, getJob s c with
  | true, some j =>
    if d.carries then
      let (a, n) := d.rowRange u
      let b := d.dst + 32 * d.dstPitch * u
      let carried := ((pieces a n).filter (fun p => (j.bytes (32 * p.1) 1).2)).map (fun p => p.1 - a / 32 + b / 32)
      (some (dmaWrite s c d.dstKind b (j.bytes a n).1 false carried), s)
    else if d.orient then
      let (x, y) := completeRange d.dstNum d.rows u (u + 1)
      let s := writeTensorScale s c d
      (some (if y ≤ x then s else (List.range d.cols).foldl (fun s r =>
        let vals := (List.range (y - x)).map (fun k => (sourceAt d j (x + k) r).1)
        writeRow s c d d.rows r x y vals ((List.range d.rows).any (fun k => (sourceAt d j k r).2))) s), s)
    else
      let vals := (List.range d.cols).map (sourceAt d j u)
      (some (writeRow (writeTensorScale s c d) c d d.cols u 0 d.cols (vals.map (·.1)) (vals.any (·.2))), s)
  | _, _ => (none, s)

/-! ### Compression, R156, R157, R161 to R164 -/

/-- Non-zero as the compressor counts (R161). -/
def nonZero (v : F32) : Bool := fmag v != 0

/-- The positions of a group that PRUNE keeps: the n of greatest magnitude, NaN above infinity, lower positions first (R161). -/
def keptPositions (n : Nat) (vals : List F32) : List Nat :=
  let rank := fun (v : F32) => if isNaN v then 2 ^ 31 else fmag v
  let nz := (vals.zipIdx).filter (fun p => nonZero p.1)
  ((nz.mergeSort (fun a b => decide (rank a.1 > rank b.1) || (rank a.1 == rank b.1 && decide (a.2 ≤ b.2)))).take n).map (·.2)

/-- A group after its policy: pruned where it is an excess group of a pruning orientation. Every position that pruning does not keep becomes +0, one that
held −0 too (DESIGN CHOICE, log 84: R161 says that the rest become zero, and not with which sign). -/
def groupAfter (n policy : Nat) (vals : List F32) : List F32 :=
  if policy = 1 ∧ (vals.filter nonZero).length > n then (vals.zipIdx).map (fun p => if (keptPositions n vals).contains p.2 then p.1 else 0) else vals

/-- Positions 8g to 8g + 7 of primary row r, as the source holds them. -/
def primaryGroup (d : DmaDesc) (j : DmaJob) (r g : Nat) : List (F32 × Bool) :=
  (List.range 8).map (fun p =>
    let k := 8 * g + p
    if r < d.rowExt ∧ k < d.kExt then (if d.orient then sourceAt d j k r else sourceAt d j r k) else (0, false))

/-- Positions 8g to 8g + 7 of secondary row r, as the primary tiles hold them after their policy (R157, R164; log 26). -/
def secondaryGroup (d : DmaDesc) (j : DmaJob) (r g : Nat) : List (F32 × Bool) :=
  (List.range 8).map (fun p =>
    let row := 8 * g + p
    if r < d.kExt ∧ row < d.rowExt then
      let grp := primaryGroup d j row (r / 8)
      ((groupAfter (formN d.form) d.policy (grp.map (·.1))).getD (r % 8) 0, grp.any (·.2))
    else (0, false))

/-- A tile formed: its bytes, or the fault that stops it. -/
structure FormedTile where
  bytes : List Byte := []
  size : Nat := 0
  dense : Bool := false
  pruned : Nat := 0
  nans : Nat := 0
  poison : Bool := false
  writer : Option Writer := none
  fault : Nat := 0
  row : Nat := 0
  group : Nat := 0
deriving DecidableEq, Repr

/-- One row of a tile: value codes, metadata codes, scale bytes, blocks that were not finite, the writer. -/
def formRow (num n : Nat) (dense : Bool) (w : Option Writer) (groups : List (List F32)) : List Nat × List Nat × List Nat × Nat × Option Writer :=
  if dense then
    let p := packValues num w groups.flatten
    (p.codes, [], p.scales, p.nans, p.writer)
  else
    let slots := groups.map (fun g =>
      let nz := (g.zipIdx).filter (fun p => nonZero p.1)
      (nz.map (·.1) ++ List.replicate (n - nz.length) 0, nz))
    let valid := slots.flatMap (fun x => (List.range n).map (fun i => decide (i < x.2.length)))
    let p := packValues num w (slots.flatMap (·.1))
    let codes := (p.codes.zip valid).map (fun x => if x.2 then x.1 else 0)
    let metas := slots.map (fun x => at_ x.2.length (3 * n) + (((x.2.map (·.2)).zipIdx).map (fun q => at_ q.1 (3 * q.2))).foldl (· + ·) 0)
    (codes, metas, p.scales, p.nans, p.writer)

/-- A tile of 64 rows of kT positions from its groups (R161 to R163). Of several excess groups under FAULT, FROW and FGROUP name the one with the lowest
group index, and among those the lowest row (DESIGN CHOICE, log 84: R165 gives the compressor no order). -/
def formTile (num form policy kT kLimit : Nat) (w : Option Writer) (rows : List (List (List (F32 × Bool)))) : FormedTile :=
  let n := formN form
  let vals := rows.map (fun r => r.map (fun g => g.map (·.1)))
  let excess := fun (g : List F32) => decide ((g.filter nonZero).length > n)
  let found := (List.range (kT / 8)).findSome? (fun g => (List.range 64).findSome? (fun r => if excess ((vals.getD r []).getD g []) then some (r, g) else none))
  match found, policy with
  | some (r, g), 2 => { fault := 1, row := r, group := g }
  | _, _ =>
    let after := vals.map (fun r => r.map (groupAfter n policy))
    let pruned := (((vals.zip after).map (fun p => (p.1.flatten.filter nonZero).length - (p.2.flatten.filter nonZero).length))).foldl (· + ·) 0
    let nw := numericOf num
    let bits := fmtBits nw.format
    let small := tileLayout n kT bits nw.block false (nw.scaling == 1)
    let full := tileLayout n kT bits nw.block true (nw.scaling == 1)
    let isExcess := found.isSome && policy == 0
    let dense := isExcess || decide (full.size ≤ small.size)
    let l := if dense then full else small
    let (out, w') := after.foldl (fun (acc : List (List Nat × List Nat × List Nat × Nat) × Option Writer) g =>
      let r := formRow num n dense acc.2 g
      (acc.1 ++ [(r.1, r.2.1, r.2.2.1, r.2.2.2.1)], r.2.2.2.2)) ([], w)
    let h : TileHeader := { tscale := if nw.scaling = 2 then (127 - (w.map (·.scale)).getD 0).toNat else 0, num := num, kT := kT, kLimit := kLimit, form := form,
                            dense := dense, excess := isExcess, moff := l.moff, soff := l.soff, tsize := l.size, rsvd := 0, hver := 1 }
    let bytes := bytesOf h.bits 32 ++ pad32 (out.flatMap (fun r => pack bits r.1)) ++ pad32 (pack (4 * n) (out.flatMap (fun r => r.2.1))) ++
      pad32 (out.flatMap (fun r => r.2.2.1.map (BitVec.ofNat 8)))
    { bytes := bytes, size := l.size, dense := dense, pruned := pruned, nans := (out.map (fun r => r.2.2.2)).foldl (· + ·) 0,
      poison := rows.any (fun r => r.any (fun g => g.any (·.2))), writer := w' }

/-- Tile t of an orientation, formed from the source. -/
def formFrom (d : DmaDesc) (j : DmaJob) (second : Bool) (t : Nat) : FormedTile :=
  let n := if second then d.blocks2 else d.blocks
  let kT := if second then d.kT2 else d.kT
  let ext := if second then d.rowExt else d.kExt
  let strip := t / n
  let blk := t % n
  let rows := (List.range 64).map (fun r => (List.range (kT / 8)).map (fun g =>
    if second then secondaryGroup d j (64 * strip + r) (blk * (kT / 8) + g) else primaryGroup d j (64 * strip + r) (blk * (kT / 8) + g)))
  formTile d.dstNum (if second then d.form2 else d.form) (if second then d.policy2 else d.policy) kT (min kT (ext - blk * kT)) j.writer rows

/-- The descriptor stops at a unit with a fault. -/
def dmaFault (j : DmaJob) (fault tile row group orient : Nat) : DmaJob :=
  { j with fault := fault, tile := tile, row := row, group := group, orient := orient, finished := true }

/-- One unit of a compression: a tile formed whole and written, or a fault (R162 to R164). -/
def compressUnit (s : State) (c : Nat) (d : DmaDesc) (u : Nat) : Option State × State :=
  let (ok, s) := fetchRanges s c d.srcKind true ((List.range d.rows).map d.rowRange ++ d.scaleRange)
  match ok, getJob s c with
  | true, some j =>
    let second := decide (d.tiles ≤ u)
    let t := if second then u - d.tiles else u
    let f := formFrom d j second t
    let stride := if second then d.dst2Pitch else d.dstPitch
    let orient := b2n second
    if f.fault ≠ 0 then (some (setJob s c (some (dmaFault j f.fault t f.row f.group orient))), s)
    else
      let s := countN s DMA 0x028 32 f.pruned
      let j := { j with pruned := j.pruned + f.pruned, writer := f.writer }
      if stride < f.size then (some (setJob s c (some (dmaFault j 2 t 0 0 orient))), s)
      else
        let s := setJob s c (some { j with denseTiles := j.denseTiles + b2n f.dense })
        let s := countN (countN s DMA 0x020 32 (b2n f.dense)) NUMERIC 0x090 32 f.nans
        (some (dmaWrite s c (if second then d.dst2Kind else d.dstKind) ((if second then d.dst2 else d.dst) + 32 * stride * t) f.bytes f.poison []), s)
  | _, _ => (none, s)

/-! ### Expansion, R156 -/

def DmaDesc.tileAt (d : DmaDesc) (t : Nat) : Nat := d.src + 32 * d.srcPitch * t

/-- The header of a tile that has arrived; none where it is poisoned. -/
def headerOf (d : DmaDesc) (j : DmaJob) (t : Nat) : Option TileHeader :=
  let (bs, p) := j.bytes (d.tileAt t) 32
  if p then none else some (tileHeader (ofBytes bs))

/-- A granule that the tile's used groups read is poisoned. -/
def tilePoisoned (d : DmaDesc) (j : DmaJob) (t : Nat) (h : TileHeader) : Bool := (tileRanges h d.kT).any (fun r => (j.bytes (d.tileAt t + r.1) r.2).2)

/-- Tile row r, position k of tile t: the value, and whether it depends on poison. -/
def expandedAt (d : DmaDesc) (j : DmaJob) (t r k : Nat) : F32 × Bool :=
  match headerOf d j t with
  | none => (0, true)
  | some h =>
    if tilePoisoned d j t h then (0, true)
    else
      let tile := (j.bytes (d.tileAt t) (32 * h.tsize)).1
      -- a dense row holds every element, its zeros with their signs (R63, R147)
      (if h.dense then tileValue h tile r k else ((groupValues h tile r (k / 8)).getD (k % 8) none).getD 0, false)

/-- Element (i, k) of the matrix that the tiles hold, by its primary row and position. -/
def expandedMatrix (d : DmaDesc) (j : DmaJob) (i k : Nat) : F32 × Bool := expandedAt d j (i / 64 * d.blocks + k / d.kT) (i % 64) (k % d.kT)

/-- What the checks of R150 and R151 find in a tile: a fault, row and group. -/
def expandFault (d : DmaDesc) (j : DmaJob) (t : Nat) : Option (Nat × Nat × Nat) :=
  match headerOf d j t with
  | none => none
  | some h =>
    if headerBad h d.form d.srcNum d.kT || h.excess then some (4, 0, 0)
    else if tilePoisoned d j t h then none
    else (firstGroupFault h (j.bytes (d.tileAt t) (32 * h.tsize)).1 (d.kT / 8)).map (fun f => (3, f.2.1, f.2.2))

/-- One unit of an expansion. -/
def expandUnit (s : State) (c : Nat) (d : DmaDesc) (u : Nat) : Option State × State :=
  let (ok, s) := fetchRanges s c d.srcKind true [(d.tileAt u, 32)]
  match ok, getJob s c with
  | true, some j =>
    let good := match headerOf d j u with | some h => !(headerBad h d.form d.srcNum d.kT || h.excess) | none => false
    let (ok, s) := if good then
        (match headerOf d j u with | some h => fetchRanges s c d.srcKind true ((tileRanges h d.kT).map (fun r => (d.tileAt u + r.1, r.2))) | none => (true, s))
      else (true, s)
    match ok, getJob s c with
    | true, some j =>
      (match expandFault d j u with
       | some (f, r, g) => (some (setJob s c (some (dmaFault j f u r g 0))), s)
       | none =>
         let strip := u / d.blocks
         let blk := u % d.blocks
         let s := writeTensorScale s c d
         let run := fun (s : State) (len row lo hi : Nat) (at_ : Nat → F32 × Bool) =>
           let (x, y) := completeRange d.dstNum len lo (min hi len)
           if y ≤ x then s
           else
             let vals := (List.range (y - x)).map (fun i => at_ (x + i))
             writeRow s c d len row x y (vals.map (·.1)) (vals.any (·.2))
         (some (if d.orient then
             ((List.range d.kT).map (· + blk * d.kT)).foldl (fun s k =>
               if k < d.kExt then run s d.rowExt k (64 * strip) (64 * strip + 64) (fun i => expandedMatrix d j i k) else s) s
           else
             ((List.range 64).map (· + 64 * strip)).foldl (fun s i =>
               if i < d.rowExt then run s d.kExt i (blk * d.kT) (blk * d.kT + d.kT) (fun k => expandedMatrix d j i k) else s) s), s))
    | _, _ => (none, s)
  | _, _ => (none, s)

/-! ### The work of a channel -/

/-- A unit whose writes are all answered: it is done, or it stops the descriptor with the unmapped-write fault (R164, R481). -/
def settleUnit (s : State) (c : Nat) (d : DmaDesc) : State :=
  modJob s c (fun j =>
    if j.finished || !j.out then j
    else if j.unmapped then
      (let second := d.mode == 1 && decide (d.tiles ≤ j.done)
       { dmaFault j 6 (if second then j.done - d.tiles else j.done) 0 0 (b2n second) with out := false })
    else { j with out := false, done := j.done + 1 })

/-- One unit starts. -/
def startUnit (s : State) (c : Nat) (d : DmaDesc) (u : Nat) : State :=
  let r := match d.mode with
    | 0 => copyUnit s c d u
    | 1 => compressUnit s c d u
    | _ => expandUnit s c d u
  match r.1 with
  | some s => modJob s c (fun j => if j.finished then j else { j with out := true })
  | none => r.2

/-- Units one after another, until all are done, one faults, or a response is awaited; `fuel` bounds their number. -/
def dmaUnits : Nat → State → Nat → DmaDesc → State
  | 0, s, _, _ => s
  | fuel + 1, s, c, d =>
    if dmaWaits s c true || dmaWaits s c false then s
    else
      let s := settleUnit s c d
      match getJob s c with
      | none => s
      | some j =>
        if j.finished then s
        else if j.done = j.total then setJob s c (some { j with finished := true })
        else dmaUnits fuel (startUnit s c d j.done) c d

/-- A command of a mode: the channel takes its next descriptor of that mode, or goes on with the one it has, as far as it can. -/
def dmaWork (s : State) (c mode : Nat) : State :=
  let s := takeDescriptor s c mode
  match getJob s c with
  | none => s
  | some j =>
    let d := dmaDesc j.desc.toNat
    if d.mode ≠ mode ∨ j.finished then s else dmaUnits (2 * j.total + 2) s c d

/-- The detail of a DMA completion record (R165). -/
def dmaDetail (j : DmaJob) : Nat :=
  at_ (min j.pruned (2 ^ 32 - 1)) 96 + at_ (j.denseTiles % 2 ^ 24) 72 + at_ j.fault 64 + at_ (j.tile % 2 ^ 24) 40 + at_ (j.row % 64) 34 +
    at_ (j.group % 1024) 24 + j.orient % 2

/-- A finished descriptor reports to the steward, writes its record, and leaves the channel free (R89, R159, R164, R571). -/
def dmaEnd (s : State) (c : Nat) : State :=
  match getJob s c with
  | none => s
  | some j =>
    if !j.finished || dmaWaits s c true then s
    else
      let d := dmaDesc j.desc.toNat
      let s := match j.writer with | some w => reportWriter s w | none => s
      let s := writeRecord (dmaMaster c) s d.record
        { type := 2, status := if j.fault ≠ 0 then 2 else if j.poisoned then 3 else 0, reason := j.fault, unit := c, tag := d.tag, done := j.done, total := j.total,
          start := j.started, corr := j.corrReads, uncorr := j.poisonReads, detail := dmaDetail j }
      let s := setJob s c none
      let s := { s with dmaRejected := s.dmaRejected.filter (dmaChanEnabled s) }
      if s.dmaRejected.isEmpty then setBlk s DMA { blk s DMA with rejected := false, rejectSlot := 0 } else s

/-- DMA_COPY: R156. -/
def execDmaCopy (c : Fin 32) (s : State) : Host.Outcome State Fault Refusal := .next (dmaWork s c.val 0)

/-- DMA_COMPRESS: R156, R164. -/
def execDmaCompress (c : Fin 32) (s : State) : Host.Outcome State Fault Refusal := .next (dmaWork s c.val 1)

/-- DMA_EXPAND: R156. -/
def execDmaExpand (c : Fin 32) (s : State) : Host.Outcome State Fault Refusal := .next (dmaWork s c.val 2)

/-- DMA_END: R164. -/
def execDmaEnd (c : Fin 32) (s : State) : Host.Outcome State Fault Refusal := .next (dmaEnd s c.val)

end Sys2Proof.Machine
end

