-- ==== Sys2Proof/Machine/Shake.lean ====
section
/-! DEFINITION. SHAKE256 and Ed448ph with an empty context, the functions that 14_startup_host.md R500, R501, R507, 08_routing_exchange.md R286 and 11_collectives.md R401 name; their definitions are the published standards FIPS 202 and RFC 8032 (PRESUMED, log 12). -/

namespace Sys2Proof.Machine

/-! ### SHAKE256 -/

/-- Rotations of the 25 lanes, lane x + 5y. -/
def keccakTurns : List Nat :=
  [0, 1, 62, 28, 27, 36, 44, 6, 55, 20, 3, 10, 43, 25, 39, 41, 45, 15, 21, 8, 18, 2, 61, 56, 14]

/-- The constants of the 24 rounds. -/
def keccakRounds : List Word64 :=
  [0x0000000000000001, 0x0000000000008082, 0x800000000000808A, 0x8000000080008000, 0x000000000000808B, 0x0000000080000001,
   0x8000000080008081, 0x8000000000008009, 0x000000000000008A, 0x0000000000000088, 0x0000000080008009, 0x000000008000000A,
   0x000000008000808B, 0x800000000000008B, 0x8000000000008089, 0x8000000000008003, 0x8000000000008002, 0x8000000000000080,
   0x000000000000800A, 0x800000008000000A, 0x8000000080008081, 0x8000000000008080, 0x0000000080000001, 0x8000000080008008]

/-- One round of the permutation. -/
def keccakRound (a : List Word64) (c : Word64) : List Word64 :=
  let col := (List.range 5).map (fun x => (List.range 5).foldl (fun v y => v ^^^ a.getD (x + 5 * y) 0) 0)
  let mix := (List.range 5).map (fun x => col.getD ((x + 4) % 5) 0 ^^^ (col.getD ((x + 1) % 5) 0).rotateLeft 1)
  let b := (List.range 25).map (fun i =>
    let k := (i % 5 + 3 * (i / 5)) % 5 + 5 * (i % 5)
    (a.getD k 0 ^^^ mix.getD (k % 5) 0).rotateLeft (keccakTurns.getD k 0))
  (List.range 25).map (fun i =>
    let y := i / 5 * 5
    let v := b.getD i 0 ^^^ (~~~ (b.getD (y + (i + 1) % 5) 0) &&& b.getD (y + (i + 2) % 5) 0)
    if i = 0 then v ^^^ c else v)
/-- The permutation. -/
def keccak (a : List Word64) : List Word64 := keccakRounds.foldl keccakRound a

/-- A block of 1,088 bits joined to the state. -/
def absorbBlock (a : List Word64) (block : Nat) : List Word64 :=
  a.zipIdx.map (fun p => if p.2 < 17 then p.1 ^^^ BitVec.ofNat 64 (block / 2 ^ (64 * p.2)) else p.1)

/-- n blocks absorbed from a padded message, lowest first. -/
def absorb : Nat → Nat → List Word64 → List Word64
  | 0, _, a => a
  | n + 1, m, a => absorb n (m / 2 ^ 1088) (keccak (absorbBlock a (m % 2 ^ 1088)))

/-- n blocks of 136 bytes of output. -/
def squeeze : Nat → List Word64 → List Byte
  | 0, _ => []
  | n + 1, a => (a.take 17).flatMap (fun w => bytesOf w.toNat 8) ++ squeeze n (keccak a)

/-- SHAKE256 of the low `bits` bits of a number, bit 0 first. -/
def shake256Bits (m bits n : Nat) : List Byte :=
  let blocks := (bits + 6 + 1087) / 1088
  (squeeze (ceilDiv n 136) (absorb blocks (m % 2 ^ bits + 0x1F * 2 ^ bits + 2 ^ (1088 * blocks - 1)) (List.replicate 25 0))).take n

/-- SHAKE256 of a message of bytes. -/
def shake256 (m : List Byte) (n : Nat) : List Byte := shake256Bits (ofBytes m) (8 * m.length) n

/-! ### Ed448 -/

/-- The field's prime, the curve's constant as −39081, and the order of the base point. -/
def edP : Nat := 2 ^ 448 - 2 ^ 224 - 1
def edD : Nat := edP - 39081
def edL : Nat := 2 ^ 446 - 13818066809895115352007386748515426880336692474882178609894547503885

/-- A power modulo the prime, over the low n bits of the exponent. -/
def powP : Nat → Nat → Nat → Nat
  | 0, _, _ => 1
  | n + 1, b, e => (if e % 2 = 1 then b else 1) * powP n (b * b % edP) (e / 2) % edP

def invP (a : Nat) : Nat := powP 448 (a % edP) (edP - 2)

/-- A point in projective coordinates X, Y, Z. -/
abbrev EdPoint := Nat × Nat × Nat

def edZero : EdPoint := (0, 1, 1)

/-- The base point. -/
def edBase : EdPoint :=
  (0x4F1970C66BED0DED221D15A622BF36DA9E146570470F1767EA6DE324A3D3A46412AE1AF72AB66511433B80E18B00938E2626A82BC70CC05E,
   0x693F46716EB6BC248876203756C9C7624BEA73736CA3984087789C1E05A0C2D73AD3FF1CE67C39C4FDBD132C4ED7C8AD9808795BF230FA14, 1)

/-- Addition of points (RFC 8032, 5.2.4). -/
def edAdd (p q : EdPoint) : EdPoint :=
  let a := p.2.2 * q.2.2 % edP
  let b := a * a % edP
  let c := p.1 * q.1 % edP
  let d := p.2.1 * q.2.1 % edP
  let e := edD * (c * d % edP) % edP
  let f := (b + edP - e) % edP
  let g := (b + e) % edP
  let h := (p.1 + p.2.1) * (q.1 + q.2.1) % edP
  (a * f % edP * ((h + 2 * edP - c - d) % edP) % edP, a * g % edP * ((d + edP - c) % edP) % edP, f * g % edP)

/-- A multiple of a point, over the low n bits of the factor. -/
def edMul : Nat → Nat → EdPoint → EdPoint
  | 0, _, _ => edZero
  | n + 1, k, p => let r := edMul n (k / 2) (edAdd p p); if k % 2 = 1 then edAdd p r else r

/-- Two points are equal. -/
def edSame (p q : EdPoint) : Bool := p.1 * q.2.2 % edP == q.1 * p.2.2 % edP && p.2.1 * q.2.2 % edP == q.2.1 * p.2.2 % edP

/-- The 57 bytes of a point: y, and the low bit of x as the topmost bit. -/
def edEncode (p : EdPoint) : List Byte :=
  let z := invP p.2.2
  bytesOf (p.2.1 * z % edP + p.1 * z % edP % 2 * 2 ^ 455) 57

/-- The point of 57 bytes; none where they name none. -/
def edDecode (bs : List Byte) : Option EdPoint :=
  let v := ofBytes (bs.take 57)
  let y := v % 2 ^ 455
  let sign := v / 2 ^ 455
  if bs.length < 57 ∨ edP ≤ y then none
  else
    let u := (y * y % edP + edP - 1) % edP
    let w := (edD * (y * y % edP) % edP + edP - 1) % edP
    let u3 := u * u % edP * u % edP
    let x := u3 * w % edP * powP 448 (u3 * u % edP * u % edP * (w * w % edP * w % edP) % edP) ((edP - 3) / 4) % edP
    if w * (x * x % edP) % edP ≠ u then none
    else if x = 0 ∧ sign = 1 then none
    else some (if x % 2 = sign then x else edP - x, y, 1)

/-- dom4 with the prehash flag and an empty context. -/
def edDomain : List Byte := [0x53, 0x69, 0x67, 0x45, 0x64, 0x34, 0x34, 0x38, 1, 0]

/-- Ed448ph verification with an empty context (R501): the message is prehashed by SHAKE256 to 64 bytes. -/
def ed448Verifies (key signature message : List Byte) : Bool :=
  let s := ofBytes ((signature.drop 57).take 57)
  match edDecode key, edDecode signature with
  | some a, some r =>
    let k := ofBytes (shake256 (edDomain ++ signature.take 57 ++ key.take 57 ++ shake256 message 64) 114) % edL
    decide (signature.length = 114 ∧ key.length = 57 ∧ s < edL) && edSame (edMul 449 (4 * s) edBase) (edAdd (edMul 3 4 r) (edMul 449 (4 * k) a))
  | _, _ => false

/-- The secret scalar and the prefix of a 57-byte private key. -/
def edSecret (key : List Byte) : Nat × List Byte :=
  let h := shake256 key 114
  let v := ofBytes (h.take 57)
  (v % 2 ^ 447 / 4 * 4 + 2 ^ 447, h.drop 57)

/-- The public key of a private key. -/
def edPublic (key : List Byte) : List Byte := edEncode (edMul 448 (edSecret key).1 edBase)

/-- The Ed448ph signature of a message with an empty context. -/
def ed448Sign (key message : List Byte) : List Byte :=
  let (s, prefix_) := edSecret key
  let ph := shake256 message 64
  let r := ofBytes (shake256 (edDomain ++ prefix_ ++ ph) 114) % edL
  let rb := edEncode (edMul 446 r edBase)
  let k := ofBytes (shake256 (edDomain ++ rb ++ edPublic key ++ ph) 114) % edL
  rb ++ bytesOf ((r + k * s) % edL) 57

end Sys2Proof.Machine
end

