-- ==== Sys2Proof/Machine/Exchange.lean ====
section
/-! DEFINITION. Expert routing and token exchange: dispatches, scouts, grants, carries, posts and returns, 08_routing_exchange.md. -/

namespace Sys2Proof.Machine

/-! ### Descriptors, R280, R281 -/

/-- The fields of a dispatch descriptor. -/
structure DispDesc where
  choices : Nat
  rows : Nat
  waggle : Nat
  ept : Nat
  slotTable : Nat
  summary : Nat
  origin : Nat
  outBase : Nat
  ret : Nat
  done : Nat
  record : Nat
  rowPitch : Nat
  outPitch : Nat
  retPitch : Nat
  ordinal : Nat
  id : Nat
  fwdId : Nat
  layer : Nat
  gen : Nat
  tag : Nat
  tokens : Nat
  experts : Nat
  base : Nat
  size : Nat
  nslots : Nat
  rowBytes : Nat
  kc : Nat
  list : Nat
  back : Bool
  renorm : Bool
  perChoice : Bool
  arm : Bool
  addrKind : Nat
  rot : Nat
  rsvd : Nat
  type : Nat
  version : Nat
deriving DecidableEq, Repr

def dispDesc (v : Nat) : DispDesc :=
  { choices := fld v 1023 982, rows := fld v 981 940, waggle := fld v 939 898, ept := fld v 897 856, slotTable := fld v 855 814, summary := fld v 813 772,
    origin := fld v 771 730, outBase := fld v 729 688, ret := fld v 687 646, done := fld v 645 604, record := fld v 603 562, rowPitch := fld v 561 538,
    outPitch := fld v 537 514, retPitch := fld v 513 490, ordinal := fld v 489 442, id := fld v 441 426, fwdId := fld v 425 410, layer := fld v 409 394,
    gen := fld v 393 378, tag := fld v 377 362, tokens := fld v 361 341, experts := fld v 340 327, base := fld v 326 315, size := fld v 314 302,
    nslots := fld v 301 293, rowBytes := 32 * fld v 292 282, kc := fld v 281 279 + 1, list := fld v 278 277, back := bit v 276, renorm := bit v 275,
    perChoice := bit v 274, arm := bit v 273, addrKind := fld v 272 271, rot := fld v 270 259, rsvd := fld v 258 8, type := fld v 7 4, version := fld v 3 0 }

/-- A DESCRIPTOR fault at taking (R281). -/
def dispatchBad (s : State) (d : DispDesc) : Bool :=
  d.version != 1 || d.type != 1 || d.addrKind != 0 || d.rsvd != 0 ||
  d.size == 0 || decide (4096 < d.base + d.size) || decide (d.size ≤ d.rot) || decide (ownRank s < d.base) || decide (d.base + d.size ≤ ownRank s) ||
  decide (2 ^ 20 < d.tokens) || d.rowBytes == 0 || decide (32 * 1024 < d.rowBytes) || decide (256 < d.nslots) ||
  (!d.back && (d.experts == 0 || decide (8192 < d.experts))) ||
  decide (32 * d.rowPitch < d.rowBytes) || decide (32 * d.outPitch < d.rowBytes) || decide (32 * d.retPitch < d.rowBytes) ||
  d.rows % 32 != 0 || d.waggle % 16 != 0 || d.summary % 32 != 0 || d.origin % 8 != 0 || d.outBase % 32 != 0 || d.ret % 32 != 0 || d.done % 64 != 0 ||
  d.record % 64 != 0 || (!d.back && (d.ept % 32 != 0 || d.slotTable % 8 != 0))

/-- Ranks of a dispatch group, ascending. -/
def DispDesc.group (d : DispDesc) : List Nat := (List.range d.size).map (· + d.base)

/-- Cells of one row's chain (R299). -/
def DispDesc.rowCells (d : DispDesc) : Nat := ceilDiv d.rowBytes 256

/-! ### Active dispatches -/

def dispMaster (l : Nat) : Master := .dispatch (Fin.ofNat 4 l)

def Dispatch.d (x : Dispatch) : DispDesc := dispDesc x.desc.toNat

def byList (s : State) (l : Nat) : Option Dispatch := s.dispatches.find? (fun x => x.list == l)
def byId (s : State) (id : Nat) : Option Dispatch := s.dispatches.find? (fun x => x.d.id == id)

def updDispatch (s : State) (l : Nat) (f : Dispatch → Dispatch) : State := { s with dispatches := mapIf (fun x => x.list == l) f s.dispatches }

/-- A read by a dispatch: bytes, poisoned granules numbered from the first one, and its counts. -/
def dispRead (s : State) (l a n : Nat) : List Byte × List Nat × State :=
  let (rd, s) := readSpan (dispMaster l) s a n
  (rd.data, rd.poison.map (fun g => g - a / 32),
    updDispatch s l (fun x => { x with poisonReads := x.poisonReads + rd.bad, corrReads := x.corrReads + rd.corr }))

/-- A dispatch faults (R312, R313): the first fault stands, nothing more of its flow is sent but the aborts. -/
def faultDispatch (s : State) (l code rank slot pos : Nat) : State :=
  match byList s l with
  | none => s
  | some x =>
    if x.fault ≠ 0 then s
    else
      let s := updDispatch s l (fun x => { x with fault := code, faultRank := rank, faultSlot := slot, faultPos := pos })
      let s := { count s EXCH 0x070 32 with lastDispatchFault := code }
      if code = 1 then s
      else
        let h : DispatchHeader := { digest := x.digest, dispatchId := BitVec.ofNat 16 x.d.id, gen := BitVec.ofNat 16 x.d.gen, srcRank := BitVec.ofNat 12 (ownRank s), fault := BitVec.ofNat 8 code }
        (x.d.group.filter (· != ownRank s)).foldl (fun s r => sendMessage s 1 x.d.id r (.abort h)) (dropUnsent s 1 x.d.id)

/-- A write by a dispatch: one that is discarded as unmapped faults it (R312). -/
def dispWrite (s : State) (l a : Nat) (bs : List Byte) (poison : List Nat) : State :=
  let (bad, s) := writeSpan (dispMaster l) s a bs (poison.map (· + a / 32))
  if bad then faultDispatch s l 0xE (ownRank s) 0 0 else s

/-- The dispatch runs: started and not faulted. -/
def Dispatch.live (x : Dispatch) : Bool := x.started.isSome && x.fault == 0

/-- A message of the dispatch's flow (R297, R472). -/
def dispSend (s : State) (l dst : Nat) (w : Message) : State :=
  match byList s l with
  | some x => if x.fault = 0 then sendMessage s 1 x.d.id dst w else s
  | none => s

/-! ### Taking descriptors, R279, R282 -/

/-- Messages of a dispatch's flow. -/
def dispMessages (s : State) (id : Nat) : List SentMessage := s.messages.filter (fun m => m.kind == 1 && m.flow == id)

/-- Returns that this chip has sent and that have been acknowledged (R314). -/
def ackedReturns (s : State) (id : Nat) : Nat :=
  ((dispMessages s id).filter (fun m => (match m.what with | .returned .. => true | _ => false) && acknowledged s m)).length

/-- Grants are known: every owner's to this chip and this chip's own, or those of the summary (R309, R314). -/
def Dispatch.known (x : Dispatch) : Bool := x.grantsDone && (x.d.back || x.grantsFrom.length == x.d.size)

/-- The completion record of a dispatch (R314; 15_integrity_faults.md R549 to R552). -/
def dispatchRecord (x : Dispatch) (acked : Nat) : Record :=
  let d := x.d
  let known := x.known
  let admitted := (x.choices.filter (fun c => c.status == 1)).length
  let skipped := (x.choices.filter (fun c => c.status == 2)).length
  let g := if known then sumNat x.granted else 0
  { type := 3, status := if x.fault ≠ 0 then 2 else if x.poisoned then 3 else 0, reason := x.fault, unit := d.list, tag := d.tag, gen := d.gen,
    ordinal := if d.arm then d.ordinal else 0, done := x.returned.length + acked, total := if known then admitted + g else 0, start := x.taken,
    corr := x.corrReads, uncorr := x.poisonReads,
    detail := at_ (if known then admitted % 2 ^ 24 else 0) 104 + at_ (if known then skipped % 2 ^ 24 else 0) 80 + at_ (g % 2 ^ 28) 52 + at_ x.fault 44 +
      at_ (x.faultRank % 4096) 32 + at_ (x.faultSlot % 256) 24 + at_ (x.faultPos % 2 ^ 20) 4 + x.phase % 16 }

/-- Slots of a descriptor ring: the address of entry `tail`. -/
def ringAddr (base size tail bytes : Nat) : Nat := base + bytes * (tail % 2 ^ size)

/-- The dispatch and the head of the chain of a held message. -/
def heldDispatch : HeldMessage → Option (Nat × Nat)
  | .scout h _ c => some (h.dispatchId.toNat, c)
  | .grant h _ c => some (h.dispatchId.toNat, c)
  | .abort h c => some (h.dispatchId.toNat, c)
  | .openMsg .. => none

/-- Messages held for a dispatch that ends are given up (R290, R313). -/
def dropHeld (s : State) (id : Nat) : State :=
  let mine := s.heldMessages.filterMap (fun m => (heldDispatch m).bind (fun p => if p.1 = id then some p.2 else none))
  mine.foldl (fun s c => releaseChain 3 s c) { s with heldMessages := s.heldMessages.filter (fun m => (heldDispatch m).map (·.1) != some id) }

/-- DISPATCH_TAKE: R279 to R282; a poisoned descriptor is a DESCRIPTOR fault (log 21). -/
def takeDispatch (s : State) : State :=
  let st := blk s EXCH
  let size := getReg s EXCH 0x018
  let tail := getReg s EXCH 0x028
  if !isReady s || !st.enabled || st.disabling || st.errorStopped || tail == getReg s EXCH 0x020 || size == 0 || decide (12 < size) then s
  else
    let (rd, s') := readSpan (.dispatch 0) s (ringAddr (getReg s EXCH 0x010) size tail 128) 128
    let v := ofBytes rd.data
    let d := dispDesc v
    if (getList s d.list).state ≠ 0 ∨ (byList s d.list).isSome ∨ (byId s d.id).isSome then s
    else
      let (t, s) := readTime s' EXCH
      let s := setReg s EXCH 0x028 ((tail + 1) % 2 ^ 32)
      let x : Dispatch := { list := d.list, desc := BitVec.ofNat 1024 v, taken := t, poisonReads := rd.bad, corrReads := rd.corr }
      if dispatchBad s d || !rd.poison.isEmpty then
        let s := { count s EXCH 0x070 32 with lastDispatchFault := 1 }
        writeRecord (dispMaster d.list) (dropHeld s d.id) d.record (dispatchRecord { x with fault := 1, faultRank := ownRank s } 0)
      else
        let (w, f) := if d.arm then (match endedAs s d.ordinal with | some h => (none, h) | none => (some d.ordinal, false)) else (none, false)
        openList { s with dispatches := s.dispatches ++ [{ x with waits := w, armFail := f }] } d.list

/-- DISPATCH_TAKE: R279. -/
def execDispatchTake (s : State) : Host.Outcome State Fault Refusal := .next (takeDispatch s)

/-! ### Placement, R284 to R287 -/

/-- NREP, and the rank and slot of replica j, of a placement entry. -/
def nrep (e : Nat) : Nat := fld e 163 160
def replica (e j : Nat) : Nat × Nat := (fld e (20 * j + 19) (20 * j + 8), fld e (20 * j + 7) (20 * j))

/-- The replica that a choice goes to (R285). -/
def chooseReplica (q t n : Nat) : Nat := ((q * 2 ^ 20 + t) * 0x9E3779B9 % 2 ^ 32) * n / 2 ^ 32

/-- The slot table as a snapshot, with each slot's position base (R287). -/
def slotSnaps (words : List Nat) : List SlotSnap :=
  (words.foldl (fun (acc : List SlotSnap × Nat) w =>
    let v := bit w 63
    let cap := fld w 62 42
    (acc.1 ++ [{ valid := v, capacity := cap, expert := fld w 41 26, base := acc.2 }], acc.2 + (if v then cap else 0))) ([], 0)).1

/-- The placement checks of R286. -/
def placementBad (d : DispDesc) (own : Nat) (ept : List Nat) (slots : List SlotSnap) : Bool :=
  ept.zipIdx.any (fun p =>
    decide (8 < nrep p.1) ||
    (List.range (nrep p.1)).any (fun j =>
      let (r, sl) := replica p.1 j
      decide (r < d.base ∨ d.base + d.size ≤ r) ||
      (r == own && !(match slots[sl]? with | some t => t.valid && t.expert == p.2 | none => false)))) ||
  slots.zipIdx.any (fun p => p.1.valid &&
    !(match ept[p.1.expert]? with
      | some e => (List.range (nrep e)).any (fun j => replica e j == (own, p.2))
      | none => false))

/-- Tiles that a dispatch's slots can hold (R304). -/
def maxTiles (slots : List SlotSnap) : Nat := sumNat ((slots.filter (·.valid)).map (fun t => ceilDiv t.capacity 32))

/-- The done array's range. -/
def Dispatch.doneRange (x : Dispatch) : Nat × Nat := (x.d.done, 64 * maxTiles x.slots)

/-- The done array reaches beyond the mapped scratch window, or overlaps that of another active dispatch (R304). -/
def doneBad (s : State) (l base tiles : Nat) : Bool :=
  tiles != 0 &&
  (decide (base < 0x10000000000) || decide (0x10000000000 + scratchBytes s < base + 64 * tiles) ||
   s.dispatches.any (fun x => x.list != l && x.started.isSome && decide (base < x.doneRange.1 + x.doneRange.2 ∧ x.doneRange.1 < base + 64 * tiles)))

/-! ### Starts, R283 to R289, R309, R310 -/

/-- The choices of one record, or the fault that it raises (R288): code and token. -/
def recordChoices (d : DispDesc) (own t : Nat) (ept : List Nat) (rec512 : Nat) : List Choice ⊕ Nat :=
  let es := (List.range d.kc).map (fun i => (i, fld rec512 (64 * i + 63) (64 * i)))
  let bad := es.findSome? (fun p =>
    let e := fld p.2 47 32
    if fld p.2 63 48 ≠ 0 ∨ (d.experts ≤ e ∧ e ≠ 0xFFFF) then some 3
    else if e ≠ 0xFFFF ∧ nrep (ept.getD e 0) = 0 then some 4 else none)
  match bad with
  | some c => .inr c
  | none => .inl (es.map (fun p =>
      let e := fld p.2 47 32
      let g : F32 := BitVec.ofNat 32 (fld p.2 31 0)
      if e = 0xFFFF then { token := t, rank := p.1, expert := e, raw := g, status := 0 }
      else
        let ent := ept.getD e 0
        let j := chooseReplica own t (nrep ent)
        { token := t, rank := p.1, expert := e, raw := g, owner := (replica ent j).1, slot := (replica ent j).2, replica := j }))

/-- The scan of a chip's choice records (R288): the choices, or a fault code with its token. -/
def scanChoices (s : State) (l : Nat) (d : DispDesc) (ept : List Nat) : (List Choice ⊕ (Nat × Nat)) × State :=
  (List.range d.tokens).foldl (fun (acc : (List Choice ⊕ (Nat × Nat)) × State) t =>
    match acc.1 with
    | .inr _ => acc
    | .inl cs =>
      let (bs, p, s) := dispRead acc.2 l (d.choices + 64 * t) 64
      if !p.isEmpty then (.inr (0xB, t), s)
      else match recordChoices d (ownRank s) t ept (ofBytes bs) with
        | .inl c => (.inl (cs ++ c), s)
        | .inr code => (.inr (code, t), s)) (.inl [], s)

/-- The counts that a source sends to an owner, in ascending (slot, rank) (R289). -/
def scoutEntries (cs : List Choice) (owner : Nat) : List ScoutEntry :=
  let mine := cs.filter (fun c => c.status == 3 && c.owner == owner)
  (List.range 2048).filterMap (fun i =>
    let n := (mine.filter (fun c => c.slot == i / 8 && c.rank == i % 8)).length
    if n = 0 then none else some ⟨BitVec.ofNat 8 (i / 8), BitVec.ofNat 3 (i % 8), BitVec.ofNat 21 n⟩)

/-- The header of this chip's messages (R289). -/
def dispHeader (s : State) (x : Dispatch) : DispatchHeader :=
  { digest := x.digest, dispatchId := BitVec.ofNat 16 x.d.id, gen := BitVec.ofNat 16 x.d.gen, srcRank := BitVec.ofNat 12 (ownRank s), fault := 0 }

/-! ### Tiles, R298 to R302 -/

/-- The tiles of granted positions, in ascending T (R298). -/
def buildTiles (slots : List SlotSnap) (granted : List Nat) : List TileState :=
  (((slots.zip granted).zipIdx).foldl (fun (acc : List TileState × Nat) p =>
    let g := p.1.2
    if !p.1.1.valid then acc
    else
      let n := ceilDiv g 32
      (acc.1 ++ (List.range n).map (fun j => { index := acc.2 + j, slot := p.2, j := j, rows := min 32 (g - 32 * j) }), acc.2 + n)) ([], 0)).1

def updTile (s : State) (l i : Nat) (f : TileState → TileState) : State :=
  updDispatch s l (fun x => { x with tiles := mapIf (fun t => t.index == i) f x.tiles })

/-- The owner's next tile asks the pool for its cells (R300). -/
def requestTile (s : State) (l : Nat) : State :=
  match byList s l with
  | none => s
  | some x =>
    match x.tiles.find? (fun t => t.rowList.isNone) with
    | some t =>
      if t.request.isSome || !x.live then s
      else
        let (id, s) := requestCells s 0 l (1 + t.rows * x.d.rowCells)
        updTile s l t.index (fun t => { t with request := some id })
    | none => s

/-- The forage descriptor of a tile (R302; 06_core_programs.md R236). -/
def forageDesc (x : Dispatch) (t : TileState) (seq : Nat) : BitVec 256 :=
  let sl := x.slots.getD t.slot { valid := false, capacity := 0, expert := 0 }
  let last := decide (t.j + 1 = ceilDiv (x.granted.getD t.slot 0) 32)
  BitVec.ofNat 256 (at_ (t.rowList.getD 0) 214 + at_ sl.expert 192 + at_ t.slot 184 + at_ t.j 164 + at_ t.rows 158 + at_ (b2n last) 157 +
    at_ (b2n x.d.back) 156 + at_ x.d.layer 140 + at_ (seq % 2 ^ 32) 32 + 1)

/-- The dispatch combines once its carry rows are sent and every tile of this chip is appended (R314). -/
def notePhase (s : State) (l : Nat) : State :=
  updDispatch s l (fun x => if x.carrySent && x.grantsDone && x.tiles.all (fun t => t.seq.isSome) then { x with phase := max x.phase 3 } else x)

/-- A reserved tile whose present rows have all landed is appended, and its unused cells return (R300, R302). -/
def appendTile (s : State) (l i : Nat) : State :=
  match byList s l with
  | none => s
  | some x =>
    match x.tiles.find? (fun t => t.index == i) with
    | none => s
    | some t =>
      if !x.live || t.rowList.isNone || t.seq.isSome || t.landed.length != t.rows then s
      else
        let seq := nextSeq s l
        let s := match t.request with | some id => dropRequest s id | none => s
        let s := updTile s l i (fun t => { t with seq := some seq })
        notePhase (appendDesc s l (forageDesc x t seq)) l

/-- The entry of a landed row in its tile's row list (R299). -/
def writeEntry (s : State) (l cell pos head : Nat) : State := dispWrite s l (cell + 8 * (pos % 32)) (bytesOf head 8) []

/-- The pool has admitted the cells of the next tile: it has its row-list cell, all zero but for rows that have landed already (R299, R300). -/
def reserveTile (s : State) (l : Nat) : State :=
  match byList s l with
  | none => s
  | some x =>
    match x.tiles.find? (fun t => t.rowList.isNone) with
    | none => s
    | some t =>
      match t.request with
      | none => requestTile s l
      | some id =>
        if !x.live then s
        else
          match makeChain s id 1 1 with
          | (none, _) => s
          | (some cell, s) =>
            let s := dispWrite s l cell (List.replicate 256 0) []
            let s := t.landed.foldl (fun s p => writeEntry s l cell p.1 p.2) s
            let s := updTile s l t.index (fun t => { t with rowList := some cell })
            requestTile (appendTile s l t.index) l

/-! ### Deferred messages, 13_fabric_links.md R471 -/

/-- A message that needs pool cells: admitted with a granted request, or deferred; one behind a deferred message of its flow is deferred too, and the
resent message takes the cells that stay reserved for it. -/
def admitCells (s : State) (kind flow src cls cells : Nat) : Option Nat × State :=
  match s.awaited.find? (fun w => w.kind == kind && w.flow == flow && w.src == src && w.request.isSome) with
  | some w =>
    (match w.request with
     | some id =>
       if w.resumed && (granted s id).isSome then (some id, { s with awaited := s.awaited.filter (fun y => y != w) }) else (none, sendDefer s kind flow src)
     | none => (none, s))
  | none =>
    let (id, s) := requestCells s cls src cells
    if (granted s id).isSome then (some id, s)
    else (none, sendDefer { s with awaited := s.awaited ++ [{ kind := kind, flow := flow, src := src, msg := lastArrival s kind flow src, request := some id }] } kind flow src)

/-- A carry row waits at its source for its tile. -/
def deferRow (s : State) (flow src slot pos : Nat) : State :=
  if s.awaited.any (fun w => w.kind == 1 && w.flow == flow && w.src == src && w.target.isSome) then sendDefer s 1 flow src
  else sendDefer { s with awaited := s.awaited ++ [{ kind := 1, flow := flow, src := src, msg := lastArrival s 1 flow src, target := some (slot, pos) }] } 1 flow src

/-- What a deferred message waits for has come. -/
def awaitedReady (s : State) (w : Awaited) : Bool :=
  match w.request, w.target with
  | some id, _ => (granted s id).isSome
  | none, some (slot, pos) =>
    (match byId s w.flow with
     | some x => x.tiles.any (fun t => t.slot == slot && t.j == pos / 32 && t.rowList.isSome)
     | none => false)
  | none, none => false

/-- RESUME to every source whose deferred message can now be admitted. -/
def sendResumes (s : State) : State :=
  (s.awaited.filter (fun w => !w.resumed && awaitedReady s w)).foldl (fun s w =>
    sendResume { s with awaited := mapIf (fun y => y == w) (fun y => { y with resumed := true }) s.awaited } w) s

/-- TILE_RESERVATION: R300. -/
def execTileReservation (l : Fin 4) (s : State) : Host.Outcome State Fault Refusal := .next (sendResumes (reserveTile s l.val))

/-! ### Grants, R291 to R293 -/

/-- What one count is granted: source, slot, rank, count, granted, base. -/
structure Granted where
  src : Nat
  slot : Nat
  rank : Nat
  cnt : Nat
  got : Nat
  base : Nat
deriving DecidableEq, Repr

/-- The count that a source sent for (slot, rank). -/
def countOf (counts : List (Nat × List (Nat × Nat × Nat))) (src slot rank : Nat) : Nat :=
  match counts.find? (fun c => c.1 == src) with
  | some c => ((c.2.find? (fun e => e.1 == slot && e.2.1 == rank)).map (fun e => e.2.2)).getD 0
  | none => 0

/-- The grants of one slot (R291). -/
def slotGrants (d : DispDesc) (counts : List (Nat × List (Nat × Nat × Nat))) (slot cap : Nat) : List Granted :=
  (((List.range d.kc).flatMap (fun r => (List.range d.size).map (fun m => (r, d.base + (d.rot + m) % d.size)))).foldl
    (fun (acc : List Granted × Nat) p =>
      let c := countOf counts p.2 slot p.1
      let g := min c acc.2
      (acc.1 ++ [{ src := p.2, slot := slot, rank := p.1, cnt := c, got := g, base := cap - acc.2 }], acc.2 - g)) ([], cap)).1

/-- The slot summary (R293). -/
def summaryBytes (x : Dispatch) (granted demand : List Nat) (total : Nat) : List Byte :=
  bytesOf (at_ x.digest.toNat 192 + at_ x.d.id 176 + at_ x.d.gen 160 + at_ (total % 2 ^ 24) 136 + at_ x.d.nslots 127 + at_ x.d.layer 111) 32 ++
  (x.slots.zipIdx).flatMap (fun p =>
    if !p.1.valid then List.replicate 16 0
    else
      let g := granted.getD p.2 0
      bytesOf (at_ (min (demand.getD p.2 0) (2 ^ 32 - 1)) 96 + at_ (g % 2 ^ 21) 75 + at_ (ceilDiv g 32) 59 + at_ (p.1.base % 2 ^ 28) 31 + at_ p.1.expert 15) 16)

/-- The grants of every valid slot, in ascending slot order (R291). -/
def allGrants (x : Dispatch) : List Granted :=
  (x.slots.zipIdx).flatMap (fun p => if p.1.valid then slotGrants x.d x.counts p.2 p.1.capacity else [])

/-- The owner computes its grants, writes its summary, sets its list's TOTAL and answers every source (R291 to R293). -/
def computeGrants (s : State) (l : Nat) : State :=
  match byList s l with
  | none => s
  | some x =>
    let d := x.d
    let all := allGrants x
    let granted := (List.range d.nslots).map (fun k => sumNat ((all.filter (fun g => g.slot == k)).map (·.got)))
    let demand := (List.range d.nslots).map (fun k => sumNat ((all.filter (fun g => g.slot == k)).map (·.cnt)))
    let tiles := buildTiles x.slots granted
    let s := dispWrite s l d.summary (summaryBytes x granted demand tiles.length) []
    let s := updDispatch s l (fun x => { x with granted := granted, tiles := tiles, grantsDone := true })
    if ((byList s l).map (·.fault)) != some 0 then s
    else
    let s := setTotal s l tiles.length
    let s := d.group.foldl (fun s src =>
      let sent := ((x.counts.find? (fun c => c.1 == src)).map (·.2)).getD []
      let es := sent.filterMap (fun e => (all.find? (fun g => g.src == src && g.slot == e.1 && g.rank == e.2.1)).map (fun g =>
        (⟨BitVec.ofNat 8 g.slot, BitVec.ofNat 3 g.rank, BitVec.ofNat 21 g.got, BitVec.ofNat 20 g.base⟩ : GrantEntry)))
      dispSend s l src (.grant (dispHeader s x) es)) s
    requestTile s l

/-- A scout message reaches a started dispatch (R290, R313). -/
def takeScout (s : State) (l : Nat) (h : DispatchHeader) (es : List ScoutEntry) : State :=
  match byList s l with
  | none => s
  | some x =>
    let d := x.d
    let src := h.srcRank.toNat
    if !x.live then s
    else if h.gen.toNat ≠ d.gen then faultDispatch s l 7 src 0 0
    else if d.back ∨ src < d.base ∨ d.base + d.size ≤ src ∨ x.counts.any (fun c => c.1 == src) = true then s
    else if h.digest ≠ x.digest then faultDispatch s l 5 src 0 0
    else
      match es.find? (fun e => !((x.slots[e.slot.toNat]?).map (·.valid)).getD false) with
      | some e => faultDispatch s l 4 src e.slot.toNat 0
      | none =>
        let counts := x.counts ++ [(src, es.map (fun e => (e.slot.toNat, e.rank.toNat, e.count.toNat)))]
        let s := updDispatch s l (fun x => { x with counts := counts })
        if counts.length = d.size then computeGrants s l else s

/-! ### Gates, route records and carries, R292, R294, R295, R297, R301 -/

/-- The final gates of one token's choices (R294). -/
def finalGates (renorm : Bool) (cs : List Choice) : List Choice :=
  let sum := fun (l : List Choice) => match l with | [] => (0 : F32) | c :: t => t.foldl (fun a c => fadd a c.raw) c.raw
  let routed := cs.filter (fun c => c.status != 0)
  let surv := sum (routed.filter (fun c => c.status == 1))
  let q := fdiv (sum routed) surv
  let scale := renorm && routed.any (fun c => c.status == 2) && fmag surv != 0
  cs.map (fun c => if c.status = 1 then { c with gate := if scale then fmul c.raw q else c.raw } else { c with gate := 0 })

/-- A waggle entry (R295). -/
def waggleBits (c : Choice) : Nat :=
  if c.status = 0 then at_ c.raw.toNat 64 + at_ 0xFFFF 48
  else at_ c.gate.toNat 96 + at_ c.raw.toNat 64 + at_ c.expert 48 + at_ c.owner 36 + at_ c.slot 28 + at_ (if c.status = 1 then c.pos else 0) 8 + at_ c.replica 5 + c.status

/-- The carry rows to one owner: row index, token, targets (choice rank, slot, position), in ascending (slot, position) of the lowest target (R297, R301). -/
def carriesTo (d : DispDesc) (cs : List Choice) (owner : Nat) : List (Nat × Nat × List (Nat × Nat × Nat)) :=
  let mine := cs.filter (fun c => c.status == 1 && c.owner == owner)
  let rows : List (Nat × Nat × List (Nat × Nat × Nat)) := if d.perChoice then mine.map (fun c => (c.token * d.kc + c.rank, c.token, [(c.rank, c.slot, c.pos)]))
    else ((mine.map (·.token)).eraseDups).map (fun t => (t, t, (mine.filter (fun c => c.token == t)).map (fun c => (c.rank, c.slot, c.pos))))
  let low : Nat × Nat × List (Nat × Nat × Nat) → Nat := fun r => (r.2.2.map (fun x => x.2.1 * 2 ^ 20 + x.2.2)).foldl min (2 ^ 28)
  rows.mergeSort (fun (a b : Nat × Nat × List (Nat × Nat × Nat)) => decide (low a ≤ low b))

/-- The source sends its carry rows (R297). -/
def sendCarries (s : State) (l : Nat) : State :=
  match byList s l with
  | none => s
  | some x =>
    let d := x.d
    let s := updDispatch s l (fun x => { x with carrySent := true, phase := 2 })
    let s := d.group.foldl (fun s owner =>
      (carriesTo d x.choices owner).foldl (fun s r =>
        let (bs, p, s) := dispRead s l (d.rows + 32 * d.rowPitch * r.1) d.rowBytes
        let t : RowTag := { dispatchId := BitVec.ofNat 16 d.id, gen := BitVec.ofNat 16 d.gen, srcRank := BitVec.ofNat 12 (ownRank s),
                            token := BitVec.ofNat 20 r.2.1, targets := r.2.2 }
        dispSend s l owner (.carry t bs p)) s) s
    notePhase s l

/-- Every grant is known: skipped choices are decided, gates formed, the waggle table written and the carry begun (R294, R295). -/
def finishRouting (s : State) (l : Nat) : State :=
  match byList s l with
  | none => s
  | some x =>
    let d := x.d
    let cs := (List.range d.tokens).flatMap (fun t =>
      finalGates d.renorm ((x.choices.filter (fun c => c.token == t)).map (fun c => if c.status = 3 then { c with status := 2 } else c)))
    let s := updDispatch s l (fun x => { x with choices := cs })
    let s := countN (countN s EXCH 0x048 32 (cs.filter (fun c => c.status == 1)).length) EXCH 0x050 32 (cs.filter (fun c => c.status == 2)).length
    let s := cs.foldl (fun s c => dispWrite s l (d.waggle + 16 * (c.token * d.kc + c.rank)) (bytesOf (waggleBits c) 16) []) s
    if ((byList s l).map (·.fault)) = some 0 then sendCarries s l else s

/-- A grant message reaches a started source: each of its counts is admitted from the lowest token on (R292). -/
def takeGrant (s : State) (l : Nat) (h : DispatchHeader) (es : List GrantEntry) : State :=
  match byList s l with
  | none => s
  | some x =>
    let d := x.d
    let src := h.srcRank.toNat
    if !x.live then s
    else if h.gen.toNat ≠ d.gen then faultDispatch s l 7 src 0 0
    else if d.back ∨ src < d.base ∨ d.base + d.size ≤ src ∨ x.grantsFrom.contains src = true then s
    else
      let decide_ := fun (cs : List Choice) (e : GrantEntry) =>
        (cs.foldl (fun (acc : List Choice × Nat) c =>
          if c.status = 3 ∧ c.owner = src ∧ c.slot = e.slot.toNat ∧ c.rank = e.rank.toNat then
            (acc.1 ++ [if acc.2 < e.granted.toNat then { c with status := 1, pos := e.base.toNat + acc.2 } else { c with status := 2 }], acc.2 + 1)
          else (acc.1 ++ [c], acc.2)) ([], 0)).1
      let from_ := x.grantsFrom ++ [src]
      let s := updDispatch s l (fun x => { x with choices := es.foldl decide_ x.choices, grantsFrom := from_ })
      if from_.length = d.size then finishRouting s l else s

/-- An abort reaches a started dispatch (R313). -/
def takeAbort (s : State) (l : Nat) (h : DispatchHeader) : State :=
  match byList s l with
  | none => s
  | some x =>
    if !x.live then s
    else if h.gen.toNat ≠ x.d.gen then faultDispatch s l 7 h.srcRank.toNat 0 0
    else faultDispatch s l 0xD h.srcRank.toNat 0 0

/-! ### Held messages, R290, R442, R444 -/

/-- A held message is consumed and its chain released. -/
def applyHeld (s : State) (l : Nat) (m : HeldMessage) : State :=
  match m with
  | .scout h es c => takeScout (releaseChain 3 s c) l h es
  | .grant h es c => takeGrant (releaseChain 3 s c) l h es
  | .abort h c => takeAbort (releaseChain 3 s c) l h
  | .openMsg .. => s

/-- Every message held for a dispatch that starts. -/
def applyAllHeld (s : State) (l id : Nat) : State :=
  let mine := s.heldMessages.filter (fun m => (heldDispatch m).map (·.1) == some id)
  mine.foldl (fun s m => applyHeld s l m) { s with heldMessages := s.heldMessages.filter (fun m => (heldDispatch m).map (·.1) != some id) }

/-- A message is held in pool cells, or deferred (R290, R471). -/
def holdMessage (s : State) (h : DispatchHeader) (bs : List Byte) (mk : Nat → HeldMessage) : State :=
  let n := ceilDiv bs.length 256
  match admitCells s 1 h.dispatchId.toNat h.srcRank.toNat 1 n with
  | (none, s) => s
  | (some id, s) =>
    match makeChain s id n 1 with
    | (none, s) => s
    | (some head, s) =>
      let s := match chainAt s head with | some c => writeChain s c (pad32 bs) [] | none => s
      { s with heldMessages := s.heldMessages ++ [mk head] }

/-- A message of a source reaches a started dispatch: behind a deferred one it is deferred, and the cells reserved for a resent one return (R471, R472). -/
def directMessage (s : State) (h : DispatchHeader) (apply : State → State) : State :=
  let flow := h.dispatchId.toNat
  let src := h.srcRank.toNat
  match s.awaited.find? (fun w => w.kind == 1 && w.flow == flow && w.src == src && w.request.isSome) with
  | some w =>
    if w.resumed then apply (dropRequest { s with awaited := s.awaited.filter (fun y => y != w) } (w.request.getD 0)) else sendDefer s 1 flow src
  | none => apply s

/-- A message arrives: it is applied to a dispatch that has started, and held otherwise (R290); one that has faulted discards it (R313). -/
def dispMessage (s : State) (h : DispatchHeader) (bs : List Byte) (mk : Nat → HeldMessage) (apply : State → Nat → State) : State :=
  match byId s h.dispatchId.toNat with
  | some x => if x.started.isSome || x.fault != 0 then directMessage s h (fun s => apply s x.list) else holdMessage s h bs mk
  | none => holdMessage s h bs mk

/-- A message of a flow whose frames are accepted arrives from its source. -/
def receive (s : State) (via : Via) (kind flow src : Nat) (act : State → State) : State :=
  match acceptFrames s via with
  | (false, s) => s
  | (true, s) => act (noteArrival s kind flow src (arrivalNumber s via kind flow src))

/-- A scout, grant or abort message that has arrived. -/
def scoutArrives (s : State) (h : DispatchHeader) (es : List ScoutEntry) : State :=
  dispMessage s h (scoutBytes h es) (.scout h es) (fun s l => takeScout s l h es)

def grantArrives (s : State) (h : DispatchHeader) (es : List GrantEntry) : State :=
  dispMessage s h (grantBytes h es) (.grant h es) (fun s l => takeGrant s l h es)

def abortArrives (s : State) (h : DispatchHeader) : State := dispMessage s h (headerBytes h 0 5) (.abort h) (fun s l => takeAbort s l h)

/-- SCOUT_MESSAGE: R290. -/
def execScoutMessage (m : Carried DispatchHeader) (es : List ScoutEntry) (s : State) : Host.Outcome State Fault Refusal :=
  .next (receive s m.via 1 m.what.dispatchId.toNat m.what.srcRank.toNat (fun s => scoutArrives s m.what es))

/-- GRANT_MESSAGE: R292. -/
def execGrantMessage (m : Carried DispatchHeader) (es : List GrantEntry) (s : State) : Host.Outcome State Fault Refusal :=
  .next (receive s m.via 1 m.what.dispatchId.toNat m.what.srcRank.toNat (fun s => grantArrives s m.what es))

/-- DISPATCH_ABORT: R313. -/
def execDispatchAbort (m : Carried DispatchHeader) (s : State) : Host.Outcome State Fault Refusal :=
  .next (receive s m.via 1 m.what.dispatchId.toNat m.what.srcRank.toNat (fun s => abortArrives s m.what))

/-! ### The starts -/

/-- A forward dispatch starts (R283 to R289, R304). -/
def startForward (s : State) (l : Nat) (x : Dispatch) : State :=
  let d := x.d
  let (t, s) := readTime s EXCH
  let s := updDispatch s l (fun x => { x with started := some t })
  let me := ownRank s
  let (tb, tp, s) := dispRead s l d.slotTable (8 * d.nslots)
  let (eb, ep, s) := dispRead s l d.ept (32 * d.experts)
  if !tp.isEmpty || !ep.isEmpty then faultDispatch s l 0xB me 0 0
  else
    let slots := slotSnaps ((chunks 8 d.nslots tb).map ofBytes)
    let ept := (chunks 32 d.experts eb).map ofBytes
    let digest := BitVec.ofNat 64 (ofBytes (shake256 eb 8))
    let s := updDispatch s l (fun x => { x with digest := digest, ept := ept, slots := slots })
    if doneBad s l d.done (maxTiles slots) then faultDispatch s l 1 me 0 0
    else if placementBad d me ept slots then faultDispatch s l 4 me 0 0
    else
      match scanChoices s l d ept with
      | (.inr (code, token), s) => faultDispatch s l code me 0 token
      | (.inl cs, s) =>
        let s := updDispatch s l (fun x => { x with choices := cs, phase := 1 })
        d.group.foldl (fun s r =>
          match byList s l with
          | some x => dispSend s l r (.scout (dispHeader s x) (scoutEntries cs r))
          | none => s) s

/-- The slots of a replay, from the forward's summary entries (R310). -/
def summarySlots (es : List Nat) : List SlotSnap :=
  es.map (fun e => { valid := e != 0, capacity := fld e 95 75, expert := fld e 30 15, base := fld e 58 31 })

/-- A choice read back from a waggle entry (R295, R310). -/
def waggleChoice (t r v : Nat) : Choice :=
  { token := t, rank := r, expert := fld v 63 48, raw := BitVec.ofNat 32 (fld v 95 64), owner := fld v 47 36, slot := fld v 35 28, replica := fld v 7 5,
    status := fld v 1 0, pos := fld v 27 8, gate := BitVec.ofNat 32 (fld v 127 96) }

/-- The waggle entries of a replay: the choices, or the token at which a poisoned granule lies. -/
def readWaggle (s : State) (l : Nat) (d : DispDesc) : (List Choice ⊕ Nat) × State :=
  (List.range (d.tokens * d.kc)).foldl (fun (acc : (List Choice ⊕ Nat) × State) i =>
    match acc.1 with
    | .inr _ => acc
    | .inl cs =>
      let (bs, p, s) := dispRead acc.2 l (d.waggle + 16 * i) 16
      if !p.isEmpty then (.inr (i / d.kc), s) else (.inl (cs ++ [waggleChoice (i / d.kc) (i % d.kc) (ofBytes bs)]), s)) (.inl [], s)

/-- A backward replay starts (R283, R304, R309, R310). -/
def startReplay (s : State) (l : Nat) (x : Dispatch) : State :=
  let d := x.d
  let (t, s) := readTime s EXCH
  let s := updDispatch s l (fun x => { x with started := some t })
  let me := ownRank s
  let (hb, hp, s) := dispRead s l d.summary 32
  let h := ofBytes hb
  if !hp.isEmpty then faultDispatch s l 0xB me 0 0
  else if fld h 191 176 ≠ d.fwdId ∨ fld h 175 160 ≠ d.gen ∨ fld h 135 127 ≠ d.nslots then faultDispatch s l 6 me 0 0
  else
    let total := fld h 159 136
    let (eb, ep, s) := dispRead s l (d.summary + 32) (16 * d.nslots)
    if !ep.isEmpty then faultDispatch s l 0xB me 0 0
    else
      let slots := summarySlots ((chunks 16 d.nslots eb).map ofBytes)
      let granted := slots.map (fun t => if t.valid then t.capacity else 0)
      let tiles := buildTiles slots granted
      let s := updDispatch s l (fun x => { x with digest := BitVec.ofNat 64 (fld h 255 192), slots := slots, granted := granted, tiles := tiles, grantsDone := true })
      if doneBad s l d.done total then faultDispatch s l 1 me 0 0
      else
        let s := setTotal s l total
        match readWaggle s l d with
        | (.inr token, s) => faultDispatch s l 0xB me 0 token
        | (.inl cs, s) =>
          let s := updDispatch s l (fun x => { x with choices := cs })
          sendCarries (requestTile s l) l

/-- A taken dispatch of a direction starts once it is armed, and takes the messages held for it, a fault at its start included (R282, R290); one whose
deciding launch ended halted faults (R282). -/
def startDispatch (s : State) (l : Nat) (back : Bool) : State :=
  match byList s l with
  | none => s
  | some x =>
    if x.d.back ≠ back ∨ x.started.isSome = true ∨ x.waits.isSome = true ∨ x.fault ≠ 0 then s
    else if x.armFail then faultDispatch s l 2 (ownRank s) 0 0
    else applyAllHeld (if back then startReplay s l x else startForward s l x) l x.d.id

/-- FORWARD_DISPATCH_START: R283. -/
def execForwardDispatchStart (l : Fin 4) (s : State) : Host.Outcome State Fault Refusal := .next (startDispatch s l.val false)

/-- BACKWARD_REPLAY_START: R309. -/
def execBackwardReplayStart (l : Fin 4) (s : State) : Host.Outcome State Fault Refusal := .next (startDispatch s l.val true)

/-! ### Landing, R296, R299, R311 -/

/-- The tile of a position. -/
def tileOf (x : Dispatch) (slot pos : Nat) : Option TileState := x.tiles.find? (fun t => t.slot == slot && t.j == pos / 32)

/-- What is wrong with a row's targets: ROW_RANGE or ROW_DUP with the slot and position (R311). -/
def rowFault (x : Dispatch) (targets : List (Nat × Nat × Nat)) : Option (Nat × Nat × Nat) :=
  targets.zipIdx.findSome? (fun p =>
    let t := p.1
    let valid := ((x.slots[t.2.1]?).map (·.valid)).getD false
    if !valid || decide (x.granted.getD t.2.1 0 ≤ t.2.2) then some (8, t.2.1, t.2.2)
    else if ((tileOf x t.2.1 t.2.2).map (fun k => k.landed.any (fun p => p.1 == t.2.2))).getD false || (targets.take p.2).any (fun u => u.2 == t.2) then
      some (9, t.2.1, t.2.2)
    else none)

/-- The origin entry of a position (R296). -/
def originBits (src token rank : Nat) : Nat := at_ (src % 4096) 52 + at_ (token % 2 ^ 20) 32 + at_ (rank % 8) 29 + 1

/-- A carry row lands in the cells of its lowest target's tile (R299), and every target's row-list and origin entries are written. -/
def landRow (s : State) (l : Nat) (x : Dispatch) (low : TileState) (t : RowTag) (row : List Byte) (poison : List Nat) : State :=
  let d := x.d
  match low.request.map (fun id => makeChain s id d.rowCells t.targets.length) with
  | some (some head, s) =>
    let s := match chainAt s head with | some c => writeChain s c (row.take d.rowBytes) poison | none => s
    let s := { count s EXCH 0x058 32 with
               awaited := s.awaited.filter (fun w => !(w.kind == 1 && w.flow == d.id && w.src == t.srcRank.toNat && w.target.isSome)) }
    let s := t.targets.foldl (fun s g =>
      match tileOf x g.2.1 g.2.2 with
      | none => s
      | some k =>
        let s := match k.rowList with | some cell => writeEntry s l cell g.2.2 head | none => s
        let s := updTile s l k.index (fun k => { k with landed := k.landed ++ [(g.2.2, head)] })
        if d.back then s
        else dispWrite s l (d.origin + 8 * (((x.slots.getD g.2.1 { valid := false, capacity := 0, expert := 0 }).base) + g.2.2))
          (bytesOf (originBits t.srcRank.toNat t.token.toNat g.1) 8) []) s
    t.targets.foldl (fun s g => match tileOf x g.2.1 g.2.2 with | some k => appendTile s l k.index | none => s) s
  | _ => s

/-- CARRY_ROW: a carry row arrives at its owner (R299, R300, R311, R313). -/
def carryRow (s : State) (t : RowTag) (row : List Byte) (poison : List Nat) : State :=
  let lowest := t.targets.foldl (fun (a : Option (Nat × Nat)) g =>
    match a with
    | none => some (g.2.1, g.2.2)
    | some b => if g.2.1 < b.1 ∨ (g.2.1 = b.1 ∧ g.2.2 < b.2) then some (g.2.1, g.2.2) else a) none
  match lowest, byId s t.dispatchId.toNat with
  | none, _ => s
  | some (slot, pos), none => deferRow s t.dispatchId.toNat t.srcRank.toNat slot pos
  | some (slot, pos), some x =>
    if x.fault ≠ 0 then s
    else if !x.started.isSome then deferRow s x.d.id t.srcRank.toNat slot pos
    else if t.gen.toNat ≠ x.d.gen then faultDispatch s x.list 7 t.srcRank.toNat 0 0
    else if !x.grantsDone then deferRow s x.d.id t.srcRank.toNat slot pos
    else
      match rowFault x t.targets with
      | some (code, sl, p) => faultDispatch s x.list code (ownRank s) sl p
      | none =>
        match tileOf x slot pos with
        | some low => if low.rowList.isSome then landRow s x.list x low t row poison else deferRow s x.d.id t.srcRank.toNat slot pos
        | none => s

/-- CARRY_ROW: R299. -/
def execCarryRow (m : Carried RowTag) (row : List Byte) (poison : List Nat) (s : State) : Host.Outcome State Fault Refusal :=
  .next (receive s m.via 1 m.what.dispatchId.toNat m.what.srcRank.toNat (fun s => carryRow s m.what row poison))

/-! ### Posts and returns, R304 to R307 -/

/-- The owner sends the present rows of a posted tile back to their sources (R306). -/
def sendReturns (s : State) (l : Nat) (x : Dispatch) (t : TileState) : State :=
  let d := x.d
  let base := (x.slots.getD t.slot { valid := false, capacity := 0, expert := 0 }).base
  (List.range t.rows).foldl (fun s i =>
    let pos := 32 * t.j + i
    let (row, p, s) := dispRead s l (d.outBase + 32 * d.outPitch * (base + pos)) d.rowBytes
    let (ob, op, s) := dispRead s l (d.origin + 8 * (base + pos)) 8
    let o := ofBytes ob
    if !op.isEmpty then faultDispatch s l 0xB (ownRank s) t.slot pos
    else
      match byList s l with
      | some y =>
        if y.fault ≠ 0 then s
        else
          let dst := fld o 63 52
          let tag : RowTag := { dispatchId := BitVec.ofNat 16 d.id, gen := BitVec.ofNat 16 d.gen, srcRank := BitVec.ofNat 12 dst,
                                token := BitVec.ofNat 20 (fld o 51 32), targets := [(fld o 31 29, t.slot, pos)] }
          let s := dispSend (count s EXCH 0x068 32) l dst (.returned tag row p)
          updDispatch s l (fun x => { x with returnsSent := x.returnsSent + 1 })
      | none => s) s

/-- A tile is posted by its SEQ (R306). -/
def postSeq (s : State) (l seq : Nat) : State :=
  match byList s l with
  | none => s
  | some x =>
    if !x.live then s
    else
      match x.tiles.find? (fun t => t.seq == some seq) with
      | none => faultDispatch s l 0xA (ownRank s) 0 seq
      | some t =>
        if t.posted then faultDispatch s l 0xA (ownRank s) t.slot seq
        else sendReturns (updTile s l t.index (fun t => { t with posted := true })) l x t

/-- Lines of active done arrays that a write covers whole are posts (R304). -/
def notePosts (s : State) (a n : Nat) : State :=
  if s.dispatches.isEmpty then s
  else
    (List.range (n / 64 + 1)).foldl (fun s i =>
      let line := (a + 63) / 64 * 64 + 64 * i
      if a + n < line + 64 then s
      else
        match s.dispatches.find? (fun x => x.live && decide (x.doneRange.1 ≤ line ∧ line < x.doneRange.1 + x.doneRange.2)) with
        | some x => postSeq s x.list ((line - x.d.done) / 64)
        | none => s) s

/-- POST: a 64-byte line is written into a done array, kept as scratch data, and posts its tile (R304, R306). -/
def execPost (m : Master) (addr : BitVec 42) (line : List Byte) (s : State) : Host.Outcome State Fault Refusal :=
  .next (powered s (fun s => let a := addr.toNat / 64 * 64
         notePosts (writeSpan m s a (line.take 64) []).2 a (line.take 64).length))

/-- RETURN_ROW: a returned row is written to its return slot (R306). -/
def returnRow (s : State) (t : RowTag) (row : List Byte) (poison : List Nat) : State :=
  match byId s t.dispatchId.toNat, t.targets with
  | some x, (rank, _, _) :: _ =>
    if !x.live then s
    else if t.gen.toNat ≠ x.d.gen then faultDispatch s x.list 7 t.srcRank.toNat 0 0
    else
      let d := x.d
      let s := dispWrite s x.list (d.ret + 32 * d.retPitch * (t.token.toNat * d.kc + rank)) (row.take d.rowBytes) poison
      updDispatch s x.list (fun x => if x.fault ≠ 0 then x else { x with returned := x.returned ++ [(t.token.toNat, rank)], poisoned := x.poisoned || !poison.isEmpty })
  | _, _ => s

/-- The rank that sends a return: the owner of the choice that its tag names. -/
def returnSource (s : State) (t : RowTag) : Nat :=
  match byId s t.dispatchId.toNat, t.targets with
  | some x, (rank, _, _) :: _ => ((x.choices.find? (fun c => c.token == t.token.toNat && c.rank == rank)).map (·.owner)).getD 0
  | _, _ => 0

/-- RETURN_ROW: R306. -/
def execReturnRow (m : Carried RowTag) (row : List Byte) (poison : List Nat) (s : State) : Host.Outcome State Fault Refusal :=
  .next (receive s m.via 1 m.what.dispatchId.toNat (returnSource s m.what) (fun s => returnRow s m.what row poison))

/-- Lines that units have written since the last look are posts where they cover one of an active done array (R304). -/
def takePosts (s : State) : State := s.doneWrites.foldl (fun s w => notePosts s w.1 w.2) { s with doneWrites := [] }

/-! ### Ends, R307, R308, R312 to R314 -/

/-- DISPATCH_TIMEOUT: R312. -/
def execDispatchTimeout (l : Fin 4) (s : State) : Host.Outcome State Fault Refusal :=
  .next (match byList s l.val with
    | none => s
    | some x =>
      let t := getReg s EXCH 0x030
      match x.started with
      | some st =>
        let (now, s) := readTime s EXCH
        if t ≠ 0 ∧ t < now - st then faultDispatch s l.val 0xC (ownRank s) 0 0 else s
      | none => s)

/-- Every row of the dispatch has come and gone, and every message of it has been acknowledged (R308; log 29). -/
def dispatchDone (s : State) (x : Dispatch) : Bool :=
  x.started.isSome && x.grantsDone && x.carrySent && x.tiles.all (·.posted) &&
    x.choices.all (fun c => c.status != 1 || x.returned.contains (c.token, c.rank)) && (dispMessages s x.d.id).all (acknowledged s)

/-- A faulted dispatch of which nothing remains in flight (R313), or one that is done (R308). -/
def dispatchOver (s : State) (x : Dispatch) : Bool :=
  if x.fault ≠ 0 then !((dispMessages s x.d.id).any (inFlight s)) else dispatchDone s x

/-- Zero bytes in the return slots of choices that were not admitted (R307). -/
def zeroSlots (s : State) (l : Nat) (x : Dispatch) : State :=
  if x.carrySent then
    (x.choices.filter (fun c => c.status != 1)).foldl (fun s c =>
      dispWrite s l (x.d.ret + 32 * x.d.retPitch * (c.token * x.d.kc + c.rank)) (List.replicate x.d.rowBytes 0) []) s
  else s

/-- What this module still waits for in a flow that has ended: its requests for cells go. -/
def dropAwaited (s : State) (kind flow : Nat) : State :=
  let mine := s.awaited.filter (fun w => w.kind == kind && w.flow == flow)
  let s := mine.foldl (fun s w => match w.request with | some id => dropRequest s id | none => s) s
  { s with awaited := s.awaited.filter (fun w => !(w.kind == kind && w.flow == flow)) }

/-- The dispatch ends with its completion record (R308, R313, R314), and a deferred disable may take effect (R316). -/
def endDispatch (s : State) (l : Nat) : State :=
  match byList s l with
  | none => s
  | some x =>
    if dispatchOver s x then
      let s := zeroSlots s l x
      let s := updDispatch s l (fun x => if x.fault = 0 then { x with phase := 4 } else x)
      match byList s l with
      | none => s
      | some y =>
        if !dispatchOver s y then s
        else
        let s := writeRecord (dispMaster l) (dropAwaited (dropHeld s y.d.id) 1 y.d.id) y.d.record (dispatchRecord y (ackedReturns s y.d.id))
        let s := endFlow { s with dispatches := s.dispatches.filter (fun z => z.list != l) } 1 y.d.id
        settle s EXCH
    else s

/-- DISPATCH_END: R308. -/
def execDispatchEnd (l : Fin 4) (s : State) : Host.Outcome State Fault Refusal := .next (endDispatch s l.val)

end Sys2Proof.Machine
end

