-- ==== Sys2Proof/Machine/Coll.lean ====
section
/-! DEFINITION. Collectives up to their start: the table, posting, opening, faults and ends, 11_collectives.md R388 to R405, R414 to R416. -/

namespace Sys2Proof.Machine

/-! ### Table entries, R390 to R393 -/

/-- The fields of a table entry. -/
structure CollEntry where
  src : Nat
  dst : Nat
  bitmap : Nat
  list : Nat
  units : Nat
  len : Nat
  num : Nat
  base : Nat
  size : Nat
  stride : Nat
  root : Nat
  send : Nat
  recv : Nat
  h : Nat
  gen : Nat
  ordinal : Nat
  op : Nat
  alg : Nat
  redop : Nat
  hdr : Bool
  elem : Bool
  valid : Bool
  rsvd : Nat
  type : Nat
  version : Nat
deriving DecidableEq, Repr

def collEntry (v : Nat) : CollEntry :=
  { src := fld v 1023 982, dst := fld v 981 940, bitmap := fld v 939 898, list := fld v 897 856, units := fld v 855 832, len := fld v 831 812,
    num := fld v 811 780, base := fld v 779 768, size := fld v 767 755, stride := fld v 754 743, root := fld v 742 731, send := fld v 730 719,
    recv := fld v 718 707, h := fld v 706 694, gen := fld v 693 678, ordinal := fld v 677 662, op := fld v 661 658, alg := fld v 657 654,
    redop := fld v 653 652, hdr := bit v 651, elem := bit v 650, valid := bit v 649, rsvd := fld v 648 8, type := fld v 7 4, version := fld v 3 0 }

def Collective.e (c : Collective) : CollEntry := collEntry c.entry.toNat

/-- The three reductions, and the element format's place in them. -/
def CollEntry.reduces (e : CollEntry) : Bool := e.op == 1 || e.op == 2 || e.op == 4
def CollEntry.scaled (e : CollEntry) : Bool := (numericOf e.num).scaling == 2
def CollEntry.ring (e : CollEntry) : Bool := e.alg == 2
def CollEntry.hier (e : CollEntry) : Bool := e.alg == 3
def CollEntry.unitBytes (e : CollEntry) : Nat := 32 * e.len

/-- Units of segment j: the first one and their number (R392). -/
def CollEntry.segFirst (e : CollEntry) (j : Nat) : Nat := j * e.units / e.size
def CollEntry.segCount (e : CollEntry) (j : Nat) : Nat := e.segFirst (j + 1) - e.segFirst j

/-- The segment that a unit lies in. -/
def CollEntry.segOf (e : CollEntry) (u : Nat) : Nat := ((u + 1) * e.size - 1) / e.units

/-- What an entry breaks of R390 to R393, its member list apart. -/
def entryBad (s : State) (e : CollEntry) : Bool :=
  !e.valid || e.type != 1 || e.version != 1 || e.rsvd != 0 || e.src % 32 != 0 || e.dst % 32 != 0 || e.bitmap % 32 != 0 || e.list % 32 != 0 ||
  e.units == 0 || e.len == 0 || e.size == 0 || decide (4096 < e.size) ||
  (e.list == 0 && (e.stride == 0 || decide (4096 ≤ e.base + (e.size - 1) * e.stride))) ||
  e.op == 0 || decide (6 < e.op) || e.alg == 0 || decide (3 < e.alg) ||
  ((e.op == 4 || e.op == 5) && decide (e.size ≤ e.root)) || (e.op == 6 && decide (e.size ≤ e.send ∨ e.size ≤ e.recv)) ||
  (if e.reduces then
    let n := numericOf e.num
    !e.elem || e.redop == 0 || numericFault e.num != 0 || !(n.format == 0 || n.format == 2 || (n.format == 3 && n.scaling == 2)) ||
      (e.scaled && !stewardOn s n.slot)
   else e.elem || e.num != 0 || e.redop != 0 || e.hdr || e.bitmap != 0) ||
  (e.hdr && (!e.scaled || e.redop != 1)) || (e.bitmap != 0 && e.ring) ||
  (e.ring && decide (3 < e.op)) || (e.hier && (decide (3 < e.op) || decide (e.h < 2) || e.size % e.h != 0))

/-- The member list's ranks, where it is legal (R391). -/
def listMembers (ws : List Nat) : Option (List Nat) := if ws.all (fun w => decide (w < 4096)) && decide ws.Nodup then some ws else none

/-! ### Units and addresses, R392 -/

/-- SRC units that this rank reads, and DST units that it writes: first unit and number (R392, R415). -/
def Collective.srcUnits (c : Collective) : Nat × Nat :=
  let e := c.e
  match e.op with
  | 3 => (e.segFirst c.self, e.segCount c.self)
  | 5 => if c.self = e.root then (0, e.units) else (0, 0)
  | _ => (0, e.units)

def Collective.dstUnits (c : Collective) : Nat × Nat :=
  let e := c.e
  match e.op with
  | 2 => (e.segFirst c.self, e.segCount c.self)
  | 4 => if c.self = e.root then (0, e.units) else (0, 0)
  | 5 => if c.self = e.root then (0, 0) else (0, e.units)
  | _ => (0, e.units)

def Collective.srcAddr (c : Collective) (u : Nat) : Nat := c.e.src + c.e.unitBytes * (u - c.srcUnits.1)
def Collective.dstAddr (c : Collective) (u : Nat) : Nat := c.e.dst + c.e.unitBytes * (u - c.dstUnits.1)

/-- Byte ranges of the source and the destination on this rank. -/
def Collective.ranges (c : Collective) : List (Nat × Nat) :=
  [(c.e.src, c.e.unitBytes * c.srcUnits.2), (c.e.dst, c.e.unitBytes * c.dstUnits.2)]

def rangesMeet (a b : Nat × Nat) : Bool := decide (a.1 < b.1 + b.2 ∧ b.1 < a.1 + a.2 ∧ 0 < a.2 ∧ 0 < b.2)

/-- The full ordinal (R394). -/
def Collective.ordinal (c : Collective) : Nat := c.id.epoch.toNat * 2 ^ 16 + c.e.ordinal

/-! ### The collectives that a rank holds -/

def collOf (s : State) (k : CollId) : Option Collective := s.collectives.find? (fun c => c.id == k)

def updColl (s : State) (k : CollId) (f : Collective → Collective) : State := { s with collectives := mapIf (fun c => c.id == k) f s.collectives }

/-- Which collective a message belongs to. -/
def messageColl : Message → Option CollId
  | .openMsg k _ _ => some k
  | .presence k _ _ => some k
  | .contribution k _ _ _ _ _ => some k
  | .result k _ _ _ _ _ => some k
  | .collAbort k _ _ => some k
  | _ => none

/-- Messages of a collective. -/
def collMessages (s : State) (k : CollId) : List SentMessage := s.messages.filter (fun m => m.kind == 2 && messageColl m.what == some k)

/-- A message of a collective's flow (R401, R472). -/
def collSend (s : State) (k : CollId) (dst : Nat) (w : Message) : State := sendMessage s 2 k.index.toNat dst w

/-- Every send of a unit by this rank has been acknowledged (R415). -/
def unitAcked (s : State) (k : CollId) (u : Nat) : Bool :=
  (collMessages s k).all (fun m => (match m.what with | .contribution _ _ v _ _ _ => v != u | _ => true) || acknowledged s m)

/-- The messages of an ended collective go; with the last collective of its INDEX, so do the stops and the waiting cell requests of the flow. -/
def endCollFlow (s : State) (k : CollId) : State :=
  let s := { s with messages := s.messages.filter (fun m => !(m.kind == 2 && messageColl m.what == some k)) }
  if s.collectives.any (fun c => c.id.index == k.index) then s
  else
    let s := dropAwaited s 2 k.index.toNat
    { s with deferred := s.deferred.filter (fun d => !(d.kind == 2 && d.flow == k.index.toNat)) }

/-- Aborts of ended collectives go once they are acknowledged or lost. -/
def sweepMessages (s : State) : State :=
  { s with messages := s.messages.filter (fun m => (match m.what with | .collAbort .. => false | _ => true) || !(m.lost || acknowledged s m)) }

/-- The engine consumes a chain of its own (12_memory_system.md R442). -/
def consumeChain (s : State) (head : Nat) : State := if head = 0 then s else releaseChain 4 s head

/-- Held OPEN messages of a collective. -/
def heldOpens (s : State) (k : CollId) : List (Nat × BitVec 16 × BitVec 64 × Nat) :=
  s.heldMessages.filterMap (fun m => match m with | .openMsg src k' g d ch => if k' = k then some (src, g, d, ch) else none | _ => none)

def dropOpens (s : State) (k : CollId) : State :=
  let chains := (heldOpens s k).map (fun m => m.2.2.2)
  let s := { s with heldMessages := s.heldMessages.filter (fun m => match m with | .openMsg _ k' _ _ _ => k' != k | _ => true) }
  chains.foldl consumeChain s

/-! ### Ends, R403, R405, R411, R415, R416 -/

/-- PHASE of R415. -/
def Collective.phase (c : Collective) : Nat := match c.state with | 0 => 0 | 1 => 1 | 2 => if c.dataPhase then 3 else 2 | _ => 4

/-- The completion record of a collective of whose SRC units `sent` count as done. -/
def collRecordOf (own : Nat) (c : Collective) (code blamed other total sent : Nat) : Record :=
  let v := c.record.toNat
  { type := 4, status := if code = 0 then 0 else if code = 9 then 3 else 2, reason := code, unit := c.id.index.toNat, tag := fld v 133 118, gen := c.e.gen,
    ordinal := if bit v 107 then fld v 213 166 else 0, done := sent + c.results.length, total := total, start := c.posted,
    corr := c.corrReads, uncorr := c.poisonReads,
    detail := at_ code 120 + at_ (if code = 0 ∨ code = 9 then 4 else c.phase) 116 + at_ ((if code = 0 then own else blamed) % 4096) 104 +
      at_ (min c.retries 255) 96 + at_ (c.ordinal % 2 ^ 48) 48 + other % 2 ^ 48 }

/-- Counters, LAST_FAULT and the log entry of a fault (R416; log 20). -/
def noteCollFault (s : State) (k : CollId) (code : Nat) : State :=
  logNoted { count s COLL 0x0A0 32 with lastCollFault := code } COLL 0 .collFault [code, k.index.toNat, k.epoch.toNat]

/-- Everything that a collective holds is given up: its writer reports, its cells and messages go. -/
def dropColl (s : State) (c : Collective) : State :=
  let s := match c.writer with | some w => reportWriter s w | none => s
  let s := { s with collectives := s.collectives.filter (fun x => x.id != c.id) }
  let s := dropOpens (c.contributions.foldl (fun s p => consumeChain s p.chain) s) c.id
  endCollFlow s c.id

/-- A collective that has ended with a fault: what comes for it is discarded (R405). -/
def enterFaulted (s : State) (k : CollId) : State := { dropOpens s k with collFaulted := s.collFaulted.filter (· != k) ++ [k] }

/-- A posted collective ends: normally (code 0) or with a fault, whose abort goes to every member (R405, R415). -/
def endCollective (s : State) (k : CollId) (code blamed other : Nat) : State :=
  match collOf s k with
  | none => s
  | some c =>
    let sent := (c.sourceDone.filter (unitAcked s k)).length
    let s := count (dropColl s c) COLL 0x098 32
    let s := if code = 0 then s else enterFaulted (noteCollFault s k code) k
    let s := if code = 0 ∨ code = 1 ∨ code = 2 ∨ code = 6 then s
      else c.members.foldl (fun s r => collSend s k r (.collAbort k (BitVec.ofNat 8 code) blamed)) s
    writeRecord .collRecord s (fld c.record.toNat 255 214) (collRecordOf (ownRank s) c code blamed other (c.srcUnits.2 + c.dstUnits.2) sent)

/-- A fault of this rank's own. -/
def faultColl (s : State) (k : CollId) (code other : Nat) : State := endCollective s k code (ownRank s) other

/-- Held collectives whose deciding launch ended halted end with ARM_HALTED (R398). -/
def settleColl (s : State) : State :=
  (s.collectives.filter (fun c => c.armFail && c.state == 0)).foldl (fun s c => faultColl s c.id 2 0) s

/-! ### Loading the table, R388, R389 -/

/-- A write of COLL.TABLE_LOAD. -/
def tableLoad (m : Master) (s : State) (v : Nat) : State :=
  let first := fld v 9 0
  let n := fld v 20 10
  let refused := n == 0 || decide (1024 < first + n) || s.collectives.any (fun c => decide (first ≤ c.id.index.toNat ∧ c.id.index.toNat < first + n))
  if m ≠ .host ∨ refused = true then { s with tableReject := true }
  else
    let (rd, s) := readSpan .collRecord s (getReg s COLL 0x028) (128 * n)
    if !rd.poison.isEmpty then { s with tableReject := true }
    else { s with tableReject := false, collTable := tsetList 0 s.collTable first ((chunks 128 n rd.data).map (fun b => BitVec.ofNat 1024 (ofBytes b))) }

/-- TABLE_LOAD: R388. -/
def execTableLoad (m : Master) (v : Word64) (s : State) : Host.Outcome State Fault Refusal := .next (powered s (fun s => tableLoad m s v.toNat))

/-! ### Posting, R394 to R399 -/

/-- A record that ends at once, with DESCRIPTOR or DUPLICATE: what comes for it is discarded (R405), unless another collective of its name lives. -/
def endAtOnce (s : State) (c : Collective) (code : Nat) : State :=
  let s := noteCollFault (count s COLL 0x098 32) c.id code
  let s := if (collOf s c.id).isSome then s else enterFaulted s c.id
  writeRecord .collRecord s (fld c.record.toNat 255 214) (collRecordOf (ownRank s) c code (ownRank s) 0 (if code = 1 then 0 else c.srcUnits.2 + c.dstUnits.2) 0)

/-- The members of an entry's group: none where the list is illegal or arrives poisoned (R391; log 21). -/
def readMembers (s : State) (e : CollEntry) : Option (List Nat) × State :=
  if e.list = 0 then (some ((List.range e.size).map (fun i => e.base + i * e.stride)), s)
  else
    let (rd, s) := readSpan .collRecord s e.list (2 * e.size)
    (if rd.poison.isEmpty then listMembers ((chunks 2 e.size rd.data).map ofBytes) else none, s)

/-- An invocation record is posted (R394, R398, R399). -/
def postRecord (s : State) (v : Nat) : State :=
  if fld v 3 0 = 0 then s
  else
    let index := fld v 117 108
    let entry := tget 0 s.collTable index
    let e := collEntry entry.toNat
    let (t, s) := readTime s COLL
    let c : Collective := { id := ⟨BitVec.ofNat 10 index, BitVec.ofNat 32 (fld v 165 134)⟩, record := BitVec.ofNat 256 v, entry := entry,
                            members := [], self := 0, posted := t, armedAt := t }
    if fld v 3 0 ≠ 1 ∨ fld v 7 4 ≠ 1 ∨ fld v 106 8 ≠ 0 ∨ entryBad s e = true then endAtOnce s c 1
    else
      match readMembers s e with
      | (none, s) => endAtOnce s c 1
      | (some ms, s) =>
        match ms.idxOf? (ownRank s) with
        | none => endAtOnce s c 1
        | some self =>
          let c := { c with members := ms, self := self }
          if s.collectives.any (fun x => x.id == c.id || x.ordinal == c.ordinal) then endAtOnce s c 6
          else
            let (w, f) := if bit v 107 then (match endedAs s (fld v 213 166) with | some h => (none, h) | none => (some (fld v 213 166), false)) else (none, false)
            settleColl { s with collectives := s.collectives ++ [{ c with waits := w, armFail := f }], collFaulted := s.collFaulted.filter (· != c.id) }

/-- A ring may be read: fewer than 64 collectives are held, the block is not stopped, and the ring holds a record (R395, R397). -/
def collRingReady (s : State) (base : Nat) : Bool :=
  let size := getReg s COLL (base + 8)
  isReady s && !(blk s COLL).errorStopped && decide (s.collectives.length < 64) && getReg s COLL (base + 0x10) != getReg s COLL (base + 0x18) && decide (1 ≤ size ∧ size ≤ 12)

/-- A record is taken from a ring whose registers start at an offset (R395). -/
def takeRingRecord (s : State) (base : Nat) : State :=
  if collRingReady s base then
    let tail := getReg s COLL (base + 0x18)
    let (rd, s) := readSpan .collRecord s (ringAddr (getReg s COLL base) (getReg s COLL (base + 8)) tail 32) 32
    let s := setReg s COLL (base + 0x18) ((tail + 1) % 2 ^ 32)
    let v := ofBytes rd.data
    -- a poisoned record ends with DESCRIPTOR, as one of an unknown version (log 21)
    if rd.poison.isEmpty then postRecord s v else postRecord s (setFld v 3 0 0xF)
  else s

/-- COLL_RING_RECORD: R395. -/
def execCollRingRecord (keeper : Bool) (s : State) : Host.Outcome State Fault Refusal := .next (takeRingRecord s (if keeper then 0x060 else 0x040))

/-- A granule of the post port written: whole it is a record, in part it is discarded; while 64 are held the write waits (R395, R397). -/
def postPort (m : Master) (s : State) (granule : Nat) (data : List Byte) : State :=
  if data.length = 32 then
    (if isReady s && decide (s.collectives.length < 64) && !(blk s COLL).errorStopped then postRecord s (ofBytes data)
     else { s with posted := s.posted ++ [(m, regBase + 65536 * COLL + 0x200 + 32 * granule, data)] })
  else count s COLL 0x0D0 32

/-- POST_PORT: R395. -/
def execPostPort (m : Master) (granule : Fin 2) (data : List Byte) (s : State) : Host.Outcome State Fault Refusal := .next (powered s (fun s => postPort m s granule.val data))

/-! ### Opening, R400 to R402 -/

/-- A generation is newer than another (09_training_step.md R346). -/
def genNewer (g g' : Nat) : Bool := let d := (g + 2 ^ 16 - g') % 2 ^ 16; decide (1 ≤ d ∧ d ≤ 32767)

/-- Held predecessors: posted here with a lower full ordinal and not started (R400). -/
def predecessors (s : State) (c : Collective) : List Collective := s.collectives.filter (fun x => decide (x.ordinal < c.ordinal) && decide (x.state < 2))

/-- The conditions of R400. -/
def mayOpen (s : State) (c : Collective) : Bool :=
  c.state == 0 && c.waits.isNone && !c.armFail && takesWork s COLL && (predecessors s c).isEmpty &&
  !(s.collectives.any (fun x => genNewer c.e.gen x.e.gen && x.members == c.members && x.ranges.any (fun a => c.ranges.any (rangesMeet a)))) &&
  decide ((s.collectives.filter (fun x => decide (1 ≤ x.state))).length < 16)

/-- Fields of given values and widths one after another, each with its bit 0 first: the bits and their number. -/
def packBits : List (Nat × Nat) → Nat × Nat
  | [] => (0, 0)
  | (v, w) :: l => let r := packBits l; (v % 2 ^ w + at_ r.1 w, w + r.2)

/-- The message of the entry digest (R401): the fields with the bits that they occupy in the entry, one after another without padding, then the bitmap
byte and the member list; bit 0 of each goes first (DESIGN CHOICE, log 12: the spec gives the order of the fields, not that of their bits). -/
def digestBits (c : Collective) : Nat × Nat :=
  let e := c.e
  packBits ([(e.units, 24), (e.len, 20), (e.num, 32), (e.base, 12), (e.size, 13), (e.stride, 12), (e.root, 12), (e.h, 13), (e.gen, 16), (e.ordinal, 16),
    (e.op, 4), (e.alg, 4), (e.redop, 2), (b2n e.hdr, 1), (b2n e.elem, 1), (b2n (e.bitmap != 0), 8)] ++
    (if e.list = 0 then [] else c.members.map (fun m => (m, 16))))

/-- The entry digest (R401). -/
def collDigest (c : Collective) : BitVec 64 := BitVec.ofNat 64 (ofBytes (shake256Bits (digestBits c).1 (digestBits c).2 8))

/-- An OPEN reaches an open collective (R402). -/
def applyOpen (s : State) (k : CollId) (src : Nat) (gen : BitVec 16) (digest : BitVec 64) : State :=
  match collOf s k with
  | none => s
  | some c =>
    if c.state = 0 then s
    else if gen.toNat ≠ c.e.gen then endCollective s k 4 src gen.toNat
    else if digest ≠ collDigest c then endCollective s k 5 src 0
    else
      match c.members.idxOf? src with
      | none => s
      | some i => updColl s k (fun c => if c.heard.contains i then c else { c with heard := c.heard ++ [i] })

/-- A collective opens: OPEN goes to every member, and held OPENs are applied (R401). -/
def openColl (s : State) (c : Collective) : State :=
  let (t, s) := readTime s COLL
  let s := updColl s c.id (fun c => { c with state := 1, opened := t })
  let s := c.members.foldl (fun s r => collSend s c.id r (.openMsg c.id (BitVec.ofNat 16 c.e.gen) (collDigest c))) s
  let held := heldOpens s c.id
  held.foldl (fun s m => applyOpen s c.id m.1 m.2.1 m.2.2.1) (dropOpens s c.id)

/-- The collective that opens next: of those that may, the one with the lowest full ordinal (R400). -/
def nextToOpen (s : State) : Option Collective :=
  (s.collectives.filter (mayOpen s)).foldl (fun (b : Option Collective) c =>
    match b with
    | none => some c
    | some x => if c.ordinal < x.ordinal then some c else b) none

/-- COLLECTIVE_OPEN: R400, R401. -/
def execCollectiveOpen (s : State) : Host.Outcome State Fault Refusal :=
  .next (let s := settleColl s
         match nextToOpen s with
         | some c => openColl s c
         | none => s)

/-- An OPEN arrives (R401, R402, R405). -/
def takeOpen (s : State) (src : Nat) (k : CollId) (gen : BitVec 16) (digest : BitVec 64) : State :=
  match collOf s k with
  | some c => if c.state = 0 then hold s else applyOpen s k src gen digest
  | none => if s.collFaulted.contains k then s else hold s
where
  /-- The message is held in one cell until its collective opens. -/
  hold (s : State) : State :=
    match admitCells s 2 k.index.toNat src 1 1 with
    | (none, s) => s
    | (some id, s) =>
      match makeChain s id 1 1 with
      | (none, s) => s
      | (some head, s) => { fillCell s head with heldMessages := s.heldMessages ++ [.openMsg src k gen digest head] }
  /-- How the message lies in its cell is not laid down: free bytes. -/
  fillCell (s : State) (head : Nat) : State :=
    { putBytes s head ((List.range 256).map (fun i => BitVec.ofNat 8 ((Config.freeBits (s.freeCtr + i / 8)).toNat / 2 ^ (8 * (i % 8))))) with
      guard := tclear s.guard (head / 32) 8, freeCtr := s.freeCtr + 32 }

/-- OPEN_MESSAGE: R402. -/
def execOpenMessage (m : Carried (BitVec 12)) (k : CollId) (gen : BitVec 16) (digest : BitVec 64) (s : State) : Host.Outcome State Fault Refusal :=
  .next (receive s m.via 2 k.index.toNat m.what.toNat (fun s => takeOpen s m.what.toNat k gen digest))

/-! ### Aborts and time-outs, R404, R405 -/

/-- An abort arrives: it ends the collective with its code where it blames this rank, and with PEER otherwise (R405). -/
def takeCollAbort (s : State) (src : Nat) (k : CollId) (code : BitVec 8) (blamed : Nat) : State :=
  match collOf s k with
  | none => s
  | some c =>
    if !c.members.contains src || code == 0 then s
    else if blamed = ownRank s then endCollective s k code.toNat blamed 0
    else endCollective s k 0xA (ownRank s) 0

/-- COLLECTIVE_ABORT: R405. -/
def execCollectiveAbort (m : Carried (BitVec 12)) (k : CollId) (code : BitVec 8) (blamed : BitVec 12) (s : State) : Host.Outcome State Fault Refusal :=
  .next (receive s m.via 2 k.index.toNat m.what.toNat (fun s => takeCollAbort s m.what.toNat k code blamed.toNat))

/-- ORDER_TIMEOUT: R404. -/
def execOrderTimeout (k : CollId) (s : State) : Host.Outcome State Fault Refusal :=
  .next (match collOf s k with
    | none => s
    | some c =>
      let t := getReg s COLL 0x010
      let (now, s) := readTime s COLL
      match (predecessors s c).map (·.ordinal) with
      | [] => s
      | p :: ps => if c.state = 0 ∧ c.waits = none ∧ c.armFail = false ∧ t ≠ 0 ∧ t ≤ now - c.armedAt then faultColl s k 3 (ps.foldl min p) else s)

/-- START_TIMEOUT: R404. -/
def execStartTimeout (k : CollId) (s : State) : Host.Outcome State Fault Refusal :=
  .next (match collOf s k with
    | none => s
    | some c =>
      let t := getReg s COLL 0x018
      let (now, s) := readTime s COLL
      if c.state = 1 ∧ t ≠ 0 ∧ t < now - c.opened then faultColl s k 7 0 else s)

/-- RUN_TIMEOUT: R404. -/
def execRunTimeout (k : CollId) (s : State) : Host.Outcome State Fault Refusal :=
  .next (match collOf s k with
    | none => s
    | some c =>
      let t := getReg s COLL 0x020
      let (now, s) := readTime s COLL
      if c.state = 2 ∧ t ≠ 0 ∧ t < now - c.startedAt then faultColl s k 7 0 else s)

end Sys2Proof.Machine
end

