-- ==== Sys2Proof/Machine/CollData.lean ====
section
/-! DEFINITION. Started collectives: presence, contributions, reduction batches, results and the normal end, 11_collectives.md R392, R402, R403, R406 to R413. -/

namespace Sys2Proof.Machine

/-! ### How a unit travels: an optional leading granule (its header, or its scale unit) and its elements; log 32 -/

/-- Bytes of an element in memory. -/
def CollEntry.width (e : CollEntry) : Nat := if e.elem && (numericOf e.num).format != 0 then 2 else 4

/-- Bytes of a unit's element region (R393). -/
def CollEntry.region (e : CollEntry) : Nat := e.unitBytes - 32 * b2n e.hdr

/-- Elements of a unit. -/
def CollEntry.elements (e : CollEntry) : Nat := e.region / e.width

/-- Leading granules of a contribution or result in NUM, and of a partial result in FP32. -/
def CollEntry.lead (e : CollEntry) (partialResult : Bool) : Nat := if partialResult then b2n e.hdr else b2n (e.hdr || e.scaled)

/-- Granules of a unit as it travels. -/
def CollEntry.travel (e : CollEntry) (partialResult : Bool) : Nat :=
  e.lead partialResult + (if partialResult then 4 * e.elements / 32 else e.region / 32)

/-- Batches of a unit (R409); a unit without elements has one empty batch. -/
def CollEntry.batches (e : CollEntry) : Nat := max 1 (ceilDiv e.elements 256)

/-- Elements of batch b. -/
def CollEntry.batchSize (e : CollEntry) (b : Nat) : Nat := min 256 (e.elements - 256 * b)

/-- Largest message of contributions or results, in granules: one chain of 256 cells (12_memory_system.md R441; log 32). -/
def pieceGranules : Nat := 2048

/-! ### Order of combination, R407 -/

/-- The rank that owns a unit's result. -/
def CollEntry.owner (e : CollEntry) (u : Nat) : Nat := if e.op = 4 then e.root else e.segOf u

/-- The member of a rank's subgroup that combines it for an owner. -/
def CollEntry.middle (e : CollEntry) (r owner : Nat) : Nat := r / e.h * e.h + owner % e.h

/-- Index range of a subgroup. -/
def CollEntry.subgroup (e : CollEntry) (a : Nat) : List Nat := (List.range e.h).map (· + a * e.h)

/-- What rank r combines for a unit: runs of (group index, whether its data are a partial result); each run left to right, then the runs left to right. -/
def CollEntry.terms (e : CollEntry) (r u : Nat) : List (List (Nat × Bool)) :=
  let j := e.owner u
  if e.ring then
    (if e.size = 1 then [[(r, false)]]
     else if r = (j + 1) % e.size then []
     else [[((r + e.size - 1) % e.size, true), (r, false)]])
  else if e.hier then
    (let own := (e.subgroup (r / e.h)).map (fun i => (i, false))
     if r = j then (List.range (e.size / e.h)).map (fun a => if a = r / e.h then own else [(a * e.h + j % e.h, true)])
     else if r = e.middle r j then [own]
     else [])
  else if r = j then [(List.range e.size).map (fun i => (i, false))]
  else []

/-- The member to which rank r sends its own source unit, as it stands (false) or as a partial result (true). -/
def CollEntry.sendsTo (e : CollEntry) (r u : Nat) : Option (Nat × Bool) :=
  let j := e.owner u
  if e.ring then (if r = (j + 1) % e.size ∧ 1 < e.size then some ((r + 1) % e.size, true) else none)
  else if e.hier then (if r = e.middle r j then none else some (e.middle r j, false))
  else if r = j then none else some (j, false)

/-- The member to which rank r passes its combination of a unit. -/
def CollEntry.passesTo (e : CollEntry) (r u : Nat) : Nat := if e.ring then (r + 1) % e.size else e.owner u

/-- Members that receive a unit's outcome from rank r, for ALL_REDUCE and ALL_GATHER (R407; the ways through ring and subgroups are log 32). -/
def CollEntry.spreadsTo (e : CollEntry) (r u : Nat) : List Nat :=
  let j := e.segOf u
  if e.ring then (if (r + 1) % e.size = j then [] else [(r + 1) % e.size])
  else if e.hier then
    (if r % e.h ≠ j % e.h then []
     else (if r = j then (List.range (e.size / e.h)).map (fun a => a * e.h + j % e.h) |>.filter (· != r) else []) ++ (e.subgroup (r / e.h)).filter (· != r))
  else if r = j then (List.range e.size).filter (· != r) else []

/-! ### Presence, R331, R332, R412 -/

/-- Bits that a rank has sent for a unit. -/
def Collective.bitOf (c : Collective) (src u : Nat) : Option Bool :=
  c.presence.findSome? (fun p => if p.1 = src ∧ p.2.1 ≤ u then p.2.2[u - p.2.1]? else none)

/-- Does a group index contribute to a unit? Without a bitmap every rank does. -/
def Collective.present (c : Collective) (src u : Nat) : Bool := c.e.bitmap == 0 || (c.bitOf src u).getD false

/-- The present terms of this rank's combination. -/
def Collective.presentTerms (c : Collective) (u : Nat) : List (List (Nat × Bool)) :=
  ((c.e.terms c.self u).map (fun l => l.filter (fun t => c.present t.1 u))).filter (fun l => !l.isEmpty)

/-- Bits that this rank needs of others before it combines unit u. -/
def Collective.bitsNeeded (c : Collective) (u : Nat) : List Nat := (c.e.terms c.self u).flatten.map (·.1)

/-- The OR over the group of a unit's bits, where it is known here. -/
def Collective.outcome (c : Collective) (u : Nat) : Option Bool :=
  if c.e.bitmap = 0 then some true
  else if c.self = c.e.owner u then
    (if (c.bitsNeeded u).all (fun i => (c.bitOf i u).isSome) then some ((c.bitsNeeded u).any (fun i => c.present i u)) else none)
  else (c.known.find? (fun k => k.1 == u)).map (·.2)

/-- Units that this rank combines or passes on. -/
def Collective.duties (c : Collective) : List Nat := (List.range c.e.units).filter (fun u => !(c.e.terms c.self u).isEmpty)

/-- The presence phase is over on this rank: every bit that it needs has arrived. -/
def Collective.presenceDone (c : Collective) : Bool :=
  c.e.bitmap == 0 ||
  (c.duties.all (fun u => (c.bitsNeeded u).all (fun i => (c.bitOf i u).isSome)) &&
   (c.e.op != 1 || (List.range c.e.units).all (fun u => (c.outcome u).isSome)))

def redMaster (u : Nat) : Master := .reduction (Fin.ofNat 4 u)

/-- A read by a started collective: the bytes, and the poisoned granules numbered from the first one. -/
def collRead (s : State) (k : CollId) (a n : Nat) : List Byte × List Nat × State :=
  let (rd, s) := readSpan (redMaster 0) s a n
  (rd.data, rd.poison.map (fun g => g - a / 32),
    updColl s k (fun c => { c with poisonReads := c.poisonReads + rd.bad, corrReads := c.corrReads + rd.corr }))

/-- A write by a started collective: one that reaches an unmapped address ends it with UNMAPPED (R414). -/
def collWrite (s : State) (unit : Nat) (k : CollId) (a : Nat) (bs : List Byte) (poison : List Nat) : State :=
  let (bad, s) := writeSpan (redMaster unit) s a bs (poison.map (· + a / 32))
  if bad then faultColl s k 0xB 0 else noteLines s a bs.length

/-- Bits of a presence bitmap replaced in its bytes. -/
def mergeBits (bs : List Byte) (first : Nat) (bits : List Bool) : List Byte :=
  bytesOf (((bits.zipIdx).foldl (fun v b => setFld v (first + b.2) (first + b.2) (b2n b.1)) (ofBytes bs))) bs.length

/-- The OR of the units whose results this rank holds, written to its own bitmap (R412). -/
def writeOutcome (s : State) (k : CollId) : State :=
  match collOf s k with
  | none => s
  | some c =>
    let (first, n) := if c.e.op = 2 then c.dstUnits else if c.e.op = 4 ∧ c.self ≠ c.e.root then (0, 0) else (0, c.e.units)
    if c.e.bitmap = 0 ∨ n = 0 then s
    else
      let lo := first / 8
      let len := (first + n + 7) / 8 - lo
      let (bs, _, s) := collRead s k (c.e.bitmap + lo) len
      collWrite s 0 k (c.e.bitmap + lo) (mergeBits bs (first - 8 * lo) ((List.range n).map (fun i => (c.outcome (first + i)).getD false))) []

/-! ### Contributions held, R406; 12_memory_system.md R444 -/

/-- The piece that holds a granule of a unit as it travels from a source. -/
def Collective.pieceOf (c : Collective) (src u g : Nat) : Option Contribution :=
  c.contributions.find? (fun p => p.src == src && p.unit == u && decide (p.off ≤ g ∧ g < p.off + p.granules))

/-- Granules g to g + n − 1 of a unit as it travels from a source: bytes and poisoned granules numbered from the first one. -/
def Collective.granules (c : Collective) (s : State) (src u g n : Nat) : List Byte × List Nat × State :=
  (List.range n).foldl (fun (acc : List Byte × List Nat × State) i =>
    let (bs, ps, s) := acc
    match c.pieceOf src u (g + i) with
    | none => (bs ++ List.replicate 32 0, ps ++ [i], s)
    | some p =>
      let o := g + i - p.off
      if p.chain = 0 then (bs ++ (p.data.drop (32 * o)).take 32, if p.poison.contains o then ps ++ [i] else ps, s)
      else
        match chainAt s p.chain with
        | some ch =>
          let (d, q, corr, s) := readChain s ch (32 * o) 32
          (bs ++ d, if q.isEmpty then ps else ps ++ [i],
            updColl s c.id (fun c => { c with poisonReads := c.poisonReads + q.length, corrReads := c.corrReads + corr }))
        | none => (bs ++ List.replicate 32 0, ps ++ [i], s)) ([], [], s)

/-- The first granule of batch b within a unit as it travels, and its granules. -/
def CollEntry.batchSpan (e : CollEntry) (partialResult : Bool) (b : Nat) : Nat × Nat :=
  let w := if partialResult then 4 else e.width
  (e.lead partialResult + 8 * w * b, ceilDiv (e.batchSize b * w) 32)

/-- A term's data for a batch have arrived, with the leading granule. -/
def Collective.arrived (c : Collective) (u b : Nat) (t : Nat × Bool) : Bool :=
  let sp := c.e.batchSpan t.2 b
  (c.e.lead t.2 == 0 || (c.pieceOf t.1 u 0).isSome) && (List.range sp.2).all (fun i => (c.pieceOf t.1 u (sp.1 + i)).isSome)

/-- A unit is done with here: its contributions are consumed. -/
def consumeUnit (s : State) (k : CollId) (u : Nat) : State :=
  match collOf s k with
  | none => s
  | some c =>
    let mine := c.contributions.filter (fun p => p.unit == u)
    mine.foldl (fun s p => consumeChain s p.chain) (updColl s k (fun c => { c with contributions := c.contributions.filter (fun p => p.unit != u) }))

/-! ### Values -/

/-- Elements of one term's batch in FP32 (R406, R81); those of poisoned granules are named by number. -/
def termValues (c : Collective) (s : State) (u b : Nat) (t : Nat × Bool) : List F32 × List Nat × State :=
  let e := c.e
  let sp := e.batchSpan t.2 b
  let (bs, ps, s) := c.granules s t.1 u sp.1 sp.2
  let (hd, hp, s) := if e.lead t.2 = 0 then (([] : List Byte), ([] : List Nat), s) else c.granules s t.1 u 0 1
  let n := e.batchSize b
  let w := if t.2 then 4 else e.width
  let scale := if e.scaled && !t.2 then fld (ofBytes hd) 7 0 else 127
  let f := if t.2 then fp32 else (fmtOf (numericOf e.num).format).getD fp32
  (((chunks w n bs).map (fun x => decodeScaled f (ofBytes x) scale)),
   (List.range n).filter (fun i => !hp.isEmpty || ps.contains (i * w / 32)), s)

/-- REDOP on two FP32 values (R406, R190). -/
def combine (redop : Nat) (a b : F32) : F32 := if redop = 1 then fadd a b else if redop = 2 then fmax a b else fmin a b

/-- Lists of values combined element by element, left to right. -/
def combineAll (redop : Nat) : List (List F32) → List F32
  | [] => []
  | l :: ls => ls.foldl (fun acc x => List.zipWith (combine redop) acc x) l

/-- VISITS of the present terms of a unit, as a saturating sum (R413). -/
def sumVisits (c : Collective) (s : State) (u : Nat) : Nat × Bool × State :=
  if c.e.hdr then
    (c.presentTerms u).flatten.foldl (fun (acc : Nat × Bool × State) t =>
      let (hd, hp, s) := c.granules acc.2.2 t.1 u 0 1
      (min (acc.1 + fld (ofBytes hd) 127 96) (2 ^ 32 - 1), acc.2.1 || !hp.isEmpty, s)) (0, false, s)
  else (0, false, s)

/-! ### Destinations, R408, R413 -/

/-- The tensor scale byte of the collective's writer. -/
def Collective.scaleByte (c : Collective) : Nat := match c.writer with | some w => (127 - w.scale).toNat % 256 | none => 0

/-- Poisoned granules of a result are counted, and the collective will end with POISON (R411). -/
def noteResultPoison (s : State) (k : CollId) (n : Nat) : State :=
  if n = 0 then s else updColl (countN s COLL 0x0C8 32 n) k (fun c => { c with poisoned := true })

/-- A written unit's header or scale unit (R408, R413), and the unit counts as done. -/
def closeUnit (s : State) (unit : Nat) (k : CollId) (u visits : Nat) (poison : Bool) : State :=
  match collOf s k with
  | none => s
  | some c =>
    let a := c.dstAddr u
    let s := updColl s k (fun c => { c with results := c.results ++ [u] })
    if c.e.hdr then
      let p := if poison then [0] else []
      collWrite (collWrite (noteResultPoison s k p.length) unit k a [BitVec.ofNat 8 c.scaleByte, 1] p) unit k (a + 12) (bytesOf visits 4) p
    else if c.e.scaled then collWrite s unit k (c.e.dst - 32) [BitVec.ofNat 8 c.scaleByte] []
    else s

/-- A destination unit to which no rank contributes (R413). -/
def closeAbsent (s : State) (k : CollId) (u : Nat) : State :=
  match collOf s k with
  | none => s
  | some c =>
    let s := updColl s k (fun c => { c with results := c.results ++ [u] })
    if c.e.hdr then collWrite (collWrite s 0 k (c.dstAddr u + 1) [0] []) 0 k (c.dstAddr u + 12) (bytesOf 0 4) [] else s

/-- Values written to the destination in NUM (R408): the bytes and the poisoned granules as they stand in memory, with the writer's notes. -/
def toMemory (c : Collective) (vals : List F32) (bad : List Nat) : List Byte × List Nat × Option Writer :=
  let e := c.e
  let p := packValues e.num c.writer vals
  -- FP32 takes no further rounding
  let bs := pad32 ((if (numericOf e.num).format = 0 then vals.map (·.toNat) else p.codes).flatMap (fun x => bytesOf x e.width))
  (bs, (List.range (bs.length / 32)).filter (fun g => bad.any (fun i => i * e.width / 32 == g)), p.writer)

/-- Values as they travel in FP32 (R406): the bytes and the poisoned granules. -/
def asFp32 (vals : List F32) (bad : List Nat) : List Byte × List Nat :=
  let bs := pad32 (vals.flatMap (fun v => bytesOf v.toNat 4))
  (bs, (List.range (bs.length / 32)).filter (fun g => bad.any (fun i => i / 8 == g)))

/-- A message of granules in pieces. -/
def sendPieces (s : State) (k : CollId) (dst unit off : Nat) (result : Bool) (bs : List Byte) (poison : List Nat) : State :=
  match collOf s k with
  | none => s
  | some c =>
    let gen := BitVec.ofNat 16 c.e.gen
    ((chunks (32 * pieceGranules) (bs.length / 32 + 1) bs).zipIdx).foldl (fun s p =>
      let o := pieceGranules * p.2
      let bad := (poison.filter (fun g => decide (o ≤ g ∧ g < o + pieceGranules))).map (· - o)
      collSend s k (c.members.getD dst 0) (if result then .result k gen unit (off + o) p.1 bad
        else .contribution k gen unit (off + o) p.1 bad)) s

/-- The outcome of a unit that travels on: its batches in order, behind a leading granule. -/
def madeBytes (c : Collective) (u : Nat) (lead : List Byte) (leadBad : Bool) : List Byte × List Nat :=
  let ps := (c.made.filter (fun p => p.unit == u)).mergeSort (fun a b => decide (a.off ≤ b.off))
  let l := lead.length / 32
  (ps.foldl (fun (acc : List Byte × List Nat) p => (acc.1 ++ p.data, acc.2 ++ p.poison.map (· + acc.1.length / 32))) (lead, if leadBad && l = 1 then [0] else []))

/-! ### Batches, R409, R410 -/

/-- Every batch of a unit is performed: the outcome is finished, or it travels on. -/
def finishUnit (s : State) (unit : Nat) (k : CollId) (u : Nat) : State :=
  match collOf s k with
  | none => s
  | some c =>
    let e := c.e
    let (visits, vbad, s) := sumVisits c s u
    let header := bytesOf (at_ visits 96 + at_ 1 8) 32
    let s :=
      if c.self = e.owner u then
        let s := closeUnit s unit k u visits vbad
        if e.op = 1 then
          let m := madeBytes c u (if e.lead e.scaled = 0 then [] else header) vbad
          (e.spreadsTo c.self u).foldl (fun s d => sendPieces s k d u 0 true m.1 m.2) s
        else s
      else
        let m := madeBytes c u (if e.hdr then header else []) vbad
        sendPieces s k (e.passesTo c.self u) u 0 false m.1 m.2
    let s := consumeUnit s k u
    updColl s k (fun c => { c with made := c.made.filter (fun p => p.unit != u), sourceDone := if c.sourceDone.contains u then c.sourceDone else c.sourceDone ++ [u] })

/-- A batch may be performed: it is this rank's, not performed yet, and every present term has arrived. -/
def batchReady (c : Collective) (u b : Nat) : Bool :=
  c.state == 2 && c.dataPhase && decide (u < c.e.units ∧ b < c.e.batches) && !c.batches.contains (u, b) &&
  !(c.presentTerms u).isEmpty && (c.presentTerms u).flatten.all (c.arrived u b)

/-- The collective has a batch that may be performed. -/
def hasBatch (c : Collective) : Bool := (List.range c.e.units).any (fun u => (List.range c.e.batches).any (batchReady c u))

/-- The collective whose turn it is: the first with a batch, after the one whose batch was performed last (R409). -/
def nextTurn (s : State) : Option CollId :=
  let n := match s.collTurn with
    | some k => s.collectives.findIdx (fun c => c.id == k) + 1
    | none => 0
  ((s.collectives.drop n ++ s.collectives.take n).find? hasBatch).map (·.id)

/-- One batch of 256 elements, in its collective's turn (R407 to R411): combined, checked, and written or kept to travel on. -/
def performBatch (s : State) (unit : Nat) (k : CollId) (u b mismatches : Nat) : State :=
  match collOf s k with
  | none => s
  | some c =>
    if batchReady c u b && nextTurn s == some k then
      let s := { s with collTurn := some k }
      let e := c.e
      let runs := c.presentTerms u
      let (sums, bad, s) := runs.foldl (fun (acc : List (List F32) × List Nat × State) run =>
        let (vs, bad, s) := run.foldl (fun (a : List (List F32) × List Nat × State) t =>
          let (v, p, s) := termValues c a.2.2 u b t
          (a.1 ++ [v], a.2.1 ++ p, s)) ([], acc.2.1, acc.2.2)
        (acc.1 ++ [combineAll e.redop vs], bad, s)) ([], [], s)
      let vals := combineAll e.redop sums
      -- only additions are checked (R410)
      let miss := if e.redop = 1 && decide (1 < runs.flatten.length) then mismatches else 0
      let s := if miss = 0 then s else updColl (count s COLL 0x0C0 32) k (fun c => { c with retries := c.retries + 1 })
      let bad := if miss = 2 then List.range vals.length else bad
      let final := decide (c.self = e.owner u)
      let s := updColl s k (fun c => { c with batches := c.batches ++ [(u, b)] })
      let s :=
        if final then
          let (bs, ps, w) := toMemory c vals bad
          -- a scaled result travels as the FP32 sum, which each rank rounds once with its own exponent (R408)
          let sum := if e.scaled then asFp32 vals bad else (bs, ps)
          let s := updColl s k (fun c => { c with writer := w, made := if e.op = 1 then c.made ++ [⟨c.self, u, b, sum.1.length / 32, 0, sum.1, sum.2⟩] else c.made })
          collWrite (noteResultPoison s k ps.length) unit k (c.dstAddr u + 32 * b2n e.hdr + 256 * e.width * b) bs ps
        else
          let (bs, ps) := asFp32 vals bad
          updColl s k (fun c => { c with made := c.made ++ [⟨c.self, u, b, bs.length / 32, 0, bs, ps⟩] })
      let s := if (List.range e.batches).all (fun i => ((collOf s k).map (fun c => c.batches.contains (u, i))).getD false) then finishUnit s unit k u else s
      if miss = 2 then faultColl s k 8 0 else s
    else s

/-- REDUCTION_BATCH: R409, R410. -/
def execReductionBatch (u : Fin 4) (k : CollId) (unit batch : Nat) (mismatches : Fin 3) (s : State) : Host.Outcome State Fault Refusal :=
  .next (performBatch s u.val k unit batch mismatches.val)

/-! ### Results and moved bytes that land, R392, R408, R411 -/

/-- The piece's elements as they are written from an offset of the element region on: bytes, poisoned granules numbered from that of the offset on, and
the writer's notes. Bytes move unchanged; a scaled result comes as FP32 and is rounded here once (R408). -/
def landed (c : Collective) (at' : Nat) (body : List Byte) (allBad : List Nat) : List Byte × List Nat × Option Writer :=
  if c.e.scaled then
    let n := body.length / 4
    let m := toMemory c ((chunks 4 n body).map (fun x => BitVec.ofNat 32 (ofBytes x))) []
    (m.1.take (2 * n), (((List.range n).filter (fun i => allBad.contains (i / 8))).map (fun i => (at' % 32 + 2 * i) / 32)).eraseDups, m.2.2)
  else (body, allBad, c.writer)

/-- A piece of a unit that lands in its destination (log 33). -/
def landPiece (s : State) (k : CollId) (u off : Nat) (data : List Byte) (poison : List Nat) : State :=
  match collOf s k with
  | none => s
  | some c =>
    let e := c.e
    let n := data.length / 32
    let lead := e.lead e.scaled
    let inDst := decide (c.dstUnits.1 ≤ u ∧ u < c.dstUnits.1 + c.dstUnits.2)
    let again := c.results.contains u || c.landed.any (fun l => l.1 == u && decide (l.2.1 < off + n ∧ off < l.2.1 + l.2.2))
    let known := c.prefixes.find? (fun p => p.1 == u)
    let first := if 0 < lead ∧ off = 0 then some (u, data.take 32, poison.contains 0) else known
    if n = 0 ∨ data.length % 32 ≠ 0 ∨ e.travel e.scaled < off + n ∨ inDst = false ∨ again = true ∨ (0 < lead ∧ first = none) then s
    else
      let skip := if off < lead then lead - off else 0
      let at' := if e.scaled then 16 * (off + skip - lead) else 32 * (off + skip - lead)
      let head := ofBytes ((first.map (·.2.1)).getD [])
      let headBad := (first.map (·.2.2)).getD false
      let (bs, ps, w) := landed c at' (data.drop (32 * skip)) ((poison.filter (fun g => decide (skip ≤ g))).map (· - skip))
      let s := updColl s k (fun c => { c with
        writer := w, landed := c.landed ++ [(u, off, n)],
        prefixes := match known, first with | none, some f => c.prefixes ++ [f] | _, _ => c.prefixes })
      let s := collWrite (noteResultPoison s k ps.length) 0 k (c.dstAddr u + 32 * b2n e.hdr + at') bs ps
      match collOf s k with
      | none => s
      | some c =>
        if sumNat ((c.landed.filter (fun l => l.1 == u)).map (·.2.2)) = e.travel e.scaled then
          let s := closeUnit s 0 k u (fld head 127 96) headBad
          updColl s k (fun c => { c with landed := c.landed.filter (fun l => l.1 != u), prefixes := c.prefixes.filter (fun p => p.1 != u) })
        else s

/-- A piece that lands is passed on along the ring or within the subgroup. -/
def passPiece (s : State) (k : CollId) (u off : Nat) (result : Bool) (data : List Byte) (poison : List Nat) : State :=
  match collOf s k with
  | none => s
  | some c => (c.e.spreadsTo c.self u).foldl (fun s d => sendPieces s k d u off result data poison) s

/-- A contribution of bytes moved unchanged lands, and is passed on by ALL_GATHER. -/
def landMoved (s : State) (k : CollId) (u off : Nat) (data : List Byte) (poison : List Nat) : State :=
  match collOf s k with
  | none => s
  | some c =>
    let s := landPiece s k u off data poison
    if c.e.op = 3 then passPiece s k u off false data poison else s

/-! ### The data phase, R402, R403, R406 -/

/-- A header GEN that differs from the entry's, of a source unit read or a destination unit written (R402); a poisoned header shows none. -/
def headerMismatch (s : State) (k : CollId) : Option Nat × State :=
  match collOf s k with
  | none => (none, s)
  | some c =>
    if !c.e.hdr then (none, s)
    else
      let srcs := ((List.range c.srcUnits.2).map (· + c.srcUnits.1)).filter (c.present c.self) |>.map c.srcAddr
      let dsts := ((List.range c.dstUnits.2).map (· + c.dstUnits.1)).map c.dstAddr
      (srcs ++ dsts).foldl (fun (acc : Option Nat × State) a =>
        match acc.1 with
        | some g => (some g, acc.2)
        | none =>
          let (bs, ps, s) := collRead acc.2 k a 32
          let g := fld (ofBytes bs) 31 16
          (if ps.isEmpty && g != c.e.gen then some g else none, s)) (none, s)

/-- One of this rank's own units read as it travels (R406). -/
def readOwn (s : State) (k : CollId) (c : Collective) (u : Nat) : List Byte × List Nat × State :=
  let e := c.e
  let (lb, lp, s) := if e.scaled && !e.hdr then collRead s k (e.src - 32) 32 else ([], [], s)
  let (bs, ps, s) := collRead s k (c.srcAddr u) e.unitBytes
  (lb ++ bs, lp ++ ps.map (· + lb.length / 32), s)

/-- A unit as it stands turned into a partial result. -/
def toPartial (e : CollEntry) (bs : List Byte) (poison : List Nat) : List Byte × List Nat :=
  let lead := e.lead false
  let f := (fmtOf (numericOf e.num).format).getD fp32
  let scale := if e.scaled then fld (ofBytes (bs.take 1)) 7 0 else 127
  let body := ((chunks e.width e.elements (bs.drop (32 * lead))).map (fun x => decodeScaled f (ofBytes x) scale)).flatMap (fun v => bytesOf v.toNat 4)
  let allBad := decide (0 < lead) && poison.contains 0
  let bad := (List.range (body.length / 32)).filter (fun g => allBad || poison.contains (lead + 8 * g * e.width / 32))
  let l := e.lead true
  ((if l = 1 then bs.take 32 else []) ++ body, (if l = 1 && allBad then [0] else []) ++ bad.map (· + l))

/-- A source unit of a reduction: sent, or kept for this rank's own combination; one whose bit is 0 is neither read nor sent. -/
def sourceReduced (s : State) (k : CollId) (u : Nat) : State :=
  match collOf s k with
  | none => s
  | some c =>
    let done := fun (s : State) => updColl s k (fun c => { c with sourceDone := c.sourceDone ++ [u] })
    if !c.present c.self u then done s
    else
      let (bs, ps, s) := readOwn s k c u
      match c.e.sendsTo c.self u with
      | some (dst, part) =>
        let m := if part then toPartial c.e bs ps else (bs, ps)
        done (sendPieces s k dst u 0 false m.1 m.2)
      | none =>
        let s := updColl s k (fun c => { c with contributions := c.contributions ++ [⟨c.self, u, 0, bs.length / 32, 0, bs, ps⟩] })
        if c.self = c.e.owner u then done s else s

/-- A source unit of bytes moved unchanged: sent, and for ALL_GATHER written to its own destination. -/
def sourceMoved (s : State) (k : CollId) (u : Nat) (bs : List Byte) (ps : List Nat) : State :=
  match collOf s k with
  | none => s
  | some c =>
    let dsts := if c.e.op = 3 then c.e.spreadsTo c.self u
      else if c.e.op = 5 then (List.range c.e.size).filter (· != c.self)
      else [c.e.send]
    let s := dsts.foldl (fun s d => sendPieces s k d u 0 false bs ps) s
    let s := if c.e.op = 3 then landPiece s k u 0 bs ps else s
    updColl s k (fun c => { c with sourceDone := c.sourceDone ++ [u] })

/-- The source units of moved bytes: all of them are read before the first one lands, since DST may equal SRC (R390, R392). -/
def moveSources (s : State) (k : CollId) (c : Collective) (units : List Nat) : State :=
  let (got, s) := units.foldl (fun (acc : List (Nat × List Byte × List Nat) × State) u =>
    let (bs, ps, s) := collRead acc.2 k (c.srcAddr u) c.e.unitBytes
    (acc.1 ++ [(u, bs, ps)], s)) ([], s)
  got.foldl (fun s g => sourceMoved s k g.1 g.2.1 g.2.2) s

/-- Contributions of moved bytes that came while the collective was open land now. -/
def landHeld (s : State) (k : CollId) : State :=
  match collOf s k with
  | none => s
  | some c =>
    if c.e.reduces then s
    else c.contributions.foldl (fun s p =>
      let (bs, ps, s) := c.granules s p.src p.unit p.off p.granules
      let s := consumeChain s p.chain
      landMoved (updColl s k (fun c => { c with contributions := c.contributions.filter (· != p) })) k p.unit p.off bs ps) s

/-- The data phase begins. -/
def beginData (s : State) (k : CollId) : State :=
  match headerMismatch s k with
  | (some g, s) => faultColl s k 4 g
  | (none, s) =>
    let s := writeOutcome (updColl s k (fun c => { c with dataPhase := true })) k
    match collOf s k with
    | none => s
    | some c =>
      let units := (List.range c.srcUnits.2).map (· + c.srcUnits.1)
      if c.e.reduces then
        let s := units.foldl (fun s u => sourceReduced s k u) s
        let absent := ((List.range c.dstUnits.2).map (· + c.dstUnits.1)).filter (fun u => c.outcome u == some false)
        absent.foldl (fun s u => closeAbsent s k u) s
      else landHeld (moveSources s k c units) k

/-- Presence bits of a run of units. -/
def runBits (c : Collective) (first n : Nat) (f : Nat → Bool) (s : State) (dst : Nat) : State :=
  if n = 0 then s else collSend s c.id (c.members.getD dst 0) (.presence c.id first ((List.range n).map (fun i => f (first + i))))

/-- What this rank passes on once its bits are there: a subgroup's OR to the owner (HIER), and the group's OR to every rank (ALL_REDUCE), one segment at a time (R412). -/
def passPresence (s : State) (k : CollId) : State :=
  match collOf s k with
  | none => s
  | some c =>
    let e := c.e
    (List.range e.size).foldl (fun s j =>
      let first := if e.op = 4 then 0 else e.segFirst j
      let n := if e.op = 4 then (if j = e.root then e.units else 0) else e.segCount j
      let us := (List.range n).map (· + first)
      let mine := us.all (fun u => !(e.terms c.self u).isEmpty && (c.bitsNeeded u).all (fun i => (c.bitOf i u).isSome))
      if n = 0 || c.presenceSent.contains j || !mine || (c.self == j && e.op != 1) then s
      else
        let orBits := fun (u : Nat) => (c.bitsNeeded u).any (fun i => c.present i u)
        let s := updColl s k (fun c => { c with presenceSent := c.presenceSent ++ [j] })
        if c.self = j then ((List.range e.size).filter (· != j)).foldl (fun s d => runBits c first n orBits s d) s
        else runBits c first n orBits s j) s

/-- Once nothing more is needed, the data phase begins. -/
def afterPresence (s : State) (k : CollId) : State :=
  let s := passPresence s k
  match collOf s k with
  | none => s
  | some c => if c.state == 2 && !c.dataPhase && c.presenceDone then beginData s k else s

/-- This rank's own bits go to the ranks that combine its units (R412). -/
def sendPresence (s : State) (k : CollId) : State :=
  match collOf s k with
  | none => s
  | some c =>
    let e := c.e
    let (bs, ps, s) := collRead s k e.bitmap (ceilDiv e.units 8)
    let v := ofBytes bs
    let s := updColl s k (fun c => { c with poisoned := c.poisoned || !ps.isEmpty, presence := c.presence ++ [(c.self, 0, (List.range e.units).map (bit v))] })
    (List.range e.size).foldl (fun s j =>
      let first := if e.op = 4 then 0 else e.segFirst j
      let n := if e.op = 4 then (if j = e.root then e.units else 0) else e.segCount j
      match if n = 0 then none else e.sendsTo c.self first with
      | some (dst, _) => runBits c first n (bit v) s dst
      | none => s) s

/-- The writer of a scaled destination, if the collective has one. -/
def Collective.writes (c : Collective) : Bool := c.e.scaled && decide (0 < c.dstUnits.2 ∨ c.e.op = 2)

/-- An open collective that has heard from every member starts (R401, R408). One whose slot's commit is pending waits (R93); one whose slot is not enabled
ends with a format fault (R71), for which it has the code of DESCRIPTOR (log 84). -/
def startColl (s : State) (k : CollId) (op : Nat) : State :=
  match collOf s k with
  | none => s
  | some c =>
    let slot := (numericOf c.e.num).slot
    if c.state ≠ 1 ∨ c.e.op ≠ op ∨ c.heard.length ≠ c.members.length then s
    else if c.writes && !stewardOn s slot then faultColl s k 1 0
    else if c.writes && slotPending (slotBits s slot) then s
    else
      let (t, s) := readTime s COLL
      let (w, s) : Option Writer × State :=
        if c.writes then
          let r := takeWriter s slot
          (some { slot := slot, scale := r.1 }, r.2)
        else (none, s)
      let s := updColl s k (fun c => { c with state := 2, startedAt := t, writer := w })
      afterPresence (if c.e.bitmap = 0 then s else sendPresence s k) k

/-- ALL_REDUCE: R392. -/
def execAllReduce (k : CollId) (s : State) : Host.Outcome State Fault Refusal := .next (startColl s k 1)

/-- REDUCE_SCATTER: R392. -/
def execReduceScatter (k : CollId) (s : State) : Host.Outcome State Fault Refusal := .next (startColl s k 2)

/-- ALL_GATHER: R392. -/
def execAllGather (k : CollId) (s : State) : Host.Outcome State Fault Refusal := .next (startColl s k 3)

/-- REDUCE: R392. -/
def execReduce (k : CollId) (s : State) : Host.Outcome State Fault Refusal := .next (startColl s k 4)

/-- BROADCAST: R392. -/
def execBroadcast (k : CollId) (s : State) : Host.Outcome State Fault Refusal := .next (startColl s k 5)

/-- PERMUTE: R392. -/
def execPermute (k : CollId) (s : State) : Host.Outcome State Fault Refusal := .next (startColl s k 6)

/-! ### Arrivals -/

/-- Presence bits arrive (R412): from the owner of their segment they are the group's OR, otherwise a rank's or a subgroup's bits. -/
def takePresence (s : State) (src : Nat) (k : CollId) (first : Nat) (bits : List Bool) : State :=
  match collOf s k with
  | none => s
  | some c =>
    match c.members.idxOf? src with
    | none => s
    | some i =>
      if c.state = 0 ∨ c.e.bitmap = 0 ∨ c.dataPhase = true ∨ i = c.self ∨ c.e.units < first + bits.length ∨ bits.isEmpty = true then s
      else
        let s := if i = c.e.owner first then updColl s k (fun c => { c with known := c.known ++ (bits.zipIdx).map (fun b => (first + b.2, b.1)) })
          else updColl s k (fun c => { c with presence := c.presence ++ [(i, first, bits)] })
        if c.state = 2 then afterPresence s k else s

/-- PRESENCE_MESSAGE: R412. -/
def execPresenceMessage (m : Carried (BitVec 12)) (k : CollId) (first : Nat) (bits : List Bool) (s : State) : Host.Outcome State Fault Refusal :=
  .next (receive s m.via 2 k.index.toNat m.what.toNat (fun s => takePresence s m.what.toNat k first bits))

/-- A contribution is held in pool cells until its batches are performed (R406; 12_memory_system.md R444). -/
def holdPiece (s : State) (k : CollId) (src i unit off : Nat) (data : List Byte) (poison : List Nat) : State :=
  let n := ceilDiv data.length 256
  match admitCells s 2 k.index.toNat src 2 n with
  | (none, s) => s
  | (some id, s) =>
    match makeChain s id n 1 with
    | (none, s) => s
    | (some head, s) =>
      let s := match chainAt s head with | some ch => writeChain s ch data poison | none => s
      updColl s k (fun c => { c with contributions := c.contributions ++ [⟨i, unit, off, data.length / 32, head, [], []⟩] })

/-- A contribution arrives (R402, R406, R411, R414). -/
def takeContribution (s : State) (src : Nat) (k : CollId) (gen : BitVec 16) (unit off : Nat) (data : List Byte) (poison : List Nat) : State :=
  match collOf s k with
  | none => s
  | some c =>
    if c.state = 0 then s
    else
      match c.members.idxOf? src with
      | none => s
      | some i =>
        if gen.toNat ≠ c.e.gen then endCollective s k 4 src gen.toNat
        else if c.e.op = 6 ∧ i ≠ c.e.recv then endCollective s k 5 src 0
        else if c.e.units ≤ unit ∨ data.isEmpty = true ∨ data.length % 32 ≠ 0 ∨ 32 * pieceGranules < data.length then s
        else if c.e.reduces then
          match (c.e.terms c.self unit).flatten.find? (fun t => t.1 == i && i != c.self) with
          | none => s
          | some t =>
            if c.e.travel t.2 < off + data.length / 32 ∨ (List.range (data.length / 32)).any (fun g => (c.pieceOf i unit (off + g)).isSome) = true then s
            else holdPiece s k src i unit off data poison
        else if c.dataPhase then landMoved s k unit off data poison
        else holdPiece s k src i unit off data poison

/-- CONTRIBUTION: R406. -/
def execContribution (m : Carried (BitVec 12)) (k : CollId) (gen : BitVec 16) (unit off : Nat) (data : List Byte) (poison : List Nat) (s : State) :
    Host.Outcome State Fault Refusal := .next (receive s m.via 2 k.index.toNat m.what.toNat (fun s => takeContribution s m.what.toNat k gen unit off data poison))

/-- A result arrives: it lands in its destination and is passed on (R408). -/
def takeResult (s : State) (src : Nat) (k : CollId) (gen : BitVec 16) (unit off : Nat) (data : List Byte) (poison : List Nat) : State :=
  match collOf s k with
  | none => s
  | some c =>
    if c.state ≠ 2 ∨ c.members.contains src = false then s
    else if gen.toNat ≠ c.e.gen then endCollective s k 4 src gen.toNat
    else if c.e.op ≠ 1 ∨ c.e.units ≤ unit ∨ c.e.owner unit = c.self then s
    else passPiece (landPiece s k unit off data poison) k unit off true data poison

/-- RESULT: R408. -/
def execResult (m : Carried (BitVec 12)) (k : CollId) (gen : BitVec 16) (unit off : Nat) (data : List Byte) (poison : List Nat) (s : State) :
    Host.Outcome State Fault Refusal := .next (receive s m.via 2 k.index.toNat m.what.toNat (fun s => takeResult s m.what.toNat k gen unit off data poison))

/-! ### The end, R403, R411 -/

/-- Every destination unit is written, every source unit sent, and every send acknowledged (R403; log 29). -/
def collDone (s : State) (c : Collective) : Bool :=
  c.state == 2 && c.dataPhase && c.sourceDone.length == c.srcUnits.2 && c.results.length == c.dstUnits.2 && (collMessages s c.id).all (acknowledged s)

/-- COLLECTIVE_END: R403, R411. -/
def execCollectiveEnd (k : CollId) (s : State) : Host.Outcome State Fault Refusal :=
  .next (match collOf s k with
    | none => s
    | some c => if collDone s c then (if c.poisoned then faultColl s k 9 0 else endCollective s k 0 (ownRank s) 0) else s)

/-! ### Messages of this module's own rank, 08_routing_exchange.md R278 -/

/-- A message of this rank to itself arrives. -/
def deliverOwn (s : State) (m : SentMessage) : State :=
  let s := noteArrival s m.kind m.flow m.dst m.msg
  match m.what with
  | .scout h es => scoutArrives s h es
  | .grant h es => grantArrives s h es
  | .abort h => abortArrives s h
  | .carry t row p => carryRow s t row p
  | .returned t row p => returnRow s t row p
  | .openMsg k g d => takeOpen s m.dst k g d
  | .presence k first bits => takePresence s m.dst k first bits
  | .contribution k g u o d p => takeContribution s m.dst k g u o d p
  | .result k g u o d p => takeResult s m.dst k g u o d p
  | .collAbort k c b => takeCollAbort s m.dst k c b

/-- The messages of this rank to itself that are on their way arrive, in the order in which they were sent (log 27). -/
def deliverLooped (s : State) : State := s.looped.foldl deliverOwn { s with looped := [] }

end Sys2Proof.Machine
end

