-- ==== Sys2Proof/Machine/Solver.lean ====
section
/-! DEFINITION. The solver units: channels, assembly, Cholesky, inverse, inverse roots, deadlines and delivery, 10_curvature_solver.md. -/

namespace Sys2Proof.Machine

/-! ### Descriptors, R358, R359 -/

/-- The fields of a solver descriptor. -/
structure SolvDesc where
  deadline : Nat
  stat : Nat
  factorIn : Nat
  factorOut : Nat
  slot : Nat
  visit : Nat
  record : Nat
  ordinal : Nat
  alpha : F32
  damp : F32
  lambdaMin : F32
  vRef : Nat
  gen : Nat
  tag : Nat
  pitch : Nat
  dim : Nat
  alg : Nat
  p4 : Bool
  assemble : Bool
  init : Bool
  relative : Bool
  arm : Bool
  fmt : Nat
  tiny : Nat
  retryShift : Nat
  tol : Nat
  maxIter : Nat
  refine : Nat
  rsvd : Nat
  type : Nat
  version : Nat
deriving DecidableEq, Repr

def solvDesc (v : Nat) : SolvDesc :=
  { deadline := fld v 1023 960, stat := fld v 959 918, factorIn := fld v 917 876, factorOut := fld v 875 834, slot := fld v 833 792, visit := fld v 791 750,
    record := fld v 749 708, ordinal := fld v 707 660, alpha := BitVec.ofNat 32 (fld v 659 628), damp := BitVec.ofNat 32 (fld v 627 596),
    lambdaMin := BitVec.ofNat 32 (fld v 595 564), vRef := fld v 563 532, gen := fld v 531 516, tag := fld v 515 500, pitch := fld v 499 484,
    dim := fld v 483 479, alg := fld v 478 477, p4 := bit v 476, assemble := bit v 475, init := bit v 474, relative := bit v 473, arm := bit v 472,
    fmt := fld v 471 468, tiny := fld v 467 463, retryShift := fld v 462 460, tol := fld v 459 455, maxIter := fld v 454 449, refine := fld v 448 447,
    rsvd := fld v 446 8, type := fld v 7 4, version := fld v 3 0 }

/-- n, m = n / 64, the number of stored blocks and P(n) bytes (R351, R357). -/
def SolvDesc.n (d : SolvDesc) : Nat := 64 * (d.dim + 1)
def SolvDesc.m (d : SolvDesc) : Nat := d.dim + 1
def SolvDesc.blocks (d : SolvDesc) : Nat := d.m * (d.m + 1) / 2
def SolvDesc.bytes (d : SolvDesc) : Nat := 16384 * d.blocks
def SolvDesc.p (d : SolvDesc) : Nat := if d.p4 then 4 else 2
def SolvDesc.width (d : SolvDesc) : Nat := if d.fmt = 0 then 4 else 2

/-- A finite coefficient that is not negative. -/
def coefficientBad (x : F32) : Bool := !isFinite x || decide (fkey x < 0)

/-- The visit count weights the blend (R358, R364). -/
def SolvDesc.visited (d : SolvDesc) : Bool := d.assemble && d.visit != 0 && d.vRef != 0

/-- A DESCRIPTOR fault (R359): ALPHA is looked at, and the addresses have to be aligned, only where the job uses them (R358, R364, R365). -/
def solverBad (d : SolvDesc) : Bool :=
  d.version != 1 || d.type != 1 || d.rsvd != 0 || d.alg == 0 || (d.p4 && d.alg != 3) || (d.fmt != 0 && d.fmt != 2) ||
  decide (d.pitch < d.n * d.width / 32) || (d.assemble && (coefficientBad d.alpha || decide (fkey 0x3F800000 < fkey d.alpha))) || coefficientBad d.damp || coefficientBad d.lambdaMin ||
  (!d.assemble && d.init) || (d.alg == 3 && d.maxIter == 0) ||
  d.slot % 64 != 0 || d.record % 64 != 0 || (!d.init && d.factorIn % 64 != 0) ||
  (d.assemble && ((d.stat % 64 != 0 && (d.init || fmag d.alpha != 0)) || d.factorOut % 64 != 0)) || (d.visited && d.visit % 32 != 0) ||
  (d.assemble && !d.init && decide (d.factorIn < d.factorOut + d.bytes ∧ d.factorOut < d.factorIn + d.bytes))

/-! ### The plan, R377: kinds 0 assembly, 1 damping, 2 Cholesky panel, 3 its update, 4 inversion panel, 5 its products, 6 Z, 7 refinement, 8 setup, 9 T, 10 iteration products, 11 writeback -/

/-- Steps of n block products in chunks of 32; the last one has the argument `last`, the others `other`. -/
def chunkSteps (kind n other last : Nat) : List (Nat × Nat) :=
  let k := ceilDiv n 32
  (List.range k).map (fun i => (kind, if i + 1 = k then last else other))

/-- The factorisation's steps. -/
def factorSteps (m : Nat) : List (Nat × Nat) :=
  (List.range m).flatMap (fun k => (2, k) :: chunkSteps 3 ((m - k - 1) * (m - k) / 2) k k)

/-- One iteration's steps (R374). -/
def iterSteps (d : SolvDesc) : List (Nat × Nat) :=
  (9, 0) :: (List.range (if d.p4 then 4 else 3)).flatMap (fun i =>
    chunkSteps 10 (d.m * d.m * (d.m + 1) / 2) 0 (if i + 1 = (if d.p4 then 4 else 3) then 1 else 0))

/-- The steps after the factorisation of an inverse (R372). -/
def inverseSteps (d : SolvDesc) : List (Nat × Nat) :=
  (List.range d.m).flatMap (fun k => (4, k) :: chunkSteps 5 ((d.m - k - 1) * (d.m - k) / 2) k k) ++
  chunkSteps 6 (d.m * (d.m + 1) * (d.m + 2) / 6) 0 1 ++
  (List.range d.refine).flatMap (fun _ => chunkSteps 7 (d.m * d.m * d.m) 0 0 ++ chunkSteps 7 (d.m * d.m * d.m) 0 1)

/-- The whole plan of a job. -/
def jobPlan (d : SolvDesc) (strict : Bool) : List (Nat × Nat) :=
  (List.range (ceilDiv d.blocks 32)).map (fun g => (0, g)) ++ [(1, 0)] ++
  (if d.alg = 1 then factorSteps d.m
   else if d.alg = 2 then factorSteps d.m ++ inverseSteps d
   else (if strict then factorSteps d.m else []) ++ [(8, 0)] ++ (List.range d.maxIter).flatMap (fun _ => iterSteps d)) ++ [(11, 0)]

/-- The phase that a step belongs to (R384). -/
def stepPhase (d : SolvDesc) (kind : Nat) (retried : Bool) : Nat :=
  match kind with
  | 0 => 1
  | 1 => if retried then (if d.alg = 3 then 2 else 3) else 1
  | 2 => if d.alg = 3 then 2 else 3
  | 3 => if d.alg = 3 then 2 else 3
  | 4 => 4
  | 5 => 4
  | 6 => 4
  | 7 => 5
  | 11 => 7
  | _ => 6

/-- PHASE, PANEL and COLUMN of a job are those of the step that runs now, the first of its plan (R384, R387).
The columns of a panel are counted when the panel ends (log 86). -/
def SolverJob.reached (j : SolverJob) : SolverJob :=
  match j.plan with
  | [] => j
  | k :: _ =>
    let j := { j with phase := stepPhase (solvDesc j.desc.toNat) k.1 j.retried }
    if k.1 = 2 ∨ k.1 = 4 then { j with panel := k.2, column := 0 } else j

/-- The step that runs has completed (R377): it counts, and the next one is reached. -/
def SolverJob.stepDone (j : SolverJob) : SolverJob := ({ j with done := j.done + 1, plan := j.plan.drop 1 } : SolverJob).reached

/-! ### Channels, R360 to R363 -/

def getHead (s : State) (c : Nat) : Option HeadJob := (s.heads[c]?).getD none
def setHead (s : State) (c : Nat) (h : Option HeadJob) : State := { s with heads := s.heads.set c h }
def getUnit (s : State) (u : Nat) : Option SolverJob := (s.units[u]?).getD none
def setUnit (s : State) (u : Nat) (j : Option SolverJob) : State := { s with units := s.units.set u j }
def modUnit (s : State) (u : Nat) (f : SolverJob → SolverJob) : State :=
  match getUnit s u with
  | some j => setUnit s u (some (f j))
  | none => s

def solverMaster (u : Nat) : Master := .solver (Fin.ofNat 4 u)

/-- Channels 14 and 15 are strict (R360). -/
def strictChannel (c : Nat) : Bool := decide (14 ≤ c)

/-- The detail of a solver record (R384). -/
def solverDetail (j : SolverJob) (code phase unit serial : Nat) : Nat :=
  at_ code 120 + at_ phase 116 + at_ (b2n j.factorDone) 115 + at_ (b2n j.retried) 114 + at_ (b2n (code == 0)) 113 + at_ (j.iter % 64) 107 +
    at_ (j.panel % 32) 102 + at_ (j.column % 64) 96 + at_ j.lambda.toNat 64 + at_ j.resid.toNat 32 + at_ j.channel 28 + at_ unit 25 + serial % 2 ^ 24

/-- The completion record of a job (R384; 15_integrity_faults.md R549 to R552). -/
def solverRecordOf (j : SolverJob) (code phase unit serial : Nat) : Record :=
  let d := solvDesc j.desc.toNat
  { type := 5, status := if code = 0 then 0 else 2, reason := code, unit := j.channel, tag := d.tag, gen := d.gen, ordinal := if d.arm then d.ordinal else 0,
    done := j.done, total := j.total, start := j.headAt, corr := j.corrReads, uncorr := j.poisonReads, detail := solverDetail j code phase unit serial }

/-- An undelivered ending: its counters, LAST_FAULT, the log entry and the record (R385; log 20). -/
def endUndelivered (s : State) (m : Master) (j : SolverJob) (code phase unit : Nat) : State :=
  let s := if code = 3 then count s SOLVER 0x018 32 else count s SOLVER 0x020 32
  let s := logNoted { s with lastSolverFault := code } SOLVER 0 .jobFault [j.channel, code, (solvDesc j.desc.toNat).tag]
  writeRecord m s (solvDesc j.desc.toNat).record (solverRecordOf j code phase unit 0)

/-- A head job leaves its ring's head: TAIL advances (R360). -/
def dropHead (s : State) (c : Nat) : State :=
  let t := 0x118 + 32 * c
  setReg (setHead s c none) SOLVER t ((getReg s SOLVER t + 1) % 2 ^ 32)

/-- A job that no unit takes ends (R359, R362, R363). -/
def endHead (s : State) (c : Nat) (h : HeadJob) (code : Nat) (poison corr : Nat) : State :=
  let d := solvDesc h.desc.toNat
  let j : SolverJob := { channel := c, desc := h.desc, headAt := h.arrived, deadline := 0, poisonReads := poison, corrReads := corr,
                         total := if code = 1 ∨ code = 9 then 0 else (jobPlan d (strictChannel c)).length }
  endUndelivered (dropHead s c) .solverRecord j code 0 7

/-- Absolute deadline of a head job; none while a relative one has no reference time yet (R362). -/
def headDeadline (h : HeadJob) : Option Nat :=
  let d := solvDesc h.desc.toNat
  if d.relative then (if h.waits.isSome then none else some (max h.arrived h.armedAt + d.deadline)) else some d.deadline

/-- The channel's ring holds a descriptor to read. -/
def channelReady (s : State) (c : Nat) : Bool :=
  let size := fld (getReg s SOLVER (0x108 + 32 * c)) 4 0
  isReady s && takesWork s SOLVER && (getHead s c).isNone && getReg s SOLVER (0x110 + 32 * c) != getReg s SOLVER (0x118 + 32 * c) && decide (1 ≤ size ∧ size ≤ 12)

/-- The descriptor at a ring's head is read and checked (R360, R362, R368). -/
def readHead (s : State) (c : Nat) : State :=
  let (rd, s) := readSpan .solverRecord s
    (ringAddr (getReg s SOLVER (0x100 + 32 * c)) (fld (getReg s SOLVER (0x108 + 32 * c)) 4 0) (getReg s SOLVER (0x118 + 32 * c)) 128) 128
  let v := ofBytes rd.data
  let d := solvDesc v
  let (t, s) := readTime s SOLVER
  let h : HeadJob := { desc := BitVec.ofNat 1024 v, arrived := t, armedAt := t }
  if !rd.poison.isEmpty then endHead s c h 9 rd.bad rd.corr
  else if solverBad d then endHead s c h 1 rd.bad rd.corr
  else if d.arm then
    (match endedAs s d.ordinal with
     | some true => endHead s c h 2 rd.bad rd.corr
     | some false => setHead s c (some h)
     | none => setHead s c (some { h with waits := some d.ordinal }))
  else setHead s c (some h)

/-- A head job whose deciding launch ended halted ends with ARM_HALTED (R362). -/
def settleHead (s : State) (c : Nat) : State :=
  match getHead s c with
  | some h => if h.armFail then endHead s c h 2 0 0 else s
  | none => s

/-- SOLVER_DESCRIPTOR_READ: R360. -/
def execSolverDescriptorRead (c : Fin 16) (s : State) : Host.Outcome State Fault Refusal :=
  .next (let s := settleHead s c.val; if channelReady s c.val then readHead s c.val else s)

/-- HEAD_DEADLINE: R363. -/
def execHeadDeadline (c : Fin 16) (s : State) : Host.Outcome State Fault Refusal :=
  .next (match getHead s c.val with
    | none => s
    | some h =>
      let (t, s) := readTime s SOLVER
      match headDeadline h with
      | some dl => if dl < t then endHead s c.val h 3 0 0 else s
      | none => s)

/-! ### Arithmetic -/

/-- Index of block (i, j), i ≤ j, in ascending i and then j (R367). -/
def blockIndex (m i j : Nat) : Nat := i * m - i * (i - 1) / 2 + (j - i)

/-- The blocks on and above the diagonal, in order. -/
def blockList (m : Nat) : List (Nat × Nat) := (List.range m).flatMap (fun i => (List.range (m - i)).map (fun k => (i, i + k)))

/-- Element (i, j) of a symmetric matrix held in blocks. -/
def blockAt (m : Nat) (l : List F32) (i j : Nat) : F32 :=
  let a := min i j
  let b := max i j
  l.getD (4096 * blockIndex m (a / 64) (b / 64) + 64 * (a % 64) + b % 64) 0

/-- Element (i, j) of an n × n matrix, row by row. -/
def matAt (n : Nat) (l : List F32) (i j : Nat) : F32 := l.getD (n * i + j) 0

def buildMat (n : Nat) (f : Nat → Nat → F32) : List F32 := (List.range n).flatMap (fun i => (List.range n).map (f i))

/-- One element of a product: one fused multiply-add for each term, in ascending inner index (R356). -/
def dotFma (n : Nat) (f g : Nat → F32) : F32 := (List.range n).foldl (fun acc k => ffma (f k) (g k) acc) 0

def matMul (n : Nat) (a b : List F32) : List F32 := buildMat n (fun i j => dotFma n (fun k => matAt n a i k) (fun k => matAt n b k j))

/-- A product computed on and above the diagonal and taken as symmetric (R374). -/
def symMul (n : Nat) (a b : List F32) : List F32 :=
  let p := matMul n a b
  buildMat n (fun i j => matAt n p (min i j) (max i j))

/-- An exact value divided by a natural number, rounded once. -/
def roundedQuotient (x : Flt) (k : Nat) : F32 :=
  match x with
  | .fin neg m e => if k = 0 then 0 else toF32 (.fin neg (2 * (m * 2 ^ 64 / k) + b2n (m * 2 ^ 64 % k != 0)) (e - 65))
  | y => toF32 y

/-- x ≤ y for finite values. -/
def fltLe (x y : Flt) : Bool :=
  match y.add x.neg with
  | .fin neg m _ => !neg || m == 0
  | _ => false

/-! ### Reads and writes of a job -/

/-- A read by a unit: the words, and whether a granule is poisoned (R368). -/
def jobRead (s : State) (u a n : Nat) : List Byte × Bool × State :=
  let (rd, s) := readSpan (solverMaster u) s a n
  let s := modUnit s u (fun j => { j with poisonReads := j.poisonReads + rd.bad, corrReads := j.corrReads + rd.corr })
  (rd.data, !rd.poison.isEmpty, rd.poison.foldl (fun s g => notePoisonConsumed s SOLVER (32 * g) (((getUnit s u).map (·.channel)).getD 0)) s)

/-- A write by a unit: whether an address was unmapped. The lines it stores may be posts (08_routing_exchange.md R304). -/
def jobWrite (s : State) (u a : Nat) (bs : List Byte) : Bool × State :=
  let (bad, s) := writeSpan (solverMaster u) s a bs []
  (bad, if bad then s else noteLines s a bs.length)

/-- The running job of a unit ends undelivered, and a deferred disable may take effect (R378, R383, R387). -/
def endJob (s : State) (u code : Nat) : State :=
  match getUnit s u with
  | none => s
  | some j => settle (endUndelivered (setUnit s u none) (solverMaster u) j code j.phase u) SOLVER

/-- A job stops with NONFINITE at A, or with POISON: FACTOR_DONE is 0 (R368). -/
def spoilJob (s : State) (u code : Nat) : State := endJob (modUnit s u (fun j => { j with factorDone := false })) u code

/-- Bytes whose contents the spec leaves open take free values (log 2). -/
def fillFree (s : State) (a n : Nat) : State :=
  let bs := (List.range n).map (fun i => BitVec.ofNat 8 ((Config.freeBits (s.freeCtr + i / 8)).toNat / 2 ^ (8 * (i % 8))))
  { putBytes s a bs with guard := tclear s.guard (a / 32) (n / 32), freeCtr := s.freeCtr + n / 8 + 1 }

/-- Bytes of the workspace of a job (R357): what they hold while the job runs, and as it leaves them, is not laid down (log 2). -/
def SolvDesc.workspace (d : SolvDesc) : Nat := (if d.alg = 1 then 2 else if d.alg = 2 then 4 else 5) * d.bytes

/-- The workspace's contents take free values. -/
def touchStore (s : State) (u : Nat) (d : SolvDesc) : State := fillFree s (solverBase u) d.workspace

/-- A step meets the guard errors that its workspace holds (R368): the codewords that do not check are read, and the answer says whether one is uncorrectable.
Which granules of the workspace a step reads is not laid down: every step meets them all (DESIGN CHOICE, log 86). -/
def checkStore (s : State) (u : Nat) (d : SolvDesc) : Bool × State :=
  let lo := solverBase u / 32
  ((s.guard.map Prod.fst).filter (fun g => decide (lo ≤ g ∧ g < lo + d.workspace / 32))).foldl (fun (acc : Bool × State) g =>
    let (_, bad, s) := jobRead acc.2 u (32 * g) 32
    (acc.1 || bad, s)) (false, s)

/-! ### Taking a job, R361, R364, R365 -/

/-- A head job is eligible, and its deadline is not reached (R361, R363). -/
def eligible (s : State) (h : HeadJob) : Bool :=
  h.waits.isNone && !h.armFail &&
  s.units.all (fun j => match j with | some k => (solvDesc k.desc.toNat).slot != (solvDesc h.desc.toNat).slot | none => true) &&
  (match headDeadline h with | some dl => decide (s.time ≤ dl) | none => false)

/-- The channel whose head job a free unit takes, of those that `gone` leaves: the earliest absolute deadline, then the lower channel (R361). -/
def chooseFrom (s : State) (u : Nat) (gone : List (Nat × HeadJob)) : Option (Nat × HeadJob) :=
  ((List.range 16).filterMap (fun c =>
    match getHead s c with
    | some h =>
      let left := !gone.any (fun x => x.1 == c || (solvDesc x.2.desc.toNat).slot == (solvDesc h.desc.toNat).slot)
      if bit (getReg s SOLVER (0x108 + 32 * c)) (8 + u) && eligible s h && left then some (c, h) else none
    | none => none)).foldl (fun (best : Option (Nat × HeadJob)) x =>
      match best with
      | none => some x
      | some b => if (headDeadline x.2).getD 0 < (headDeadline b.2).getD 0 then some x else best) none

/-- The head job that unit u takes: the free units below it choose first (R361).
The rule says so of units that become free in one solver cycle; the model has no solver cycles and says it of all units that are free (DESIGN CHOICE, log 86). -/
def chooseHead (s : State) (u : Nat) : Option (Nat × HeadJob) :=
  chooseFrom s u ((List.range u).foldl (fun gone v => if (getUnit s v).isSome then gone else gone ++ (chooseFrom s v gone).toList) [])

/-- The blend weight (R364): the weight, and whether a poisoned granule was read. -/
def blendWeight (s : State) (u : Nat) (d : SolvDesc) : F32 × Bool × State :=
  if !d.visited then (d.alpha, false, s)
  else
    let (bs, bad, s) := jobRead s u d.visit 32
    let v := fld (ofBytes bs) 127 96
    let q := if d.vRef ≤ v then (0x3F800000 : F32) else roundedQuotient (.fin false v 0) d.vRef
    (fmul d.alpha q, bad, s)

/-- What the statistic's header shows: a fault code, or SAMPLES and FORM (R352, R365). -/
def statHeader (d : SolvDesc) (h : Nat) : Nat ⊕ (Nat × Bool) :=
  if fld h 3 0 ≠ 1 ∨ fld h 15 11 ≠ d.dim ∨ fld h 9 4 ≠ 0 ∨ fld h 511 64 ≠ 0 then .inl 0xA
  else if fld h 31 16 ≠ d.gen then .inl 0xB
  else .inr (fld h 63 32, bit h 10)

/-- A job has started on a unit: its weight and header are read. -/
def beginJob (s : State) (u : Nat) : State :=
  match getUnit s u with
  | none => s
  | some j =>
    let d := solvDesc j.desc.toNat
    let s := touchStore s u d
    if !d.assemble then s
    else
      let (w, bad, s) := blendWeight s u d
      if bad then endJob s u 9
      else if !d.init && fmag w == 0 then modUnit s u (fun j => { j with weight := w })
      else
        let (bs, bad, s) := jobRead s u d.stat 64
        if bad then endJob s u 9
        else
          match statHeader d (ofBytes bs) with
          | .inl code => endJob s u code
          | .inr (samples, full) => modUnit s u (fun j => { j with weight := w, samples := samples, full := full, reads := decide (0 < samples) })

/-- A free unit takes the job that R361 chooses, if it is of an algorithm. -/
def takeJob (s : State) (u alg : Nat) : State :=
  let st := blk s SOLVER
  if (getUnit s u).isSome || !st.enabled || st.disabling || st.errorStopped then s
  else
    match chooseHead s u with
    | none => s
    | some (c, h) =>
      let d := solvDesc h.desc.toNat
      if d.alg ≠ alg then s
      else
        let plan := jobPlan d (strictChannel c)
        let j : SolverJob := { channel := c, desc := h.desc, headAt := h.arrived, deadline := (headDeadline h).getD 0, plan := plan, total := plan.length }
        beginJob (setUnit (dropHead s c) u (some j.reached)) u

/-- CHOL: R369. -/
def execChol (u : Fin 4) (s : State) : Host.Outcome State Fault Refusal := .next (takeJob s u.val 1)

/-- INV: R372. -/
def execInv (u : Fin 4) (s : State) : Host.Outcome State Fault Refusal := .next (takeJob s u.val 2)

/-- IROOT: R373. -/
def execIroot (u : Fin 4) (s : State) : Host.Outcome State Fault Refusal := .next (takeJob s u.val 3)

/-! ### Assembly, R351, R365 to R368 -/

/-- Byte offset of element (i, j) in a statistic block's tiles (R351), where it is stored. -/
def statOffset (m : Nat) (full : Bool) (i j : Nat) : Option Nat :=
  let r := i / 64
  let t := j / 32
  let at' := fun (k : Nat) => 64 + 8192 * k + 128 * (i % 64) + 4 * (j % 32)
  if full then some (at' (2 * m * r + t))
  else if 2 * r ≤ t then some (at' (2 * m * r - r * (r - 1) + (t - 2 * r))) else none

/-- The exact value of s_ij, i ≤ j (R365). -/
def statValue (m : Nat) (full : Bool) (bs : List Byte) (i j : Nat) : Flt :=
  let el := fun (o : Nat) => ofF32 (BitVec.ofNat 32 (ofBytes ((bs.drop o).take 4)))
  match statOffset m full i j, statOffset m full j i with
  | some a, some b => if i = j then el a else ((el a).add (el b)).scale (-1)
  | some a, none => el a
  | none, some b => el b
  | none, none => .fin false 0 0

/-- A block of the new factor state (R365). -/
def assembleBlock (d : SolvDesc) (j : SolverJob) (fin : List F32) (stat : Nat → Nat → Flt) (bi bj : Nat) : List F32 :=
  let inAt := fun (a b : Nat) => fin.getD (64 * a + b) 0
  let aN := roundedQuotient (ofF32 j.weight) j.samples
  let b1 := fsub 0x3F800000 j.weight
  (List.range 4096).map (fun x =>
    let a := x / 64
    let b := x % 64
    let lo := if bi = bj then min a b else a
    let hi := if bi = bj then max a b else b
    let sv := stat (64 * bi + lo) (64 * bj + hi)
    if d.init then (if j.samples = 0 then 0 else roundedQuotient sv j.samples)
    else if j.reads then toF32 (((ofF32 b1).mul (ofF32 (inAt lo hi))).add ((ofF32 aN).mul sv))
    else inAt a b)

/-- One block of the factor read, assembled and written; a fault code, or the block (R365, R368). -/
def assembleOne (s : State) (u : Nat) (d : SolvDesc) (b : Nat × Nat) : (Nat ⊕ List F32) × State :=
  match getUnit s u with
  | none => (.inl 9, s)
  | some j =>
    let k := blockIndex d.m b.1 b.2
    let (fb, p1, s) := if d.init then (([] : List Byte), false, s) else jobRead s u (d.factorIn + 16384 * k) 16384
    let reads := d.assemble && (j.reads || (d.init && decide (0 < j.samples)))
    let tiles := if !reads then [] else
      (if j.full then [2 * d.m * b.1 + 2 * b.2, 2 * d.m * b.1 + 2 * b.2 + 1] ++ (if b.1 = b.2 then [] else [2 * d.m * b.2 + 2 * b.1, 2 * d.m * b.2 + 2 * b.1 + 1])
       else (let base := 2 * d.m * b.1 - b.1 * (b.1 - 1) + (2 * b.2 - 2 * b.1); [base, base + 1]))
    let (store, p2, s) := tiles.foldl (fun (acc : List (Nat × List Byte) × Bool × State) t =>
      let (bs, p, s) := jobRead acc.2.2 u (d.stat + 64 + 8192 * t) 8192
      (acc.1 ++ [(t, bs)], acc.2.1 || p, s)) ([], false, s)
    let fin := words4 fb
    let cell := fun (i j' : Nat) =>
      match statOffset d.m j.full i j' with
      | some o =>
        let t := (o - 64) / 8192
        (match store.find? (fun x => x.1 == t) with
         | some x => some (ofF32 (BitVec.ofNat 32 (ofBytes ((x.2.drop ((o - 64) % 8192)).take 4))))
         | none => none)
      | none => none
    let stat := fun (i j' : Nat) =>
      match cell i j', cell j' i with
      | some a, some c => if i = j' then a else (a.add c).scale (-1)
      | some a, none => a
      | none, some c => c
      | none, none => Flt.fin false 0 0
    let statBad := store.any (fun x => (words4 x.2).any (fun w => !isFinite w))
    if p1 || p2 then (.inl 9, s)
    else if fin.any (fun w => !isFinite w) || statBad then (.inl 6, s)
    else
      let out := if d.assemble then assembleBlock d j fin stat b.1 b.2 else fin
      if d.assemble then
        let (bad, s) := jobWrite s u (d.factorOut + 16384 * k) (bytes4 out)
        (if bad then .inl 0xD else .inr out, s)
      else (.inr out, s)

/-- A group of up to 32 blocks of assembly (R377). -/
def assembleGroup (s : State) (u : Nat) (d : SolvDesc) (g : Nat) : State :=
  let (r, s) := (((blockList d.m).drop (32 * g)).take 32).foldl (fun (acc : (Nat ⊕ List F32) × State) b =>
    match acc.1 with
    | .inl _ => acc
    | .inr done =>
      match assembleOne acc.2 u d b with
      | (.inl c, s) => (.inl c, s)
      | (.inr out, s) => (.inr (done ++ out), s)) (.inr [], s)
  match r with
  | .inl code => endJob s u code
  | .inr out => modUnit s u (fun j => { j with factor := j.factor ++ out, factorDone := d.assemble && decide (d.blocks ≤ 32 * (g + 1)) })

/-- Largest of a list of values; +0 of none. -/
def largest (l : List F32) : F32 :=
  match l with
  | [] => 0
  | x :: xs => xs.foldl (fun a b => if fkey a < fkey b then b else a) x

/-- Diagonal of the factor. -/
def factorDiag (d : SolvDesc) (j : SolverJob) : List F32 := (List.range d.n).map (fun i => blockAt d.m j.factor i i)

/-- The damping in force (R366, R370). -/
def dampingOf (d : SolvDesc) (j : SolverJob) : F32 :=
  if j.retried then
    let a := ofF32 j.lambda
    let b := (ofF32 (largest (factorDiag d j))).scale (-(d.tiny : Int))
    toF32 ((if fltLe a b then b else a).scale (d.retryShift + 1))
  else
    let diag := factorDiag d j
    let t := match diag with | [] => 0 | x :: xs => xs.foldl fadd x
    let v := roundedQuotient (ofF32 (fmul d.damp t)) d.n
    if fkey v < fkey d.lambdaMin then d.lambdaMin else v

/-- The damping pass: A = F_out + λI (R366, R368, R370). -/
def dampingPass (s : State) (u : Nat) (d : SolvDesc) : State :=
  match getUnit s u with
  | none => s
  | some j =>
    let lam := dampingOf d j
    let a := buildMat d.n (fun i k => if i = k then fadd (blockAt d.m j.factor i i) lam else blockAt d.m j.factor i k)
    let dm := largest ((List.range d.n).map (fun i => matAt d.n a i i))
    let s := setUnit s u (some { j with lambda := lam, work := a, dMax := dm, chol := [], panel := 0, column := 0 })
    if a.any (fun w => !isFinite w) then spoilJob s u 6 else s

/-! ### Cholesky, R369 to R371 -/

/-- Element (i, k) of L from its columns. -/
def cholAt (n : Nat) (l : List F32) (i k : Nat) : F32 := l.getD (n * k + i) 0

/-- Element (i, c) of A after every update from earlier columns. -/
def updated (n : Nat) (a l : List F32) (i c : Nat) : F32 :=
  (List.range c).foldl (fun acc k => ffma (fneg (cholAt n l i k)) (cholAt n l c k) acc) (matAt n a i c)

/-- A pivot is tiny (R369). -/
def tinyPivot (d : SolvDesc) (dMax x : F32) : Bool :=
  fltLe (ofF32 x) ((ofF32 dMax).scale (-(d.tiny : Int))) || decide (fkey x < fkey (fpow2 (-124)))

/-- What a pivot leads to. -/
inductive PivotEnd where
  | fine
  | nonfinite
  | tiny
deriving DecidableEq, Repr

/-- The columns of one panel, up to the first pivot that stops it: columns, smallest d_c / d_max, columns completed. -/
def panelColumns (d : SolvDesc) (a : List F32) (dMax : F32) : Nat → Nat → List F32 → Option F32 → Nat → PivotEnd × List F32 × Option F32 × Nat
  | 0, _, l, r, k => (.fine, l, r, k)
  | fuel + 1, c, l, r, k =>
    let n := d.n
    let x := updated n a l c c
    if isNaN x then (.nonfinite, l, r, k)
    else
      let q := fdiv x dMax
      let r := match r with | none => q | some y => if fkey q < fkey y then q else y
      if tinyPivot d dMax x then (.tiny, l, some r, k)
      else
        let root := fsqrt x
        let col := (List.range n).map (fun i => if i < c then 0 else if i = c then root else fdiv (updated n a l i c) root)
        panelColumns d a dMax fuel (c + 1) (l ++ col) (some r) (k + 1)

/-- A Cholesky panel: the answer says whether the step completed. -/
def cholPanel (s : State) (u : Nat) (d : SolvDesc) (k : Nat) : Bool × State :=
  match getUnit s u with
  | none => (false, s)
  | some j =>
    let start := if k = 0 then none else some j.resid
    let (e, l, r, cols) := panelColumns d j.work j.dMax 64 (64 * k) j.chol (if d.alg = 1 then start else none) 0
    let j := { j with chol := l, panel := k, column := cols, resid := if d.alg = 1 then r.getD 0 else j.resid }
    let s := setUnit s u (some j)
    match e with
    | .fine => (true, s)
    | .nonfinite => (false, endJob s u 6)
    | .tiny =>
      if strictChannel j.channel then (false, endJob s u 5)
      else if j.retried then (false, endJob s u 4)
      else
        -- the retry's damping pass and factorisation join the plan in front of the steps after the factorisation
        let rest := (j.plan.drop 1).filter (fun x => x.1 != 2 && x.1 != 3)
        let s := count s SOLVER 0x028 32
        (false, setUnit s u (some ({ j with retried := true, plan := (1, 0) :: factorSteps d.m ++ rest, total := j.total + 1 + (factorSteps d.m).length } : SolverJob).reached))

/-! ### Inverse, R372 -/

/-- Columns of L⁻¹, by forward substitution, one rounding for each operation. -/
def invertLower (n : Nat) (l : List F32) : List F32 :=
  (List.range n).flatMap (fun c =>
    (List.range n).foldl (fun (col : List F32) i =>
      col ++ [if i < c then 0
        else if i = c then fdiv 0x3F800000 (cholAt n l c c)
        else
          let acc := ((List.range i).filter (fun k => decide (c ≤ k))).foldl (fun acc k => ffma (cholAt n l i k) (col.getD k 0) acc) 0
          fdiv (fneg acc) (cholAt n l i i)]) [])

/-- Z = L⁻ᵀ L⁻¹ (R372). -/
def zFrom (n : Nat) (inv : List F32) : List F32 :=
  buildMat n (fun i j => ((List.range n).filter (fun k => decide (max i j ≤ k))).foldl (fun acc k => ffma (cholAt n inv k (min i j)) (cholAt n inv k (max i j)) acc) 0)

/-- One refinement step: E = I − AZ, Z + ZE made symmetric; the new Z and the largest |E_ij|. -/
def refineZ (n : Nat) (a z : List F32) : List F32 × F32 :=
  let p := matMul n a z
  let e := buildMat n (fun i j => fsub (if i = j then 0x3F800000 else 0) (matAt n p i j))
  let q := matMul n z e
  let w := fun (i j : Nat) => (ofF32 (matAt n z i j)).add (ofF32 (matAt n q i j))
  (buildMat n (fun i j => toF32 (((w (min i j) (max i j)).add (w (max i j) (min i j))).scale (-1))),
   if e.any isNaN then 0x7FC00000 else largest (e.map fabs))

/-! ### Inverse roots, R373 to R375 -/

/-- The identity scaled by a power of two. -/
def scaledEye (n : Nat) (k : Int) : List F32 := buildMat n (fun i j => if i = j then fpow2 k else 0)

/-- The setup (R373): M in `work`, X in `aux`. A row sum of zero needs no scaling; one that overflows has no stated c. -/
def rootSetup (s : State) (u : Nat) (d : SolvDesc) : State :=
  match getUnit s u with
  | none => s
  | some j =>
    let n := d.n
    let sums := (List.range n).map (fun i => match (List.range n).map (fun k => fabs (matAt n j.work i k)) with | [] => (0 : F32) | x :: xs => xs.foldl fadd x)
    let (f, s) := fresh s
    let c : Int := match ofF32 (largest sums) with
      | .fin _ m e => if m = 0 then 0 else ceilLog2 m e
      | _ => (f % 256 : Nat)
    let p : Int := d.p
    let up := (c + p - 1) / p
    let e := p * up
    setUnit s u (some { j with work := j.work.map (fun x => toF32 ((ofF32 x).scale (-e))), aux := scaledEye n (-up), chol := [] })

/-- One iteration (R374): the new X and M. -/
def rootIterate (n : Nat) (p4 : Bool) (x m : List F32) : List F32 × List F32 :=
  let p := if p4 then 4 else 2
  let t := buildMat n (fun i j => roundedQuotient ((if i = j then Flt.fin false (p + 1) 0 else .fin false 0 0).add (ofF32 (matAt n m i j)).neg) p)
  let x := symMul n x t
  let t2 := symMul n t t
  (x, if p4 then symMul n (symMul n t2 t2) m else symMul n t2 m)

/-- r = max over i ≤ j of |M_ij − δ_ij| (R374). -/
def rootResid (n : Nat) (m : List F32) : F32 :=
  let es := (List.range n).flatMap (fun i => (List.range (n - i)).map (fun k => fabs (fsub (matAt n m i (i + k)) (if k = 0 then 0x3F800000 else 0))))
  if es.any isNaN then 0x7FC00000 else largest es

/-- The last step of an iteration completes, and the checkpoint after it (R375, R377). -/
def checkpointRoot (s : State) (u : Nat) (d : SolvDesc) : State :=
  match getUnit s u with
  | none => s
  | some j =>
    let (x, m) := rootIterate d.n d.p4 j.aux j.work
    let r := rootResid d.n m
    let k := j.iter + 1
    let j := ({ j with aux := x, work := m, resid := r, iter := k } : SolverJob)
    let s := setUnit s u (some { j.stepDone with phase := j.phase })
    if isNaN r || decide (0x40000000 < fmag r) then endJob s u 7
    else if j.convergedAt.isNone && fltLe (ofF32 r) (.fin false 1 (-(d.tol : Int))) then
      let more := min d.refine (d.maxIter - k)
      let tail := (List.range more).flatMap (fun _ => iterSteps d) ++ [(11, 0)]
      setUnit s u (some ({ j.stepDone with convergedAt := some k, plan := tail, total := j.done + 1 + tail.length } : SolverJob).reached)
    else if j.convergedAt.isNone && k == d.maxIter then endJob s u 8
    else setUnit s u (some j.stepDone)

/-! ### Writeback and delivery, R378, R380, R381 -/

/-- Writeback time in timebase units (R378). -/
def writebackTime (d : SolvDesc) : Nat := ceilDiv (10 * (d.n * d.n * d.width / 256 + 256)) 36

/-- A slot that R380 refuses. -/
def slotBad (v : Nat) : Bool :=
  fld v 427 256 != 0 || fld v 115 1 != 0 || fld v 511 470 % 32 != 0 || fld v 469 428 % 32 != 0 || fld v 511 470 == fld v 469 428

/-- Row i of a job's result, converted to OUT_FMT with OVF = 0 (R381; 02_number_formats.md R78). -/
def resultRow (d : SolvDesc) (j : SolverJob) (i : Nat) : List Byte :=
  let vals := (List.range d.n).map (fun k => if d.alg = 1 then (if k ≤ i then cholAt d.n j.chol i k else 0) else matAt d.n j.aux i k)
  if d.fmt = 0 then vals.flatMap (fun v => bytesOf (convert fp32 false none (ofF32 v)).code 4)
  else vals.flatMap (fun v => bytesOf (convert bf16 false none (ofF32 v)).code 2)

/-- The writeback's result writes (R378, R380, R381). The step completes when the slot granule is written, which DELIVERY does. -/
def writeback (s : State) (u : Nat) (d : SolvDesc) : State :=
  match getUnit s u with
  | none => s
  | some j =>
    let (t, s) := readTime s SOLVER
    if j.slot.isSome then s
    else if j.deadline < t + writebackTime d then endJob s u 3
    else
      let (bs, bad, s) := jobRead s u d.slot 64
      let v := ofBytes bs
      if bad then spoilJob s u 9
      else if slotBad v then endJob s u 0xC
      else
        let buf := if bit v 0 then fld v 469 428 else fld v 511 470
        let (lost, s) := (List.range d.n).foldl (fun (acc : Bool × State) i =>
          if acc.1 then acc else jobWrite acc.2 u (buf + 32 * d.pitch * i) (resultRow d j i)) (false, s)
        if lost then endJob s u 0xD
        else modUnit s u (fun j => { j with slot := some (BitVec.ofNat 512 v) })

/-- One step of the plan: whether it completed and is still to be counted. -/
def runStep (s : State) (u : Nat) (d : SolvDesc) (k : Nat × Nat) : Bool × State :=
  let alive := fun (s : State) => ((getUnit s u).isSome, s)
  match k.1 with
  | 0 => alive (assembleGroup s u d k.2)
  | 1 => alive (dampingPass s u d)
  | 2 => cholPanel s u d k.2
  | 4 => (true, modUnit s u (fun j => { j with panel := k.2, column := 64 }))
  | 6 => (true, if k.2 = 1 then modUnit s u (fun j => { j with aux := zFrom d.n (invertLower d.n j.chol) }) else s)
  | 7 => (true, if k.2 = 1 then modUnit s u (fun j => let r := refineZ d.n j.work j.aux; { j with aux := r.1, resid := r.2 }) else s)
  | 8 => (true, rootSetup s u d)
  | 10 => if k.2 = 1 then (false, checkpointRoot s u d) else (true, s)
  | 11 => (false, writeback s u d)
  | _ => (true, s)

/-- SOLVER_STEP: the next step of a running job completes, unless its deadline is reached first (R377 to R379). -/
def solverStep (s : State) (u : Nat) : State :=
  match getUnit s u with
  | none => s
  | some j =>
    match j.plan with
    | [] => s
    | k :: _ =>
      let d := solvDesc j.desc.toNat
      let (t, s) := readTime s SOLVER
      if j.deadline < t then endJob s u 3
      else
        let (bad, s) := checkStore s u d
        if bad then spoilJob s u 9
        else
          let (ok, s) := runStep (touchStore s u d) u d k
          if ok then modUnit s u SolverJob.stepDone else s

/-- SOLVER_STEP: R377. -/
def execSolverStep (u : Fin 4) (s : State) : Host.Outcome State Fault Refusal := .next (solverStep s u.val)

/-- JOB_DEADLINE: R378. -/
def execJobDeadline (u : Fin 4) (s : State) : Host.Outcome State Fault Refusal :=
  .next (match getUnit s u.val with
    | none => s
    | some j =>
      let (t, s) := readTime s SOLVER
      if j.deadline < t then endJob s u.val 3 else s)

/-- The slot granule of a delivery (R380, R381). -/
def slotGranule (d : SolvDesc) (v t : Nat) : Nat :=
  at_ (t % 2 ^ 64) 192 + at_ ((fld v 191 160 + 1) % 2 ^ 32) 160 + at_ d.gen 144 + at_ d.tag 128 + at_ d.dim 123 + at_ d.fmt 119 + at_ d.alg 117 + at_ (b2n d.p4) 116 +
    b2n (!bit v 0)

/-- DELIVERY: every result write is acknowledged, and the slot granule is written no later than the deadline (R381). -/
def deliverJob (s : State) (u : Nat) : State :=
  match getUnit s u with
  | none => s
  | some j =>
    match j.slot with
    | none => s
    | some v =>
      let d := solvDesc j.desc.toNat
      let (t, s) := readTime s SOLVER
      if j.deadline < t then endJob s u 3
      else
        let (bad, s) := jobWrite s u d.slot (bytesOf (slotGranule d v.toNat t) 32)
        if bad then endJob s u 0xD
        else
          let j := j.stepDone
          let s := count s SOLVER 0x010 32
          let s := writeRecord (solverMaster u) s d.record (solverRecordOf j 0 8 u (fld v.toNat 191 160 + 1))
          settle (setUnit s u none) SOLVER

/-- DELIVERY: R381. -/
def execDelivery (u : Fin 4) (s : State) : Host.Outcome State Fault Refusal := .next (deliverJob s u.val)

end Sys2Proof.Machine
end

