-- ==== Sys2Proof/Machine/ErrorStop.lean ====
section
/-! DEFINITION. Error-stops: uncorrectable codewords in the internal state of the exchange die's blocks, 15_integrity_faults.md R543, R551. -/

namespace Sys2Proof.Machine

/-- The completion record of work that ends because its block error-stopped: STATUS DEVICE and REASON 0 (R551). -/
def deviceRecord (r : Record) : Record := { r with status := 4, reason := 0 }

/-- Active dispatches end at once. -/
def stopDispatches (s : State) : State :=
  s.dispatches.foldl (fun s x =>
    let s := writeRecord (dispMaster x.list) (dropAwaited (dropHeld s x.d.id) 1 x.d.id) x.d.record
      (deviceRecord (dispatchRecord { x with fault := 0 } (ackedReturns s x.d.id)))
    endFlow { s with dispatches := s.dispatches.filter (fun z => z.list != x.list) } 1 x.d.id) s

/-- Held collectives end at once. -/
def stopCollectives (s : State) : State :=
  s.collectives.foldl (fun s c =>
    let sent := (c.sourceDone.filter (unitAcked s c.id)).length
    let r := collRecordOf (ownRank s) c 0 0 0 (c.srcUnits.2 + c.dstUnits.2) sent
    let detail := at_ c.phase 116 + at_ (min c.retries 255) 96 + at_ (c.ordinal % 2 ^ 48) 48
    writeRecord .collRecord (dropColl s c) (fld c.record.toNat 255 214) (deviceRecord { r with detail := detail })) s

/-- The record of a stopped solver job is that of an undelivered one. -/
def deviceJob (j : SolverJob) (phase unit : Nat) : Record :=
  let r := solverRecordOf j 0 phase unit 0
  deviceRecord { r with detail := setFld r.detail 113 113 0 }

/-- Running solver jobs and head jobs end at once. -/
def stopJobs (s : State) : State :=
  let s := (List.range 4).foldl (fun s u =>
    match getUnit s u with
    | none => s
    | some j => writeRecord (solverMaster u) (setUnit s u none) (solvDesc j.desc.toNat).record (deviceJob j j.phase u)) s
  (List.range 16).foldl (fun s c =>
    match getHead s c with
    | none => s
    | some h =>
      let j : SolverJob := { channel := c, desc := h.desc, headAt := h.arrived, deadline := 0, total := (jobPlan (solvDesc h.desc.toNat) (strictChannel c)).length }
      writeRecord .solverRecord (dropHead s c) (solvDesc h.desc.toNat).record (deviceJob j 0 7)) s

/-- The record of a launch that a core has not begun; it starts and ends with this reading (log 70). -/
def deviceLaunch (s : State) (n : Nat) (r : BitVec 512) : State :=
  let (t, s) := readTime s HOSTIF
  let l : CoreLaunch := ⟨0, r, recordCsf1 r, t⟩
  writeRecord (.coreRecord (Fin.ofNat 128 n)) s (recAddr l + 64 * n) (deviceRecord (launchRecord {} n l 0 0 0 0))

/-- Launch records that wait in a queue or in a delivery list end at once, halted for arming (01_architecture.md R613). -/
def stopLaunches (s : State) : State :=
  let queued := s.host.queues
  let s := queued.foldl (fun s q =>
    let left := if (s.host.queues.find? (fun x => x.1 == q.1)) == some q then uncopied s.host q.1 else recordCores q.2
    left.foldl (fun s n => deviceLaunch s n q.2) { s with host := { s.host with queues := s.host.queues.erase q, copying := s.host.copying.filter (fun x => x.1 != q.1) } }) s
  let listed := (List.range 128).flatMap (fun n => (getCore s n).deliveries.map (fun d => (n, d)))
  listed.foldl (fun s x =>
    endLaunch (deviceLaunch (modCore s x.1 (fun c => { c with deliveries := [] })) x.1 x.2.2) x.2.1 true) s

/-- What a block holds ends (R543): dispatches, collectives, solver jobs, and launch records, whose queues and lists stand with the host interface (log 70).
The other structures of the rule hold no work with a completion record. -/
def endHeldWork (s : State) (b : Nat) : State :=
  if b = EXCH then stopDispatches s
  else if b = COLL then stopCollectives s
  else if b = SOLVER then stopJobs s
  else if b = HOSTIF then stopLaunches s
  else s

/-- A block error-stops, with its count and its log entry (R543, R547, R548); an error in the state of a stopped block has no further effect (R544). -/
def stopBlock (s : State) (b structure' : Nat) : State :=
  if (blk s b).errorStopped then s
  else
    let s := setBlk s b { blk s b with errorStopped := true }
    endHeldWork (logEntry (countFault s 32) b 0 0x05 (structure' % 256)) b

/-- The blocks meet the uncorrectable codewords of their internal state. -/
def meetStateErrors (s : State) : State :=
  s.stateErrors.foldl (fun s x => stopBlock s x.1 x.2) { s with stateErrors := [] }

end Sys2Proof.Machine
end

