-- ==== Sys2Proof/Machine/Resets.lean ====
section
/-! DEFINITION. The cold reset, the warm reset and the reset of the host interface, 14_startup_host.md R491, R495, R496, R511 and 16_register_interface.md R576. -/

namespace Sys2Proof.Machine

/-- What a cold reset leaves (R491): every block reset; the commands still waiting, what has left the module, the non-volatile memory and the count of free
values are none of the blocks' state. -/
def clearModule (s : State) : State :=
  { State.reset with pending := s.pending, out := s.out, freeCtr := s.freeCtr, nvm := s.nvm }

/-- The controllers of the PWR block in reset, the measured values kept. -/
def resetPower (p : Power) : Power :=
  { p with powerStep := 0, thermalStep := 0, applied := 0, overFor := 0, calm := 0, highLast := false, coolReadings := 0 }

/-- A cold reset with the straps that it samples (R491): the timebase counter starts from zero (17_module_physical.md R604). -/
def coldReset (s : State) (profileSel frameSlot : Nat) : State :=
  let p := s.power
  { clearModule s with
    power := { resetPower p with vin := max 46000 (min 56000 p.vin), inputPresent := true, regulators := true, tripped := false, modReset := false,
                                 scan := p.scan, scanPins := false },
    boot := { strapProfile := BitVec.ofNat 2 profileSel, strapSlot := BitVec.ofNat 2 frameSlot } }

/-- A warm reset (R495, R496): the timebase counter, the host's link and configuration space, PROFILE_REQUEST and BOOT_COUNT stay; a running start is begun again
at phase 2. -/
def warmReset (s : State) : State :=
  let s' : State := { clearModule s with
    time := s.time, readings := s.readings, sync := { s.sync with sentAt := none }, tickPhase := s.tickPhase, exchPhase := s.exchPhase,
    host := { inReset := s.host.inReset, linkUp := s.host.linkUp, msixEnable := s.host.msixEnable, busMaster := s.host.busMaster },
    power := resetPower s.power, smbSelect := s.smbSelect,
    boot := { state := 7, strapProfile := s.boot.strapProfile, strapSlot := s.boot.strapSlot,
              requestUsed := BitVec.ofNat 3 (getReg s CHIP 0x030) } }
  setReg (setReg s' CHIP 0x030 (getReg s CHIP 0x030)) CHIP 0x020 (satAdd 32 (getReg s CHIP 0x020) 1)

/-- A reset of the host interface alone (R511): its link, configuration space, BAR2_BASE and MSI-X table. -/
def resetHost (s : State) : State :=
  setReg { s with host := { s.host with inReset := true, linkUp := false, msixEnable := false, busMaster := false, msix := [], pendingBits := 0 } } HOSTIF 0x008 0

/-- A module without power holds nothing (00_scope.md R8): what its inputs and its trip latch show stays. -/
def powerOff (s : State) (tripped present : Bool) (vin : Nat) : State :=
  { clearModule s with power := { vin := vin, inputPresent := present, regulators := false, tripped := tripped, modReset := s.power.modReset } }

end Sys2Proof.Machine
end

