-- ==== Sys2Proof/Machine/Regs.lean ====
section
/-! DEFINITION. Register accesses: what a write of each register does, the latches of 4-byte accesses, writes on their way, and REGISTER_WRITE, 16_register_interface.md R560 to R571. -/

namespace Sys2Proof.Machine

/-! ### MSI-X, 14_startup_host.md R515 -/

/-- A vector is masked in its table entry. -/
def vectorMasked (s : State) (v : Nat) : Bool := bit (tget {} s.host.msix v).ctrl.toNat 0

/-- Messages leave: MSI-X is enabled and the function is a bus master (R509, R515). -/
def msiOn (s : State) : Bool := s.host.msixEnable && s.host.busMaster && !s.host.inReset

/-- A vector is signalled: its message leaves, or its pending bit is set. -/
def signalVector (s : State) (v : Nat) : State :=
  if msiOn s && !vectorMasked s v then
    let e := tget {} s.host.msix v
    emit s (.msi v e.addr e.data)
  else { s with host := { s.host with pendingBits := s.host.pendingBits ||| BitVec.ofNat 64 (2 ^ v) } }

/-- Pending vectors that may now be sent are. -/
def sendPending (s : State) : State :=
  if msiOn s then
    (List.range 64).foldl (fun s v =>
      if bit s.host.pendingBits.toNat v && !vectorMasked s v then
        signalVector { s with host := { s.host with pendingBits := s.host.pendingBits &&& ~~~ (BitVec.ofNat 64 (2 ^ v)) } } v
      else s) s
  else s

/-- A 4-byte write of the MSI-X table at an offset within it. -/
def writeMsix (s : State) (off v : Nat) : State :=
  let k := off / 16
  let e := tget {} s.host.msix k
  let e := match off % 16 / 4 with
    | 0 => { e with addr := BitVec.ofNat 64 (setFld e.addr.toNat 31 0 v) }
    | 1 => { e with addr := BitVec.ofNat 64 (setFld e.addr.toNat 63 32 v) }
    | 2 => { e with data := BitVec.ofNat 32 v }
    | _ => { e with ctrl := BitVec.ofNat 32 v }
  sendPending { s with host := { s.host with msix := tset {} s.host.msix k e } }

/-! ### NVMIF's direct commands, 14_startup_host.md R498, R531 -/

/-- A write of DIRECT_CMD: refused unless DIRECT_ENABLE, and while a command is busy. -/
def nvmCommand (s : State) (op : Nat) : State :=
  if op = 0 then s
  else if nvmDirect s && s.nvmBusy.isNone then { s with nvmBusy := some op, nvmRefused := false }
  else { s with nvmRefused := true }

/-! ### What a write of a register does -/

/-- Blocks whose offset 0x008 is a CTL register with an ENABLE field (R579). -/
def hasCtl (b : Nat) : Bool :=
  (0x010 ≤ b && b ≤ 0x01B) || b == SCACHE || b == POOL || b == EXCH || b == COLL || b == SOLVER || (0x030 ≤ b && b ≤ 0x038) || b == NUMERIC

/-- A write of a CHIP, KEEPER, HOSTIF or NVMIF register that acts. -/
def writeSystem (m : Master) (s : State) (b off : Nat) (d : RegDef) (v : Nat) : State :=
  if b = CHIP then
    (if off = 0x040 then (if v % 2 ^ 16 = 0x5A01 then warmReset s else s)
     else if off = 0x050 then requestBreak s v
     else if off = 0x0B0 then resetCores s 0 v
     else if off = 0x0B8 then resetCores s 64 v
     else writeField s b off d v)
  else if b = KEEPER then (if off = 0x008 then { s with keeper := { s.keeper with watchdogAt := s.time } } else writeField s b off d v)
  else if b = HOSTIF then
    (if off = 0x010 then
      (let s := writeField s b off d v
       { s with host := { s.host with heartbeatAt := s.time } })
     else if 0x400 ≤ off ∧ off < 0x600 then writeStaging s m ((off - 0x400) / 64) ((off - 0x400) % 64 / 8) (BitVec.ofNat 64 v)
     else if 0x800 ≤ off ∧ off < 0xC00 then writeMsix (writeMsix s (off - 0x800) (v % 2 ^ 32)) (off - 0x800 + 4) (v / 2 ^ 32)
     else writeField s b off d v)
  else if b = NVMIF then (if off = 0x118 then nvmCommand s (v % 4) else writeField s b off d v)
  else writeField s b off d v

/-- A write of a register of the datapath's blocks that acts. -/
def writeUnit (m : Master) (s : State) (b off : Nat) (d : RegDef) (v : Nat) : State :=
  if off = 0x008 ∧ hasCtl b = true then writeCtl s b 0x008 d v
  else if 0x010 ≤ b ∧ b ≤ 0x01B ∧ off = 0x058 then
    (let s := writeField s b off d v
     startMargin s (b - 0x010) (getReg s b 0x058))
  else if b = POOL ∧ off = 0x050 then releaseChain (masterId m).1 s (v % 2 ^ 42)
  else if b = COLL ∧ off = 0x030 then tableLoad m s v
  else if b = COLL ∧ 0x200 ≤ off then count s COLL 0x0D0 32
  else if b = DMA ∧ off = 0x008 then writeChannels s v
  else if b = FABRIC ∧ off = 0x038 then windowWrite s false v
  else if b = FABRIC ∧ off = 0x040 then windowWrite s true v
  else if b = NUMERIC ∧ off = 0x028 then writeSlotLow s v
  else if b = NUMERIC ∧ off = 0x030 then writeSlotHigh s
  else if b = NUMERIC ∧ off = 0x038 then requestCommits s v
  else if 0x100 ≤ b ∧ off = 0x060 then imemCommand s (b - 0x100) (v % 8)
  else if 0x100 ≤ b ∧ off = 0x108 then debugCommand s (b - 0x100) (v % 4)
  else if 0x100 ≤ b ∧ 0x208 ≤ off then writeSregWindow s (b - 0x100) ((off - 0x200) / 8) (BitVec.ofNat 64 v)
  else writeField s b off d v

/-- One 8-byte write of a window offset, decoded by R564; RO, LV and CNT fields take none. -/
def regWrite (m : Master) (s : State) (b x v : Nat) : State :=
  match blockMap b with
  | none => s
  | some (mask, defs) =>
    let off := decodeOffset mask defs x
    match findReg defs off with
    | none => s
    | some d =>
      if off = 0 then s
      else match d.acc with
        | .rw => if b ≤ TIMEBASE then writeSystem m s b off d (v % 2 ^ 64) else writeUnit m s b off d (v % 2 ^ 64)
        | .wo => if b ≤ TIMEBASE then writeSystem m s b off d (v % 2 ^ 64) else writeUnit m s b off d (v % 2 ^ 64)
        | _ => s

/-! ### Access sizes, R560 to R562 -/

/-- The latches of a master and a block. -/
def latchOf (s : State) (m : Master) (b : Nat) : AccessLatch := (s.latches.find? (fun l => l.master == m && l.block == b)).getD { master := m, block := b }

def setLatch (s : State) (l : AccessLatch) : State :=
  let rest := s.latches.filter (fun x => !(x.master == l.master && x.block == l.block))
  { s with latches := if l.captured.isNone && l.lower.isNone then rest else rest ++ [l] }

/-- Any access of a master to a block ends what it captured there (R561). -/
def dropCapture (s : State) (m : Master) (b : Nat) : State := setLatch s { latchOf s m b with captured := none }

/-- The one latch of a master for lower halves is emptied (R561). -/
def dropLower (s : State) (m : Master) : State :=
  (s.latches.filter (fun l => l.master == m && l.lower.isSome)).foldl (fun s l => setLatch s { l with lower := none }) s

/-- The offset of the register that a window offset reaches; none where the id names no block. -/
def reachedAt (b x : Nat) : Option Nat := (blockMap b).map (fun p => decodeOffset p.1 p.2 x)

/-- An access in the MSI-X table of HOSTIF, which R561 exempts. -/
def inMsix (b off : Nat) : Bool := b == HOSTIF && decide (0x800 ≤ off ∧ off < 0xC00)

/-- An access in the post port of COLL. -/
def inPort (b off : Nat) : Bool := b == COLL && decide (0x200 ≤ off)

/-- A 4-byte write (R561): the lower half is held in the master's one latch, the upper half is applied with it and empties the latch. -/
def write4 (m : Master) (s : State) (b x v : Nat) : State :=
  match reachedAt b x with
  | none => s
  | some off =>
    if inMsix b off then writeMsix s (off - 0x800 + x % 8) v
    else
      let l := latchOf s m b
      if x % 8 = 0 then setLatch (dropLower s m) { l with lower := some (off, BitVec.ofNat 32 v) }
      else
        let wo := (regAt b off).acc == .wo
        let low := match l.lower with
          | some (o, w) => if o = off then w.toNat else if wo then 0 else regRead s b off % 2 ^ 32
          | none => if wo then 0 else regRead s b off % 2 ^ 32
        regWrite m (dropLower s m) b x (v * 2 ^ 32 + low)

/-- The pieces of a write that are whole granules of the post port are records; parts are discarded (R395). -/
def writePort (m : Master) (s : State) (off : Nat) (data : List Byte) : State :=
  if off % 32 = 0 ∧ data.length % 32 = 0 then
    ((chunks 32 (data.length / 32) data).zipIdx).foldl (fun s p => postPort m s ((off - 0x200) / 32 + p.2) p.1) s
  else count s COLL 0x0D0 32

/-- A write of a window by a master, whatever its size (R560 to R562). -/
def writeWindow (m : Master) (s : State) (b x : Nat) (data : List Byte) : State :=
  let s := dropCapture s m b
  let n := data.length
  if (reachedAt b x).any (inPort b) then writePort m s ((reachedAt b x).getD 0 + x % 8) data
  else if n = 4 ∧ x % 4 = 0 then write4 m s b x (ofBytes data)
  else if (n = 8 ∨ n = 16 ∨ n = 32 ∨ n = 64) ∧ x % n = 0 then
    ((chunks 8 8 data).zipIdx).foldl (fun s p => regWrite m s b (x + 8 * p.2) (ofBytes p.1)) s
  else s

/-- A read of a window by a master: the bytes, with the captures of R561. -/
def readWindow (m : Master) (s : State) (b x n : Nat) : List Byte × State :=
  match reachedAt b x with
  | none => (List.replicate n 0, s)
  | some off =>
    let s' := noteTimeRead s b x n
    if n = 4 ∧ x % 4 = 0 ∧ inMsix b off = false then
      let v := regRead s b x
      let l := latchOf s m b
      if x % 8 = 0 then (bytesOf v 4, setLatch s' { l with captured := some (off, BitVec.ofNat 32 (v / 2 ^ 32)) })
      else
        (match l.captured with
         | some (o, w) => if o = off then bytesOf w.toNat 4 else bytesOf (v / 2 ^ 32) 4
         | none => bytesOf (v / 2 ^ 32) 4,
         setLatch s' { l with captured := none })
    else (regReadBytes s b x n, dropCapture s' m b)

/-! ### The host's windows before BRING_UP, 14_startup_host.md R494 -/

/-- Windows that answer in BAR0 before BOOT_STATE reaches 0x4. -/
def earlyWindow (b : Nat) : Bool := b == CHIP || b == HOSTIF || b == NVMIF || b == KEEPER

/-- The host reaches a window. -/
def hostReaches (s : State) (b : Nat) : Bool := s.boot.configured || earlyWindow b

/-- The host's link carries requests. -/
def hostUp (s : State) : Bool := s.host.linkUp && !s.host.inReset

/-- A write of a window as its master may make it. -/
def masterWrite (m : Master) (s : State) (b x : Nat) (data : List Byte) : State :=
  match m with
  | .host => if hostUp s && hostReaches s b then writeWindow m s b x data else s
  | _ => writeWindow m s b x data

/-- REGISTER_WRITE: a write to a register without a row of its own (R567). -/
def execRegisterWrite (m : Master) (block : BitVec 10) (off : BitVec 16) (data : List Byte) (s : State) : Host.Outcome State Fault Refusal :=
  .next (powered s (fun s => masterWrite m s block.toNat off.toNat data))

/-! ### Writes on their way, 01_architecture.md R39; 11_collectives.md R397 -/

/-- A write on its way waits: it is a post while 64 collectives are held. -/
def postWaits (s : State) (p : Master × Nat × List Byte) : Bool :=
  let o := p.2.1 - regBase
  (reachedAt (o / 65536) (o % 65536)).any (inPort (o / 65536)) && (!isReady s || decide (64 ≤ s.collectives.length) || (blk s COLL).errorStopped)

/-- The first write on its way that is not held, and behind no held one of its master. -/
def nextPosted (s : State) : List (Master × Nat × List Byte) → List Master → Option (Master × Nat × List Byte)
  | [], _ => none
  | p :: ps, held => if held.contains p.1 || postWaits s p then nextPosted s ps (p.1 :: held) else some p

/-- Writes on their way arrive in order; `fuel` bounds their number. -/
def drainLoop : Nat → State → State
  | 0, s => s
  | fuel + 1, s =>
    match nextPosted s s.posted [] with
    | none => s
    | some p =>
      let o := p.2.1 - regBase
      drainLoop fuel (writeWindow p.1 { s with posted := s.posted.erase p } (o / 65536) (o % 65536) p.2.2)

def drainPosted (s : State) : State := drainLoop (s.posted.length + 1) s

/-! ### Accesses that wait, 01_architecture.md R45, 12_memory_system.md R431 -/

/-- An access from outside a core waits: a bank that it needs is in use in the core's current cycle (01_architecture.md R45, 03_matrix_engine.md R114,
04_sparse_operands.md R168). A halted core's banks are reached without waiting (07_program_debug.md R269). -/
def outsideWaits (s : State) (a n : Nat) : Bool :=
  (pieces a n).any (fun p =>
    let one := fun (k space off bytes : Nat) =>
      (getCore s k).run != .halted && (portsNow s (getCore s k)).any (fun x => x.1 == space && x.2.1 == off / bytes % 32)
    match regionOf s (32 * p.1 + p.2.1) with
    | .tile k off => one k 0 off 64
    | .acc k off => one k 1 off 128
    | _ => false)

/-- A write of HBM is held at the crossbar: the shared cache does not keep it, and its controller's write-combining buffer has no room (R420, R431). -/
def writeHeld (s : State) (a n : Nat) : Bool :=
  (pieces a n).any (fun p =>
    let x := 32 * p.1
    regionOf s x == .hbm && !memcOff s x && !(isEnabled s SCACHE && (s.cacheLines.any (fun l => l.1 == x / 128) || takesLine s x false)) && bufferFull s x)

/-- Two ranges share a granule, where R43 keeps their order. -/
def sharesGranule (a n b m : Nat) : Bool := decide (0 < n ∧ 0 < m ∧ a / 32 ≤ (b + m - 1) / 32 ∧ b / 32 ≤ (a + n - 1) / 32)

/-- An access must wait: for a bank, for a buffer entry, or behind an earlier one of the same granule that waits. -/
def accessWaits (s : State) (w : WaitingAccess) (earlier : List WaitingAccess) : Bool :=
  outsideWaits s w.addr w.len || (w.write.isSome && writeHeld s w.addr w.len) || earlier.any (fun e => sharesGranule w.addr w.len e.addr e.len)

end Sys2Proof.Machine
end

