-- ==== Sys2Proof/Machine/Local.lean ====
section
/-! DEFINITION. LOCAL_READ and LOCAL_WRITE: requests of any master that the crossbar serves, 01_architecture.md R42 to R53, 14_startup_host.md R494, R510 and 15_integrity_faults.md R540, R541. -/

namespace Sys2Proof.Machine

/-- BAR2 stands over a local address (R510). -/
def inBar2 (s : State) (a : Nat) : Bool := a / 2 ^ 32 == getReg s HOSTIF 0x008

/-- The bytes of a read with those of poisoned granules as zeros (R540). -/
def maskPoison (a : Nat) (data : List Byte) (poison : List Nat) : List Byte :=
  data.zipIdx.map (fun p => if poison.contains ((a + p.2) / 32) then 0 else p.1)

/-- A register window read by a master: before BOOT_STATE reaches 0x4 most windows read as zero for the host (R494). -/
def masterRead (m : Master) (s : State) (b x n : Nat) : List Byte × State :=
  if m == .host && !hostReaches s b then (List.replicate n 0, s) else readWindow m s b x n

/-- A read through BAR2 (R494, R510, R53, R540). -/
def hostMemRead (s : State) (a n : Nat) : State :=
  if !s.boot.configured then emit s (.unsupported .host a)
  else
    let (rd, s) := readSpan .host s a n
    if rd.unmapped then emit s (.unsupported .host a)
    else emit (rd.poison.foldl (fun s _ => countFault s 48) s) (.readData .host a (maskPoison a rd.data rd.poison) rd.poison)

/-- A Keeper load (R53, R541). -/
def keeperRead (c : Fin 4) (s : State) (a n : Nat) : State :=
  let (rd, s) := readSpan (.keeper c) s a n
  if rd.unmapped then emit s (.accessFault (.keeper c) a)
  else match rd.poison with
    | g :: _ => emit (notePoisonConsumed s KEEPER (32 * g) c.val) (.accessFault (.keeper c) a)
    | [] => emit s (.readData (.keeper c) a rd.data [])

/-- A read of any other master: poisoned granules come back marked (R53). -/
def unitRead (m : Master) (s : State) (a n : Nat) : State :=
  let (rd, s) := readSpan m s a n
  emit s (.readData m a rd.data rd.poison)

/-- A read request in its point of order. -/
def localRead (m : Master) (s : State) (a n : Nat) : State :=
  match regionOf s a with
  | .regs b x =>
    if m == .host && !hostUp s then s
    else
      let (d, s) := masterRead m s b x n
      emit s (.readData m a d [])
  | _ =>
    match m with
    | .host => if hostUp s && inBar2 s a then hostMemRead s a n else s
    | .keeper c => keeperRead c s a n
    | _ => unitRead m s a n

/-- An access in its point of order is served, or waits with those that wait (R43, R45; 12_memory_system.md R431). -/
def takeAccess (s : State) (w : WaitingAccess) (serve : State → State) : State :=
  if accessWaits s w s.waitingAccesses then { s with waitingAccesses := s.waitingAccesses ++ [w] } else serve s

/-- LOCAL_READ: R43. A read that must wait for a bank is held until its cycle is free (R45). A block that meets an uncorrectable codeword of its own state
error-stops (15_integrity_faults.md R543). -/
def execLocalRead (m : Master) (addr : BitVec 42) (len : Nat) (s : State) : Host.Outcome State Fault Refusal :=
  .next (powered s (fun s => takeAccess s { master := m, addr := addr.toNat, len := len } (fun s => localRead m (meetStateErrors s) addr.toNat len)))

/-- Granules of a range, for data that arrives poisoned. -/
def allGranules (a n : Nat) : List Nat := (pieces a n).map (·.1)

/-- A memory write by a master; a store of the Keeper to an unmapped address ends in an access fault (R53). -/
def memWrite (m : Master) (s : State) (a : Nat) (bs : List Byte) (poison : List Nat) : State :=
  let (bad, s) := writeSpan m s a bs poison
  let s := drainPosted (notePosts s a bs.length)
  match m with
  | .keeper c => if bad then emit s (.accessFault (.keeper c) a) else s
  | _ => s

/-- A write request in its point of order; `poison` names the granules that arrive poisoned. A write of a window that must wait (R397) is held. -/
def localWrite (m : Master) (s : State) (a : Nat) (bs : List Byte) (poison : List Nat) : State :=
  match regionOf s a with
  | .regs b x =>
    if m == .host && !(hostUp s && hostReaches s b) then s
    else if postWaits s (m, a, bs) then { s with posted := s.posted ++ [(m, a, bs)] }
    else masterWrite m s b x bs
  | _ =>
    match m with
    | .host => if hostUp s && inBar2 s a && s.boot.configured then memWrite .host s a bs poison else s
    | _ => memWrite m s a bs poison

/-- LOCAL_WRITE: R43. A write that must wait for a bank (R45) or for a write-combining entry (12_memory_system.md R431) is held until it may be applied. -/
def execLocalWrite (m : Master) (addr : BitVec 42) (data : List Byte) (poisoned : Bool) (s : State) : Host.Outcome State Fault Refusal :=
  .next (powered s (fun s => let bad := if poisoned then allGranules addr.toNat data.length else []
    takeAccess s { master := m, addr := addr.toNat, len := data.length, write := some (data, bad) } (fun s => localWrite m s addr.toNat data bad)))

end Sys2Proof.Machine
end

