-- ==== Sys2Proof/Machine/MoverDone.lean ====
section
/-! DEFINITION. MOVER_LINE_DONE: a mover's line that this module serves itself completes, 06_core_programs.md R223 to R226, 11_collectives.md R396, R397 and 13_fabric_links.md R481. -/

namespace Sys2Proof.Machine

/-- The master that a mover is. -/
def moverMaster (n m : Nat) : Master := .coreMover (Fin.ofNat 128 n) (Fin.ofNat 2 m)

/-- Corrected and poisoned reads of a core's movers (15_integrity_faults.md R549). -/
def noteCoreReads (s : State) (n : Nat) (rd : Rd) : State :=
  modCore s n (fun c => { c with guardCorr := c.guardCorr + rd.corr, guardUncorr := c.guardUncorr + rd.bad })

/-- An inbound line of a MOVE: its data are read, poisoned where its address is refused (R53, R226). -/
def inboundLine (s : State) (n m : Nat) (v : Move) (l : MoverLine) : State :=
  match l.addr with
  | none => landLine s n m v l (List.replicate 64 0) [true, true]
  | some a =>
    let (rd, s) := readSpan (moverMaster n m) s a 64
    landLine (noteCoreReads s n rd) n m v l rd.data [rd.poison.contains (a / 32), rd.poison.contains (a / 32 + 1)]

/-- An outbound line: the core side is read and written at its address; a refused one is counted (R226, R481). -/
def outboundLine (s : State) (n m : Nat) (v : Move) (l : MoverLine) : State :=
  match l.addr with
  | none => returnCredit (count s FABRIC 0x090 32) n m v.id l.line
  | some a =>
    let src := v.coreAddr n l.line
    let (rd, s) := readSpan (moverMaster n m) s src 64
    let s := noteCoreReads s n rd
    let s := if rd.poison.isEmpty then s else modCore s n (fun c => { c with wrotePoison := true })
    let s := (writeSpan (moverMaster n m) s a rd.data (rd.poison.map (fun g => g - src / 32 + a / 32))).2
    returnCredit (drainPosted (notePosts s a 64)) n m v.id l.line

/-- A line of a GATHER: it lands, and the row's chain is released after its last line (R225). -/
def gatheredLine (s : State) (n m : Nat) (v : Move) (l : MoverLine) : State :=
  let (bs, bad, s) := gatherLine s n v l.line
  landLine (noteRow s n m v l.line) n m v l bs bad

/-- An address lies in the done array of an active dispatch. -/
def inDoneArray (s : State) (a : Nat) : Bool :=
  s.dispatches.any (fun x => x.live && decide (x.doneRange.1 ≤ a ∧ a < x.doneRange.1 + x.doneRange.2))

/-- The external side of a line waits: for a bank of the core it names, for a write-combining entry, or behind an earlier access (R45, R431). -/
def farSideWaits (s : State) (n m : Nat) (v : Move) (a : Nat) : Bool :=
  accessWaits s { master := moverMaster n m, addr := a, len := 64, write := if (moveDesc v.desc).outbound then some ([], []) else none } s.waitingAccesses

/-- A line into the post port waits for the mover's earlier lines and for room among the collectives (R396, R397); one into an active done array waits
for the mover's earlier lines (08_routing_exchange.md R305); any line waits where its external side must. -/
def lineWaits (s : State) (n m k : Nat) (v : Move) (l : MoverLine) : Bool :=
  match l.addr with
  | none => false
  | some a =>
    match regionOf s a with
    | .regs b x => (moveDesc v.desc).outbound && (reachedAt b x).any (inPort b) && (k != 0 || postWaits s (moverMaster n m, a, []))
    | .scratch => ((moveDesc v.desc).outbound && k != 0 && inDoneArray s a) || farSideWaits s n m v a
    | _ => farSideWaits s n m v a

/-- The shared-port banks that a line uses on the core side. -/
def lineBanks (v : Move) (l : MoverLine) : List (Nat × Nat) :=
  let d := moveDesc v.desc
  accessBanks (d.space, v.coreOff + d.coreAt l.line, 64)

/-- A bank is taken in the current core cycle by the program, a queue head or a mover (03_matrix_engine.md R114, 04_sparse_operands.md R168). -/
def bankTaken (s : State) (n : Nat) (bs : List (Nat × Nat)) : Bool := (portsNow s (getCore s n)).any (fun p => bs.contains (p.1, p.2.1))

/-- The line completes, unless a shared port that it needs is taken: it then retries in a later cycle (R114, R168). -/
def finishLine (s : State) (n m k : Nat) (v : Move) (l : MoverLine) : State :=
  if l.held || l.remoteTag.isSome || lineWaits s n m k v l || bankTaken s n (lineBanks v l) then s
  else
    let s := usePorts s n ((lineBanks v l).map (fun b => (b.1, b.2, 2 + m)))
    if v.gather then gatheredLine s n m v l
    else if (moveDesc v.desc).outbound then outboundLine s n m v l
    else inboundLine s n m v l

/-- MOVER_LINE_DONE: outstanding line k of mover m of core n, in request order (R226). A line at another module completes by its response. -/
def execMoverLineDone (n : Fin 128) (m : Fin 2) (k : Nat) (s : State) : Host.Outcome State Fault Refusal :=
  .next (let x := getMover (getCore s n.val) m.val
    match x.lines[k]? with
    | none => s
    | some l =>
      match x.moves.find? (fun v => v.id == l.move) with
      | none => s
      | some v => finishLine s n.val m.val k v l)

end Sys2Proof.Machine
end

