-- ==== Sys2Proof/Machine/Links.lean ====
section
/-! DEFINITION. Lanes and frames: training, versions, the cabling plan, keep-alives and replays, inbound reads and writes, responses and remote time-outs, and DEFER and RESUME, 13_fabric_links.md R458 to R482 and 15_integrity_faults.md R553. -/

namespace Sys2Proof.Machine

/-! ### The cabling plan and versions, R459 to R462 -/

/-- LINKk.LANEi_PLAN of a lane. -/
def planOf (s : State) (l : Nat) : Nat := getReg s (LINK (l / 12)) (0x118 + 64 * (l % 12))

def planUnused (s : State) (l : Nat) : Bool := bit (planOf s l) 48

/-- The peer identity that a lane's plan expects, or that a lane has met, as one number. -/
def planPeer (s : State) (l : Nat) : Nat := fld (planOf s l) 47 0

def peerNumber (x : Lane) : Nat := at_ x.peerSwitch.toNat 16 + x.peerPort.toNat

/-- The lane belongs to a port of class DIRECT. -/
def laneDirect (s : State) (l : Nat) : Bool := (portOf s l).any (portDirect s)

/-- The highest minor that a peer supports in a major. -/
def peerMinor (versions : List (Nat × Nat)) (major : Nat) : Option Nat :=
  (versions.filter (fun v => v.1 == major)).foldl (fun a v => some (max (a.getD 0) v.2)) none

/-- The version that a lane takes: this module supports 2.0, 2.1, 1.2 and 1.3; major 1 on DIRECT ports only (R460). -/
def negotiate (direct : Bool) (versions : List (Nat × Nat)) : Option (Nat × Nat) :=
  match peerMinor versions 2 with
  | some m => some (2, min 1 m)
  | none =>
    match peerMinor versions 1 with
    | some m => if direct && decide (2 ≤ m) then some (1, min 3 m) else none
    | none => none

/-- The other lane of a swap: the peer that lane l has met is its plan, and its peer is the plan of l (R461). -/
def swapOf (s : State) (l peer : Nat) : Option Nat :=
  (List.range 96).find? (fun b =>
    b != l && !planUnused s b && (getLane s b).peerKnown && planPeer s b == peer && peerNumber (getLane s b) == planPeer s l)

/-- The lane leaves training in a state that ends it. -/
def settleLane (s : State) (l status : Nat) : State :=
  modLane s l (fun x => { x with status := status, everSettled := true, failedAt := s.time })

/-- The plan check of a lane whose peer is known; a swap is reported by both lanes (R461, R462). -/
def checkPlan (s : State) (l : Nat) : State :=
  let peer := peerNumber (getLane s l)
  if planUnused s l then setResult s l 5 0
  else if planPeer s l = peer then setResult s l 1 0
  else
    match swapOf s l peer with
    | some b => setResult (setResult s l 3 b) b 3 l
    | none => setResult s l 2 0

/-- Whether PLAN_ENFORCE holds a lane (R462). -/
def planHolds (s : State) (l : Nat) : Bool :=
  let r := (getLane s l).result
  bit (getReg s FABRIC 0x008) 1 && (r == 2 || r == 3 || r == 5)

/-- The other lane of a swap reports it once this lane's peer is known, whatever becomes of this lane (R462). -/
def tellPartner (s : State) (l : Nat) : State :=
  if planUnused s l || planPeer s l == peerNumber (getLane s l) then s
  else match swapOf s l (peerNumber (getLane s l)) with
    | some b => setResult s b 3 l
    | none => s

/-- What this module sends in an identity exchange: switch id 0, its fabric id as the port number, and its versions (R459, R460). -/
def ownIdentity (s : State) (l : Nat) : Out := .identity l 0 (fabricId s) [(2, 0), (2, 1), (1, 2), (1, 3)]

/-- The peer's identity and versions arrive on a training lane (R459 to R462). -/
def meetPeer (s : State) (l : Nat) (sw : BitVec 32) (port : BitVec 16) (versions : List (Nat × Nat)) : State :=
  if (getLane s l).status ≠ 1 ∨ (getLane s l).peerKnown = true then s
  else
    let s := modLane (emit s (ownIdentity s l)) l (fun x => { x with peerSwitch := sw, peerPort := port, peerKnown := true })
    match negotiate (laneDirect s l) versions with
    | none => settleLane (setResult (tellPartner s l) l 6 0) l 4
    | some (major, minor) =>
      let s := checkPlan (modLane s l (fun x => { x with major := major, minor := minor })) l
      if planHolds s l then settleLane s l 3 else s

/-- IDENTITY_EXCHANGE: R461. -/
def execIdentityExchange (lane : Fin 96) (peerSwitch : BitVec 32) (peerPort : BitVec 16) (versions : List (Nat × Nat)) (s : State) :
    Host.Outcome State Fault Refusal :=
  .next (meetPeer s lane.val peerSwitch peerPort versions)

/-! ### Training, R457, R458, R461 -/

/-- LANE_TRAINING: a lane that is neither UP nor FAILED starts training (R458). -/
def execLaneTraining (lane : Fin 96) (s : State) : Host.Outcome State Fault Refusal :=
  .next (let st := (getLane s lane.val).status
         if laneEnabled s lane.val && (st == 0 || st == 3 || st == 5) then startTraining s lane.val else s)

/-- LANE_RETRAIN: a FAILED lane trains again 100 ms later (R458). -/
def execLaneRetrain (lane : Fin 96) (s : State) : Host.Outcome State Fault Refusal :=
  .next (let x := getLane s lane.val
         if laneEnabled s lane.val && x.status == 4 && decide (x.failedAt + 100000000 ≤ s.time) then startTraining s lane.val else s)

/-- A lane may join its port: every UP lane of the port has the same peer and version (R457). -/
def joinsPort (s : State) (l : Nat) : Bool :=
  match portOf s l with
  | none => true
  | some p =>
    let x := getLane s l
    (upLanes s p).all (fun b => let y := getLane s b; peerNumber y == peerNumber x && y.major == x.major && y.minor == x.minor)

/-- CREDIT_EXCHANGE: the last step of training; the lane is UP, or kept out of its port (R457, R458, R470). -/
def execCreditExchange (lane : Fin 96) (credits : List Nat) (s : State) : Host.Outcome State Fault Refusal :=
  .next (let l := lane.val
         if (getLane s l).status = 1 ∧ (getLane s l).peerKnown = true then
           settleLane (modLane s l (fun x => { x with credits := credits, sendSeq := 0, recvSeq := 0, unacked := [], waiting := [], suspect := none, lastSent := s.time, lastHeard := s.time })) l
             (if joinsPort s l then 2 else 5)
         else s)

/-- TRAINING_TIMEOUT: a lane that has trained for 20 ms without an end is FAILED; without a peer it reports NO_PEER or UNUSED (R458, R461). -/
def execTrainingTimeout (lane : Fin 96) (s : State) : Host.Outcome State Fault Refusal :=
  .next (let l := lane.val
         let x := getLane s l
         if x.status = 1 ∧ x.trainStart + 20000000 ≤ s.time then
           settleLane (if x.peerKnown then s else setResult s l (if planUnused s l then 7 else 4) 0) l 4
         else s)

/-! ### Leaving UP, replays and keep-alives, R457, R463, R469 -/

/-- LANE_SILENCE: nothing has arrived for 3 ms (R463). -/
def execLaneSilence (lane : Fin 96) (s : State) : Host.Outcome State Fault Refusal :=
  .next (if laneUp s lane.val && decide ((getLane s lane.val).lastHeard + 3000000 ≤ s.time) then leaveUp s lane.val else s)

/-- FRAME_REPLAY: the frames not acknowledged are replayed in order; a first one already replayed 4 times takes the lane out of UP (R469). -/
def execFrameReplay (lane : Fin 96) (s : State) : Host.Outcome State Fault Refusal :=
  .next (let l := lane.val
         if !laneUp s l then s
         else match (getLane s l).unacked with
           | [] => s
           | f :: rest =>
             if 4 ≤ f.replays then leaveUp s l
             else
               let s := replayFrames s l (f :: rest)
               modLane s l (fun x => { x with unacked := x.unacked.map (fun f => { f with replays := f.replays + 1 }), lastSent := s.time }))

/-- A KEEPALIVE frame; the headers fields that it does not use hold free values. -/
def sendKeepalive (s : State) (l : Nat) : State :=
  let (v, s) := fresh s
  sendFrame s l (ownHeader s (v % 4096) 0xB (v / 4096 % 4) 0 0 0 0 0 0) []

/-- KEEPALIVE_SEND: a lane that has sent nothing for 1 ms (R462, R463). -/
def execKeepaliveSend (lane : Fin 96) (s : State) : Host.Outcome State Fault Refusal :=
  .next (let x := getLane s lane.val
         if (x.status = 2 ∨ x.status = 3) ∧ x.lastSent + 1000000 ≤ s.time then sendKeepalive s lane.val else s)

/-! ### Inbound requests, R466, R467, R479, R480 -/

/-- Poison bits of a read, granule by granule of the frame. -/
def readPoison (a : Nat) (rd : Rd) : Nat := poisonBits (a / 32) rd.poison

/-- An inbound read that passed its checks is served and answered. -/
def serveRead (s : State) (lane : Fin 96) (h : FrameHeader) (a n : Nat) : State :=
  match regionOf s a with
  | .regs b x =>
    let (d, s) := readWindow (.link lane) s b x n
    respond s lane.val h 0 d 0
  | _ =>
    let (rd, s) := readSpan (.link lane) s a n
    respond s lane.val h 0 rd.data (readPoison a rd)

/-- READ: R480; a read that must wait for a bank is answered once it is served (R45). -/
def execRead (lane : Fin 96) (h : FrameHeader) (s : State) : Host.Outcome State Fault Refusal :=
  .next (inboundRequest s lane.val .read h (fun s a =>
    let n := 32 * (h.len.toNat + 1)
    takeAccess s { master := .link lane, addr := a, len := n, frame := some (lane, h) } (fun s => serveRead s lane h a n)))

/-- Held inbound writes of a lane that have been applied are answered. -/
def answerHeld (s : State) : State :=
  s.heldAcks.foldl (fun s p =>
    if s.posted.any (fun w => w.1 == .link (Fin.ofNat 96 p.1)) then s
    else respond { s with heldAcks := s.heldAcks.erase p } p.1 p.2 0 [] 0) s

/-- The granules of a payload that arrive poisoned, from the granule of an address on. -/
def headerPoison (h : FrameHeader) (a : Nat) : List Nat := (bitList (framePoison h) 8).map (· + a / 32)

/-- A write that passed its checks is applied and acknowledged; one that is held (11_collectives.md R397) is acknowledged once applied. -/
def serveWrite (s : State) (lane : Fin 96) (h : FrameHeader) (a : Nat) (bs : List Byte) : State :=
  match regionOf s a with
  | .regs b x =>
    if postWaits s (.link lane, a, bs) then { s with posted := s.posted ++ [(.link lane, a, bs)], heldAcks := s.heldAcks ++ [(lane.val, h)] }
    else respond (masterWrite (.link lane) s b x bs) lane.val h 0 [] 0
  | _ => respond (memWrite (.link lane) s a bs (headerPoison h a)) lane.val h 0 [] 0

/-- An inbound write that passed its checks is applied and acknowledged, or held and not acknowledged (R45; 12_memory_system.md R431). -/
def takeWrite (s : State) (lane : Fin 96) (h : FrameHeader) (a : Nat) (bs : List Byte) : State :=
  takeAccess s { master := .link lane, addr := a, len := bs.length, write := some (bs, headerPoison h a), frame := some (lane, h) }
    (fun s => serveWrite s lane h a bs)

/-- WRITE: R480. -/
def execWrite (lane : Fin 96) (h : FrameHeader) (data : List Byte) (s : State) : Host.Outcome State Fault Refusal :=
  .next (inboundRequest s lane.val .write h (fun s a => takeWrite s lane h a (data.take (32 * (h.len.toNat + 1)))))

/-- WRITE_MASKED: 1, 2, 4 or 8 bytes at their place in the granule (R466; log 25). -/
def execWriteMasked (lane : Fin 96) (h : FrameHeader) (data : List Byte) (s : State) : Host.Outcome State Fault Refusal :=
  .next (inboundRequest s lane.val .masked h (fun s a => takeWrite s lane h a ((data.drop (a % 32)).take (2 ^ h.op.toNat))))

/-- An access that has waited is served. -/
def serveAccess (s : State) (w : WaitingAccess) : State :=
  match w.frame, w.write with
  | some (lane, h), some (bs, _) => serveWrite s lane h w.addr bs
  | some (lane, h), none => serveRead s lane h w.addr w.len
  | none, some (bs, bad) => localWrite w.master s w.addr bs bad
  | none, none => localRead w.master s w.addr w.len

/-- Accesses that wait are served in order of arrival, each as soon as it may be. -/
def serveWaiting (s : State) : State :=
  s.waitingAccesses.foldl (fun s w =>
    let earlier := s.waitingAccesses.takeWhile (· != w)
    if accessWaits s w earlier then s else serveAccess { s with waitingAccesses := s.waitingAccesses.erase w } w) s

/-! ### Responses, R481 and R553 -/

/-- A data mover's line completes with its response. -/
def completeMover (s : State) (n m tag status : Nat) (data : List Byte) (poison : Nat) : State :=
  let x := getMover (getCore s n) m
  match x.lines.find? (fun l => l.remoteTag == some tag) with
  | none => s
  | some l =>
    match x.moves.find? (fun v => v.id == l.move) with
    | none => s
    | some v =>
      if (moveDesc v.desc).outbound then returnCredit (if status = 0 then s else count s FABRIC 0x090 32) n m v.id l.line
      else if status = 0 then landLine s n m v l (data.take 64) [bit poison 0, bit poison 1]
      else landLine s n m v l (List.replicate 64 0) [true, true]

/-- A DMA channel's request completes with its response: data, poisoned granules in place of data, or an unmapped write (R53, R481). -/
def completeDma (s : State) (r : RemoteRequest) (c status : Nat) (data : List Byte) (poison : Nat) : State :=
  if r.isWrite then (if status = 0 then s else modJob s c (fun j => { j with unmapped := true }))
  else
    let bad := if status = 0 then bitList poison 8 else List.range r.granules
    let data := if status = 0 then data.take (32 * r.granules) else List.replicate (32 * r.granules) 0
    let carries := match getJob s c with
      | some j => (dmaDesc j.desc.toNat).carries
      | none => true
    let s := if carries then s else bad.foldl (fun s i => notePoisonConsumed s DMA (r.addr + 32 * i) c) s
    modJob s c (fun j => { j with got := j.got ++ gotGranules r.addr data (fun i => bad.contains i), poisonReads := j.poisonReads + bad.length })

/-- A request that left this module ends with a status (R481). -/
def completeRemote (s : State) (r : RemoteRequest) (status : Nat) (data : List Byte) (poison : Nat) : State :=
  let s := dropRemote s r.tag
  match r.master with
  | .coreMover n m => completeMover s n.val m.val r.tag status data poison
  | .dma c => completeDma s r c.val status data poison
  | _ => s

/-- Requests that a stream held back leave once the responses from under the earlier set of up ports have come (R476). -/
def issueHeld (s : State) : State :=
  s.remote.foldl (fun s r =>
    match r.held with
    | none => s
    | some (h, data) =>
      if portsMoved s r.stream r.dst then s
      else match choosePort s r.stream r.dst r.route with
        | none => completeRemote s r 8 [] 0
        | some p => sendVia { s with remote := mapIf (fun x => x.tag == r.tag) (fun x => { x with held := none, sentAt := s.time, ups := upFabric s }) s.remote } p { seq := 0, header := h, data := data }) s

/-- RESPONSE: the frame reaches the requester that its TAG names; one that came too late is discarded (R465, R481, R553). -/
def execResponse (lane : Fin 96) (h : FrameHeader) (data : List Byte) (s : State) : Host.Outcome State Fault Refusal :=
  .next (match acceptFrame s lane.val h with
    | (false, s) => s
    | (true, s) =>
      match s.remote.find? (fun r => r.tag == h.tag.toNat) with
      | none => s
      | some r => issueHeld (completeRemote s r h.op.toNat data (framePoison h)))

/-- REMOTE_TIMEOUT: no response within 4 ms of a request that has left (R553). -/
def execRemoteTimeout (tag : BitVec 12) (s : State) : Host.Outcome State Fault Refusal :=
  .next (match s.remote.find? (fun r => r.tag == tag.toNat && r.held.isNone && decide (r.sentAt + 4000000 ≤ s.time)) with
    | none => s
    | some r => logEntry (countFault (issueHeld (completeRemote s r 8 [] 0)) 16) FABRIC 0 0x04 (if r.kind = 2 then r.addr % 2 ^ 64 else r.addr % 2 ^ 52))

/-! ### DEFER and RESUME, R471, R472 -/

/-- The rank map's entry of a rank as it stands. -/
def mapEntry (s : State) (rank : Nat) : Nat :=
  match cachedRank s rank with
  | some e => e.toNat
  | none => ofBytes (memBytes s (getReg s FABRIC 0x020 + 4 * rank) 4)

/-- The rank of a message's destination whose fabric id a header names. -/
def flowRank (s : State) (h : FrameHeader) : Option Nat :=
  (s.messages.find? (fun m => m.kind == h.op.toNat && m.flow == flowOf h &&
    (if m.dst = ownRank s then fabricId s == h.srcId.toNat else bit (mapEntry s m.dst) 31 && fld (mapEntry s m.dst) 11 0 == h.srcId.toNat))).map (·.dst)

/-- A DEFER or RESUME frame arrives, on a lane that has its type. -/
def flowFrame (s : State) (l : Nat) (h : FrameHeader) (act : State → Nat → State) : State :=
  match acceptFrame s l h with
  | (false, s) => s
  | (true, s) =>
    match flowRank s h with
    | none => s
    | some dst => act s dst

/-- DEFER: R472. -/
def execDefer (lane : Fin 96) (h : FrameHeader) (s : State) : Host.Outcome State Fault Refusal :=
  .next (flowFrame s lane.val { h with type := 8 } (fun s dst => stopFlow s h.op.toNat (flowOf h) dst (msgOf h)))

/-- RESUME_FRAME: R472. -/
def execResumeFrame (lane : Fin 96) (h : FrameHeader) (s : State) : Host.Outcome State Fault Refusal :=
  .next (flowFrame s lane.val { h with type := 9 } (fun s dst => resumeFlow s h.op.toNat (flowOf h) dst))

end Sys2Proof.Machine
end

