-- ==== Sys2Proof/Machine/Boot.lean ====
section
/-! DEFINITION. Cold and warm resets, the phases of a start, the objects of the non-volatile memory and their verification, 14_startup_host.md R491 to R506. -/

namespace Sys2Proof.Machine

/-! ### The non-volatile memory, R499, R500 -/

/-- Bytes of the non-volatile memory; a byte that nothing has programmed reads as erased (log 34). -/
def nvmBytes (s : State) (a n : Nat) : List Byte := tgetList 0xFF s.nvm a n

/-- Bytes of the non-volatile memory replaced. -/
def putNvm (s : State) (a : Nat) (bs : List Byte) : State := { s with nvm := tsetList 0xFF s.nvm a bs }

/-- The magic of the boot header and of every object. -/
def nvmMagic : Nat := 0x314D4C4B

/-- Place of an object by type and index: offset and region size (R499). -/
def nvmPlace (type index : Nat) : Option (Nat × Nat) :=
  match type with
  | 1 => if index < 2 then some (0x00200000 + index * 0x800000, 0x800000) else none
  | 2 => some (0x1000, 0x1000)
  | 3 => if index < 4 then some (0x10000 + index * 0x40000, 0x40000) else none
  | 4 => if index < 4 then some (0x110000 + index * 0x10000, 0x10000) else none
  | 5 => some (0x3000, 0x1000)
  | 6 => some (0x2000, 0x1000)
  | _ => none

/-- The fields of an object header (R500). -/
structure ObjHeader where
  magic : Nat
  type : Nat
  key : Nat
  version : Nat
  length : Nat
  svn : Nat
  rsvd : Nat
deriving DecidableEq, Repr

def objHeader (bs : List Byte) : ObjHeader :=
  let v := ofBytes (bs.take 64)
  { magic := fld v 31 0, type := fld v 55 48, key := fld v 63 56, version := fld v 95 64, length := fld v 127 96, svn := fld v 159 128,
    rsvd := fld v 47 32 + fld v 511 160 }

/-- Header and body of an object, and its trailer of n bytes (R500). -/
def objSigned (bs : List Byte) : List Byte := bs.take (64 + (objHeader bs).length)
def objBody (bs : List Byte) : List Byte := (bs.drop 64).take (objHeader bs).length
def objTrailer (bs : List Byte) (n : Nat) : List Byte := (bs.drop (64 + (objHeader bs).length)).take n

/-- Bytes of the padded trailer: a signature of 114 bytes, or a digest of 64. -/
def trailerBytes (key : Nat) : Nat := if key = 0xFF then 64 else 128

/-- The digest of an object: SHAKE256 of its header and body (log 12). -/
def objDigest (bs : List Byte) : List Byte := shake256 (objSigned bs) 64

/-- The key that an object of a type must name (R501). -/
def keyFits (type key : Nat) : Bool :=
  match type with
  | 1 => decide (key < 4)
  | 2 => decide (key < 4)
  | 3 => key == 0x10
  | 4 => key == 0x10
  | _ => key == 0xFF

/-- The signature or digest of an object verifies (R501). -/
def signatureGood (ownerKey bs : List Byte) : Bool :=
  let h := objHeader bs
  if h.key = 0xFF then objTrailer bs 64 == shake256 (objSigned bs) 64
  else if h.key = 0x10 then ed448Verifies ownerKey (objTrailer bs 114) (objSigned bs)
  else ed448Verifies (Config.carriedKey bs) (objTrailer bs 114) (objSigned bs)

/-- The vendor root key slot of an object is in use, and the key that it carries is the slot's (R501). -/
def rootKeyGood (bs : List Byte) : Bool :=
  let k := (objHeader bs).key
  decide (4 ≤ k) || (!Config.rootKeyRevoked k && shake256 (Config.carriedKey bs) 64 == Config.rootKeyDigest k)

/-- The number of the first condition of R501 that an object fails; zero where it verifies. -/
def objFailure (ownerKey : List Byte) (type size : Nat) (bs : List Byte) : Nat :=
  let h := objHeader bs
  if h.magic ≠ nvmMagic ∨ h.type ≠ type ∨ h.rsvd ≠ 0 ∨ (type ≠ 1 ∧ h.svn ≠ 0) then 1
  else if size < 64 + h.length + trailerBytes h.key ∨ (type = 1 ∧ 0x600000 < h.length) then 2
  else if keyFits type h.key = false then 3
  else if rootKeyGood bs = false then 4
  else if signatureGood ownerKey bs = false then 5
  else if type = 1 ∧ h.svn < Config.minimumSvn then 6
  else 0

/-- The region of an object in the non-volatile memory. -/
def nvmObject (s : State) (type index : Nat) : List Byte :=
  match nvmPlace type index with
  | some (a, n) => nvmBytes s a n
  | none => []

/-- Verification of the object in its place. -/
def placeFailure (s : State) (ownerKey : List Byte) (type index : Nat) : Nat :=
  match nvmPlace type index with
  | some (_, n) => objFailure ownerKey type n (nvmObject s type index)
  | none => 1

/-! ### Resets, R491, R495 -/

/-- COLD_RESET: a thermal trip holds the module off (17_module_physical.md R599). -/
def execColdReset (profileSel frameSlot : Fin 4) (s : State) : Host.Outcome State Fault Refusal :=
  .next (if s.power.tripped then s else coldReset s profileSel.val frameSlot.val)

/-- WARM_RESET: a write of CHIP.RESET_CMD (R495). -/
def execWarmReset (v : Word64) (s : State) : Host.Outcome State Fault Refusal := .next (powered s (fun s => if v.toNat % 2 ^ 16 = 0x5A01 then warmReset s else s))

/-- A phase fails: the start stops (R497). -/
def failBoot (s : State) (code detail : Nat) : State := { s with boot := { s.boot with state := 6, error := code, detail := BitVec.ofNat 32 detail } }

/-! ### Phase 2, R492, R502 -/

/-- The image slot that phase 2 runs: the one that ACTIVE names first (R502); otherwise both failures. -/
def chooseImage (s : State) : Nat ⊕ (Nat × Nat) :=
  let first := b2n (bit (ofBytes (nvmBytes s 0 8)) 32)
  let f0 := placeFailure s [] 1 0
  let f1 := placeFailure s [] 1 1
  let fail := fun (k : Nat) => if k = 0 then f0 else f1
  if fail first = 0 then .inl first else if fail (1 - first) = 0 then .inl (1 - first) else .inr (f0, f1)

/-- A verified image starts on the Keeper; where in Keeper SRAM it stands is not laid down (log 35). -/
def startImage (s : State) (slot : Nat) : State :=
  let obj := nvmObject s 1 slot
  { s with
    boot := { s.boot with state := 1, imageSlot := slot, imageVersion := BitVec.ofNat 32 (objHeader obj).version, imageDigest := objDigest obj },
    keeper := { s.keeper with inReset := false, watchdogAt := s.time } }

/-- IMAGE: phase 2, after phase 1 or at a warm reset. -/
def execImage (s : State) : Host.Outcome State Fault Refusal :=
  .next (if s.power.modReset = false ∧ s.power.regulators = true ∧ (s.boot.state = 0 ∨ s.boot.state = 7) then
    (if ofBytes (nvmBytes s 0 4) ≠ nvmMagic then failBoot s 3 0
     else match chooseImage s with
       | .inl slot => startImage s slot
       | .inr (f0, f1) => failBoot s 4 (f0 + 16 * f1))
  else s)

/-! ### Phase 3, R497, R501 to R506 -/

/-- The fields of a profile head (R503). -/
structure ProfileHead where
  inits : Nat
  telemetry : Nat
  timeCfg : Nat
  dmaMask : Nat
  heartbeat : Nat
  fabricId : Nat
  plan : Nat
  enforce : Bool
  rsvd : Nat
deriving DecidableEq, Repr

def profileHead (body : List Byte) : ProfileHead :=
  let v := ofBytes (body.take 64)
  { inits := fld v 255 224, telemetry := fld v 223 192, timeCfg := fld v 191 128, dmaMask := fld v 127 96, heartbeat := fld v 95 64,
    fabricId := fld v 31 22, plan := fld v 21 20, enforce := bit v 19, rsvd := fld v 511 256 + fld v 63 32 + fld v 18 0 + fld v 191 174 }

/-- Initial-write entry i of a profile's body (R504): block, offset, value and the bits that must be zero. -/
def initEntry (body : List Byte) (i : Nat) : Nat × Nat × Nat × Nat :=
  let v := ofBytes ((body.drop (64 + 16 * i)).take 16)
  (fld v 51 42, fld v 41 30, fld v 127 64, fld v 29 0 + fld v 63 52)

/-- An initial-write entry names a block or register that a profile may not write, or has a bit set that must be zero (R504). -/
def initBad (e : Nat × Nat × Nat × Nat) : Bool :=
  e.2.2.2 != 0 || e.1 == CHIP || e.1 == HOSTIF || e.1 == NVMIF || e.1 == KEEPER ||
  (match blockMap e.1 with
   | some (m, defs) => (findReg defs (decodeOffset m defs e.2.1)).any (fun d => d.acc == .wo)
   | none => false)

/-- A verified profile breaks R503 or R504: failure code 7 (log 36). -/
def profileBreaks (body : List Byte) : Bool :=
  let h := profileHead body
  h.rsvd != 0 || decide (16000 < h.inits) || decide (body.length < 64 + 16 * h.inits) || decide (h.telemetry < 100 ∨ 1000000 < h.telemetry) ||
  (List.range h.inits).any (fun i => initBad (initEntry body i))

/-- The profile of a start (R506): index and source. -/
def chosenProfile (s : State) : Nat × Bool :=
  if bit s.boot.requestUsed.toNat 2 then (fld s.boot.requestUsed.toNat 1 0, true) else (s.boot.strapProfile.toNat, false)

/-- Failure code of the chosen profile. -/
def profileFailure (s : State) (ownerKey : List Byte) (p : Nat) : Nat :=
  let f := placeFailure s ownerKey 3 p
  if f ≠ 0 then f else if profileBreaks (objBody (nvmObject s 3 p)) then 7 else 0

/-- Entry l of a cabling plan's body (R505). -/
def planEntry (body : List Byte) (l : Nat) : Nat := ofBytes ((body.drop (8 * l)).take 8)

def planFails (s : State) (ownerKey : List Byte) (c : Nat) : Bool :=
  placeFailure s ownerKey 4 c != 0 || (List.range 96).any (fun l => planEntry (objBody (nvmObject s 4 c)) l / 2 ^ 49 != 0)

/-- The channels that the map-out table marks (R505). -/
def markedChannels (s : State) : List Nat := bitList (ofBytes ((objBody (nvmObject s 5 0)).take 48)) 384

/-- Phase 3 ends well: what it read is kept. -/
def configured (s : State) (ownerKey : List Byte) (p : Nat) (byRequest : Bool) (plan : Nat) : State :=
  { s with boot := { s.boot with
      state := 2, serialKnown := true, profile := BitVec.ofNat 2 p, profileSource := byRequest, plan := BitVec.ofNat 2 plan, mappedOut := markedChannels s,
      identityOk := placeFailure s ownerKey 6 0 == 0, ownerKey := ownerKey, ownerDigest := objDigest (nvmObject s 2 0),
      profileDigest := objDigest (nvmObject s 3 p), planDigest := objDigest (nvmObject s 4 plan), mapDigest := objDigest (nvmObject s 5 0) } }

/-- The checks of phase 3 in their order. -/
def runConfig (s : State) : State :=
  let owner := placeFailure s [] 2 0
  let ownerKey := (objBody (nvmObject s 2 0)).take 57
  let (p, byRequest) := chosenProfile s
  let plan := (profileHead (objBody (nvmObject s 3 p))).plan
  if owner ≠ 0 then failBoot s 5 owner
  else if profileFailure s ownerKey p ≠ 0 then failBoot s 6 (p + 256 * profileFailure s ownerKey p)
  else if planFails s ownerKey plan then failBoot s 7 plan
  else if placeFailure s ownerKey 5 0 ≠ 0 ∨ 32 < (markedChannels s).length then failBoot s 8 (markedChannels s).length
  else configured s ownerKey p byRequest plan

/-- CONFIG: phase 3. -/
def execConfig (s : State) : Host.Outcome State Fault Refusal := .next (if s.boot.state = 1 ∧ s.keeper.inReset = false then runConfig s else s)

/-! ### Phase 4, R492, R503 to R505 -/

/-- Core SRAMs, the buffer pool and the shared cache written with zeros and valid codes. -/
def clearSrams (s : State) : State :=
  let wipe := fun (s : State) (a n : Nat) => { s with mem := tclear s.mem a n, guard := tclear s.guard (a / 32) (n / 32) }
  wipe (wipe (wipe s 0x20000000000 0x10000000000) poolBase 0x4000000) 0x10000000000 0xA000000

/-- Fields with reset "profile" are loaded. -/
def loadProfile (s : State) : State :=
  let h := profileHead (objBody (nvmObject s 3 s.boot.profile.toNat))
  let plan := objBody (nvmObject s 4 s.boot.plan.toNat)
  let s := setReg (setReg (setReg s HOSTIF 0x018 h.heartbeat) FABRIC 0x010 (4 * h.fabricId)) FABRIC 0x058 (h.timeCfg % 2 ^ 46)
  let s := setReg s FABRIC 0x008 (2 * b2n h.enforce)
  let s := (List.range 96).foldl (fun s l => setReg s (LINK (l / 12)) (0x118 + 64 * (l % 12)) (planEntry plan l)) s
  { s with boot := { s.boot with dmaMask := BitVec.ofNat 32 h.dmaMask, telemetryBase := h.telemetry },
           keeper := { s.keeper with telemetryPeriod := h.telemetry } }

/-- The profile's initial writes, in order, as ordinary writes of the Keeper (R504). -/
def applyInits (s : State) : State :=
  let body := objBody (nvmObject s 3 s.boot.profile.toNat)
  (List.range (profileHead body).inits).foldl (fun s i => let e := initEntry body i; regWrite (.keeper 0) s e.1 e.2.1 e.2.2.1) s

/-- SRAM_INIT: phase 4; an uncorrectable guard error names its block (R497). -/
def execSramInit (uncorrectable : Option (Fin 1024)) (s : State) : Host.Outcome State Fault Refusal :=
  .next (if s.boot.state = 2 then
    match uncorrectable with
    | some b => failBoot s 9 (65536 * b.val)
    | none => (let s := applyInits (loadProfile (clearSrams s)); { s with boot := { s.boot with state := 3 } })
  else s)

/-! ### Phases 5 and 6, R492 to R494 -/

/-- Zero fill of every active channel. -/
def clearHbm (s : State) : State :=
  { s with mem := tclear s.mem 0 0x10000000000, guard := tclear s.guard 0 (0x10000000000 / 32), boot := { s.boot with hbmDone := true } }

/-- The Keeper enables the controllers, the fabric and the links, so that every lane trains (log 37). -/
def enableDatapath (s : State) : State :=
  let s := (List.range 12).foldl (fun s k => writeEnable s (MEMC k) true) s
  (List.range 8).foldl (fun s k => writeEnable s (LINK k) true) (writeEnable s FABRIC true)

/-- BRING_UP: phases 5 and 6; a failed channel that is not mapped out stops the start (R497). -/
def execBringUp (failedChannel : Option (Fin 384)) (s : State) : Host.Outcome State Fault Refusal :=
  .next (if s.boot.state = 3 then
    (let s := { s with boot := { s.boot with state := 4, configured := true } }
     match failedChannel.filter (fun c => !s.boot.mappedOut.contains c.val) with
     | some c => failBoot s 0xA c.val
     | none => enableDatapath (clearHbm s))
  else s)

/-- Phases 5 and 6 have ended: every lane that the plan does not mark unused has been UP, HELD or FAILED (R493). -/
def mayBeReady (s : State) : Bool := s.boot.state == 4 && s.boot.hbmDone && (List.range 96).all (fun l => planUnused s l || (getLane s l).everSettled)

/-- READY: services start (R492, R493); without a valid identity certificate BOOT_DETAIL[31] rises (R497). -/
def execReady (s : State) : Host.Outcome State Fault Refusal :=
  .next (if mayBeReady s then
    { s with boot := { s.boot with state := 5, detail := if s.boot.identityOk then 0 else 0x80000000 },
             keeper := { s.keeper with telemetryAt := s.time, loadAt := s.time } }
  else s)

end Sys2Proof.Machine
end

