-- ==== Sys2Proof/Machine/Host.lean ====
section
/-! DEFINITION. The host's PCIe events, the MSI-X commands and the direct commands of the non-volatile memory, 14_startup_host.md R494, R498, R509 to R515, R531. -/

namespace Sys2Proof.Machine

/-- PERST_ASSERT: only the host interface is reset, with a class 0 Keeper event (R511; log 20). -/
def execPerstAssert (s : State) : Host.Outcome State Fault Refusal :=
  .next (powered s (fun s => if s.host.inReset || s.power.scanPins then s else logNoted (resetHost s) HOSTIF 0 .perst []))

/-- PERST_DEASSERT: the host interface leaves reset (R494). -/
def execPerstDeassert (s : State) : Host.Outcome State Fault Refusal :=
  .next (if running s && !s.power.scanPins then { s with host := { s.host with inReset := false } } else s)

/-- PCIE_LINK_UP: R494. -/
def execPcieLinkUp (s : State) : Host.Outcome State Fault Refusal :=
  .next (if running s && !s.power.scanPins && !s.host.inReset then { s with host := { s.host with linkUp := true } } else s)

/-- PCIE_CONFIG_WRITE: MSI-X Enable and Bus Master Enable; pending messages then leave (R509, R515). -/
def execPcieConfigWrite (msixEnable busMaster : Bool) (s : State) : Host.Outcome State Fault Refusal :=
  .next (if hostUp s then sendPending { s with host := { s.host with msixEnable := msixEnable, busMaster := busMaster } } else s)

/-- MSIX_TABLE_WRITE: four aligned bytes of the table, at an offset within it (R515, R530). -/
def execMsixTableWrite (off : Nat) (v : BitVec 32) (s : State) : Host.Outcome State Fault Refusal :=
  .next (if hostUp s ∧ off % 4 = 0 ∧ off < 1024 then writeMsix s off v.toNat else s)

/-! ### Direct commands, R498, R531 -/

/-- READ_PAGE: a write of NVMIF.DIRECT_CMD. -/
def execReadPage (s : State) : Host.Outcome State Fault Refusal := .next (powered s (fun s => nvmCommand s 1))

/-- PROGRAM_PAGE: a write of NVMIF.DIRECT_CMD. -/
def execProgramPage (s : State) : Host.Outcome State Fault Refusal := .next (powered s (fun s => nvmCommand s 2))

/-- ERASE_SECTOR: a write of NVMIF.DIRECT_CMD. -/
def execEraseSector (s : State) : Host.Outcome State Fault Refusal := .next (powered s (fun s => nvmCommand s 3))

/-- The page of DIRECT_ADDR, into the page buffer. -/
def readPage (s : State) : State :=
  let a := getReg s NVMIF 0x010 / 256 * 256
  (List.range 32).foldl (fun s j => setReg s NVMIF (0x018 + 8 * j) (ofBytes (nvmBytes s (a + 8 * j) 8))) s

/-- The page buffer programmed into the page: programming clears bits (log 34). -/
def programPage (s : State) : State :=
  let a := getReg s NVMIF 0x010 / 256 * 256
  let data := (List.range 32).flatMap (fun j => bytesOf (getReg s NVMIF (0x018 + 8 * j)) 8)
  putNvm s a ((data.zip (nvmBytes s a 256)).map (fun p => p.1 &&& p.2))

/-- The 4 KiB sector of DIRECT_ADDR erased. -/
def eraseSector (s : State) : State :=
  { s with nvm := tclear s.nvm (getReg s NVMIF 0x010 / 4096 * 4096) 4096 }

/-- NVM_DIRECT_DONE: the direct command completes or fails, and BUSY falls (R531). -/
def execNvmDirectDone (failed : Bool) (s : State) : Host.Outcome State Fault Refusal :=
  .next (match s.nvmBusy with
    | none => s
    | some op =>
      let s := { s with nvmBusy := none, nvmRefused := failed }
      if failed then s else if op = 1 then readPage s else if op = 2 then programPage s else eraseSector s)

end Sys2Proof.Machine
end

