-- ==== Sys2Proof/Machine/Power.lean ====
section
/-! DEFINITION. The input, power limiting, temperatures, frequency steps, resets by pin, SMBus and the test access port, 17_module_physical.md R586 to R610. -/

namespace Sys2Proof.Machine

/-! ### The power controller, R593, R594 -/

/-- The power controller's proposal; its count of calm intervals starts afresh with a change. -/
def proposePower (p : Power) (step : Nat) : Power := if step = p.powerStep then p else { p with powerStep := step, calm := 0 }

/-- The three cases at the end of an interval whose average is known. -/
def evaluatePower (limit watts : Nat) (p : Power) : Power :=
  let above := decide (limit < watts)
  let p := { p with pin := watts, highLast := above, overFor := if above then p.overFor + 1 else 0,
                    calm := if watts + 50 ≤ limit then p.calm + 1 else 0 }
  if 8 ≤ p.overFor then proposePower p 6
  else if above then proposePower p (min 6 (p.powerStep + 1))
  else if 10 ≤ p.calm then proposePower p (p.powerStep - 1)
  else p

/-- POWER_EVALUATION: the end of a 1 ms interval (R593, R610). -/
def execPowerEvaluation (watts : Nat) (s : State) : Host.Outcome State Fault Refusal :=
  .next (if running s then
    (let p := evaluatePower (powerLimit s) watts s.power
     let s := countN s PWR 0x020 64 watts
     let s := if 8 ≤ p.overFor then count s PWR 0x080 32 else s
     { s with power := p })
  else s)

/-- FAST_LIMIT: more than 1,700 W over 10 µs (R594). -/
def execFastLimit (s : State) : Host.Outcome State Fault Refusal :=
  .next (if running s then count { s with power := proposePower s.power (min 6 (s.power.powerStep + 2)) } PWR 0x078 32 else s)

/-! ### Temperatures, R596, R597 -/

/-- The hottest of a list of readings. -/
def hottest (l : List Nat) : Nat := l.foldl max 0

/-- The thermal controller's proposal; its count of cool readings starts afresh with a change. -/
def proposeThermal (p : Power) (step : Nat) : Power := if step = p.thermalStep then p else { p with thermalStep := step, coolReadings := 0 }

/-- One reading of the thermal controller at throttle temperature t. -/
def evaluateThermal (t tj : Nat) (p : Power) : Power :=
  let p := { p with coolReadings := if tj + 5 < t then p.coolReadings + 1 else 0 }
  if t ≤ tj then proposeThermal p (min 6 (p.thermalStep + 1))
  else if 10 ≤ p.coolReadings then proposeThermal p (p.thermalStep - 1)
  else p

/-- THERMAL_EVALUATION: every sensor is read (R596, R597). -/
def execThermalEvaluation (die0 die1 exch : List Nat) (stackTemps : List Nat) (s : State) : Host.Outcome State Fault Refusal :=
  .next (if running s then
    (let s := { s with power := { s.power with die0 := hottest die0, die1 := hottest die1, exch := hottest exch, stackTemps := stackTemps } }
     { s with power := evaluateThermal (throttleTemp s) (tjMax s) s.power })
  else s)

/-- FREQUENCY_STEP: the applied step becomes the highest proposed (R592, R595). -/
def execFrequencyStep (s : State) : Host.Outcome State Fault Refusal :=
  .next (if running s && proposedStep s != s.power.applied then
    count { s with power := { s.power with applied := proposedStep s } } PWR 0x070 32
  else s)

/-- THERMAL_TRIP: a junction at 115 °C or a stack at 105 °C turns the module off (R599). -/
def execThermalTrip (junction stack : Nat) (s : State) : Host.Outcome State Fault Refusal :=
  .next (if s.power.inputPresent && !s.power.tripped && decide (115 ≤ junction ∨ 105 ≤ stack) then powerOff s true true s.power.vin else s)

/-! ### The input, R590, R591, R599, and MOD_RESET_N, R601 -/

/-- A brown-out: every regulator turns off and all state is lost. -/
def brownOut (s : State) (vin : Nat) : State := powerOff s s.power.tripped s.power.inputPresent vin

/-- INPUT_EXCURSION: ridden through in READY, the end of a start in phases 1 to 6, and a brown-out beyond the limits of R591. -/
def execInputExcursion (millivolts microseconds : Nat) (s : State) : Host.Outcome State Fault Refusal :=
  .next (if running s = false ∨ (46000 ≤ millivolts ∧ millivolts ≤ 56000) then s
    else if millivolts < 42000 ∨ 57500 < millivolts ∨ 1000 < microseconds then brownOut s millivolts
    else if isReady s then count s PWR 0x068 32
    else if s.boot.state = 6 then s
    else failBoot s 1 0)

/-- BROWN_OUT: R591. -/
def execBrownOut (s : State) : Host.Outcome State Fault Refusal := .next (brownOut s 0)

/-- POWER_LOSS: the input is removed; a trip latch clears after 1 s without it (R587, R599; 15_integrity_faults.md R552). -/
def execPowerLoss (milliseconds : Nat) (s : State) : Host.Outcome State Fault Refusal :=
  .next (powerOff s (s.power.tripped && decide (milliseconds < 1000)) false 0)

/-- MOD_RESET_ASSERT: low for at least 10 µs, every block is held in reset, with the regulators on (R601). -/
def execModResetAssert (microseconds : Nat) (s : State) : Host.Outcome State Fault Refusal :=
  .next (if microseconds < 10 ∨ s.power.scanPins = true then s
    else { clearModule s with power := { resetPower s.power with modReset := true } })

/-! ### The output pins, R586, R587, R598, R599 -/

/-- ALERT_N is asserted: a PWR.ALERT field is high. Its regulators being on, the module's logic has its pins unless the test access port has taken them (R587, R598, R608). -/
def alertPin (s : State) : Bool := s.power.regulators && !s.power.scanPins && alertBits s != 0

/-- THERMTRIP_N is driven low by the trip latch, which the input powers (R599). -/
def thermtripPin (s : State) : Bool := s.power.tripped && s.power.inputPresent

/-- PWRGD is released high: the rails are in regulation (R586, R599). -/
def pwrgdPin (s : State) : Bool := s.power.regulators

/-! ### SMBus, R606, R607 -/

/-- The target answers: from the end of phase 1 (R606). -/
def smbAnswers (s : State) : Bool := running s && !s.power.scanPins && s.boot.state != 0

/-- One bit of the packet error code's division by x^8 + x^2 + x + 1. -/
def pecStep (c : Nat) : Nat := if 128 ≤ c then Nat.xor (2 * c % 256) 0x07 else 2 * c

/-- SMBus packet error code of a message (the standard's CRC-8; log 38). -/
def pec (bs : List Nat) : Nat := bs.foldl (fun c b => (List.range 8).foldl (fun c _ => pecStep c) (Nat.xor c b)) 0

/-- The 7-bit address (R606). -/
def smbAddress (s : State) : Nat := 0x58 + s.boot.strapSlot.toNat

/-- A read's answer: the data, then the packet error code over address, code, address and data (R606). -/
def smbRead (s : State) (code : Nat) (data : List Nat) : State :=
  if smbAnswers s then
    emit s (.smbus ((data ++ [pec ([2 * smbAddress s, code, 2 * smbAddress s + 1] ++ data)]).map (BitVec.ofNat 8)))
  else emit s .smbusNack

/-- A write: discarded without a good packet error code (R606). -/
def smbWrite (s : State) (pecOk : Bool) (act : State → State) : State :=
  if smbAnswers s then (if pecOk then act s else s) else emit s .smbusNack

/-- SMB_BOOT_STATE: R607. -/
def execSmbBootState (s : State) : Host.Outcome State Fault Refusal := .next (smbRead s 0x01 [s.boot.state % 16])

/-- SMB_INPUT_POWER: R607. -/
def execSmbInputPower (s : State) : Host.Outcome State Fault Refusal := .next (smbRead s 0x02 [s.power.pin % 256, s.power.pin / 256 % 256])

/-- SMB_TJ_MAX: R607. -/
def execSmbTjMax (s : State) : Host.Outcome State Fault Refusal := .next (smbRead s 0x03 [tjMax s % 256])

/-- SMB_HBM_T_MAX: R607. -/
def execSmbHbmTMax (s : State) : Host.Outcome State Fault Refusal := .next (smbRead s 0x04 [hbmTMax s % 256])

/-- SMB_FREQ_ALERT: R607. -/
def execSmbFreqAlert (s : State) : Host.Outcome State Fault Refusal := .next (smbRead s 0x05 [16 * (s.power.applied % 8) + alertBits s])

/-- SMB_LIMIT_CUT_READ: R607. -/
def execSmbLimitCutRead (s : State) : Host.Outcome State Fault Refusal :=
  .next (smbRead s 0x06 [getReg s PWR 0x028 % 256, getReg s PWR 0x028 / 256 % 256])

/-- SMB_LIMIT_CUT_WRITE: a write of PWR.LIMIT_CUT at the Keeper's port (R607). -/
def execSmbLimitCutWrite (v : BitVec 16) (pecOk : Bool) (s : State) : Host.Outcome State Fault Refusal :=
  .next (smbWrite s pecOk (fun s => regWrite (.keeper 0) s PWR 0x028 v.toNat))

/-- Eight bytes of a block read, low byte first, behind their count. -/
def block8 (v : Nat) : List Nat := 8 :: (bytesOf v 8).map (·.toNat)

/-- SMB_SERIAL: zero before phase 3 ends (R607). -/
def execSmbSerial (s : State) : Host.Outcome State Fault Refusal :=
  .next (smbRead s 0x07 (block8 (if s.boot.serialKnown then Config.serialNumber.toNat else 0)))

/-- SMB_SELECT_REGISTER: R607. -/
def execSmbSelectRegister (v : BitVec 32) (pecOk : Bool) (s : State) : Host.Outcome State Fault Refusal :=
  .next (smbWrite s pecOk (fun s => { s with smbSelect := v }))

/-- The selected register: before BOOT_STATE reaches 0x4 most windows read as zero (R606, R607). -/
def selectedRegister (s : State) : Nat :=
  let b := fld s.smbSelect.toNat 25 16
  if hostReaches s b then ofBytes (regReadBytes s b (fld s.smbSelect.toNat 15 0) 8) else 0

/-- SMB_READ_REGISTER: R607. -/
def execSmbReadRegister (s : State) : Host.Outcome State Fault Refusal := .next (smbRead s 0x09 (block8 (selectedRegister s)))

/-- SMB_ALERT_RESPONSE: while ALERT_N is asserted the module answers with its own address (R598, R607); the low bit of the byte is a free value. -/
def execSmbAlertResponse (s : State) : Host.Outcome State Fault Refusal :=
  .next (if smbAnswers s && alertPin s then
    (let (v, s) := fresh s
     let b := 2 * smbAddress s + v % 2
     emit s (.smbus [BitVec.ofNat 8 b, BitVec.ofNat 8 (pec [0x19, b])]))
  else emit s .smbusNack)

/-! ### The test access port, R608 -/

/-- An instruction is loaded into the port; some take the pins from the module's logic until a cold reset. -/
def loadScan (s : State) (k : Nat) (pins : Bool) : State :=
  if s.power.regulators then
    { s with power := { s.power with scan := some k, scanPins := s.power.scanPins || pins }, host := { s.host with linkUp := s.host.linkUp && !pins } }
  else s

/-- BYPASS: R608. -/
def execBypass (s : State) : Host.Outcome State Fault Refusal := .next (loadScan s 0 false)

/-- IDCODE: the port returns 0x1960_078B (R608). -/
def execIdcode (s : State) : Host.Outcome State Fault Refusal :=
  .next (if s.power.regulators then emit (loadScan s 1 false) (.tdo 1 0x1960078B) else s)

/-- SAMPLE_PRELOAD: R608. -/
def execSamplePreload (s : State) : Host.Outcome State Fault Refusal := .next (loadScan s 2 false)

/-- EXTEST: R608. -/
def execExtest (s : State) : Host.Outcome State Fault Refusal := .next (loadScan s 3 true)

/-- EXTEST_PULSE: R608. -/
def execExtestPulse (s : State) : Host.Outcome State Fault Refusal := .next (loadScan s 4 true)

/-- EXTEST_TRAIN: R608. -/
def execExtestTrain (s : State) : Host.Outcome State Fault Refusal := .next (loadScan s 5 true)

/-- HIGHZ: R608. -/
def execHighz (s : State) : Host.Outcome State Fault Refusal := .next (loadScan s 6 true)

/-- CLAMP: R608. -/
def execClamp (s : State) : Host.Outcome State Fault Refusal := .next (loadScan s 7 true)

/-- TEST_LOGIC_RESET: TRST_N low keeps the port in Test-Logic-Reset (R608). -/
def execTestLogicReset (s : State) : Host.Outcome State Fault Refusal := .next { s with power := { s.power with scan := none } }

end Sys2Proof.Machine
end

