-- ==== Sys2Proof/Machine/Keeper.lean ====
section
/-! DEFINITION. The Keeper: interrupts, the heartbeat, the watchdog, telemetry, and the commands of its ring, 14_startup_host.md R507, R508, R515 to R527. -/

namespace Sys2Proof.Machine

/-! ### Interrupt sources, R515 -/

/-- The sources that are high. -/
def highSources (s : State) : List Nat := (List.range 20).filter (irqLevel s)

/-- A level rises: its vector is signalled where EN is 1. -/
def raiseSource (s : State) (src : Nat) : State :=
  let m := getReg s HOSTIF (0x200 + 8 * src)
  if bit m 6 then signalVector s (m % 64) else s

/-- Every source that has risen since the levels were last seen. -/
def raiseInterrupts (s : State) : State :=
  let high := highSources s
  let s' := (high.filter (fun src => !s.host.lastLevels.contains src)).foldl raiseSource s
  { s' with host := { s'.host with lastLevels := high } }

/-- KEEPER_LATE: the level has risen (R518). -/
def execKeeperLate (s : State) : Host.Outcome State Fault Refusal := .next (if keeperLate s then raiseInterrupts s else s)

/-! ### The watchdog, R521, R522, 15_integrity_faults.md R555 -/

/-- The Keeper's firmware runs. -/
def keeperRuns (s : State) : Bool := !s.keeper.inReset && !(blk s KEEPER).errorStopped

/-- WATCHDOG: a write of KEEPER.WATCHDOG restarts the period. -/
def execWatchdog (m : Master) (s : State) : Host.Outcome State Fault Refusal := .next (powered s (fun s => masterWrite m s KEEPER 0x008 (bytesOf 1 8)))

/-- The step driver after a watchdog restart: stage 6 is not resumed, every other stage abandons the step as skipped (R522). -/
def driverRestart (d : StepDriver) : StepDriver :=
  if d.mode ≠ 1 ∨ d.stage = 0 then d
  else if d.stage = 6 then { d with mode := 2 }
  else { d with abandoned := true, rerun := false, keep := false, skipped := d.skipped + 1 }

/-- Keeper SRAM outside the log ring written with zeros; reservations of the Keeper cores end. -/
def reinitSram (s : State) : State :=
  let n := getReg s KEEPER 0x020 - sramBase
  { s with mem := tclear s.mem sramBase n, guard := tclear s.guard (sramBase / 32) (n / 32), reserved := [] }

/-- The image is started again (R521). -/
def restartKeeper (s : State) : State :=
  let s := count (reinitSram s) KEEPER 0x010 32
  let s := { s with keeper := { s.keeper with watchdogAt := s.time }, driver := driverRestart s.driver }
  logEntry s KEEPER 0 0x07 (getReg s KEEPER 0x010)

/-- The digest check of a restart fails: the cores stay in reset and KEEPER is error-stopped (R555); the stopped structure is a free value. -/
def stopKeeper (s : State) : State :=
  let (v, s) := fresh s
  let s := setBlk { s with keeper := { s.keeper with inReset := true } } KEEPER { blk s KEEPER with errorStopped := true }
  logEntry (countFault s 32) KEEPER 0 0x05 (v % 256)

/-- WATCHDOG_RESTART: 50 ms have passed without a write (R521). -/
def execWatchdogRestart (digestOk : Bool) (s : State) : Host.Outcome State Fault Refusal :=
  .next (if keeperRuns s && decide (s.keeper.watchdogAt + 50000000 ≤ s.time) then (if digestOk then restartKeeper s else stopKeeper s) else s)

/-! ### Telemetry, R520 -/

/-- The values of a sample: the stack temperatures (which other fields a profile names is not laid down; log 40). -/
def sampleValues (s : State) : List (Nat × Word64) :=
  (List.range 12).map (fun k => (regKey (MEMC k) 0x018, BitVec.ofNat 64 (regRead s (MEMC k) 0x018)))

/-- The period at the end of a 10 ms interval with a load. -/
def adaptPeriod (base load period : Nat) : Nat :=
  if 80 < load then min (16 * base) (2 * period) else if load < 50 then max base (period / 2) else period

/-- The ends of the n intervals of 10 ms that have passed: the load of the last is the sample's, those of the ones before it are free values (log 40). -/
def passIntervals (load : Nat) : Nat → State → State
  | 0, s => s
  | n + 1, s =>
    let (l, s) := if n = 0 then (load, s) else (let (v, s) := fresh s; (v % 101, s))
    passIntervals load n { s with keeper := { s.keeper with
      loadAt := s.keeper.loadAt + 10000000, telemetryPeriod := adaptPeriod s.boot.telemetryBase l s.keeper.telemetryPeriod } }

/-- TELEMETRY_SAMPLE: R520. -/
def execTelemetrySample (load : Fin 101) (s : State) : Host.Outcome State Fault Refusal :=
  .next (let k := s.keeper
    if keeperRuns s && isReady s && decide (k.telemetryAt + 1000 * k.telemetryPeriod ≤ s.time) then
      let taken := { s with keeper := { k with telemetryAt := s.time, load := load.val, samples := k.samples ++ [sampleValues s] } }
      passIntervals load.val ((s.time - k.loadAt) / 10000000) taken
    else s)

/-! ### The command ring, R526 -/

def cmdSize (s : State) : Nat := getReg s KEEPER 0x060
def cmdHead (s : State) : Nat := getReg s KEEPER 0x068
def cmdTail (s : State) : Nat := getReg s KEEPER 0x070

/-- A command waits and the Keeper takes commands. -/
def cmdWaits (s : State) : Bool := keeperRuns s && isReady s && decide (1 ≤ cmdSize s ∧ cmdSize s ≤ 8) && cmdHead s != cmdTail s

/-- Address of the command record at the tail. -/
def cmdAddr (s : State) : Nat := getReg s KEEPER 0x058 + 64 * (cmdTail s % 2 ^ cmdSize s)

/-- CODE of the command at the tail, as its granule is stored. -/
def cmdCode (s : State) : Nat := ofBytes ((peekGranule s (cmdAddr s / 32)).1.take 1)

/-- The Keeper takes the command record at the tail: its SEQ. -/
def takeCmd (s : State) : Nat × State :=
  let (rd, s) := readSpan (.keeper 0) s (cmdAddr s) 64
  (fld (ofBytes rd.data) 47 32, setReg s KEEPER 0x070 ((cmdTail s + 1) % 2 ^ 32))

/-- The reply of a command: SEQ, STATUS and a result of zero. -/
def replyCmd (s : State) (seq status : Nat) : State :=
  let head := getReg s KEEPER 0x080
  let s := (writeSpan (.keeper 0) s (getReg s KEEPER 0x078 + 64 * (head % 2 ^ cmdSize s)) (bytesOf (at_ (seq % 65536) 32 + at_ status 8) 64) []).2
  setReg s KEEPER 0x080 ((head + 1) % 2 ^ 32)

/-- A command of a code is performed when it is the next of the ring: its work answers a status. -/
def command (s : State) (code : Nat) (work : State → Nat × State) : State :=
  if cmdWaits s && cmdCode s == code then
    let (seq, s) := takeCmd s
    let (status, s) := work s
    replyCmd s seq status
  else s

/-- A command whose CODE R527 does not list is answered UNKNOWN. -/
def unknownCommand (s : State) : State :=
  if cmdWaits s && (cmdCode s == 0 || decide (8 < cmdCode s)) then
    let (seq, s) := takeCmd s
    replyCmd s seq 1
  else s

/-! ### Jobs, R527, 12_memory_system.md R448 -/

/-- A block's RWD fields are written: the Keeper disables it for the write (16_register_interface.md R567; log 39). -/
def whileDisabled (s : State) (b : Nat) (f : State → State) : State :=
  if isEnabled s b then writeEnable (f (writeEnable s b false)) b true else f s

/-- VALID entries of the rank map (13_fabric_links.md R474). -/
def validRanks (s : State) (base : Nat) : Nat × State :=
  let (rd, s) := readSpan (.keeper 0) s base 16384
  (((List.range 4096).filter (fun r => bit (ofBytes ((rd.data.drop (4 * r)).take 4)) 31)).length, s)

/-- The window table with the records of a job in its first entries; other entries are not VALID. -/
def jobWindows (ws : List (BitVec 128)) : Table (BitVec 128) :=
  tsetList 0 [] 0 ((ws.take 2048).map (fun w => BitVec.ofNat 128 (w.toNat / 2 ^ 50 * 2 ^ 50)))

/-- A job is opened. -/
def openJob (s : State) (a : OpenJobArgs) : State :=
  let (n, s) := validRanks s a.rankMap.toNat
  let s := whileDisabled s FABRIC (fun s =>
    setReg (setReg s FABRIC 0x018 (at_ a.rank.toNat 16 + a.jobId.toNat)) FABRIC 0x020 (a.rankMap.toNat / 64 * 64))
  let s := { s with windows := jobWindows a.windows, windowRejected := none, rankCache := [], keeper := { s.keeper with job := some a } }
  whileDisabled s POOL (fun s => setReg s POOL 0x010 (b2n (decide (16 < n))))

/-- OPEN_JOB: BUSY while a job is open. -/
def execOpenJob (a : OpenJobArgs) (s : State) : Host.Outcome State Fault Refusal :=
  .next (command s 0x01 (fun s => if s.keeper.job.isSome then (2, s) else (0, openJob s a)))

/-- The windows are disabled and FABRIC.JOB is cleared. -/
def closeJob (s : State) : State :=
  let s := whileDisabled s FABRIC (fun s => setReg s FABRIC 0x018 0)
  { s with windows := (s.windows.map (fun e => (e.1, e.2 &&& ~~~ (BitVec.ofNat 128 (2 ^ 127))))).filter (fun e => e.2 != 0),
           windowRejected := none, keeper := { s.keeper with job := none } }

/-- CLOSE_JOB: BUSY while EXCH.ACTIVE or COLL.POSTED is non-zero. -/
def execCloseJob (s : State) : Host.Outcome State Fault Refusal :=
  .next (command s 0x02 (fun s => if s.dispatches.isEmpty && s.collectives.isEmpty then (0, closeJob s) else (2, s)))

/-! ### The step driver's commands and checkpoints, R525, R527 -/

/-- A copy descriptor (04_sparse_operands.md R156): not compressed, not expanded, in one orientation, its destination or its source remote. -/
def copyDesc (bits : BitVec 512) (toRemote : Bool) : Nat :=
  setFld (setFld (setFld (setFld (setFld (setFld bits.toNat 127 126 0) 119 117 0) 116 115 (if toRemote then 0 else 2)) 114 113 (if toRemote then 2 else 0)) 58 53 0) 52 0 0

/-- The pull of the data of step k from a feeder rank: a copy from that rank to this module (R525; log 42). -/
def pullCopy (staging : BitVec 42) (k : Nat) (f : BitVec 12) : DriverCopy :=
  { desc := BitVec.ofNat 512 (setFld (copyDesc (Config.pullBits f.toNat staging.toNat k) false) 511 500 f.toNat), step := k, checkpoint := false }

/-- The data of every step up to k is pulled from the feeder ranks that OPEN_JOB named, but for what has been (R525). -/
def pullThrough (s : State) (k : Nat) : State :=
  let d := s.driver
  let new := match s.keeper.job with
    | some j => ((List.range (k + 1 - d.pulled)).map (d.pulled + ·)).flatMap (fun n => j.feeders.map (pullCopy j.staging n))
    | none => []
  { s with driver := { d with pulled := max d.pulled (k + 1), copies := d.copies ++ new } }

/-- The checkpoint after step k: copies to the address that CHECKPOINT named, after every interval of steps (R525; log 42). -/
def checkpointAfter (s : State) (k : Nat) : State :=
  let n := s.keeper.checkpointInterval
  if n = 0 ∨ k % n ≠ 0 then s
  else
    let new := (Config.checkpointBits s.keeper.checkpointAddr.toNat k).map (fun b =>
      ({ desc := BitVec.ofNat 512 (setFld (copyDesc b true) 447 436 (fld s.keeper.checkpointAddr.toNat 63 52)), step := k, checkpoint := true } : DriverCopy))
    { s with driver := { s.driver with copies := s.driver.copies ++ new } }

/-- The driver at STEP_START: it waits for the first step's data, which it pulls with the second's (R525; log 42). Copies of an earlier checkpoint still count. -/
def startDriver (s : State) (a : StepStartArgs) : State :=
  pullThrough { s with driver := { mode := 1, args := some a, step := a.firstStep, pulled := a.firstStep, copies := s.driver.copies.filter (·.checkpoint) } } (a.firstStep + 1)

/-- STEP_START: the step driver starts; BUSY while it runs (log 41). -/
def execStepStart (a : StepStartArgs) (s : State) : Host.Outcome State Fault Refusal :=
  .next (command s 0x03 (fun s =>
    if s.driver.mode = 1 then (2, s)
    else (0, startDriver s a)))

/-- STEP_STOP: the step driver stops at the next stage 7. -/
def execStepStop (s : State) : Host.Outcome State Fault Refusal :=
  .next (command s 0x04 (fun s => (0, { s with driver := { s.driver with stopAsked := true } })))

/-- CHECKPOINT: the interval and the address are kept (R525, R527). -/
def execCheckpoint (interval : Nat) (addr : BitVec 64) (s : State) : Host.Outcome State Fault Refusal :=
  .next (command s 0x07 (fun s => (0, { s with keeper := { s.keeper with checkpointInterval := interval, checkpointAddr := addr } })))

/-- RESET: a warm reset after the reply is written (R495). -/
def execReset (s : State) : Host.Outcome State Fault Refusal :=
  .next (if cmdWaits s && cmdCode s == 8 then warmReset (command s 0x08 (fun s => (0, s))) else s)

/-! ### Attestation, R508 -/

/-- Bits [3183:0] of the report. -/
def reportBits (s : State) (nonce : BitVec 256) (time : Nat) : Nat :=
  let b := s.boot
  let digest := fun (l : List Byte) => ofBytes (l.take 64)
  at_ (digest b.mapDigest) 2560 + at_ (digest b.planDigest) 2048 + at_ (digest b.profileDigest) 1536 + at_ (digest b.ownerDigest) 1024 +
    at_ (digest b.imageDigest) 512 + at_ nonce.toNat 256 + at_ (time % 2 ^ 64) 192 + at_ Config.serialNumber.toNat 128 +
    at_ (getReg s CHIP 0x020 % 2 ^ 32) 96 + at_ (getReg s KEEPER 0x010 % 2 ^ 32) 64 + at_ b.imageVersion.toNat 32 + at_ b.profile.toNat 18 +
    at_ (b2n b.profileSource) 17 + at_ (b2n (bit (getReg s FABRIC 0x008) 1)) 16 + at_ 1 8 + at_ 1 4 + 1

/-- The report with its signature. -/
def reportBytes (s : State) (nonce : BitVec 256) (time : Nat) : List Byte :=
  let body := bytesOf (reportBits s nonce time) 398
  let sig := (ed448Sign Config.identityKey body).take 114
  body ++ sig ++ List.replicate (114 - sig.length) 0

/-- ATTEST: NO_IDENTITY without a valid identity certificate (R497). -/
def execAttest (nonce : BitVec 256) (addr : BitVec 42) (s : State) : Host.Outcome State Fault Refusal :=
  .next (command s 0x05 (fun s =>
    if !s.boot.identityOk then (5, s)
    else
      let (t, s) := readTime s KEEPER
      let (bad, s) := writeSpan (.keeper 0) s addr.toNat (reportBytes s nonce t) []
      (if bad then 3 else 0, s)))

/-! ### NVM_WRITE, R527 -/

/-- The index of an object's place: an image goes to the slot not running. -/
def writeIndex (s : State) (type index : Nat) : Nat := if type = 1 then 1 - s.boot.imageSlot else index

/-- An object written to its place: the sectors that it covers are erased first; ACTIVE then names an image's slot. -/
def storeObject (s : State) (type a slot : Nat) (bs : List Byte) : State :=
  let s := putNvm { s with nvm := tclear s.nvm a (ceilDiv bs.length 4096 * 4096) } a bs
  if type = 1 then putNvm s 0 (bytesOf (setFld (ofBytes (nvmBytes s 0 8)) 32 32 slot) 8) else s

/-- An object at a local address verified and written; the answer is the status. -/
def nvmWrite (s : State) (type index src len : Nat) : Nat × State :=
  match nvmPlace type (writeIndex s type index) with
  | none => (3, s)
  | some (a, size) =>
    if size < len then (3, s)
    else
      let (rd, s) := readSpan (.keeper 0) s src len
      if !rd.poison.isEmpty then (3, s)
      else if objFailure s.boot.ownerKey type size rd.data ≠ 0 then (4, s)
      else (0, storeObject s type a (writeIndex s type index) rd.data)

/-- NVM_WRITE: R527. -/
def execNvmWrite (type : BitVec 8) (index : Fin 4) (src : BitVec 42) (len : Nat) (s : State) : Host.Outcome State Fault Refusal :=
  .next (command s 0x06 (fun s => nvmWrite s type.toNat index.val src.toNat len))

end Sys2Proof.Machine
end

