-- ==== Sys2Proof/Machine/StepDriver.lean ====
section
/-! DEFINITION. The step driver: stages, plan entries, the health vector, keep or skip, and abandonment, 09_training_step.md R317, R336 to R338, R350 and 14_startup_host.md R522 to R525. -/

namespace Sys2Proof.Machine

/-! ### The step plan, R523 -/

/-- The fields of a plan entry. -/
structure PlanEntry where
  addr : Nat
  after1 : Nat
  after2 : Nat
  kind : Nat
  target : Nat
  stage : Nat
  perMb : Bool
  keepOnly : Bool
deriving DecidableEq, Repr

def planEntryOf (v : Nat) : PlanEntry :=
  { addr := fld v 255 214, after1 := fld v 213 198, after2 := fld v 197 182, kind := fld v 165 162, target := fld v 161 156, stage := fld v 155 152,
    perMb := bit v 151, keepOnly := bit v 150 }

/-- Entry i of the plan as memory holds it. -/
def planAt (s : State) (a : StepStartArgs) (i : Nat) : PlanEntry := planEntryOf (ofBytes (memBytes s (a.plan.toNat + 32 * i) 32))

/-- Bytes of the record that an entry of a kind issues. -/
def recordBytes (kind : Nat) : Nat := match kind with | 1 => 64 | 2 => 32 | 3 => 128 | 4 => 128 | 5 => 64 | _ => 0

/-- Addresses of the completion records that an issued record will write. -/
def recordTargets (kind v : Nat) : List Nat :=
  match kind with
  | 1 =>
    let r := BitVec.ofNat 512 v
    (recordCores r).map (fun n => recAddr ⟨0, r, recordCsf1 r, 0⟩ + 64 * n)
  | 2 => [fld v 255 214]
  | 3 => [(dispDesc v).record]
  | 4 => [(solvDesc v).record]
  | 5 => [(dmaDesc v).record]
  | _ => []

/-- The completion records of entry i. -/
def entryTargets (s : State) (a : StepStartArgs) (i : Nat) : List Nat :=
  let e := planAt s a i
  recordTargets e.kind (ofBytes (memBytes s e.addr (recordBytes e.kind)))

/-- GEN of the record that entry i issues; a DMA descriptor has none (15_integrity_faults.md R550). -/
def entryGen (s : State) (a : StepStartArgs) (i : Nat) : Option Nat :=
  let e := planAt s a i
  let v := ofBytes (memBytes s e.addr (recordBytes e.kind))
  match e.kind with
  | 1 => if recordCsf1 (BitVec.ofNat 512 v) then none else some (fld v 85 70)
  | 2 => some (collEntry (tget 0 s.collTable (fld v 117 108)).toNat).gen
  | 3 => some (dispDesc v).gen
  | 4 => some (solvDesc v).gen
  | _ => none

/-- A completion record has been written: its TYPE is not zero (15_integrity_faults.md R552). -/
def recordWritten (s : State) (x : Nat) : Bool := tget 0 s.mem x != 0

/-- What the driver reads of a completion record (R549). -/
structure Ending where
  type : Nat
  status : Nat
  reason : Nat
  gen : Nat
  ordinal : Nat
  done : Nat
  total : Nat
deriving DecidableEq, Repr

def endingAt (s : State) (x : Nat) : Ending :=
  let v := ofBytes (memBytes s x 32)
  { type := fld v 7 0, status := fld v 23 16, reason := fld v 31 24, gen := fld v 79 64, ordinal := fld v 127 80, done := fld v 175 128, total := fld v 223 176 }

/-- A record of another generation than the step's (09_training_step.md R347), of work that carries one. -/
def Ending.strange (r : Ending) (gen : Option Nat) : Bool := gen.any (fun g => g != r.gen)

/-- A record that ends the step for every rank: GEN_MISMATCH, SUMMARY or PEER of a dispatch or a collective (R350), or work of another generation. -/
def Ending.endsStep (r : Ending) (gen : Option Nat) : Bool :=
  (r.status == 2 && ((r.type == 3 && (r.reason == 6 || r.reason == 7 || r.reason == 0xD)) || (r.type == 4 && (r.reason == 4 || r.reason == 0xA)))) ||
  (r.type != 5 && r.strange gen)

/-! ### What the driver sees -/

/-- Every completion record of an issued entry is written. -/
def issueDone (s : State) (a : StepStartArgs) (x : Nat × Nat) : Bool := s.driver.ended.contains x || (entryTargets s a x.1).all (recordWritten s)

/-- Failed work raises a class 0 event, with what its record says (R350, 14_startup_host.md R524; log 20). -/
def logEnding (gen : Option Nat) (s : State) (r : Ending) : State :=
  if r.status = 0 ∧ r.strange gen = false then s
  else logNoted s KEEPER 0 .stepFault [r.type, r.ordinal, r.done, r.total, r.gen]

/-- A fault of an issued entry: the step is skipped or abandoned (R350, R338). A solver job's ending decides no step: its result is only not delivered
(10_curvature_solver.md R378; log 43). -/
def noteFault (s : State) (a : StepStartArgs) (x : Nat × Nat) : State :=
  let rs := (entryTargets s a x.1).map (endingAt s)
  let gen := (entryGen s a x.1).bind (fun _ => s.driver.gen)
  let bad := rs.filter (fun r => r.status != 0 || r.strange gen)
  if s.driver.faulted.contains x ∨ bad.isEmpty = true then s
  else
    let s := bad.foldl (logEnding gen) s
    let d := s.driver
    let again := bad.any (fun r => r.endsStep gen) && !d.abandoned
    let skips := bad.any (fun r => r.type != 5)
    { s with driver := { d with faulted := d.faulted ++ [x], keep := d.keep && !skips, abandoned := d.abandoned || again, rerun := d.rerun || again,
                                skipped := if d.keep && skips then d.skipped + 1 else d.skipped } }

/-- The loss of the launches of an ended entry joins the step's (R336, R338), in the order in which the driver sees them end. -/
def takeLoss (s : State) (a : StepStartArgs) (x : Nat × Nat) : State :=
  let ts := entryTargets s a x.1
  let d := s.driver
  let mine := d.losses.filter (fun l => ts.contains l.1)
  { s with driver := { d with losses := d.losses.filter (fun l => !ts.contains l.1), lossSum := mine.foldl (fun acc l => fadd acc l.2.1) d.lossSum,
                              lossBad := d.lossBad || mine.any (fun l => l.2.2 != 0) } }

/-! ### Copies, 14_startup_host.md R525 -/

/-- The driver's copies end: one whose record is written leaves, and one that failed is issued again, with a class 0 event (log 42). -/
def lookCopies (s : State) : State :=
  let (ended, left) := s.driver.copies.partition (fun c => c.issued && recordWritten s (dmaDesc c.desc.toNat).record)
  let rs := ended.map (fun c => (c, endingAt s (dmaDesc c.desc.toNat).record))
  let again := (rs.filter (fun x => x.2.status != 0)).map (fun x => { x.1 with issued := false })
  (rs.map (·.2)).foldl (logEnding none) { s with driver := { s.driver with copies := left ++ again } }

/-- Solver jobs of earlier steps end. -/
def lookBeside (s : State) : State :=
  let (ended, left) := s.driver.beside.partition (recordWritten s)
  (ended.map (endingAt s)).foldl (logEnding none) { s with driver := { s.driver with beside := left } }

/-- The driver looks at the completion records of what it has issued. -/
def driverLook (s : State) : State :=
  match s.driver.args with
  | none => s
  | some a =>
    let s := lookBeside (lookCopies s)
    let new := s.driver.issued.filter (fun x => !s.driver.ended.contains x && issueDone s a x)
    let s := new.foldl (fun s x => takeLoss (noteFault s a x) a x) s
    { s with driver := { s.driver with ended := s.driver.ended ++ new } }

/-! ### Which entries belong where, R317, R523 -/

/-- The entries of a stage, in plan order, that the step issues. -/
def stageEntries (s : State) (a : StepStartArgs) (stage : Nat) : List Nat :=
  (List.range a.entries).filter (fun i => let e := planAt s a i; e.stage == stage && (s.driver.keep || !e.keepOnly))

/-- The issues of an entry in its stage: in stages 2 and 3 one for the micro-batch in progress (an entry without PER_MB in the first only), elsewhere
one for each micro-batch if PER_MB is set, and otherwise one (log 43). -/
def dueIssues (s : State) (a : StepStartArgs) (i : Nat) : List (Nat × Nat) :=
  let e := planAt s a i
  if e.stage = 2 ∨ e.stage = 3 then (if e.perMb || s.driver.micro == 0 then [(i, s.driver.micro)] else [])
  else if e.perMb then (List.range a.microBatches).map (fun m => (i, m))
  else [(i, 0)]

/-- What the stage in progress has still to issue, in plan order. -/
def toIssue (s : State) (a : StepStartArgs) : List (Nat × Nat) :=
  ((stageEntries s a s.driver.stage).flatMap (dueIssues s a)).filter (fun x => !s.driver.issued.contains x)

/-- The issues of a stage have ended. Solver jobs run beside every stage (R317), and none waits for them. -/
def stageEnded (s : State) (a : StepStartArgs) (stage : Nat) : Bool :=
  s.driver.issued.all (fun x => s.driver.ended.contains x || (planAt s a x.1).stage != stage || (planAt s a x.1).kind == 4)

/-- The loss launch of the micro-batch in progress, the last launch of stage 2, has ended; without one, all of stage 2 (log 43). -/
def lossEnded (s : State) (a : StepStartArgs) : Bool :=
  match (s.driver.issued.filter (fun x => x.2 == s.driver.micro && (planAt s a x.1).stage == 2 && (planAt s a x.1).kind == 1)).getLast? with
  | some x => s.driver.ended.contains x
  | none => stageEnded s a 2

/-- A reduction starts after the last launch of the last micro-batch that writes its range (R317): the launch of stage 3 that its AFTER fields name or,
where they name none, every launch of stage 3 (log 43). -/
def rangeWritten (s : State) (a : StepStartArgs) (e : PlanEntry) : Bool :=
  let names := fun (j : Nat) => j != 0xFFFF && (planAt s a j).stage == 3
  e.stage != 4 || names e.after1 || names e.after2 ||
  s.driver.issued.all (fun x => s.driver.ended.contains x || (planAt s a x.1).stage != 3 || (planAt s a x.1).kind != 1)

/-- The entry reduces the health vector (R336): a collective of stage 5 whose source is the vector. -/
def reducesHealth (s : State) (a : StepStartArgs) (i : Nat) : Bool :=
  let e := planAt s a i
  e.stage == 5 && e.kind == 2 &&
  (collEntry (tget 0 s.collTable (fld (ofBytes (memBytes s e.addr 32)) 117 108)).toNat).src == a.health.toNat

/-- An AFTER entry has ended, in the same micro-batch for a PER_MB entry and in the same step otherwise; one that a skipped step leaves out counts as ended. -/
def afterEnded (s : State) (a : StepStartArgs) (e : PlanEntry) (m j : Nat) : Bool :=
  if j = 0xFFFF then true
  else
    let f := planAt s a j
    if f.keepOnly && !s.driver.keep then true
    else if f.perMb then (if e.perMb then s.driver.ended.contains (j, m) else (List.range a.microBatches).all (fun k => s.driver.ended.contains (j, k)))
    else s.driver.ended.any (fun x => x.1 == j)

/-! ### The health vector, R336 -/

/-- The counts that the health vector compares (R336). -/
def healthCounts (s : State) : List Nat := [getReg s NUMERIC 0x060, getReg s NUMERIC 0x088, getReg s NUMERIC 0x090]

/-- 1.0 or +0. -/
def healthFlag (b : Bool) : Nat := if b then 0x3F800000 else 0

/-- Some norm partial or squared norm is NaN or infinite; their places are not laid down, and a poisoned one counts as bad (log 44). -/
def normBad (s : State) (a : StepStartArgs) : Bool × State :=
  (Config.normPlaces a.plan.toNat).foldl (fun (acc : Bool × State) x =>
    let (rd, s) := readSpan (.keeper 0) acc.2 x 4
    (acc.1 || !rd.poison.isEmpty || !isFinite (BitVec.ofNat 32 (ofBytes rd.data)), s)) (false, s)

/-- The health vector's bytes. -/
def healthBytes (s : State) (norm : Bool) : List Byte :=
  let d := s.driver
  let rise := fun (k : Nat) => (getReg s NUMERIC (0x088 + 8 * k)) != d.health.getD (1 + k) 0
  let sentry := fOfNat ((getReg s NUMERIC 0x060 + 2 ^ 32 - d.health.getD 0 0) % 2 ^ 32)
  bytesOf (at_ sentry.toNat 128 + at_ (healthFlag norm) 96 + at_ (healthFlag d.lossBad) 64 + at_ (healthFlag (rise 0 || rise 1)) 32 +
    healthFlag (stewardOverflowLevel s)) 32

/-- The driver forms the health vector and writes it. -/
def writeHealth (s : State) (a : StepStartArgs) : State :=
  let (bad, s) := normBad s a
  (writeSpan (.keeper 0) s a.health.toNat (healthBytes s bad) []).2

/-! ### Issuing a record, R524 -/

/-- A record copied to a ring whose registers are base, size, head and tail; none while the ring is full. -/
def pushRing (s : State) (b base size head tail bytes : Nat) (bs : List Byte) : Option State :=
  let n := fld (getReg s b size) 4 0
  let h := getReg s b head
  if n = 0 ∨ (h + 2 ^ 32 - getReg s b tail) % 2 ^ 32 = 2 ^ n then none
  else some (regWrite (.keeper 0) (writeSpan (.keeper 0) s (ringAddr (getReg s b base) n h bytes) bs []).2 b head ((h + 1) % 2 ^ 32))

/-- A launch record written to a queue of the Keeper; none while the queue is full. -/
def pushLaunch (s : State) (q : Nat) (bs : List Byte) : Option State :=
  if 4 ≤ q ∨ lqFree s q = 0 then none
  else some ((List.range 8).foldl (fun s w => writeStaging s (.keeper 0) q w (BitVec.ofNat 64 (ofBytes ((bs.drop (8 * w)).take 8)))) s)

/-- The record of an entry goes to its queue or ring. -/
def pushRecord (s : State) (kind target : Nat) (bs : List Byte) : Option State :=
  match kind with
  | 1 => pushLaunch s target bs
  | 2 => pushRing s COLL 0x060 0x068 0x070 0x078 32 bs
  | 3 => pushRing s EXCH 0x010 0x018 0x020 0x028 128 bs
  | 4 => if target < 16 then pushRing s SOLVER (0x100 + 32 * target) (0x108 + 32 * target) (0x110 + 32 * target) (0x118 + 32 * target) 128 bs else none
  | 5 => if target < 32 then pushRing s DMA (0x100 + 32 * target) (0x108 + 32 * target) (0x110 + 32 * target) (0x118 + 32 * target) 64 bs else none
  | _ => none

/-- TYPE of every completion record of an entry is cleared before its record is issued (R552). -/
def clearTypes (s : State) (ts : List Nat) : State := ts.foldl (fun s x => (writeSpan (.keeper 0) s x (List.replicate 32 0) []).2) s

/-- Entry i is issued for micro-batch m; a full ring or queue makes it wait, and a record that the Keeper reads poisoned is not issued
(15_integrity_faults.md R541). -/
def issueEntry (s : State) (a : StepStartArgs) (i m : Nat) : State :=
  let (rd, s) := readSpan (.keeper 0) s (a.plan.toNat + 32 * i) 32
  let e := planEntryOf (ofBytes rd.data)
  let (rc, s) := readSpan (.keeper 0) s e.addr (recordBytes e.kind)
  match rd.poison ++ rc.poison with
  | g :: _ => notePoisonConsumed s KEEPER (32 * g) 0
  | [] =>
    match pushRecord (clearTypes s (recordTargets e.kind (ofBytes rc.data))) e.kind e.target rc.data with
    | none => s
    | some s => { s with driver := { s.driver with issued := s.driver.issued ++ [(i, m)] } }

/-- A copy goes to the first channel of DMA_MASK with room; without one it waits. -/
def pushCopy (s : State) (c : DriverCopy) : State :=
  let d := dmaDesc c.desc.toNat
  let issued := (bitList s.boot.dmaMask.toNat 32).findSome? (fun ch => pushRecord (clearTypes s [d.record]) 5 ch (bytesOf c.desc.toNat 64))
  let (s, done) := match issued with | some s' => (s', true) | none => (s, false)
  { s with driver := { s.driver with copies := s.driver.copies ++ [{ c with issued := done }] } }

/-- Every copy not yet issued is tried, in order (R525). -/
def pushCopies (s : State) : State :=
  let (out, wait) := s.driver.copies.partition (·.issued)
  wait.foldl pushCopy { s with driver := { s.driver with copies := out } }

/-- The driver runs a step. -/
def driverRuns (s : State) : Bool := keeperRuns s && isReady s && s.driver.mode == 1 && decide (1 ≤ s.driver.stage) && !s.driver.abandoned

/-- STEP_PLAN_ENTRY: entry i is the next of its stage in plan order, and its AFTER entries have ended (R524). -/
def stepPlanEntry (s : State) (i : Nat) : State :=
  let s := if keeperRuns s && s.driver.mode == 1 then pushCopies (driverLook s) else s
  match s.driver.args, driverRuns s with
  | some a, true =>
    (match toIssue s a with
     | (j, m) :: _ =>
       let e := planAt s a j
       let health := reducesHealth s a j
       if j = i && afterEnded s a e m e.after1 && afterEnded s a e m e.after2 && rangeWritten s a e && (!health || stageEnded s a 5) then
         issueEntry (if health then writeHealth s a else s) a j m
       else s
     | [] => s)
  | _, _ => s

/-- STEP_PLAN_ENTRY: R524. -/
def execStepPlanEntry (i : Nat) (s : State) : Host.Outcome State Fault Refusal := .next (stepPlanEntry s i)

/-! ### Stages, R317, R336 to R338 -/

/-- Stage 6 begins: the reduced vector decides (R337); SENTRY is logged with the step number. -/
def decideStep (s : State) (a : StepStartArgs) : State :=
  let (rd, s) := readSpan (.keeper 0) s a.health.toNat 32
  let v := ofBytes rd.data
  let good := rd.poison.isEmpty && fld v 127 0 == 0
  let s := logNoted s KEEPER 1 .stepSentry [s.driver.step, fld v 159 128]
  let d := s.driver
  { s with driver := { d with keep := d.keep && good, skipped := if d.keep && !good then d.skipped + 1 else d.skipped } }

/-- Stage 7 begins: every slot that the step wrote is committed (R317, R338). -/
def commitStep (s : State) : State :=
  let s' := s.driver.written.foldl (fun s k => requestCommits s (at_ 1 12 + k)) s
  { s' with driver := { s'.driver with written := [] } }

/-- Stage 1: every gradient buffer header of the step, its TSCALE byte left as it is, and every presence bitmap (R317, R326). -/
def writeHeaders (s : State) (a : StepStartArgs) (gen : Nat) : State :=
  let s := (Config.headerPlaces a.plan.toNat).foldl (fun s x =>
    (writeSpan (.keeper 0) s (x.1 + 1) ((bytesOf (at_ x.2.toNat 64 + at_ gen 16) 32).drop 1) []).2) s
  (Config.bitmapPlaces a.plan.toNat).foldl (fun s x => (writeSpan (.keeper 0) s x.1 (List.replicate (32 * x.2) 0) []).2) s

/-- A step begins at stage 1; while it runs, the data of the step after the next is pulled (R525). -/
def beginStep (s : State) (a : StepStartArgs) (n : Nat) : State :=
  let d := s.driver
  let gen := (List.range a.entries).findSome? (entryGen s a)
  let s := { s with driver := { d with step := n, stage := 1, micro := 0, issued := [], ended := [], faulted := [], keep := true, abandoned := false, rerun := false,
                                       lossBad := false, lossSum := 0, losses := [], written := [], gen := gen, health := healthCounts s } }
  pullThrough (writeHeaders s a (gen.getD 0)) (n + 2)

/-- The training data of a step is in the staging ring: every pull of it has ended (R525). -/
def dataReady (s : State) (n : Nat) : Bool := s.driver.copies.all (fun c => c.checkpoint || c.step != n)

/-- The driver comes to step n, whose stage 1 waits for its data (R525). -/
def enterStep (s : State) (a : StepStartArgs) (n : Nat) : State :=
  if dataReady s n then beginStep s a n else { s with driver := { s.driver with step := n, stage := 0, abandoned := false, rerun := false } }

/-- What a step leaves to those after it: its loss is reported (R338; log 20), and solver jobs may still run beside them. -/
def closeStep (s : State) (a : StepStartArgs) : State :=
  let s := logNoted s KEEPER 1 .stepLoss [s.driver.step, s.driver.lossSum.toNat]
  let d := s.driver
  let open' := (d.issued.filter (fun x => !d.ended.contains x)).flatMap (fun x => (entryTargets s a x.1).filter (fun t => !recordWritten s t))
  { s with driver := { d with beside := d.beside ++ open', lossSum := 0 } }

/-- After stage 7: a checkpoint may be due, and the driver stops, or the next step begins (R317, R525, R527). -/
def afterStep (s : State) (a : StepStartArgs) : State :=
  let s := checkpointAfter (closeStep s a) s.driver.step
  let d := s.driver
  if d.stopAsked ∨ (a.stepCount ≠ 0 ∧ a.firstStep + a.stepCount ≤ d.step + 1) then { s with driver := { d with mode := 0, stage := 0, stopAsked := false } }
  else enterStep s a (d.step + 1)

/-- The stage advances, with what the driver itself does at its start. -/
def nextStage (s : State) (a : StepStartArgs) : State :=
  let d := s.driver
  let go := fun (s : State) (k : Nat) => { s with driver := { s.driver with stage := k } }
  match d.stage with
  | 1 => if stageEnded s a 1 then go s 2 else s
  | 2 => if lossEnded s a then go s 3 else s
  | 3 => if d.micro + 1 < a.microBatches then (if stageEnded s a 3 then { s with driver := { d with stage := 2, micro := d.micro + 1 } } else s) else go s 4
  | 4 => if stageEnded s a 4 then go s 5 else s
  | 5 =>
    if stageEnded s a 5 && d.copies.all (fun c => !c.checkpoint) then
      go (decideStep (if (List.range a.entries).any (reducesHealth s a) then s else writeHealth s a) a) 6
    else s
  | 6 => if stageEnded s a 6 then go (commitStep s) 7 else s
  | _ => if (List.range 8).all (stageEnded s a) then afterStep s a else s

/-- Every issued entry has ended. -/
def allEnded (s : State) : Bool := s.driver.issued.all (fun x => s.driver.ended.contains x)

/-- An abandoned step ends once every completion record of it is written, as a skipped one: its slots are committed, and it runs again, or the next one
does (R338, R350, R522). -/
def endAbandoned (s : State) (a : StepStartArgs) : State :=
  let rerun := s.driver.rerun
  let s := closeStep (commitStep s) a
  enterStep s a (if rerun then s.driver.step else s.driver.step + 1)

/-- STEP_STAGE: the driver starts its next stage once the stage in progress has issued its entries and the completion records that the next one
needs are written; an abandoned step ends once all its records are (R317, R350, R522). -/
def stepStage (s : State) : State :=
  if !(keeperRuns s && isReady s && s.driver.mode == 1) then s
  else
    let s := pushCopies (driverLook s)
    match s.driver.args with
    | none => s
    | some a =>
      if s.driver.stage = 0 then enterStep s a s.driver.step
      else if s.driver.abandoned then (if allEnded s then endAbandoned s a else s)
      else if (toIssue s a).isEmpty then nextStage s a
      else s

/-- STEP_STAGE: R317. -/
def execStepStage (s : State) : Host.Outcome State Fault Refusal := .next (stepStage s)

end Sys2Proof.Machine
end

