-- ==== Sys2Proof/Machine/Timebase.lean ====
section
/-! DEFINITION. Timebase synchronisation: SYNC exchanges, the lock, and TIMEPULSE, 13_fabric_links.md R485 and R486 and 17_module_physical.md R604. -/

namespace Sys2Proof.Machine

/-- This module is the time master (R485). -/
def timeMaster (s : State) : Bool := bit (getReg s FABRIC 0x058) 0

/-- The module may start an exchange: it is not the master, FABRIC is enabled, and 65,536 units have passed since the last one it sent (R485). -/
def syncDue (s : State) : Bool := !timeMaster s && isEnabled s FABRIC && decide (s.sync.lastSent + 65536 ≤ s.time)

/-- A SYNC frame: type 0x0A on VC1, one granule that holds its times and its correction field (R466, R485; log 64). -/
def syncFrame (s : State) (dst kind : Nat) (fields : List Nat) : Frame :=
  { seq := 0, header := ownHeader s dst 0xA 1 (kind % 4) 0 0 0 0 0, data := laidOut .sync fields 1 }

/-- SYNC_EXCHANGE: a SYNC frame leaves for the time master through a FABRIC port; t1 is the counter (R485). -/
def execSyncExchange (s : State) : Host.Outcome State Fault Refusal :=
  .next (if syncDue s then
    match choosePort s (streamOf (.keeper 0)) (fld (getReg s FABRIC 0x058) 45 34) 0 with
    | none => s
    | some p =>
      let (v, s) := fresh s
      sendVia { s with sync := { s.sync with sentAt := some s.time, lastSent := s.time } } p (syncFrame s (fld (getReg s FABRIC 0x058) 45 34) v [s.time, 0])
  else s)

/-- The lock after an exchange with an offset (R486). -/
def lockAfter (x : TimeSync) (theta : Int) : TimeSync :=
  let small := decide (theta.natAbs ≤ 10)
  let large := decide (20 < theta.natAbs)
  let good := if small then x.good + 1 else 0
  let bad := if large then x.bad + 1 else 0
  let lock := if 4 ≤ bad then 0 else if 16 ≤ good then 2 else if x.lock = 0 then 1 else x.lock
  { x with good := if lock = 0 then 0 else good, bad := if lock = 0 then 0 else bad, lock := lock, theta := theta }

/-- The offset of an exchange; an odd difference is halved up or down by a free value (R485 states no rounding). -/
def offsetOf (s : State) (t1 t2 t3 t4 cf cr : Nat) : Int × State :=
  let (v, s) := fresh s
  let d : Int := ((t2 : Int) - t1 - cf) - ((t4 : Int) - t3 - cr)
  ((d + (v % 2 : Nat)) / 2, s)

/-- An exchange ends at t4, the counter as it is: a first large lag is stepped forward once, and every other offset is slewed away (R486). -/
def finishExchange (s : State) (t1 t2 t3 cf cr : Nat) : State :=
  let (theta, s) := offsetOf s t1 t2 t3 s.time cf cr
  let x := lockAfter { s.sync with sentAt := none, lastExchange := s.time } theta
  if x.stepped = false ∧ 1000 < theta then
    count { s with time := s.time + theta.toNat, sync := { x with stepped := true, correction := 0, lastExchange := s.time + theta.toNat } } TIMEBASE 0x020 32
  else { s with sync := { x with correction := theta } }

/-- SYNC: the answer to the exchange in flight arrives (R485, R486). -/
def execSync (lane : Fin 96) (h : FrameHeader) (times : SyncTimes) (corr : SyncCorrections) (s : State) : Host.Outcome State Fault Refusal :=
  .next (match acceptFrame s lane.val { h with type := 0xA } with
    | (false, s) => s
    | (true, s) =>
      match s.sync.sentAt with
      | none => s
      | some t1 => if timeMaster s then s else finishExchange s t1 times.t2.toNat times.t3.toNat corr.cf corr.cr)

/-- SYNC_LOSS: 1 ms without an exchange (R486). -/
def execSyncLoss (s : State) : Host.Outcome State Fault Refusal :=
  .next (if timeMaster s = false ∧ s.sync.lock ≠ 0 ∧ s.sync.lastExchange + 1000000 ≤ s.time then
    { s with sync := { s.sync with lock := 0, good := 0, bad := 0 } }
  else s)

/-- SYNC_REQUEST: the time master answers on the same lane with t2 and t3, its counter (R485); a lane's version without SYNC discards the frame (R466, R483). -/
def execSyncRequest (lane : Fin 96) (h : FrameHeader) (t1 : Word64) (cf : Nat) (s : State) : Host.Outcome State Fault Refusal :=
  .next (match acceptFrame s lane.val { h with type := 0xA } with
    | (false, s) => s
    | (true, s) =>
      let (v, s') := fresh s
      if timeMaster s then sendOn s' lane.val (syncFrame s h.srcId.toNat v [t1.toNat, s.time, s.time, cf]) else s)

/-- The counter after a rising edge of TIMEPULSE: the time master with PULSE_EN aligns it to the next multiple of PULSE_PERIOD (R485). -/
def alignedTime (s : State) : Nat :=
  let period := fld (getReg s FABRIC 0x058) 33 2
  if period = 0 then s.time else ceilDiv s.time period * period

/-- TIMEPULSE: the edge is counted and the counter captured; the time master aligns (R604, R485). -/
def execTimepulse (s : State) : Host.Outcome State Fault Refusal :=
  .next (powered s (fun s => if s.power.scanPins then s
         else
         let s := { count s TIMEBASE 0x018 32 with pulseLast := s.time }
         if timeMaster s && bit (getReg s FABRIC 0x058) 1 then { s with time := alignedTime s, sync := { s.sync with stepped := true } } else s))

end Sys2Proof.Machine
end

