-- ==== Sys2Proof/Machine/Dispatch.lean ====
section
/-! DEFINITION. The dispatch of a command to its meaning, one arm for each row of the opcode table. -/

namespace Sys2Proof.Machine

def exec (i : Instr) (s : State) : Host.Outcome State Fault Refusal :=
  match i with
  | .nop n b => Sys2Proof.Machine.execNop n b s
  | .loop n b => Sys2Proof.Machine.execLoop n b s
  | .endLaunch n b => Sys2Proof.Machine.execEndLaunch n b s
  | .halt n b => Sys2Proof.Machine.execHalt n b s
  | .barrier n b => Sys2Proof.Machine.execBarrier n b s
  | .forage n b => Sys2Proof.Machine.execForage n b s
  | .fprime n b => Sys2Proof.Machine.execFprime n b s
  | .lidx n b => Sys2Proof.Machine.execLidx n b s
  | .li n b => Sys2Proof.Machine.execLi n b s
  | .lui n b => Sys2Proof.Machine.execLui n b s
  | .add n b => Sys2Proof.Machine.execAdd n b s
  | .sub n b => Sys2Proof.Machine.execSub n b s
  | .and n b => Sys2Proof.Machine.execAnd n b s
  | .or n b => Sys2Proof.Machine.execOr n b s
  | .xor n b => Sys2Proof.Machine.execXor n b s
  | .shl n b => Sys2Proof.Machine.execShl n b s
  | .shr n b => Sys2Proof.Machine.execShr n b s
  | .sar n b => Sys2Proof.Machine.execSar n b s
  | .mul n b => Sys2Proof.Machine.execMul n b s
  | .minu n b => Sys2Proof.Machine.execMinu n b s
  | .maxu n b => Sys2Proof.Machine.execMaxu n b s
  | .addi n b => Sys2Proof.Machine.execAddi n b s
  | .sltu n b => Sys2Proof.Machine.execSltu n b s
  | .sld n b => Sys2Proof.Machine.execSld n b s
  | .sst n b => Sys2Proof.Machine.execSst n b s
  | .wdesc n b => Sys2Proof.Machine.execWdesc n b s
  | .wrcp n b => Sys2Proof.Machine.execWrcp n b s
  | .tbr n b => Sys2Proof.Machine.execTbr n b s
  | .productOperation n b => Sys2Proof.Machine.execProductOperation n b s
  | .statisticsProduct n b => Sys2Proof.Machine.execStatisticsProduct n b s
  | .alternatingPair n b => Sys2Proof.Machine.execAlternatingPair n b s
  | .pass n b => Sys2Proof.Machine.execPass n b s
  | .scatteredWriteApply n bank => Sys2Proof.Machine.execScatteredWriteApply n bank s
  | .move n m b => Sys2Proof.Machine.execMove n m b s
  | .gather n m b => Sys2Proof.Machine.execGather n m b s
  | .moverLineDone n m k => Sys2Proof.Machine.execMoverLineDone n m k s
  | .rankCacheFill rank => Sys2Proof.Machine.execRankCacheFill rank s
  | .zero n b => Sys2Proof.Machine.execZero n b s
  | .copy n b => Sys2Proof.Machine.execCopy n b s
  | .breakCount n b => Sys2Proof.Machine.execBreakCount n b s
  | .breakTag n b => Sys2Proof.Machine.execBreakTag n b s
  | .breakHalt n => Sys2Proof.Machine.execBreakHalt n s
  | .breakBroadcast src n => Sys2Proof.Machine.execBreakBroadcast src n s
  | .breakRequest v => Sys2Proof.Machine.execBreakRequest v s
  | .haltRecord n => Sys2Proof.Machine.execHaltRecord n s
  | .resume n => Sys2Proof.Machine.execResume n s
  | .abort n => Sys2Proof.Machine.execAbort n s
  | .sregWrite n ix v => Sys2Proof.Machine.execSregWrite n ix v s
  | .load n bank => Sys2Proof.Machine.execLoad n bank s
  | .seal n bank => Sys2Proof.Machine.execSeal n bank s
  | .launchAppend m q v => Sys2Proof.Machine.execLaunchAppend m q v s
  | .launchDelivery q => Sys2Proof.Machine.execLaunchDelivery q s
  | .launchStart n => Sys2Proof.Machine.execLaunchStart n s
  | .launchBoundary n => Sys2Proof.Machine.execLaunchBoundary n s
  | .barrierRelease n => Sys2Proof.Machine.execBarrierRelease n s
  | .barrierTimeout n => Sys2Proof.Machine.execBarrierTimeout n s
  | .forageRequest n l => Sys2Proof.Machine.execForageRequest n l s
  | .forageAnswer n l => Sys2Proof.Machine.execForageAnswer n l s
  | .localRead m addr len => Sys2Proof.Machine.execLocalRead m addr len s
  | .localWrite m addr data poisoned => Sys2Proof.Machine.execLocalWrite m addr data poisoned s
  | .scrubWrite granule => Sys2Proof.Machine.execScrubWrite granule s
  | .poisonWrite granule => Sys2Proof.Machine.execPoisonWrite granule s
  | .stewardReport slot mag ovf nan => Sys2Proof.Machine.execStewardReport slot mag ovf nan s
  | .stewardCommit v => Sys2Proof.Machine.execStewardCommit v s
  | .stewardSlotWrite hi v => Sys2Proof.Machine.execStewardSlotWrite hi v s
  | .sentryCompare n => Sys2Proof.Machine.execSentryCompare n s
  | .numericEnable v => Sys2Proof.Machine.execNumericEnable v s
  | .dmaChanEnable v => Sys2Proof.Machine.execDmaChanEnable v s
  | .dmaCopy c => Sys2Proof.Machine.execDmaCopy c s
  | .dmaCompress c => Sys2Proof.Machine.execDmaCompress c s
  | .dmaExpand c => Sys2Proof.Machine.execDmaExpand c s
  | .dmaEnd c => Sys2Proof.Machine.execDmaEnd c s
  | .exchEnable v => Sys2Proof.Machine.execExchEnable v s
  | .dispatchTake => Sys2Proof.Machine.execDispatchTake s
  | .forwardDispatchStart l => Sys2Proof.Machine.execForwardDispatchStart l s
  | .backwardReplayStart l => Sys2Proof.Machine.execBackwardReplayStart l s
  | .scoutMessage m es => Sys2Proof.Machine.execScoutMessage m es s
  | .grantMessage m es => Sys2Proof.Machine.execGrantMessage m es s
  | .tileReservation l => Sys2Proof.Machine.execTileReservation l s
  | .carryRow m row poison => Sys2Proof.Machine.execCarryRow m row poison s
  | .post m addr line => Sys2Proof.Machine.execPost m addr line s
  | .returnRow m row poison => Sys2Proof.Machine.execReturnRow m row poison s
  | .dispatchAbort m => Sys2Proof.Machine.execDispatchAbort m s
  | .dispatchTimeout l => Sys2Proof.Machine.execDispatchTimeout l s
  | .dispatchEnd l => Sys2Proof.Machine.execDispatchEnd l s
  | .solverEnable v => Sys2Proof.Machine.execSolverEnable v s
  | .solverDescriptorRead c => Sys2Proof.Machine.execSolverDescriptorRead c s
  | .headDeadline c => Sys2Proof.Machine.execHeadDeadline c s
  | .chol u => Sys2Proof.Machine.execChol u s
  | .inv u => Sys2Proof.Machine.execInv u s
  | .iroot u => Sys2Proof.Machine.execIroot u s
  | .solverStep u => Sys2Proof.Machine.execSolverStep u s
  | .jobDeadline u => Sys2Proof.Machine.execJobDeadline u s
  | .delivery u => Sys2Proof.Machine.execDelivery u s
  | .tableLoad m v => Sys2Proof.Machine.execTableLoad m v s
  | .collEnable v => Sys2Proof.Machine.execCollEnable v s
  | .collRingRecord keeper => Sys2Proof.Machine.execCollRingRecord keeper s
  | .postPort m granule data => Sys2Proof.Machine.execPostPort m granule data s
  | .collectiveOpen => Sys2Proof.Machine.execCollectiveOpen s
  | .openMessage m k gen digest => Sys2Proof.Machine.execOpenMessage m k gen digest s
  | .allReduce k => Sys2Proof.Machine.execAllReduce k s
  | .reduceScatter k => Sys2Proof.Machine.execReduceScatter k s
  | .allGather k => Sys2Proof.Machine.execAllGather k s
  | .reduce k => Sys2Proof.Machine.execReduce k s
  | .broadcast k => Sys2Proof.Machine.execBroadcast k s
  | .permute k => Sys2Proof.Machine.execPermute k s
  | .presenceMessage m k first bits => Sys2Proof.Machine.execPresenceMessage m k first bits s
  | .contribution m k gen unit off data poison => Sys2Proof.Machine.execContribution m k gen unit off data poison s
  | .reductionBatch u k unit batch mismatches => Sys2Proof.Machine.execReductionBatch u k unit batch mismatches s
  | .result m k gen unit off data poison => Sys2Proof.Machine.execResult m k gen unit off data poison s
  | .collectiveAbort m k code blamed => Sys2Proof.Machine.execCollectiveAbort m k code blamed s
  | .orderTimeout k => Sys2Proof.Machine.execOrderTimeout k s
  | .startTimeout k => Sys2Proof.Machine.execStartTimeout k s
  | .runTimeout k => Sys2Proof.Machine.execRunTimeout k s
  | .collectiveEnd k => Sys2Proof.Machine.execCollectiveEnd k s
  | .wcbDrain k pc => Sys2Proof.Machine.execWcbDrain k pc s
  | .swap ix addr size v => Sys2Proof.Machine.execSwap ix addr size v s
  | .cas ix addr size v cmp => Sys2Proof.Machine.execCas ix addr size v cmp s
  | .fetchAdd ix addr size v => Sys2Proof.Machine.execFetchAdd ix addr size v s
  | .fetchAnd ix addr size v => Sys2Proof.Machine.execFetchAnd ix addr size v s
  | .fetchOr ix addr size v => Sys2Proof.Machine.execFetchOr ix addr size v s
  | .fetchXor ix addr size v => Sys2Proof.Machine.execFetchXor ix addr size v s
  | .fetchMaxu ix addr size v => Sys2Proof.Machine.execFetchMaxu ix addr size v s
  | .fetchMinu ix addr size v => Sys2Proof.Machine.execFetchMinu ix addr size v s
  | .fetchMaxs ix addr size v => Sys2Proof.Machine.execFetchMaxs ix addr size v s
  | .fetchMins ix addr size v => Sys2Proof.Machine.execFetchMins ix addr size v s
  | .addF32 ix addr v => Sys2Proof.Machine.execAddF32 ix addr v s
  | .maxF32 ix addr v => Sys2Proof.Machine.execMaxF32 ix addr v s
  | .minF32 ix addr v => Sys2Proof.Machine.execMinF32 ix addr v s
  | .addvF32 ix addr v => Sys2Proof.Machine.execAddvF32 ix addr v s
  | .pcieAtomicop addr => Sys2Proof.Machine.execPcieAtomicop addr s
  | .lr c addr size => Sys2Proof.Machine.execLr c addr size s
  | .sc c addr size v => Sys2Proof.Machine.execSc c addr size v s
  | .scacheEnable v => Sys2Proof.Machine.execScacheEnable v s
  | .cacheDisabled => Sys2Proof.Machine.execCacheDisabled s
  | .poolRelease m addr => Sys2Proof.Machine.execPoolRelease m addr s
  | .poolEnable v => Sys2Proof.Machine.execPoolEnable v s
  | .memcEnable k v => Sys2Proof.Machine.execMemcEnable k v s
  | .marginSweep k v => Sys2Proof.Machine.execMarginSweep k v s
  | .marginSweepEnd k passing failed => Sys2Proof.Machine.execMarginSweepEnd k passing failed s
  | .linkEnable k v => Sys2Proof.Machine.execLinkEnable k v s
  | .fabricEnable v => Sys2Proof.Machine.execFabricEnable v s
  | .laneTraining lane => Sys2Proof.Machine.execLaneTraining lane s
  | .identityExchange lane peerSwitch peerPort versions => Sys2Proof.Machine.execIdentityExchange lane peerSwitch peerPort versions s
  | .laneRetrain lane => Sys2Proof.Machine.execLaneRetrain lane s
  | .keepaliveSend lane => Sys2Proof.Machine.execKeepaliveSend lane s
  | .laneSilence lane => Sys2Proof.Machine.execLaneSilence lane s
  | .read lane h => Sys2Proof.Machine.execRead lane h s
  | .write lane h data => Sys2Proof.Machine.execWrite lane h data s
  | .writeMasked lane h data => Sys2Proof.Machine.execWriteMasked lane h data s
  | .response lane h data => Sys2Proof.Machine.execResponse lane h data s
  | .defer lane h => Sys2Proof.Machine.execDefer lane h s
  | .resumeFrame lane h => Sys2Proof.Machine.execResumeFrame lane h s
  | .remoteTimeout tag => Sys2Proof.Machine.execRemoteTimeout tag s
  | .windowWrite hi v => Sys2Proof.Machine.execWindowWrite hi v s
  | .syncExchange => Sys2Proof.Machine.execSyncExchange s
  | .sync lane h times corr => Sys2Proof.Machine.execSync lane h times corr s
  | .syncLoss => Sys2Proof.Machine.execSyncLoss s
  | .timepulse => Sys2Proof.Machine.execTimepulse s
  | .syncRequest lane h t1 cf => Sys2Proof.Machine.execSyncRequest lane h t1 cf s
  | .creditExchange lane credits => Sys2Proof.Machine.execCreditExchange lane credits s
  | .trainingTimeout lane => Sys2Proof.Machine.execTrainingTimeout lane s
  | .frameReplay lane => Sys2Proof.Machine.execFrameReplay lane s
  | .coldReset profileSel frameSlot => Sys2Proof.Machine.execColdReset profileSel frameSlot s
  | .image => Sys2Proof.Machine.execImage s
  | .config => Sys2Proof.Machine.execConfig s
  | .sramInit uncorrectable => Sys2Proof.Machine.execSramInit uncorrectable s
  | .bringUp failedChannel => Sys2Proof.Machine.execBringUp failedChannel s
  | .ready => Sys2Proof.Machine.execReady s
  | .warmReset v => Sys2Proof.Machine.execWarmReset v s
  | .perstAssert => Sys2Proof.Machine.execPerstAssert s
  | .perstDeassert => Sys2Proof.Machine.execPerstDeassert s
  | .pcieLinkUp => Sys2Proof.Machine.execPcieLinkUp s
  | .msixTableWrite off v => Sys2Proof.Machine.execMsixTableWrite off v s
  | .pcieConfigWrite msixEnable busMaster => Sys2Proof.Machine.execPcieConfigWrite msixEnable busMaster s
  | .keeperLate => Sys2Proof.Machine.execKeeperLate s
  | .watchdog m => Sys2Proof.Machine.execWatchdog m s
  | .watchdogRestart digestOk => Sys2Proof.Machine.execWatchdogRestart digestOk s
  | .telemetrySample load => Sys2Proof.Machine.execTelemetrySample load s
  | .openJob a => Sys2Proof.Machine.execOpenJob a s
  | .closeJob => Sys2Proof.Machine.execCloseJob s
  | .stepStart a => Sys2Proof.Machine.execStepStart a s
  | .stepStop => Sys2Proof.Machine.execStepStop s
  | .attest nonce addr => Sys2Proof.Machine.execAttest nonce addr s
  | .nvmWrite type index src len => Sys2Proof.Machine.execNvmWrite type index src len s
  | .checkpoint interval addr => Sys2Proof.Machine.execCheckpoint interval addr s
  | .reset => Sys2Proof.Machine.execReset s
  | .stepStage => Sys2Proof.Machine.execStepStage s
  | .stepPlanEntry ix => Sys2Proof.Machine.execStepPlanEntry ix s
  | .readPage => Sys2Proof.Machine.execReadPage s
  | .programPage => Sys2Proof.Machine.execProgramPage s
  | .eraseSector => Sys2Proof.Machine.execEraseSector s
  | .nvmDirectDone failed => Sys2Proof.Machine.execNvmDirectDone failed s
  | .coreReset hi v => Sys2Proof.Machine.execCoreReset hi v s
  | .registerWrite m block off data => Sys2Proof.Machine.execRegisterWrite m block off data s
  | .powerEvaluation watts => Sys2Proof.Machine.execPowerEvaluation watts s
  | .fastLimit => Sys2Proof.Machine.execFastLimit s
  | .thermalEvaluation die0 die1 exch stackTemps => Sys2Proof.Machine.execThermalEvaluation die0 die1 exch stackTemps s
  | .frequencyStep => Sys2Proof.Machine.execFrequencyStep s
  | .thermalTrip junction stack => Sys2Proof.Machine.execThermalTrip junction stack s
  | .inputExcursion millivolts microseconds => Sys2Proof.Machine.execInputExcursion millivolts microseconds s
  | .brownOut => Sys2Proof.Machine.execBrownOut s
  | .powerLoss milliseconds => Sys2Proof.Machine.execPowerLoss milliseconds s
  | .modResetAssert microseconds => Sys2Proof.Machine.execModResetAssert microseconds s
  | .smbBootState => Sys2Proof.Machine.execSmbBootState s
  | .smbInputPower => Sys2Proof.Machine.execSmbInputPower s
  | .smbTjMax => Sys2Proof.Machine.execSmbTjMax s
  | .smbHbmTMax => Sys2Proof.Machine.execSmbHbmTMax s
  | .smbFreqAlert => Sys2Proof.Machine.execSmbFreqAlert s
  | .smbLimitCutRead => Sys2Proof.Machine.execSmbLimitCutRead s
  | .smbLimitCutWrite v pecOk => Sys2Proof.Machine.execSmbLimitCutWrite v pecOk s
  | .smbSerial => Sys2Proof.Machine.execSmbSerial s
  | .smbSelectRegister v pecOk => Sys2Proof.Machine.execSmbSelectRegister v pecOk s
  | .smbReadRegister => Sys2Proof.Machine.execSmbReadRegister s
  | .smbAlertResponse => Sys2Proof.Machine.execSmbAlertResponse s
  | .bypass => Sys2Proof.Machine.execBypass s
  | .idcode => Sys2Proof.Machine.execIdcode s
  | .samplePreload => Sys2Proof.Machine.execSamplePreload s
  | .extest => Sys2Proof.Machine.execExtest s
  | .extestPulse => Sys2Proof.Machine.execExtestPulse s
  | .extestTrain => Sys2Proof.Machine.execExtestTrain s
  | .highz => Sys2Proof.Machine.execHighz s
  | .clamp => Sys2Proof.Machine.execClamp s
  | .testLogicReset => Sys2Proof.Machine.execTestLogicReset s

end Sys2Proof.Machine
end

