-- ==== Sys2Proof/Machine/Tick.lean ====
section
/-! DEFINITION. One tick of the timebase: the counter, the cores' cycles, what the blocks do at every cycle, and interrupt levels (assumption log 3). -/

namespace Sys2Proof.Machine

/-- The counter advances; a correction runs it faster or slower by one unit in a thousand (13_fabric_links.md R486). -/
def tickTime (s : State) : State :=
  let x := s.sync
  if x.correction = 0 then { s with time := s.time + 1 }
  else if x.slewPhase + 1 < 1000 then { s with time := s.time + 1, sync := { x with slewPhase := x.slewPhase + 1 } }
  else if 0 < x.correction then { s with time := s.time + 2, sync := { x with slewPhase := 0, correction := x.correction - 1 } }
  else { s with sync := { x with slewPhase := 0, correction := x.correction + 1 } }

/-- Exchange cycles in which requests of each class waited, and in which a controller's buffer was full (12_memory_system.md R453, R454). -/
def tickCounters (s : State) (cycles : Nat) : State :=
  let s := (List.range 3).foldl (fun s c =>
    if (s.poolQueue ++ s.poolOver).any (fun r => r.cls == c) then countN s POOL (0x060 + 8 * c) 32 cycles else s) s
  if s.wcb.length < 64 then s
  else (List.range 12).foldl (fun s k =>
    if (s.wcb.filter (fun e => e.channel / 32 == k)).length = 64 then countN s (MEMC k) 0x048 32 cycles else s) s

/-- One core cycle of every core: running cores fetch and issue, halted ones drain (06_core_programs.md R229, R255). -/
def tickCores (s : State) : State :=
  let s := { s with cycles := s.cycles + 1 }
  ((List.range 128).filter (fun n => (getCore s n).run != .idle)).foldl (fun s n => anyCycle s n) s

/-- n core cycles. -/
def runCores : Nat → State → State
  | 0, s => s
  | n + 1, s => runCores n (tickCores s)

/-- The time that has passed since an earlier time does not count for barriers of whose group a core is halted by a break (07_program_debug.md R267). -/
def tickBarriers (since : Nat) (s : State) : State :=
  { s with barriers := s.barriers.map (fun b =>
      if b.group.any (fun n => breakHalted (getCore s n)) then { b with pausedFor := b.pausedFor + (s.time - since) } else b) }

/-- The Keeper copies a new heartbeat within 1 ms: a free value says whether in this tick (14_startup_host.md R518). -/
def tickHeartbeat (s : State) : State :=
  let beat := getReg s HOSTIF 0x010
  if keeperRuns s && isReady s && getReg s KEEPER 0x018 != beat then
    let (v, s) := fresh s
    if v % 2 = 1 ∨ s.host.heartbeatAt + 1000000 ≤ s.time + 1 then setReg s KEEPER 0x018 beat else s
  else s

/-- What the exchange die's units do as soon as they may. -/
def settleUnits (s : State) : State :=
  let s := settleAll (answerHeld (drainPosted (serveWaiting (meetStateErrors s))))
  let s := (List.range 16).foldl (fun s c => settleHead s c) s
  let s := issueHeld (takePosts (deliverLooped (settleColl s)))
  unknownCommand (sendResumes (sweepMessages s))

/-- Core cycles, in tenths, of one timebase unit at the applied step (17_module_physical.md R592). -/
def coreTenths (s : State) : Nat := 36 - 2 * min 6 s.power.applied

/-- One timebase unit of a module that is powered and not held in reset. -/
def tick (s : State) : State :=
  if running s then
    let since := s.time
    let s := tickTime s
    let e := s.exchPhase + 24
    let c := s.tickPhase + coreTenths s
    let s := tickCounters { s with exchPhase := e % 10, tickPhase := c % 10 } (e / 10)
    raiseInterrupts (tickHeartbeat (tickBarriers since (settleUnits (runCores (c / 10) s))))
  else s

end Sys2Proof.Machine
end

