-- ==== Sys2Proof/Safety.lean ====
section
/-! DEFINITION. What a safe state is, and the conditions on a state in terms of which the statements are made. -/

namespace Sys2Proof.Machine

/-- The memories and register tables of the module are in canonical form. -/
def Memory.wf (s : State) : Bool := twf 0 s.mem && twf 0 s.guard && twf 0xFF s.nvm && twf 0 s.regs

/-- A core that may issue and has nothing on its way: no write to come, no pass, no move, no queued scattered write, no break asked of it, no damage in its internal files; it
runs a CSF-2 launch. -/
def Still (c : Core) : Prop :=
  mayIssue c = true ∧ quiescent c = true ∧ c.mover0.moves = [] ∧ c.mover1.moves = [] ∧ c.breakRequest = none ∧ isCsf1 c = false ∧ c.fileErrors = []

/-- Core n is still, its break settings are off, and it does not audit this bundle (07_program_debug.md R260, R275). -/
def StillAt (s : State) (n : Fin 128) (b : Bundle) : Prop :=
  s.cores.length = 128 ∧ Still (getCore s n.val) ∧ getReg s (CORE n.val) 0x0D0 = 0 ∧ auditedBundle s n.val b = false

/-- A bundle whose only operation is in its sequencer slot. -/
def seqBundle (tag : BitVec 16) (op : BitVec 6) (d a b : BitVec 5) (imm : BitVec 32) : Bundle :=
  ⟨tag, 0, 0, ⟨op, d, a, b, 0, imm⟩, ⟨0, 0, 0, 0, 0, 0⟩, ⟨0, 0, 0, 0⟩, ⟨0, 0, 0, 0, 0⟩, ⟨0, 0, 0, 0, 0⟩, ⟨0, 0, 0, 0, 0⟩⟩

/-- The value of a scalar register, S0 reading zero (06_core_programs.md R211). -/
def scalar (s : State) (n : Fin 128) (i : BitVec 5) : Word64 := if i = 0 then 0 else tget 0 (getCore s n.val).sregs i.toNat

/-- Core n has issued a bundle that is no loop: the next bundle in order or by the loops, one bundle and one core cycle more (R207, R234), what is on its way,
and no use of a shared port's bank in the cycle. -/
def issued (s : State) (n : Fin 128) (es : List (Nat × CoreEvent)) : State :=
  let c := getCore s n.val
  setCore s n.val { c with pc := (afterBundle c.loops c.pc).1, loops := (afterBundle c.loops c.pc).2, bundles := c.bundles + 1, cycle := c.cycle + 1,
                           breakExempt := false, events := es, ports := [], portsAt := s.cycles }

/-- Core n has issued, and scalar register d takes a value in the next core cycle (06_core_programs.md R213). -/
def writes (s : State) (n : Fin 128) (d : BitVec 5) (v : Word64) : State := issued s n [((getCore s n.val).cycle + 1, .writeSreg d.toNat v)]

/-- Every core but n is as before. -/
def othersKept (s t : State) (n : Nat) : Prop := ∀ m, m ≠ n → getCore t m = getCore s m

/-- All local memory, its guard codes and the NVM are as before. -/
def memoryKept (s t : State) : Prop := t.mem = s.mem ∧ t.guard = s.guard ∧ t.nvm = s.nvm

/-- The stored register contents, block states, lanes and units of the exchange die are as before. -/
def unitsKept (s t : State) : Prop :=
  t.regs = s.regs ∧ t.blocks = s.blocks ∧ t.steward = s.steward ∧ t.dma = s.dma ∧ t.chains = s.chains ∧ t.lanes = s.lanes ∧ t.units = s.units ∧
    t.cacheLines = s.cacheLines ∧ t.wcb = s.wcb ∧ t.host = s.host ∧ t.boot = s.boot ∧ t.keeper = s.keeper ∧ t.power = s.power

/-- Neither a check, an audit, a bank conflict nor a poisoned operand halts core n in the cycle in which it is given a bundle, and it takes no break there. -/
def issues (s : State) (n : Fin 128) (b : Bundle) : Prop :=
  (bundleChecks (clearPorts s n.val) n.val (getCore s n.val).pc b).1 = none ∧ (cycleReads n.val (issueFrom (clearPorts s n.val) n.val (.given b))).1 = []

/-- A bundle whose only operation is in its matrix slot. -/
def matBundle (tag : BitVec 16) (x : MatSlot) : Bundle :=
  ⟨tag, 0, 0, ⟨0, 0, 0, 0, 0, 0⟩, x, ⟨0, 0, 0, 0⟩, ⟨0, 0, 0, 0, 0⟩, ⟨0, 0, 0, 0, 0⟩, ⟨0, 0, 0, 0, 0⟩⟩

/-- A bundle whose only operation is in its vector slot. -/
def vecBundle (tag : BitVec 16) (x : VecSlot) : Bundle :=
  ⟨tag, 0, 0, ⟨0, 0, 0, 0, 0, 0⟩, ⟨0, 0, 0, 0, 0, 0⟩, x, ⟨0, 0, 0, 0, 0⟩, ⟨0, 0, 0, 0, 0⟩, ⟨0, 0, 0, 0, 0⟩⟩

/-- A bundle whose only operation is in the slot of data mover m. -/
def dmBundle (tag : BitVec 16) (m : Fin 2) (x : DmSlot) : Bundle :=
  ⟨tag, 0, 0, ⟨0, 0, 0, 0, 0, 0⟩, ⟨0, 0, 0, 0, 0, 0⟩, ⟨0, 0, 0, 0⟩, if m = 0 then x else ⟨0, 0, 0, 0, 0⟩, if m = 0 then ⟨0, 0, 0, 0, 0⟩ else x, ⟨0, 0, 0, 0, 0⟩⟩

/-- A bundle whose only operation is in its accumulator slot. -/
def accBundle (tag : BitVec 16) (x : AccSlot) : Bundle :=
  ⟨tag, 0, 0, ⟨0, 0, 0, 0, 0, 0⟩, ⟨0, 0, 0, 0, 0, 0⟩, ⟨0, 0, 0, 0⟩, ⟨0, 0, 0, 0, 0⟩, ⟨0, 0, 0, 0, 0⟩, x⟩

/-- The frames in which a message comes are accepted (13_fabric_links.md R469). -/
def accepted (s : State) (via : Via) : Prop := (acceptFrames s via).1 = true

/-- The state in which a message of a flow, whose frames are accepted, arrives from a rank. -/
def arrivalOf (s : State) (via : Via) (kind flow src : Nat) : State :=
  let v := (acceptFrames s via).2
  noteArrival v kind flow src (arrivalNumber v via kind flow src)

/-- A range of local addresses lies inside one tile store. -/
def inTile (a n : Nat) : Prop := ∃ k : Fin 128, tileBase k.val ≤ a ∧ a + n ≤ tileBase k.val + 0x400000

/-- Between two states a frame leaves on a lane with its numbers and its link word or, where its credit is taken, waits there (13_fabric_links.md R464, R470). -/
def leaves (u t : State) (l : Nat) (f : Frame) : Prop :=
  let x := getLane u l
  let r := { f.header with seq := BitVec.ofNat 12 x.sendSeq, ack := BitVec.ofNat 12 (x.recvSeq + 4095) }
  if mayLeave x f = true then t.out = u.out ++ [.frame l (linkWord r) r f.ext f.data] else t.out = u.out ∧ (getLane t l).waiting = x.waiting ++ [f]

/-- No code of local memory is damaged or poisoned, and no codeword is damaged on its way. -/
def clean (s : State) : Prop := s.guard = [] ∧ s.hopErrors = []

end Sys2Proof.Machine
end

