-- ==== Sys2Proof/Certificates/Slice0/Obligations.lean ====
section
/-! DEFINITION. The statements for the provers. -/

open Sys2Proof Sys2Proof.Machine

/-- One step with a command at the front of the queue is the command's meaning on the state with the queue's rest (assumption log 3). -/
def Obligations.StepRunsFront : Prop :=
  ∀ (s : State) (c : Instr), step { s with pending := c :: s.pending } = exec c s

/-! ### Core programs: the sequencer slot -/

/-- ADD, SUB, AND, OR, XOR, SHL, SHR, SAR, MUL, MINU, MAXU, ADDI, SLTU, LI and LUI complete on a still core: what each writes to register D in the next core cycle, and that
nothing else of the module changes. Sums, differences and products are modulo 2^64, shifts take the low six bits of B, minimum, maximum and comparison are unsigned, and
immediates are sign-extended but for LUI, which places its own above the low half of A (06_core_programs.md R211, R213). -/
def Obligations.SeqResults : Prop :=
  ∀ (s : State) (n : Fin 128) (tag : BitVec 16) (d a b : BitVec 5) (imm : BitVec 32),
    let x := scalar s n a
    let y := scalar s n b
    let sh := y.toNat % 64
    let B := fun (op : BitVec 6) => seqBundle tag op d a b 0
    let I := fun (op : BitVec 6) (a : BitVec 5) => seqBundle tag op d a 0 imm
    (StillAt s n (B 0x0A) → exec (.add n (B 0x0A)) s = .next (writes s n d (x + y))) ∧
    (StillAt s n (B 0x0B) → exec (.sub n (B 0x0B)) s = .next (writes s n d (x - y))) ∧
    (StillAt s n (B 0x0C) → exec (.and n (B 0x0C)) s = .next (writes s n d (x &&& y))) ∧
    (StillAt s n (B 0x0D) → exec (.or n (B 0x0D)) s = .next (writes s n d (x ||| y))) ∧
    (StillAt s n (B 0x0E) → exec (.xor n (B 0x0E)) s = .next (writes s n d (x ^^^ y))) ∧
    (StillAt s n (B 0x0F) → exec (.shl n (B 0x0F)) s = .next (writes s n d (x <<< sh))) ∧
    (StillAt s n (B 0x10) → exec (.shr n (B 0x10)) s = .next (writes s n d (x >>> sh))) ∧
    (StillAt s n (B 0x11) → exec (.sar n (B 0x11)) s = .next (writes s n d (x.sshiftRight sh))) ∧
    (StillAt s n (B 0x12) → exec (.mul n (B 0x12)) s = .next (writes s n d (x * y))) ∧
    (StillAt s n (B 0x13) → exec (.minu n (B 0x13)) s = .next (writes s n d (if x ≤ y then x else y))) ∧
    (StillAt s n (B 0x14) → exec (.maxu n (B 0x14)) s = .next (writes s n d (if x ≤ y then y else x))) ∧
    (StillAt s n (I 0x15 a) → exec (.addi n (I 0x15 a)) s = .next (writes s n d (x + imm.signExtend 64))) ∧
    (StillAt s n (B 0x16) → exec (.sltu n (B 0x16)) s = .next (writes s n d (if x < y then 1 else 0))) ∧
    (StillAt s n (I 0x08 0) → exec (.li n (I 0x08 0)) s = .next (writes s n d (imm.signExtend 64))) ∧
    (StillAt s n (I 0x09 a) → exec (.lui n (I 0x09 a)) s = .next (writes s n d (imm ++ x.extractLsb' 0 32)))

/-- NOP, END, LIDX and TBR complete on a still core. NOP only issues; END marks the launch as ended; LIDX reads the iteration index of loop level IMM, outermost first, zero where
none is active; TBR writes a reading of the timebase that is at most 4 units old and never below the core's last one (R41, R213, R234). -/
def Obligations.SeqPlain : Prop :=
  ∀ (s : State) (n : Fin 128) (tag : BitVec 16) (d : BitVec 5) (l : BitVec 2),
    let c := getCore s n.val
    let nopB := seqBundle tag 0x00 0 0 0 0
    let endB := seqBundle tag 0x02 0 0 0 0
    let lidxB := seqBundle tag 0x07 d 0 0 (l.zeroExtend 32)
    let tbrB := seqBundle tag 0x1C d 0 0 0
    let last := tget 0 s.readings (CORE n.val)
    (StillAt s n nopB → exec (.nop n nopB) s = .next (issued s n [])) ∧
    (StillAt s n endB → exec (.endLaunch n endB) s = .next (modCore (issued s n []) n.val (fun c => { c with ended := true }))) ∧
    (StillAt s n lidxB → exec (.lidx n lidxB) s = .next (writes s n d (BitVec.ofNat 64 ((c.loops.reverse[l.toNat]?).elim 0 (·.index))))) ∧
    (StillAt s n tbrB → ∃ v, last ≤ v ∧ s.time ≤ v + 4 ∧ v ≤ max last s.time ∧
      exec (.tbr n tbrB) s =
        .next (writes { s with readings := tset 0 s.readings (CORE n.val) v, freeCtr := s.freeCtr + 1 } n d (BitVec.ofNat 64 v)))

/-- LOOP, HALT and BARRIER complete on a still core. A LOOP whose body fits enters it with K passes to run, index 0, or with K = 0 passes over the body; nothing else of the module
changes (06_core_programs.md R234). HALT issues and halts the core with reason 0x62 and its IMM, at its own bundle; memory, registers and every other core are unchanged (R213,
R255, R257). A BARRIER reached first by core n: the core waits at it, and the barrier records the core, the group of its launch, the mask and the time of arrival (R241, R243). -/
def Obligations.SeqControl : Prop :=
  (∀ (s : State) (n : Fin 128) (tag : BitVec 16) (a : BitVec 5) (body : BitVec 11),
    let c := getCore s n.val
    let B := seqBundle tag 0x01 0 a 0 (body.zeroExtend 32)
    let k := (scalar s n a).toNat
    StillAt s n B → body ≠ 0 → c.loops.length < 4 → (∀ f, c.loops.head? = some f → c.pc + body.toNat ≤ f.last) → k < 2 ^ 32 →
    exec (.loop n B) s = .next (setCore s n.val
      { c with pc := if k = 0 then (afterBundle c.loops (c.pc + body.toNat)).1 else c.pc + 1,
               loops := if k = 0 then (afterBundle c.loops (c.pc + body.toNat)).2 else ⟨c.pc + 1, c.pc + body.toNat, k, 0⟩ :: c.loops,
               bundles := c.bundles + 1, cycle := c.cycle + 1, breakExempt := false, ports := [], portsAt := s.cycles })) ∧
  (∀ (s : State) (n : Fin 128) (tag : BitVec 16) (imm : BitVec 16),
    let c := getCore s n.val
    let B := seqBundle tag 0x03 0 0 0 (imm.zeroExtend 32)
    StillAt s n B →
    ∃ t, exec (.halt n B) s = .next t ∧ (getCore t n.val).run = .halted ∧ (getCore t n.val).halt = ⟨0x62, c.pc, 0, imm.zeroExtend 64⟩ ∧
      (getCore t n.val).bundles = c.bundles + 1 ∧ (getCore t n.val).recordPending = true ∧ (getCore t n.val).haltMultiple = false ∧
      (getCore t n.val).sregs = c.sregs ∧ (getCore t n.val).wf = c.wf ∧ othersKept s t n.val ∧ memoryKept s t ∧ unitsKept s t) ∧
  (∀ (s : State) (n : Fin 128) (tag : BitVec 16) (mask : BitVec 4) (l : CoreLaunch),
    let c := getCore s n.val
    let B := seqBundle tag 0x04 0 0 0 (mask.zeroExtend 32)
    StillAt s n B → c.launch = some l → (∀ b ∈ s.barriers, ¬(b.launch = l.id ∧ b.number = c.barrierCount)) →
    ∃ t v, exec (.barrier n B) s = .next t ∧ (getCore t n.val).run = .atBarrier ∧ (getCore t n.val).barrierCount = c.barrierCount + 1 ∧
      (getCore t n.val).barrierPc = c.pc ∧ (getCore t n.val).bundles = c.bundles + 1 ∧ (getCore t n.val).sregs = c.sregs ∧
      v ≤ max (tget 0 s.readings FORAGE) s.time ∧
      t.barriers = s.barriers ++ [{ launch := l.id, number := c.barrierCount, group := bitList (fld l.record.toNat 511 384) 128, arrived := [n.val],
                                    mask := mask, firstArrival := v }] ∧
      othersKept s t n.val ∧ memoryKept s t ∧ unitsKept s t)

/-- FORAGE and FPRIME complete on a still core. FORAGE with a full mailbox takes the answer: it is written to four registers and WF in the next cycle and the mailbox becomes
empty; with an empty mailbox it writes NOT_READY and sends a request, and with a pending one it writes NOT_READY alone; FPRIME with an empty mailbox sends a request and has no
effect otherwise (R238). -/
def Obligations.ForageTakes : Prop :=
  ∀ (s : State) (n : Fin 128) (tag : BitVec 16) (d : BitVec 5) (l : BitVec 2) (ans : BitVec 256),
    let c := getCore s n.val
    let B := seqBundle tag 0x05 d 0 0 (l.zeroExtend 32)
    let P := seqBundle tag 0x06 0 0 0 (l.zeroExtend 32)
    let asked := fun (t : State) => mailbox (getCore t n.val) l.toNat = .pending ∧
      t.forage = s.forage.set l.toNat { getList s l.toNat with requests := (getList s l.toNat).requests ++ [n.val] }
    let rest := fun (t : State) => (getCore t n.val).sregs = c.sregs ∧ (getCore t n.val).wf = c.wf ∧ othersKept s t n.val ∧ memoryKept s t
    twf .empty c.mailboxes = true → d.toNat % 4 = 0 → d ≠ 0 →
    (StillAt s n B → mailbox c l.toNat = .full ans →
      ∃ t, exec (.forage n B) s = .next t ∧ (getCore t n.val).events = [(c.cycle + 1, .writeForage d.toNat ans)] ∧
        mailbox (getCore t n.val) l.toNat = .empty ∧ t.forage = s.forage ∧ rest t) ∧
    (StillAt s n B → mailbox c l.toNat = .empty →
      ∃ t, exec (.forage n B) s = .next t ∧ (getCore t n.val).events = [(c.cycle + 1, .writeForage d.toNat 0)] ∧ asked t ∧ rest t) ∧
    (StillAt s n B → mailbox c l.toNat = .pending →
      ∃ t, exec (.forage n B) s = .next t ∧ (getCore t n.val).events = [(c.cycle + 1, .writeForage d.toNat 0)] ∧ t.forage = s.forage ∧
        mailbox (getCore t n.val) l.toNat = .pending ∧ rest t) ∧
    (StillAt s n P → mailbox c l.toNat = .empty →
      ∃ t, exec (.fprime n P) s = .next t ∧ (getCore t n.val).events = [] ∧ asked t ∧ rest t ∧ unitsKept s t) ∧
    (StillAt s n P → mailbox c l.toNat ≠ .empty → exec (.fprime n P) s = .next (issued s n []))

/-- SLD, SST, WDESC and WRCP complete on a still core, with an aligned address inside the tile store: the access is due in the next core cycle, at A (+ IMM); nothing else changes
(R213, R214). -/
def Obligations.SeqMemoryIssues : Prop :=
  ∀ (s : State) (n : Fin 128) (tag : BitVec 16) (d a b : BitVec 5) (imm : BitVec 32) (e : BitVec 5) (r : BitVec 4),
    let c := getCore s n.val
    let x := scalar s n a
    let off := (x + imm.signExtend 64).toNat
    let ldB := seqBundle tag 0x18 d a 0 imm
    let stB := seqBundle tag 0x19 0 a b imm
    let wdB := seqBundle tag 0x1A 0 a 0 (e.zeroExtend 32)
    let wrB := seqBundle tag 0x1B 0 a 0 (r.zeroExtend 32)
    (StillAt s n ldB → off % 8 = 0 → off + 8 ≤ 0x400000 → exec (.sld n ldB) s = .next (issued s n [(c.cycle + 1, .readSld d.toNat off c.pc false)])) ∧
    (StillAt s n stB → off % 8 = 0 → off + 8 ≤ 0x400000 →
      exec (.sst n stB) s = .next (issued s n [(c.cycle + 1, .writeSst off (scalar s n b) c.pc false)])) ∧
    (StillAt s n wdB → x.toNat % 32 = 0 → x.toNat + 32 ≤ 0x400000 →
      exec (.wdesc n wdB) s = .next (issued s n [(c.cycle + 1, .readFile (e.toNat / 16) (e.toNat % 16) x.toNat c.pc false)])) ∧
    (StillAt s n wrB → x.toNat % 256 = 0 → x.toNat + 256 ≤ 0x400000 →
      exec (.wrcp n wrB) s = .next (issued s n [(c.cycle + 1, .readFile 2 r.toNat x.toNat c.pc false)]))

/-- A scalar register write that is due lands at the end of its cycle: register i takes the value and every other register keeps its own; a write of S0 is
discarded, so that S0 reads zero (R211, R213). -/
def Obligations.RegisterWriteLands : Prop :=
  ∀ (s : State) (n : Fin 128) (i j : BitVec 5) (v : Word64),
    let c := getCore s n.val
    s.cores.length = 128 → Still { c with events := [] } → c.events = [(c.cycle, .writeSreg i.toNat v)] → twf 0 c.sregs = true →
    scalar (coreCycle s n.val .none) n j = if j = 0 then 0 else if j = i then v else scalar s n j

/-- An SST's write lands: the eight bytes at its offset hold the value, low byte first, and every other byte of local memory is as before, where the granule's code
is clean (R12, R213, R539). -/
def Obligations.SstStores : Prop :=
  ∀ (s : State) (n : Fin 128) (off : Nat) (v : Word64) (pc : Nat) (ws : List ScatterWrite),
    off % 8 = 0 → off + 8 ≤ 0x400000 → twf 0 s.mem = true → twf 0 s.guard = true → tget 0 s.guard ((tileBase n.val + off) / 32) = 0 →
    let t := (doWrite n.val (.writeSst off v pc false) (ws, s)).2
    memBytes t (tileBase n.val + off) 8 = bytesOf v.toNat 8 ∧
      ∀ a, ¬(tileBase n.val + off ≤ a ∧ a < tileBase n.val + off + 8) → tget 0 t.mem a = tget 0 s.mem a

/-! ### Core programs: the matrix, vector, data mover and accumulator slots -/

/-- ZERO and COPY complete on a still core: inside the accumulator store they take one tile every two cycles, half by half, and hold the slot for 2K cycles, COPY for one more. A
half of a tile that ZERO clears then reads zero, and every other byte of local memory is as before (06_core_programs.md R220; 03_matrix_engine.md R113). -/
def Obligations.TileOperations : Prop :=
  (∀ (s : State) (n : Fin 128) (tag : BitVec 16) (dst src k : BitVec 6),
    let c := getCore s n.val
    let Z := accBundle tag ⟨1, dst, 0, k, 0⟩
    let C := accBundle tag ⟨2, dst, src, k, 0⟩
    let t := c.cycle
    c.accFree ≤ t → dst.toNat + k.toNat ≤ 63 →
    (StillAt s n Z → exec (.zero n Z) s = .next (modCore (issued s n ((List.range (k.toNat + 1)).flatMap (fun j =>
        [(t + 1 + 2 * j, .zeroHalf (dst.toNat + j) 0 c.pc t false), (t + 2 + 2 * j, .zeroHalf (dst.toNat + j) 1 c.pc t false)])))
      n.val (fun c => { c with accFree := t + 2 * (k.toNat + 1) }))) ∧
    (src.toNat + k.toNat ≤ 63 → StillAt s n C → exec (.copy n C) s = .next (modCore (issued s n ((List.range (k.toNat + 1)).flatMap (fun j =>
        [(t + 1 + 2 * j, .copyHalf (src.toNat + j) (dst.toNat + j) 0 c.pc t false), (t + 2 + 2 * j, .copyHalf (src.toNat + j) (dst.toNat + j) 1 c.pc t false)])))
      n.val (fun c => { c with accFree := t + 2 * (k.toNat + 1) + 1 })))) ∧
  (∀ (s : State) (n : Fin 128) (tile : Fin 64) (half : Fin 2) (pc t : Nat) (ws : List ScatterWrite),
    twf 0 s.mem = true →
    let u := (doWrite n.val (.zeroHalf tile.val half.val pc t false) (ws, s)).2
    let base := accBase n.val + 8192 * tile.val + 4096 * half.val
    ∀ a, tget 0 u.mem a = if base ≤ a ∧ a < base + 4096 then 0 else tget 0 s.mem a)

/-- MOVE and GATHER complete on a still core that passes the checks of their slot: the move starts, with its descriptor, its two addresses and its line count, and the mover is free
for the next one once all its lines have been requested (R223, R225, R226). -/
def Obligations.MovesIssue : Prop :=
  ∀ (s : State) (n : Fin 128) (m : Fin 2) (tag : BitVec 16) (e : BitVec 4) (xr cr : BitVec 5),
    let c := getCore s n.val
    let B := fun (op : BitVec 3) => dmBundle tag m ⟨op, e, xr, cr, 0⟩
    let v := (tget 0 c.moveFile e.toNat).toNat
    let d := moveDesc v
    let x := getMover c m.val
    let started := fun (gather : Bool) => modCore (issued s n []) n.val (fun c' => setMover { c' with nextId := c.nextId + 1 } m.val
      { x with nextIssue := c.cycle + 1 + d.lines * (d.pace + 1),
               moves := [{ id := c.nextId, pc := c.pc, gather := gather, issued := c.cycle, desc := v, ext := (scalar s n xr).toNat,
                           coreOff := (scalar s n cr).toNat, lines := d.lines }] })
    (StillAt s n (B 1) → moveChecks c n.val m.val false ⟨1, e, xr, cr, 0⟩ (scalar s n cr).toNat (dmBits ⟨1, e, xr, cr, 0⟩) = none →
      exec (.move n m (B 1)) s = .next (started false)) ∧
    (StillAt s n (B 2) → moveChecks c n.val m.val false ⟨2, e, xr, cr, 0⟩ (scalar s n cr).toNat (dmBits ⟨2, e, xr, cr, 0⟩) = none →
      exec (.gather n m (B 2)) s = .next (started true))

/-- PRODUCT_OPERATION, STATISTICS_PRODUCT and ALTERNATING_PAIR complete on a still core that nothing halts: the matrix slot is busy for the operation's occupancy, for that of both
halves of a pair, the launch's product operations count one more, and a pair's second half starts in its own issue cycle; the core moves to the next bundle, its scalar registers,
other cores and clean memory are unchanged (R129, R131, R138, R140, R141; 02_number_formats.md R105). -/
def Obligations.ProductsIssue : Prop :=
  ∀ (s : State) (n : Fin 128) (tag : BitVec 16) (x : MatSlot),
    let c := getCore s n.val
    let B := matBundle tag x
    let i := (effective c x (sreg c)).1
    let occ := fun (p : Product) => p.occupancy (numericOf p.aNum).format
    let after := fun (t : State) => (getCore t n.val).pc = (afterBundle c.loops c.pc).1 ∧ (getCore t n.val).bundles = c.bundles + 1 ∧
      (getCore t n.val).cycle = c.cycle + 1 ∧ (getCore t n.val).sregs = c.sregs ∧ (getCore t n.val).productOps = c.productOps + 1 ∧
      (getCore t n.val).vecFree = c.vecFree ∧ othersKept s t n.val ∧ (s.guard = [] → memoryKept s t)
    x.mop = 1 → x.rsvd = 0 → StillAt s n B → issues s n B →
    (slotOp s n B = 0 → ∃ t, exec (.productOperation n B) s = .next t ∧ after t ∧ (getCore t n.val).matFree = c.cycle + occ i.first) ∧
    (slotOp s n B = 1 → ∃ t, exec (.statisticsProduct n B) s = .next t ∧ after t ∧ (getCore t n.val).matFree = c.cycle + occ i.first) ∧
    (∀ w, slotOp s n B = 2 → i.second = some w → ∃ t, exec (.alternatingPair n B) s = .next t ∧ after t ∧
      (getCore t n.val).matFree = c.cycle + occ i.first + occ w ∧ (c.cycle + occ i.first, .startHalf c.nextId w c.pc false) ∈ (getCore t n.val).events)

/-- PASS completes on a still core that nothing halts: the pass holds its recipe, its base and its issue cycle, the vector chain is busy for one cycle a vector, and the core moves to
the next bundle; its scalar registers, other cores and clean memory are unchanged (05_vector_chain.md R176, R177). -/
def Obligations.PassIssues : Prop :=
  ∀ (s : State) (n : Fin 128) (tag : BitVec 16) (r : BitVec 4) (sb : BitVec 5),
    let c := getCore s n.val
    let B := vecBundle tag ⟨1, r, sb, 0⟩
    let p := recipeOf (tget 0 c.recipeFile r.toNat).toNat
    let vectors := p.rows * (p.vpr + 1)
    StillAt s n B → issues s n B →
    ∃ t, exec (.pass n B) s = .next t ∧ (getCore t n.val).vecFree = c.cycle + vectors ∧
      (∃ x, (getCore t n.val).passes = [x] ∧ x.recipe = p.bits ∧ x.base = (scalar s n sb).toNat ∧ x.issued = c.cycle ∧ x.vectors = vectors ∧ x.pc = c.pc) ∧
      (getCore t n.val).pc = (afterBundle c.loops c.pc).1 ∧ (getCore t n.val).bundles = c.bundles + 1 ∧ (getCore t n.val).cycle = c.cycle + 1 ∧
      (getCore t n.val).sregs = c.sregs ∧ (getCore t n.val).matFree = c.matFree ∧ othersKept s t n.val ∧ (s.guard = [] → memoryKept s t)

/-- SCATTERED_WRITE_APPLY completes for a core that issues nothing more, a halted one that drains or one past its END: the head of the bank's conflict queue is applied and leaves the
queue. With clean codes, every lane it names takes the FP32 sum of its old value and the addend, and every other byte of local memory is as before (04_sparse_operands.md R168,
R170, R173). -/
def Obligations.ScatterApplies : Prop :=
  ∀ (s : State) (n : Fin 128) (bank : Fin 32) (line : Nat) (lane : Fin 32) (x : F32) (rest : List (Nat × ScatterWrite)),
    let c := getCore s n.val
    let a := accBase n.val + 128 * line + 4 * lane.val
    s.cores.length = 128 →
    (c.run = .halted ∨ (c.run = .running ∧ c.ended = true ∧ c.events = [] ∧ c.passes = [] ∧ c.nextLoaded = [] ∧ c.mover0.moves = [] ∧ c.mover1.moves = [] ∧
      c.mover0.lines = [] ∧ c.mover1.lines = [])) →
    line < 4096 → c.waiting = [] → c.queues = (bank.val, ⟨line, [(lane.val, x)]⟩) :: rest → (∀ q ∈ rest, q.1 = bank.val) →
    twf 0 s.mem = true → twf 0 s.guard = true → tget 0 s.guard (a / 32) = 0 →
    ∃ t, exec (.scatteredWriteApply n bank) s = .next t ∧ (getCore t n.val).queues = rest ∧
      memBytes t a 4 = bytesOf (fadd (BitVec.ofNat 32 (ofBytes (memBytes s a 4))) x).toNat 4 ∧
      (∀ b, ¬(a ≤ b ∧ b < a + 4) → tget 0 t.mem b = tget 0 s.mem b) ∧ (getCore t n.val).sregs = c.sregs ∧ othersKept s t n.val ∧ unitsKept s t

/-- MOVER_LINE_DONE completes for a line that this module serves and that nothing keeps waiting: an inbound line of a MOVE lands with the bytes of its address, an outbound one stores
the core side's bytes there, a line of an absent row of a GATHER lands as zeros, and a line whose address was refused lands poisoned, with zeros; the credit returns, and every
other byte of local memory is as before (R53, R225, R226). RANK_CACHE_FILL completes for a line that was held for the entry: with a VALID entry, a usable port and no response
outstanding from other ports, the request leaves as a READ under a fresh tag, and the mover no longer holds the line (R57, R224; 13_fabric_links.md R474, R476). -/
def Obligations.MoverLines : Prop :=
  (∀ (s : State) (n : Fin 128) (m : Fin 2) (k : Nat) (l : MoverLine) (v : Move),
    let x := getMover (getCore s n.val) m.val
    let d := moveDesc v.desc
    let a := v.coreAddr n.val l.line
    let lands := fun (at_ : Nat) (bs : List Byte) (poison : BitVec 32) => ∃ t, exec (.moverLineDone n m k) s = .next t ∧
      tget 0 t.guard (at_ / 32) = poison ∧ tget 0 t.guard (at_ / 32 + 1) = poison ∧
      (∀ b, tget 0 t.mem b = if at_ ≤ b ∧ b < at_ + 64 then bs.getD (b - at_) 0 else tget 0 s.mem b) ∧
      (getMover (getCore t n.val) m.val).credits = x.credits + 1 ∧ (getCore t n.val).sregs = (getCore s n.val).sregs ∧ othersKept s t n.val
    s.cores.length = 128 → x.lines[k]? = some l → x.moves.find? (fun v => v.id == l.move) = some v → l.held = false → l.remoteTag = none → l.discard = false →
    lineWaits s n.val m.val k v l = false → bankTaken s n.val (lineBanks v l) = false → a % 64 = 0 → twf 0 s.mem = true →
    (∀ (q : Fin 128) (off : Nat), l.addr = some (tileBase q.val + off) → off % 32 = 0 → off + 64 ≤ 0x400000 → s.guard = [] → s.hopErrors = [] → s.posted = [] →
      s.dispatches = [] → v.gather = false →
      (d.outbound = false → lands a (memBytes s (tileBase q.val + off) 64) 0) ∧
      (d.outbound = true → v.coreOff + d.coreAt l.line + 64 ≤ spaceSize d.space → lands (tileBase q.val + off) (memBytes s a 64) 0)) ∧
    (v.gather = true → v.entries[l.line / d.rowLines]? = some (0, false) → s.guard = [] → lands a (List.replicate 64 0) 0) ∧
    (l.addr = none → v.gather = false → d.outbound = false → twf 0 s.guard = true → lands a (List.replicate 64 0) poisonDev)) ∧
  (∀ (s : State) (n : Fin 128) (m : Fin 2) (r : BitVec 12) (l : MoverLine) (v : Move) (p lane : Nat),
    let x := getMover (getCore s n.val) m.val
    let mine : Master := .coreMover n m
    let heldFor := fun (l : MoverLine) => l.held && l.rank == r.toNat
    let e := (loadRank s r.toNat).1
    let u := (loadRank s r.toNat).2
    let dst := fld e.toNat 11 0
    let route := fld e.toNat 30 24
    s.cores.length = 128 → x.lines = [l] → heldFor l = true → x.moves.find? (fun v => v.id == l.move) = some v →
    (∀ (k : Fin 128) (j : Fin 2), (k, j) ≠ (n, m) → (getMover (getCore s k.val) j.val).lines.filter heldFor = []) →
    v.gather = false → (moveDesc v.desc).outbound = false → (moveDesc v.desc).kind = 2 → fld (v.extAddr l.line) 63 52 = r.toNat → r.toNat ≠ ownRank u →
    isEnabled u FABRIC = true → bit e.toNat 31 = true → choosePort u (streamOf mine) dst route = some p → portLane u p = some lane →
    portsMoved u (streamOf mine) dst = false →
    ∃ t l' q, exec (.rankCacheFill r) s = .next t ∧ (getMover (getCore t n.val) m.val).lines = [l'] ∧ l'.held = false ∧ l'.remoteTag = some (freeTag u) ∧
      t.remote = u.remote ++ [q] ∧ q.tag = freeTag u ∧ q.master = mine ∧ q.addr = v.extAddr l.line ∧ q.granules = 2 ∧ q.isWrite = false ∧ q.held = none ∧
      q.sentAt = u.time ∧ othersKept u t n.val ∧ t.mem = u.mem)

/-! ### Breaks and debugging -/

/-- BREAK_COUNT and BREAK_TAG complete on a still core whose break settings match: a bundle that matches on count, or on tag alone, does not issue; the core takes the break instead,
with the match, its own number, the bundle count and the bundle's address, and the core cycle passes (07_program_debug.md R260, R261, R263). BREAK_HALT completes for a core that
has taken a break and drained: it halts with reason 0x61 for its own tag match alone and 0x60 otherwise, HALT_MULTIPLE telling a tag match beside another cause (R256, R261, R263).
BREAK_BROADCAST completes for a broadcast that reaches a running core with its acceptance bit set: the core is asked for a break, and the broadcast is on its way no longer.
BREAK_REQUEST completes where no core waits at a barrier: every running core that accepts it is asked, and the others are as before (R264, R266, R268). -/
def Obligations.Breaks : Prop :=
  (∀ (s : State) (n : Fin 128) (b : Bundle),
    let c := getCore s n.val
    let m := breakMatch s n.val b
    let taken := setCore s n.val { c with brk := some ⟨m.2, m.1, 0, n.val, c.bundles, c.pc⟩, cycle := c.cycle + 1, ports := [], portsAt := s.cycles }
    s.cores.length = 128 → Still c → c.breakExempt = false →
    (m.1 = true → exec (.breakCount n b) s = .next taken) ∧ (m.1 = false → m.2 = true → exec (.breakTag n b) s = .next taken)) ∧
  (∀ (s : State) (n : Fin 128) (k : BreakInfo),
    let c := getCore s n.val
    let other := k.countHit = true ∨ k.source ≠ 0
    s.cores.length = 128 → (c.run = .running ∨ c.run = .atBarrier) → c.brk = some k → quiescent c = true →
    ∃ t, exec (.breakHalt n) s = .next t ∧ (getCore t n.val).run = .halted ∧ (getCore t n.val).halt.pc = k.pc ∧
      ((getCore t n.val).halt.reason = 0x61 ↔ k.tagHit = true ∧ ¬ other) ∧ ((getCore t n.val).halt.reason = 0x60 ↔ ¬(k.tagHit = true ∧ ¬ other)) ∧
      ((getCore t n.val).haltMultiple = true ↔ k.tagHit = true ∧ other) ∧ (getCore t n.val).recordPending = true ∧ (getCore t n.val).brk = none ∧
      (getCore t n.val).resumeAtBarrier = (c.run == .atBarrier) ∧ (getCore t n.val).sregs = c.sregs ∧ othersKept s t n.val ∧ memoryKept s t ∧ unitsKept s t) ∧
  (∀ (s : State), s.cores.length = 128 →
    let accepts := fun (n : Fin 128) => let c := getCore s n.val
      bit (getReg s (CORE n.val) 0x0D0) 4 = true ∧ isCsf1 c = false ∧ c.run = .running ∧ c.brk = none ∧ c.breakRequest = none
    (∀ src n : Fin 128, (src.val, n.val) ∈ s.broadcasts → accepts n →
      ∃ t, exec (.breakBroadcast src n) s = .next t ∧ t.broadcasts = s.broadcasts.erase (src.val, n.val) ∧
        getCore t n.val = { getCore s n.val with breakRequest := some (1, src.val, s.cycles) } ∧ othersKept s t n.val ∧ memoryKept s t ∧ unitsKept s t) ∧
    (∀ v : Word64, running s = true → bit v.toNat 0 = true → (∀ n : Fin 128, (getCore s n.val).run ≠ .atBarrier) →
      ∃ t, exec (.breakRequest v) s = .next t ∧ memoryKept s t ∧ unitsKept s t ∧
        ∀ n : Fin 128, (accepts n → getCore t n.val = { getCore s n.val with breakRequest := some (2, 0, s.cycles) }) ∧
          (¬ accepts n → getCore t n.val = getCore s n.val)))

/-- RESUME, ABORT and SREG_WRITE complete on a powered module. RESUME of a core that may resume continues at the bundle of the break, which is exempt from breaks, or at the barrier
where it waited; ABORT of a halted core makes it idle; each is rejected where R270 says so, with nothing but the rejection noted; a scalar register is written only while the
core is halted (R269 to R271). HALT_RECORD completes for a halted core whose lines and queues have drained: it reports itself halted once its record is written, and only the
core's own note of it and what the record's write reaches change (R173, R255). -/
def Obligations.Debugging : Prop :=
  (∀ (s : State) (n : Fin 128), s.cores.length = 128 → running s = true →
    let c := getCore s n.val
    let with_ := fun (c : Core) => (Host.Outcome.next (setCore s n.val c) : Host.Outcome State Fault Refusal)
    (mayResume c = true → c.resumeAtBarrier = false → exec (.resume n) s = with_
      { c with debugReject := false, halt := ⟨0, 0, 0, 0⟩, resumed := true, brk := none, breakRequest := none, run := .running, breakExempt := true }) ∧
    (mayResume c = true → c.resumeAtBarrier = true → exec (.resume n) s = with_
      { c with debugReject := false, halt := ⟨0, 0, 0, 0⟩, resumed := true, brk := none, breakRequest := none, run := .atBarrier, resumeAtBarrier := false }) ∧
    (mayResume c = false → exec (.resume n) s = with_ { c with debugReject := true }) ∧
    (isHalted c = true → exec (.abort n) s = with_ { c with debugReject := false, run := .idle, halt := ⟨0, 0, 0, 0⟩, resumeAtBarrier := false }) ∧
    (isHalted c = false → exec (.abort n) s = with_ { c with debugReject := true }) ∧
    (∀ (i : Fin 32) (v : Word64), isHalted c = true → i ≠ 0 → exec (.sregWrite n i v) s = with_ { c with sregs := tset 0 c.sregs i.val v }) ∧
    (∀ (i : Fin 32) (v : Word64), isHalted c = false ∨ i = 0 → exec (.sregWrite n i v) s = .next s)) ∧
  (∀ (s : State) (n : Fin 128),
    let c := getCore s n.val
    s.cores.length = 128 → c.run = .halted → c.recordPending = true → c.mover0.lines = [] → c.mover1.lines = [] → c.queues = [] → c.waiting = [] →
    ∃ t, exec (.haltRecord n) s = .next t ∧ isHalted (getCore t n.val) = true ∧ (getCore t n.val).halt = c.halt ∧
      (getCore t n.val).sregs = c.sregs ∧ (getCore t n.val).launch = c.launch ∧ othersKept s t n.val ∧ t.launches = s.launches ∧ t.forage = s.forage)

/-- LOAD and SEAL complete on a powered module. The commands of CORE.IMEM_CMD: LOAD makes a READY bank LOADING and is refused otherwise, SEAL a LOADING bank READY and is refused
otherwise; none has no effect, and the reserved command is refused. A refused command has no effect but that IMEM_REJECT is high, until a command that is not refused
(06_core_programs.md R246). The commands none and reserved have no row of their own: they are plain writes of the register. -/
def Obligations.BankCommands : Prop :=
  ∀ (s : State) (n : Fin 128) (b : Fin 2), s.cores.length = 128 → running s = true →
    let c := getCore s n.val
    let st := if b = 0 then c.bank0 else c.bank1
    let put := fun (c : Core) (x : BankState) => if b = 0 then { c with bank0 := x } else { c with bank1 := x }
    exec (.load n b) s = .next (setCore s n.val (if st = .ready then put { c with imemReject := false } .loading else { c with imemReject := true })) ∧
    exec (.seal n b) s = .next (setCore s n.val (if st = .loading then put { c with imemReject := false } .ready else { c with imemReject := true })) ∧
    ∀ (m : Master) (data : List Byte), m ≠ .host → data.length = 8 →
      let w := exec (.registerWrite m (BitVec.ofNat 10 (CORE n.val)) 0x060 data) s
      let u := dropCapture s m (CORE n.val)
      (fld (ofBytes data) 2 1 = 0 → w = .next u) ∧ (fld (ofBytes data) 2 1 = 3 → w = .next (setCore u n.val { c with imemReject := true }))


/-! ### Launches, hive barriers and forage lists -/

/-- LAUNCH_APPEND and LAUNCH_DELIVERY complete on a powered module. A master that owns a queue with room appends the record that its staging words and the written one hold, behind
the earlier records and, among those of the same cycle, behind those of its own and lower-numbered queues; the words become zero. A write of another master, and a record for which
the queue has no room, is not taken, and the queue's drop counter counts it. With READY, the oldest record is copied for every named core that has room; once each has its copy it
leaves its queue, and one that names no core ends at once (01_architecture.md R47, R613; 14_startup_host.md R512 to R514). -/
def Obligations.LaunchQueues : Prop :=
  (∀ (s : State) (m : Master) (q : Fin 8) (v : Word64), running s = true →
    let words := tgetList 0 (tset 0 s.host.staging (8 * q.val + 7) v) (8 * q.val) 8
    let r := BitVec.ofNat 512 (ofBytes (words.flatMap (fun x => bytesOf x.toNat 8)))
    let appended := fun (qs : List (Nat × BitVec 512)) => ∃ t, exec (.launchAppend m q v) s = .next t ∧ t.host.queues = qs ∧
      tgetList 0 t.host.staging (8 * q.val) 8 = List.replicate 8 0 ∧ t.cores = s.cores ∧ memoryKept s t ∧ t.regs = s.regs
    (ownsQueue m q.val = true → lqFree s q.val ≠ 0 → s.host.arrivedAt ≠ s.cycles → appended (s.host.queues ++ [(q.val, r)])) ∧
    (∀ older same, ownsQueue m q.val = true → lqFree s q.val ≠ 0 → s.host.arrivedAt = s.cycles → s.host.queues = older ++ same → s.host.arrivedNow = same.length →
      appended (older ++ same.filter (fun x => decide (x.1 ≤ q.val)) ++ [(q.val, r)] ++ same.filter (fun x => decide (q.val < x.1)))) ∧
    (ownsQueue m q.val = false ∨ lqFree s q.val = 0 → twf 0 s.regs = true →
      ∃ t, exec (.launchAppend m q v) s = .next t ∧ t.host = s.host ∧ t.cores = s.cores ∧
        getReg t HOSTIF (0x108 + 16 * q.val) = satAdd 32 (getReg s HOSTIF (0x108 + 16 * q.val)) 1)) ∧
  (∀ (s : State) (q : Fin 8) (r : BitVec 512) (rest : List (Nat × BitVec 512)),
    let cores := recordCores r
    let full := cores.filter (fun n => decide (8 ≤ (getCore s n).deliveries.length))
    s.cores.length = 128 → isReady s = true → (blk s HOSTIF).errorStopped = false → s.host.copying = [] → s.host.queues = (q.val, r) :: rest →
    (cores ≠ [] → full ≠ cores →
      ∃ t, exec (.launchDelivery q) s = .next t ∧ t.host.queues = (if full = [] then rest else s.host.queues) ∧
        t.host.copying = (if full = [] then [] else [(q.val, s.nextLaunch, full)]) ∧ t.nextLaunch = s.nextLaunch + 1 ∧ memoryKept s t ∧ t.regs = s.regs ∧
        (∃ l, t.launches = s.launches ++ [l] ∧ l.id = s.nextLaunch ∧ l.remaining = cores) ∧
        ∀ n, n < 128 → getCore t n =
          if n ∈ cores ∧ n ∉ full then { getCore s n with deliveries := (getCore s n).deliveries ++ [(s.nextLaunch, r)] } else getCore s n) ∧
    (cores = [] → (∀ l ∈ s.launches, l.id ≠ s.nextLaunch) →
      ∃ t o, exec (.launchDelivery q) s = .next t ∧ t.host.queues = rest ∧ t.launches = s.launches ∧ t.ended.getLast? = some (o, false) ∧
        t.cores = s.cores ∧ memoryKept s t))

/-- LAUNCH_START and LAUNCH_BOUNDARY complete. An idle core with a delivered record that is good starts it: the arguments and the core number are in S1 to S3, every other
scalar register and WF are cleared, the counts start at zero, and the next bundle is the record's entry; a record that the core cannot run halts it with reason 0x70. After END, a
quiescent core reaches its launch boundary: it is idle, and keeps its registers, files and row results (06_core_programs.md R249 to R251). -/
def Obligations.LaunchesRun : Prop :=
  (∀ (s : State) (n : Fin 128) (id : Nat) (r : BitVec 512) (rest : List (Nat × BitVec 512)),
    let c := getCore s n.val
    s.cores.length = 128 → c.run = .idle → c.deliveries = (id, r) :: rest →
    (recordGood r = true →
      ∃ t, exec (.launchStart n) s = .next t ∧ (getCore t n.val).run = .running ∧ (getCore t n.val).deliveries = rest ∧
        (getCore t n.val).pc = (if recordCsf1 r then fld r.toNat 165 155 else fld r.toNat 69 59) ∧ (getCore t n.val).bundles = 0 ∧ (getCore t n.val).cycle = 0 ∧ (getCore t n.val).wf = false ∧
        (∀ i : BitVec 5, scalar t n i = if i = 1 then BitVec.ofNat 64 (if recordCsf1 r then fld r.toNat 383 320 else fld r.toNat 255 192) else if i = 2 then BitVec.ofNat 64 (fld r.toNat 319 256)
          else if i = 3 then BitVec.ofNat 64 n.val else 0) ∧
        (getCore t n.val).launch.map (·.record) = some r ∧ othersKept s t n.val ∧ memoryKept s t ∧ unitsKept s t) ∧
    (recordGood r = false →
      ∃ t, exec (.launchStart n) s = .next t ∧ (getCore t n.val).run = .halted ∧ (getCore t n.val).halt.reason = 0x70 ∧
        (getCore t n.val).deliveries = rest ∧ othersKept s t n.val ∧ memoryKept s t)) ∧
  (∀ (s : State) (n : Fin 128) (l : CoreLaunch),
    let c := getCore s n.val
    s.cores.length = 128 → c.run = .running → c.launch = some l → c.ended = true → quiescent c = true →
    ∃ t, exec (.launchBoundary n) s = .next t ∧ (getCore t n.val).run = .idle ∧ (getCore t n.val).ended = false ∧ (getCore t n.val).sregs = c.sregs ∧
      (getCore t n.val).productFile = c.productFile ∧ (getCore t n.val).recipeFile = c.recipeFile ∧ (getCore t n.val).rowResults = c.rowResults ∧ othersKept s t n.val)

/-- BARRIER_RELEASE and BARRIER_TIMEOUT complete. A barrier at which every core of its group has arrived quiescent is released: every list that it names returns to IDLE with nothing
in it, the barrier is gone, and each core that waits at it runs again where every named list was drained, and halts with reason 0x50, naming the undrained lists, otherwise. A
barrier at which not every core has arrived in time fails, and every core that waits at it halts with reason 0x51; before that, nothing happens. Other cores, other lists and all
memory are unchanged (06_core_programs.md R241 to R243). -/
def Obligations.Barriers : Prop :=
  (∀ (s : State) (n : Fin 128) (b : Barrier),
    let lists := bitList b.mask.toNat 4
    let bad := lists.filter (undrained s b.group)
    s.cores.length = 128 → s.forage.length = 4 → barrierOf s n.val = some b → barrierReady s b = true → b.group.Nodup → (∀ m ∈ b.group, twf .empty (getCore s m).mailboxes = true) →
    ∃ t, exec (.barrierRelease n) s = .next t ∧ t.barriers = s.barriers.filter (fun x => !(x.launch == b.launch && x.number == b.number)) ∧
      (∀ l, l < 4 → if l ∈ lists then (getList t l).state = 0 ∧ (getList t l).descs = [] ∧ (getList t l).waiting = [] else getList t l = getList s l) ∧
      (∀ m, m ∈ b.group → waitsAt (getCore s m) b = true →
        if bad = [] then (getCore t m).run = .running ∧ (getCore t m).sregs = (getCore s m).sregs ∧ ∀ l ∈ lists, mailbox (getCore t m) l = .empty
        else (getCore t m).run = .halted ∧ (getCore t m).halt = ⟨0x50, (getCore s m).barrierPc, 0, BitVec.ofNat 64 (bitsOf 4 (fun l => bad.contains l))⟩) ∧
      (∀ m, m ∉ b.group → getCore t m = getCore s m) ∧ memoryKept s t ∧ t.dma = s.dma) ∧
  (∀ (s : State) (n : Fin 128) (b : Barrier),
    let limit := getReg s FORAGE 0x008
    let gone := fun (now : Nat) => now - b.firstArrival - b.pausedFor
    s.cores.length = 128 → barrierOf s n.val = some b →
    ((∃ m ∈ b.group, m ∉ b.arrived) → b.arrived.Nodup → limit ≠ 0 → limit + 4 < gone s.time →
      ∃ t, exec (.barrierTimeout n) s = .next t ∧ memoryKept s t ∧
        ∀ m, if m ∈ b.arrived ∧ waitsAt (getCore s m) b = true then (getCore t m).run = .halted ∧ (getCore t m).halt.reason = 0x51 else getCore t m = getCore s m) ∧
    (limit = 0 ∨ gone (max (tget 0 s.readings FORAGE) s.time) ≤ limit → exec (.barrierTimeout n) s = .next s))

/-- FORAGE_REQUEST and FORAGE_ANSWER complete. A request that reaches the unit with no older one held is answered with the oldest descriptor of an OPEN or COMPLETE list, after which
an append that the full list held enters it; with DONE by an empty COMPLETE list; otherwise it is held. An answer that arrives fills the core's mailbox (06_core_programs.md R237 to
R239). -/
def Obligations.ForageAnswers : Prop :=
  ∀ (s : State) (n : Fin 128) (l : Fin 4), s.cores.length = 128 → s.forage.length = 4 →
    let f := getList s l.val
    let out := fun (g : ForageList) => exec (.forageRequest n l) s = .next (setList s l.val g)
    (∀ d ds, n.val ∈ f.requests → f.held = [] → f.state ≠ 0 → f.descs = d :: ds → f.waiting = [] →
      out { f with requests := f.requests.erase n.val, descs := ds, taken := f.taken + 1, answers := f.answers ++ [(n.val, d)] }) ∧
    (∀ d ds w ws, n.val ∈ f.requests → f.held = [] → f.state ≠ 0 → f.descs = d :: ds → ds.length < 16384 → f.waiting = w :: ws → f.totalKnown = false →
      ∃ t, exec (.forageRequest n l) s = .next t ∧ t.cores = s.cores ∧ memoryKept s t ∧ getList t l.val =
        { f with requests := f.requests.erase n.val, descs := ds ++ [w], waiting := ws, taken := f.taken + 1, appended := f.appended + 1, answers := f.answers ++ [(n.val, d)] }) ∧
    (n.val ∈ f.requests → f.held = [] → f.state = 2 → f.descs = [] → out { f with requests := f.requests.erase n.val, answers := f.answers ++ [(n.val, 2)] }) ∧
    (n.val ∈ f.requests → f.held = [] → f.state ≠ 2 → f.descs = [] → out { f with requests := f.requests.erase n.val, held := [n.val] }) ∧
    (∀ a rest, f.answers = (n.val, a) :: rest → twf .empty (getCore s n.val).mailboxes = true →
      ∃ t, exec (.forageAnswer n l) s = .next t ∧ mailbox (getCore t n.val) l.val = .full a ∧ (getList t l.val).answers = rest ∧
        othersKept s t n.val ∧ memoryKept s t ∧ unitsKept s t)

/-- CORE_RESET of one core completes on a powered module: whatever the core does, its program state, its stored registers and its banks are cleared and it is idle with no record
delivered; its row results, generators and captures are kept; other cores and all memory are unchanged (16_register_interface.md R577). -/
def Obligations.CoreResets : Prop :=
  ∀ (s : State) (n : Fin 64) (hi : Bool), s.cores.length = 128 → running s = true →
    let m := (if hi then 64 else 0) + n.val
    let c := getCore s m
    ∃ t, exec (.coreReset hi (BitVec.ofNat 64 (2 ^ n.val))) s = .next t ∧ (getCore t m).run = .idle ∧ (getCore t m).deliveries = [] ∧ (getCore t m).sregs = [] ∧
      (getCore t m).bank0 = .loading ∧ (getCore t m).bank1 = .loading ∧ (getCore t m).launch = none ∧ (getCore t m).events = [] ∧
      (getCore t m).rowResults = c.rowResults ∧ (getCore t m).generators = c.generators ∧ (getCore t m).captures = c.captures ∧
      (∀ off, off < 4096 → getReg t (CORE m) off = 0) ∧ othersKept s t m ∧ memoryKept s t

/-! ### Local memory, completion records and integrity -/

/-- LOCAL_READ and LOCAL_WRITE complete on a powered module, where nothing keeps the access waiting. A read of tile-store bytes with clean codes answers a unit, the Keeper, or the
host through BAR2, with the stored bytes, and changes nothing else. A write by any of them stores its bytes, unpoisoned, and every other byte of local memory and of the NVM is as
before; poisoned data mark every granule they reach as poisoned. An access that must wait is held (01_architecture.md R43, R45; 14_startup_host.md R510; 15_integrity_faults.md
R536, R537, R539, R541). -/
def Obligations.LocalMemory : Prop :=
  (∀ (s : State) (m : Master) (n : Fin 128) (off len : Nat),
    let a := tileBase n.val + off
    running s = true → (m = .host → hostUp s = true ∧ inBar2 s a = true ∧ s.boot.configured = true) → 0 < len → off + len ≤ 0x400000 →
    s.guard = [] → s.hopErrors = [] → s.stateErrors = [] →
    let w : WaitingAccess := { master := m, addr := a, len := len }
    (accessWaits s w s.waitingAccesses = false → exec (.localRead m (BitVec.ofNat 42 a) len) s = .next (emit s (.readData m a (memBytes s a len) []))) ∧
    (accessWaits s w s.waitingAccesses = true →
      exec (.localRead m (BitVec.ofNat 42 a) len) s = .next { s with waitingAccesses := s.waitingAccesses ++ [w] })) ∧
  (∀ (s : State) (m : Master) (n : Fin 128) (off : Nat) (data : List Byte) (poisoned : Bool),
    let a := tileBase n.val + off
    let w : WaitingAccess := { master := m, addr := a, len := data.length, write := some (data, if poisoned then allGranules a data.length else []) }
    running s = true → (m = .host → hostUp s = true ∧ inBar2 s a = true ∧ s.boot.configured = true) → data ≠ [] → off + data.length ≤ 0x400000 →
    s.guard = [] → s.hopErrors = [] → s.dispatches = [] → s.posted = [] → twf 0 s.mem = true →
    (accessWaits s w s.waitingAccesses = false →
      ∃ t, exec (.localWrite m (BitVec.ofNat 42 a) data poisoned) s = .next t ∧
        (∀ b, tget 0 t.mem b = if a ≤ b ∧ b < a + data.length then data.getD (b - a) 0 else tget 0 s.mem b) ∧
        (∀ g, tget 0 t.guard g = if poisoned = true ∧ a / 32 ≤ g ∧ g ≤ (a + data.length - 1) / 32 then poisonDev else 0) ∧
        t.nvm = s.nvm ∧ t.cores = s.cores ∧ unitsKept s t) ∧
    (accessWaits s w s.waitingAccesses = true →
      exec (.localWrite m (BitVec.ofNat 42 a) data poisoned) s = .next { s with waitingAccesses := s.waitingAccesses ++ [w] }))

/-- SCRUB_WRITE and POISON_WRITE complete. A scrub write stores the repaired data with a clean code, a poison write marks the granule poisoned and keeps its data; each only where one
is pending, and no other byte or code of local memory changes (15_integrity_faults.md R538, R539). -/
def Obligations.ScrubAndPoison : Prop :=
  ∀ (s : State) (g : Nat), twf 0 s.mem = true → twf 0 s.guard = true →
    ((g, false) ∈ s.scrubs → ∃ t, exec (.scrubWrite g) s = .next t ∧ memBytes t (32 * g) 32 = (peekGranule s g).1.take 32 ∧ tget 0 t.guard g = 0 ∧
      (∀ a, ¬(32 * g ≤ a ∧ a < 32 * g + 32) → tget 0 t.mem a = tget 0 s.mem a) ∧ (∀ h, h ≠ g → tget 0 t.guard h = tget 0 s.guard h) ∧
      (∀ b, (g, b) ∉ t.scrubs) ∧ t.cores = s.cores ∧ unitsKept s t) ∧
    ((g, true) ∈ s.scrubs → ∃ t, exec (.poisonWrite g) s = .next t ∧ (∀ a, tget 0 t.mem a = tget 0 s.mem a) ∧ tget 0 t.guard g = poisonDev ∧
      (∀ h, h ≠ g → tget 0 t.guard h = tget 0 s.guard h) ∧ (∀ b, (g, b) ∉ t.scrubs) ∧ t.cores = s.cores ∧ unitsKept s t) ∧
    ((g, false) ∉ s.scrubs → exec (.scrubWrite g) s = .next s) ∧ ((g, true) ∉ s.scrubs → exec (.poisonWrite g) s = .next s)

/-- A completion record written into a tile store holds its fields where R549 places them, its two GUARD counts saturated, and the reading of the timebase at which it was
written; every other byte of local memory is as before (15_integrity_faults.md R549). -/
def Obligations.RecordsWrite : Prop :=
  ∀ (s : State) (m : Master) (n : Fin 128) (k : Fin 65536) (r : Record), s.guard = [] → s.hopErrors = [] → twf 0 s.mem = true →
    let a := tileBase n.val + 64 * k.val
    let t := writeRecord m s a r
    let v := ofBytes (memBytes t a 64)
    let last := tget 0 s.readings (masterId m).2.2
    fld v 7 0 = r.type % 2 ^ 8 ∧ fld v 15 8 = 0 ∧ fld v 23 16 = r.status % 2 ^ 8 ∧ fld v 31 24 = r.reason % 2 ^ 8 ∧ fld v 47 32 = r.unit % 2 ^ 16 ∧
      fld v 63 48 = r.tag % 2 ^ 16 ∧ fld v 79 64 = r.gen % 2 ^ 16 ∧ fld v 127 80 = r.ordinal % 2 ^ 48 ∧ fld v 175 128 = r.done % 2 ^ 48 ∧
      fld v 223 176 = r.total % 2 ^ 48 ∧ fld v 287 224 = r.start % 2 ^ 64 ∧ fld v 367 352 = min r.corr 65535 ∧ fld v 383 368 = min r.uncorr 65535 ∧
      fld v 511 384 = r.detail % 2 ^ 128 ∧
      (∃ T, fld v 351 288 = T % 2 ^ 64 ∧ last ≤ T ∧ T ≤ max last s.time ∧ s.time ≤ T + 4) ∧
      (∀ b, ¬(a ≤ b ∧ b < a + 64) → tget 0 t.mem b = tget 0 s.mem b) ∧ t.guard = [] ∧ t.cores = s.cores

/-! ### The scale steward, the sentry and enables -/

/-- STEWARD_REPORT completes, and STEWARD_COMMIT and STEWARD_SLOT_WRITE on a powered module. A report of a writer, with no commit and no disable waiting: one writer fewer, the larger
of the two magnitudes in INTERVAL_MAX, the flags joined. A commit of an enabled slot that no writer holds takes effect at once: CURRENT becomes what R92 computes, which NEXT then
shows, INTERVAL_MAX and the flags are cleared; one that writers hold becomes pending. A write of the low half of a disabled slot takes the guarded fields, and enables the slot for
the formats of R86; of an enabled slot, a change of a guarded field is rejected and ENABLED low disables it, once its writers are gone; a write of the high half changes no field.
Every other slot is as before (02_number_formats.md R86 to R93; 16_register_interface.md R583). -/
def Obligations.Steward : Prop :=
  (∀ (s : State) (k : Fin 4096) (mag : F32) (ovf nan : Bool),
    let v := slotBits s k.val
    twf 0 s.steward = true →
    (slotWriters v ≠ 0 → slotPending v = false → k.val ∉ s.disables →
      ∃ t, exec (.stewardReport k mag ovf nan) s = .next t ∧ slotWriters (slotBits t k.val) = slotWriters v - 1 ∧
        fld (slotBits t k.val) 95 64 = (if fkey (BitVec.ofNat 32 (fld v 95 64)) < fkey mag then mag.toNat else fld v 95 64) ∧
        bit (slotBits t k.val) 10 = (bit v 10 || ovf) ∧ bit (slotBits t k.val) 11 = (bit v 11 || nan) ∧ slotCurrent (slotBits t k.val) = slotCurrent v ∧
        slotEnabled (slotBits t k.val) = slotEnabled v ∧ (∀ j, j ≠ k.val → slotBits t j = slotBits s j) ∧ t.cores = s.cores ∧ memoryKept s t) ∧
    (slotWriters v = 0 → exec (.stewardReport k mag ovf nan) s = .next s)) ∧
  (∀ (s : State) (k : Fin 4096) (w : Word64),
    let v := slotBits s k.val
    let others := fun (t : State) => (∀ j, j ≠ k.val → slotBits t j = slotBits s j) ∧ t = { s with steward := t.steward }
    running s = true → twf 0 s.steward = true → fld w.toNat 11 0 = k.val →
    (fld w.toNat 24 12 = 1 → slotEnabled v = true → slotWriters v = 0 →
      ∃ t, exec (.stewardCommit w) s = .next t ∧ slotCurrent (slotBits t k.val) = (commitValues v).2 ∧
        toInt 8 (fld (slotBits t k.val) 55 48) = (commitValues v).2 ∧ fld (slotBits t k.val) 95 64 = 0 ∧ fld (slotBits t k.val) 12 10 = 0 ∧
        slotEnabled (slotBits t k.val) = true ∧ others t) ∧
    (fld w.toNat 24 12 = 1 → slotEnabled v = true → slotWriters v ≠ 0 →
      ∃ t, exec (.stewardCommit w) s = .next t ∧ slotPending (slotBits t k.val) = true ∧ slotCurrent (slotBits t k.val) = slotCurrent v ∧ others t) ∧
    (fld w.toNat 24 12 = 0 ∨ 4096 < fld w.toNat 24 12 → exec (.stewardCommit w) s = .next s)) ∧
  (∀ (s : State) (w : Word64),
    let k := getReg s NUMERIC 0x020
    let v := slotBits s k
    let out := exec (.stewardSlotWrite false w) s
    let changed := Nat.land (Nat.xor v w.toNat) guardedMask ≠ 0
    running s = true → twf 0 s.steward = true → twf 0 s.regs = true →
    (slotEnabled v = false → s.slotRejected = none → bit w.toNat 9 = true → 3 ≤ fld w.toNat 16 13 → fld w.toNat 16 13 ≤ 8 →
      ∃ t, out = .next t ∧ slotEnabled (slotBits t k) = true ∧ fld (slotBits t k) 31 13 = fld w.toNat 31 13 ∧
        fld (slotBits t k) 63 48 = fld w.toNat 63 48 ∧ fld (slotBits t k) 47 32 = fld v 47 32 ∧ fld (slotBits t k) 127 64 = fld v 127 64 ∧
        (∀ j, j ≠ k → slotBits t j = slotBits s j) ∧ t = { s with steward := t.steward }) ∧
    (slotEnabled v = true → bit w.toNat 9 = true → ¬ changed → out = .next { s with disables := s.disables.filter (· != k) }) ∧
    (slotEnabled v = true → bit w.toNat 9 = true → changed →
      ∃ t, out = .next t ∧ t.slotRejected = some k ∧ getReg t NUMERIC 0x040 = k ∧ t.steward = s.steward ∧ t.cores = s.cores ∧ memoryKept s t) ∧
    (slotEnabled v = true → bit w.toNat 9 = false → slotWriters v = 0 → ¬ changed →
      ∃ t, out = .next t ∧ slotEnabled (slotBits t k) = false ∧ slotCurrent (slotBits t k) = slotCurrent v ∧ (∀ j, j ≠ k → slotBits t j = slotBits s j)) ∧
    (slotEnabled v = true → bit w.toNat 9 = false → slotWriters v ≠ 0 → ¬ changed →
      out = .next { s with disables := s.disables.filter (· != k) ++ [k] }) ∧
    (s.slotRejected = none → exec (.stewardSlotWrite true w) s = .next s))

/-- SENTRY_COMPARE completes: the sentry takes a core's oldest capture; one whose operands are not exact in BF16 is only counted; any other is counted as compared and, by its
outcome, as clean, as a warning or as a fault (02_number_formats.md R107 to R109). -/
def Obligations.SentryCompares : Prop :=
  ∀ (s : State) (n : Fin 128) (c : Capture) (rest : List Capture),
    let cfg := getReg s NUMERIC 0x010
    let verdict := sentryJudge (fld cfg 9 5) (fld cfg 14 10) (sentryW c) c.after
    let counted := fun (t : State) (off : Nat) (yes : Bool) => getReg t NUMERIC off = if yes then satAdd 32 (getReg s NUMERIC off) 1 else getReg s NUMERIC off
    s.cores.length = 128 → twf 0 s.regs = true → (getCore s n.val).captures = c :: rest →
    ∃ t, exec (.sentryCompare n) s = .next t ∧ (getCore t n.val).captures = rest ∧ othersKept s t n.val ∧
      counted t 0x078 (!captureExact c) ∧ counted t 0x048 (captureExact c) ∧ counted t 0x050 (captureExact c && verdict == .clean) ∧
      counted t 0x058 (captureExact c && verdict == .warn) ∧ counted t 0x060 (captureExact c && verdict == .fault)

/-- NUMERIC_ENABLE, EXCH_ENABLE, SOLVER_ENABLE, COLL_ENABLE, SCACHE_ENABLE, POOL_ENABLE, FABRIC_ENABLE, MEMC_ENABLE, LINK_ENABLE and DMA_CHAN_ENABLE complete on a powered module.
ENABLE = 1 enables a block that is not error-stopped and whose settings are legal, and raises CONFIG_BAD where they are not; ENABLE = 0 disables one that nothing keeps busy, at once,
and lets any other disable later. DMA.CHAN_ENABLE leaves enabled the named channels that were enabled already, and enables those whose ring sizes are legal unless DMA is error-stopped.
The cores, the DMA channels' work and the lists are as before (16_register_interface.md R566, R568, R569, R571; 04_sparse_operands.md R160). -/
def Obligations.Enables : Prop :=
  (∀ (s : State) (v : Word64) (i : Instr) (b : Nat),
    (i, b) ∈ [(.numericEnable v, NUMERIC), (.exchEnable v, EXCH), (.solverEnable v, SOLVER), (.collEnable v, COLL), (.scacheEnable v, SCACHE), (.poolEnable v, POOL),
      (.fabricEnable v, FABRIC)] ++ (List.finRange 12).map (fun k => (.memcEnable k v, MEMC k.val)) ++ (List.finRange 8).map (fun k => (.linkEnable k v, LINK k.val)) →
    running s = true → twf {} s.blocks = true →
    let w := writeField s b 0x008 (regAt b 0x008) v.toNat
    let kept := fun (t : State) => (∀ k, k ≠ b → blk t k = blk s k) ∧ t.cores = s.cores ∧ t.dma = s.dma ∧ t.forage = s.forage ∧ t.nvm = s.nvm
    (bit v.toNat 0 = true → (blk s b).errorStopped = false → configIllegal w b = false →
      ∃ t, exec i s = .next t ∧ isEnabled t b = true ∧ (blk t b).disabling = false ∧ (blk t b).configBad = false ∧ kept t) ∧
    (bit v.toNat 0 = true → (blk s b).errorStopped = false → configIllegal w b = true →
      ∃ t, exec i s = .next t ∧ isEnabled t b = isEnabled s b ∧ (blk t b).configBad = true ∧ kept t ∧ t.mem = s.mem) ∧
    (bit v.toNat 0 = true → (blk s b).errorStopped = true → ∃ t, exec i s = .next t ∧ isEnabled t b = isEnabled s b ∧ (blk t b).configBad = false ∧ kept t ∧ t.mem = s.mem) ∧
    (bit v.toNat 0 = false → mayDisable w b = true → ∃ t, exec i s = .next t ∧ isEnabled t b = false ∧ (blk t b).configBad = false ∧ kept t ∧ t.mem = s.mem) ∧
    (bit v.toNat 0 = false → isEnabled s b = true → mayDisable w b = false →
      ∃ t, exec i s = .next t ∧ isEnabled t b = true ∧ (blk t b).disabling = true ∧ (blk t b).configBad = false ∧ kept t ∧ t.mem = s.mem)) ∧
  (∀ (s : State) (v : Word64) (c : Fin 32), running s = true → twf {} s.blocks = true → twf 0 s.regs = true →
    ∃ t, exec (.dmaChanEnable v) s = .next t ∧ getReg t DMA 0x008 = v.toNat % 2 ^ 32 ∧
      bit t.dmaOn.toNat c.val = (bit v.toNat c.val && (bit s.dmaOn.toNat c.val || (!(blk s DMA).errorStopped && decide (getReg s DMA (0x108 + 32 * c.val) ≤ 16)))) ∧
      t.dma = s.dma ∧ t.cores = s.cores ∧ memoryKept s t)

/-! ### DMA -/

/-- DMA_COPY, DMA_COMPRESS, DMA_EXPAND and DMA_END complete. A channel that may take a descriptor takes the one at its ring's tail, where that is of the command's mode: TAIL advances.
One that R158 refuses ends at once with reason 5 and no unit done. A good one whose places are local, of a channel that awaits no answer, runs to its end, every unit done unless a
fault stopped it; a row that a copy carries inside the tile stores arrives byte for byte, and every other byte of local memory is as before. A channel whose units are all done, with
no request outstanding, is finished, and DMA_END writes its record and leaves it free (04_sparse_operands.md R156 to R160, R164). -/
def Obligations.DmaChannels : Prop :=
  (∀ (s : State) (c : Fin 32) (mode : Fin 3),
    let rd := (readSpan (dmaMaster c.val) s (ringSlot s c.val) 64).1
    let u := (readSpan (dmaMaster c.val) s (ringSlot s c.val) 64).2
    let d := dmaDesc (ofBytes rd.data)
    let i : Instr := if mode = 0 then .dmaCopy c else if mode = 1 then .dmaCompress c else .dmaExpand c
    let n := (d.rowRange 0).2
    let took := fun (t : State) (j : DmaJob) => getReg t DMA (0x118 + 32 * c.val) = (getReg u DMA (0x118 + 32 * c.val) + 1) % 2 ^ 32 ∧ getJob t c.val = some j ∧
      j.desc = BitVec.ofNat 512 (ofBytes rd.data) ∧ j.total = d.units ∧ j.finished = true ∧ (∀ k, k ≠ c.val → getJob t k = getJob s k) ∧ t.cores = s.cores
    s.dma.length = 32 → twf 0 u.regs = true → mayTake s c.val = true → d.mode = mode.val →
    (rd.poison ≠ [] ∨ descriptorBad u d = true → ∃ t j, exec i s = .next t ∧ took t j ∧ j.fault = 5 ∧ j.done = 0 ∧ memoryKept u t) ∧
    (rd.poison = [] → descriptorBad u d = false → d.tensorDst = false → d.srcKind = 0 → d.dstKind = 0 → d.dst2Kind = 0 → (∀ r ∈ u.remote, r.master ≠ .dma c) →
      ∃ t j, exec i s = .next t ∧ took t j ∧ (j.fault = 0 → j.done = d.units) ∧
        (∀ (m k : Fin 128) (x y : Nat), mode = 0 → d.carries = true → d.rows = 1 → u.guard = [] → u.hopErrors = [] → twf 0 u.mem = true →
          d.src = tileBase m.val + x → x + n ≤ 0x400000 → d.dst = tileBase k.val + y → y + n ≤ 0x400000 →
          j.fault = 0 ∧ memBytes t d.dst n = memBytes u d.src n ∧ ∀ a, ¬(d.dst ≤ a ∧ a < d.dst + n) → tget 0 t.mem a = tget 0 u.mem a))) ∧
  (∀ (s : State) (c : Fin 32) (j : DmaJob) (mode : Fin 3),
    let d := dmaDesc j.desc.toNat
    let i : Instr := if mode = 0 then .dmaCopy c else if mode = 1 then .dmaCompress c else .dmaExpand c
    s.dma.length = 32 → getJob s c.val = some j → d.mode = mode.val → dmaWaits s c.val true = false → dmaWaits s c.val false = false → j.out = false → j.fault = 0 →
    (j.finished = false → j.done = j.total → exec i s = .next (setJob s c.val (some { j with finished := true }))) ∧
    (j.finished = true → ∃ t, exec (.dmaEnd c) s = .next t ∧ getJob t c.val = none ∧ (∀ k, k ≠ c.val → getJob t k = getJob s k) ∧ t.cores = s.cores))

/-! ### Expert routing and token exchange -/

/-- DISPATCH_TAKE completes on a READY module. EXCH takes the descriptor at its ring's tail where its list is idle and its list and id are not in use: TAIL advances, the dispatch is
active, and the list is OPEN with its counts at zero; one that R281 refuses, or that arrives poisoned, faults with DESCRIPTOR and is not active. Other lists, the cores and all memory
that the read leaves are as before (08_routing_exchange.md R279 to R282; 06_core_programs.md R244). -/
def Obligations.ExchangeTakes : Prop :=
  ∀ s : State,
    let tail := getReg s EXCH 0x028
    let size := getReg s EXCH 0x018
    let rd := (readSpan (.dispatch 0) s (ringAddr (getReg s EXCH 0x010) size tail 128) 128).1
    let u := (readSpan (.dispatch 0) s (ringAddr (getReg s EXCH 0x010) size tail 128) 128).2
    let d := dispDesc (ofBytes rd.data)
    isReady s = true → twf 0 u.regs = true → s.forage.length = 4 → takesWork s EXCH = true → (blk s EXCH).disabling = false → tail ≠ getReg s EXCH 0x020 → size ≠ 0 → size ≤ 12 →
    (getList s d.list).state = 0 → byList s d.list = none → byId s d.id = none →
    (rd.poison = [] → dispatchBad u d = false →
      ∃ t x, exec .dispatchTake s = .next t ∧ getReg t EXCH 0x028 = (tail + 1) % 2 ^ 32 ∧ t.dispatches = s.dispatches ++ [x] ∧ x.list = d.list ∧
        x.desc = BitVec.ofNat 1024 (ofBytes rd.data) ∧ x.started = none ∧ x.fault = 0 ∧ (d.arm = false → x.waits = none ∧ x.armFail = false) ∧
        getList t d.list = { getList s d.list with state := 1, descs := [], waiting := [], total := 0, totalKnown := false, appended := 0, taken := 0 } ∧
        (∀ k, k ≠ d.list → getList t k = getList s k) ∧ t.cores = s.cores ∧ memoryKept u t) ∧
    (rd.poison ≠ [] ∨ dispatchBad u d = true →
      ∃ t, exec .dispatchTake s = .next t ∧ getReg t EXCH 0x028 = (tail + 1) % 2 ^ 32 ∧ t.dispatches = s.dispatches ∧ t.lastDispatchFault = 1 ∧ t.forage = s.forage ∧ t.cores = s.cores)

/-- FORWARD_DISPATCH_START and BACKWARD_REPLAY_START complete for a taken dispatch that waits for no launch and no message is held. A forward one whose tables and choice records lie
clean in tile stores and pass the checks of R286, R288 and R304 takes the snapshot of its slots and is in its scout phase; a replay whose summary and waggle entries lie clean in tile
stores and fit it has its tiles and sends its rows: it is in its carry phase, or combines where it has no tile. One whose deciding launch ended halted faults with 0x2
(08_routing_exchange.md R282 to R288, R309, R310). -/
def Obligations.ExchangeStarts : Prop :=
  ∀ (s : State) (l : Fin 4) (x : Dispatch) (back : Bool),
    let i : Instr := if back then .backwardReplayStart l else .forwardDispatchStart l
    let d := x.d
    let slots := slotSnaps ((chunks 8 d.nslots (memBytes s d.slotTable (8 * d.nslots))).map ofBytes)
    let ept := (chunks 32 d.experts (memBytes s d.ept (32 * d.experts))).map ofBytes
    let h := ofBytes (memBytes s d.summary 32)
    let seen := summarySlots ((chunks 16 d.nslots (memBytes s (d.summary + 32) (16 * d.nslots))).map ofBytes)
    byList s l.val = some x → d.back = back → x.waits = none → x.started = none → x.fault = 0 →
    (x.armFail = false → s.heldMessages = [] → clean s → back = false → inTile d.slotTable (8 * d.nslots) → inTile d.ept (32 * d.experts) → inTile d.choices (64 * d.tokens) →
      doneBad s l.val d.done (maxTiles slots) = false → placementBad d (ownRank s) ept slots = false →
      (∀ t, t < d.tokens → ∃ cs, recordChoices d (ownRank s) t ept (ofBytes (memBytes s (d.choices + 64 * t) 64)) = .inl cs) →
      ∃ t y, exec i s = .next t ∧ byList t l.val = some y ∧ y.desc = x.desc ∧ y.started.isSome = true ∧ y.fault = 0 ∧ y.phase = 1 ∧ y.slots = slots ∧ t.cores = s.cores) ∧
    (x.armFail = false → s.heldMessages = [] → clean s → back = true → inTile d.summary (32 + 16 * d.nslots) → inTile d.waggle (16 * (d.tokens * d.kc)) →
      fld h 191 176 = d.fwdId → fld h 175 160 = d.gen → fld h 135 127 = d.nslots → doneBad s l.val d.done (fld h 159 136) = false →
      ∃ t y, exec i s = .next t ∧ byList t l.val = some y ∧ y.desc = x.desc ∧ y.started.isSome = true ∧ y.fault = 0 ∧ y.carrySent = true ∧ y.slots = seen ∧
        y.phase = (if y.tiles.all (fun k => k.seq.isSome) then 3 else 2) ∧ t.cores = s.cores) ∧
    (x.armFail = true → ∃ t y, exec i s = .next t ∧ byList t l.val = some y ∧ y.desc = x.desc ∧ y.started = none ∧ y.fault = 2 ∧ t.lastDispatchFault = 2)

/-- SCOUT_MESSAGE and GRANT_MESSAGE complete once their frames are accepted. A scout that is not the last is kept with its source; a grant of one count that is not the last admits
its choices from the lowest token on: of those that wait for that owner, slot and rank the k-th takes position base + k while k is below the granted count, and the rest are skipped;
every other choice stays (08_routing_exchange.md R290 to R292). -/
def Obligations.ExchangeCounts : Prop :=
  ∀ (s : State) (via : Via) (x : Dispatch) (h : DispatchHeader),
    let src := h.srcRank.toNat
    let u := arrivalOf s via 1 h.dispatchId.toNat src
    accepted s via → byId u h.dispatchId.toNat = some x → byList u x.list = some x → x.live = true → u.awaited = [] → h.gen.toNat = x.d.gen → x.d.back = false →
    x.d.base ≤ src → src < x.d.base + x.d.size →
    (∀ es : List ScoutEntry, (x.counts.any (fun c => c.1 == src)) = false → h.digest = x.digest →
      (∀ e ∈ es, ∃ t, x.slots[e.slot.toNat]? = some t ∧ t.valid = true) → x.counts.length + 1 ≠ x.d.size →
      exec (.scoutMessage ⟨via, h⟩ es) s = .next (updDispatch u x.list (fun y =>
        { y with counts := x.counts ++ [(src, es.map (fun e => (e.slot.toNat, e.rank.toNat, e.count.toNat)))] }))) ∧
    (∀ e : GrantEntry, x.grantsFrom.contains src = false → x.grantsFrom.length + 1 ≠ x.d.size →
      let waits := fun (c : Choice) => decide (c.status = 3 ∧ c.owner = src ∧ c.slot = e.slot.toNat ∧ c.rank = e.rank.toNat)
      ∃ t y, exec (.grantMessage ⟨via, h⟩ [e]) s = .next t ∧ byList t x.list = some y ∧ y.grantsFrom = x.grantsFrom ++ [src] ∧ t.cores = u.cores ∧ memoryKept u t ∧
        ∀ k : Nat, y.choices[k]? = (x.choices[k]?).map (fun c =>
          let before := (x.choices.take k).countP waits
          if waits c = true then (if before < e.granted.toNat then { c with status := 1, pos := e.base.toNat + before } else { c with status := 2 }) else c))

/-- The grants of an owner, in their order: valid slots ascending, choice rank first, then source rank from the rotation point; each is the count sent or what is left of the
slot's capacity, and its base is what was granted of the slot before it (R291). -/
def Obligations.GrantsFill : Prop :=
  ∀ x : Dispatch,
    ((allGrants x).map (fun g => (g.slot, g.rank, g.src)) = (x.slots.zipIdx).flatMap (fun p =>
      if p.1.valid then (List.range x.d.kc).flatMap (fun r => (List.range x.d.size).map (fun m => (p.2, r, x.d.base + (x.d.rot + m) % x.d.size))) else [])) ∧
    ∀ (before after : List Granted) (g : Granted), allGrants x = before ++ g :: after →
      let taken := sumNat ((before.filter (fun h => h.slot == g.slot)).map (·.got))
      let capacity := (x.slots[g.slot]?).elim 0 (·.capacity)
      taken ≤ capacity ∧ g.cnt = countOf x.counts g.src g.slot g.rank ∧ g.got = min g.cnt (capacity - taken) ∧ g.base = taken

/-- TILE_RESERVATION, CARRY_ROW, POST and RETURN_ROW complete. Cells that the pool has admitted make the row-list cell of the dispatch's next tile. A carry row whose targets are in
order, and whose lowest tile has its cells, lands in a chain of them and in the tile of every target. A post of an appended tile, by any master of a powered module, sets it posted. A
returned row is written to its return slot, with every other byte of local memory as before, and its choice counts as returned (08_routing_exchange.md R299 to R301, R304, R306). -/
def Obligations.ExchangeRows : Prop :=
  (∀ (s : State) (l : Fin 4) (x : Dispatch) (k : TileState) (id : Nat) (r : Reservation),
    byList s l.val = some x → x.live = true → x.tiles.find? (fun t => t.rowList.isNone) = some k → k.request = some id → granted s id = some r → r.cells ≠ 0 →
    ∃ t y, exec (.tileReservation l) s = .next t ∧ byList t l.val = some y ∧ y.desc = x.desc ∧
      ∃ j ∈ y.tiles, j.index = k.index ∧ j.slot = k.slot ∧ j.rowList.isSome = true ∧ j.rowList = (makeChain s id 1 1).1) ∧
  (∀ (s : State) (via : Via) (tag : RowTag) (row : List Byte) (poison : List Nat) (x : Dispatch) (low : TileState) (id : Nat) (r : Reservation),
    let u := arrivalOf s via 1 tag.dispatchId.toNat tag.srcRank.toNat
    accepted s via → byId u tag.dispatchId.toNat = some x → byList u x.list = some x → x.live = true → tag.gen.toNat = x.d.gen → x.grantsDone = true →
    rowFault x tag.targets = none → (∀ g ∈ tag.targets, (tileOf x g.2.1 g.2.2).isSome = true) →
    (∃ g ∈ tag.targets, tileOf x g.2.1 g.2.2 = some low ∧ ∀ h ∈ tag.targets, g.2.1 < h.2.1 ∨ (g.2.1 = h.2.1 ∧ g.2.2 ≤ h.2.2)) →
    low.rowList.isSome = true → low.request = some id → granted u id = some r → x.d.rowCells ≠ 0 → x.d.rowCells ≤ r.cells →
    ∃ t y head, exec (.carryRow ⟨via, tag⟩ row poison) s = .next t ∧ byList t x.list = some y ∧ (makeChain u id x.d.rowCells tag.targets.length).1 = some head ∧
      ∀ g ∈ tag.targets, ∃ j ∈ y.tiles, (tileOf x g.2.1 g.2.2).map (·.index) = some j.index ∧ (g.2.2, head) ∈ j.landed) ∧
  (∀ (s : State) (m : Master) (addr : BitVec 42) (line : List Byte) (x : Dispatch) (k : TileState),
    let a := addr.toNat
    running s = true → byList s x.list = some x → s.dispatches.find? (fun x => x.live && decide (x.doneRange.1 ≤ a ∧ a < x.doneRange.1 + x.doneRange.2)) = some x →
    line.length = 64 → a % 64 = 0 → x.tiles.find? (fun t => t.seq == some ((a - x.d.done) / 64)) = some k → k.posted = false →
    ∃ t y, exec (.post m addr line) s = .next t ∧ byList t x.list = some y ∧ ∃ j ∈ y.tiles, j.index = k.index ∧ j.posted = true) ∧
  (∀ (s : State) (via : Via) (tag : RowTag) (row : List Byte) (poison : List Nat) (x : Dispatch) (g : Nat × Nat × Nat) (more : List (Nat × Nat × Nat)),
    let u := arrivalOf s via 1 tag.dispatchId.toNat (returnSource s tag)
    let n := x.d.rowBytes
    let a := x.d.ret + 32 * x.d.retPitch * (tag.token.toNat * x.d.kc + g.1)
    accepted s via → byId u tag.dispatchId.toNat = some x → byList u x.list = some x → x.live = true → tag.gen.toNat = x.d.gen → tag.targets = g :: more →
    n ≤ row.length → inTile a n → clean u → twf 0 u.mem = true →
    ∃ t y, exec (.returnRow ⟨via, tag⟩ row poison) s = .next t ∧ byList t x.list = some y ∧ y.returned = x.returned ++ [(tag.token.toNat, g.1)] ∧
      y.poisoned = (x.poisoned || !poison.isEmpty) ∧ memBytes t a n = row.take n ∧ ∀ b, ¬(a ≤ b ∧ b < a + n) → tget 0 t.mem b = tget 0 u.mem b)

/-- DISPATCH_ABORT, DISPATCH_TIMEOUT and DISPATCH_END complete. An abort of the dispatch's generation, whose frames are accepted, faults it with 0xD and the sender's rank; a time
since its start above DISPATCH_TIMEOUT faults it with 0xC, and a first fault stands; before that time the dispatch stays. One of which every row has come and gone, or that has faulted
and of which nothing remains in flight, ends with its record, where the return slots of its choices that were not admitted are mapped, and the others stay (08_routing_exchange.md
R307, R308, R312 to R314). -/
def Obligations.ExchangeEnds : Prop :=
  (∀ (s : State) (via : Via) (h : DispatchHeader) (x : Dispatch),
    let u := arrivalOf s via 1 h.dispatchId.toNat h.srcRank.toNat
    accepted s via → byId u h.dispatchId.toNat = some x → byList u x.list = some x → x.live = true → u.awaited = [] → h.gen.toNat = x.d.gen →
    ∃ t y, exec (.dispatchAbort ⟨via, h⟩) s = .next t ∧ byList t x.list = some y ∧ y.fault = 0xD ∧ y.faultRank = h.srcRank.toNat ∧ t.lastDispatchFault = 0xD) ∧
  (∀ (s : State) (l : Fin 4) (x : Dispatch), byList s l.val = some x →
    let limit := getReg s EXCH 0x030
    (∀ st, x.started = some st → limit ≠ 0 → limit + 4 < s.time - st →
      ∃ t y, exec (.dispatchTimeout l) s = .next t ∧ byList t l.val = some y ∧ y.fault = (if x.fault = 0 then 0xC else x.fault) ∧
        (x.fault = 0 → t.lastDispatchFault = 0xC)) ∧
    (∀ st, x.started = some st → limit = 0 ∨ max (tget 0 s.readings EXCH) s.time - st ≤ limit →
      ∃ t, exec (.dispatchTimeout l) s = .next t ∧ t.dispatches = s.dispatches ∧ t.regs = s.regs ∧ t.cores = s.cores ∧ memoryKept s t) ∧
    (dispatchOver s x = true →
      (x.fault ≠ 0 ∨ ∀ c ∈ x.choices, c.status ≠ 1 → inTile (x.d.ret + 32 * x.d.retPitch * (c.token * x.d.kc + c.rank)) x.d.rowBytes) →
      ∃ t, exec (.dispatchEnd l) s = .next t ∧ byList t l.val = none ∧ ∀ k, k ≠ l.val → byList t k = byList s k))

/-! ### The solver units -/

/-- SOLVER_DESCRIPTOR_READ, HEAD_DEADLINE, CHOL, INV and IROOT complete. A channel that may read a descriptor takes a good one that waits for no launch as its head job; one that R359
refuses ends at once. A head job whose absolute deadline a reading has passed ends with LATE, and one whose deadline no reading has passed stays. A free unit takes the job that is
chosen for it: the channel's ring advances and its head is free; the job runs with its plan from its first step on where it assembles nothing, or assembles without a statistic, or
with one whose header lies clean in a tile store and fits it. The other units and channels are as before (10_curvature_solver.md R360 to R365, R377, R385). -/
def Obligations.SolverTakes : Prop :=
  (∀ (s : State) (c : Fin 16),
    let tail := getReg s SOLVER (0x118 + 32 * c.val)
    let r := readSpan .solverRecord s (ringAddr (getReg s SOLVER (0x100 + 32 * c.val)) (fld (getReg s SOLVER (0x108 + 32 * c.val)) 4 0) tail 128) 128
    let u := r.2
    let d := solvDesc (ofBytes r.1.data)
    s.heads.length = 16 → channelReady s c.val = true → r.1.poison = [] →
    (solverBad d = false → d.arm = false →
      ∃ t h, exec (.solverDescriptorRead c) s = .next t ∧ getHead t c.val = some h ∧ h.desc = BitVec.ofNat 1024 (ofBytes r.1.data) ∧ h.waits = none ∧
        h.armFail = false ∧ h.arrived = h.armedAt ∧ h.arrived ≤ max (tget 0 u.readings SOLVER) u.time ∧ u.time ≤ h.arrived + 4 ∧
        (∀ k, k ≠ c.val → getHead t k = getHead s k) ∧ t.regs = u.regs ∧ t.units = s.units ∧ memoryKept u t ∧ t.cores = s.cores) ∧
    (solverBad d = true → twf 0 u.regs = true →
      ∃ t, exec (.solverDescriptorRead c) s = .next t ∧ getHead t c.val = none ∧ t.lastSolverFault = 1 ∧
        getReg t SOLVER (0x118 + 32 * c.val) = (getReg u SOLVER (0x118 + 32 * c.val) + 1) % 2 ^ 32 ∧
        (∀ k, k ≠ c.val → getHead t k = getHead s k) ∧ t.units = s.units ∧ t.cores = s.cores)) ∧
  (∀ (s : State) (c : Fin 16) (h : HeadJob) (dl : Nat), s.heads.length = 16 → getHead s c.val = some h → headDeadline h = some dl →
    (dl + 4 < s.time → ∃ t, exec (.headDeadline c) s = .next t ∧ getHead t c.val = none ∧ t.lastSolverFault = 3 ∧ t.units = s.units ∧
      ∀ k, k ≠ c.val → getHead t k = getHead s k) ∧
    (max (tget 0 s.readings SOLVER) s.time ≤ dl → ∃ t, exec (.headDeadline c) s = .next t ∧ t.heads = s.heads ∧ t.regs = s.regs ∧ t.units = s.units ∧
      t.cores = s.cores ∧ memoryKept s t)) ∧
  (∀ (s : State) (u : Fin 4) (c : Nat) (h : HeadJob) (alg : Fin 3),
    let d := solvDesc h.desc.toNat
    let i : Instr := if alg = 0 then .chol u else if alg = 1 then .inv u else .iroot u
    let plain := d.assemble = false ∨ (d.visited = false ∧ d.init = false ∧ fmag d.alpha = 0)
    let read := d.assemble = true ∧ d.visited = false ∧ (d.init = true ∨ fmag d.alpha ≠ 0) ∧ clean s ∧ inTile d.stat 64 ∧
      ∃ p, statHeader d (ofBytes (memBytes s d.stat 64)) = .inr p
    s.heads.length = 16 → s.units.length = 4 → twf 0 s.regs = true → getUnit s u.val = none → (blk s SOLVER).enabled = true → (blk s SOLVER).disabling = false →
    (blk s SOLVER).errorStopped = false → chooseHead s u.val = some (c, h) → d.alg = alg.val + 1 →
    ∃ t, exec i s = .next t ∧ getHead t c = none ∧ (∀ k, k ≠ c → getHead t k = getHead s k) ∧ (∀ k, k ≠ u.val → getUnit t k = getUnit s k) ∧ t.cores = s.cores ∧
      getReg t SOLVER (0x118 + 32 * c) = (getReg s SOLVER (0x118 + 32 * c) + 1) % 2 ^ 32 ∧ (plain ∨ read → getUnit t u.val ≠ none) ∧
      ∀ j, getUnit t u.val = some j → j.channel = c ∧ j.desc = h.desc ∧ j.headAt = h.arrived ∧ headDeadline h = some j.deadline ∧
        j.plan = jobPlan d (strictChannel c) ∧ j.total = j.plan.length ∧ j.done = 0 ∧ j.retried = false ∧
        (read → statHeader d (ofBytes (memBytes s d.stat 64)) = .inr (j.samples, j.full)))

/-- SOLVER_STEP completes for a job whose deadline no reading has passed and whose workspace shows no error: the plan goes on by one step, and the unit holds what the step computes.
A job that assembles nothing reads its factor's blocks. Damping adds λI to the factor, and an element that it makes infinite or NaN ends the job with NONFINITE; a Cholesky panel adds
its columns of L, and a pivot that is NaN ends the job, a tiny one ends it or, on a lenient channel the first time, factorises again with more damping; Z is L⁻ᵀL⁻¹; a refinement step
and an iteration of the inverse root replace their matrices, the setup scales by a power of two, and the iteration diverges, converges, runs out or goes on; the writeback reads its
slot (10_curvature_solver.md R366, R368 to R378). -/
def Obligations.SolverSteps : Prop :=
  ∀ (s : State) (u : Fin 4) (j : SolverJob) (k : Nat × Nat) (rest : List (Nat × Nat)),
    let d := solvDesc j.desc.toNat
    let leaves := fun (y : Option SolverJob) (t : State) => exec (.solverStep u) s = .next t ∧ getUnit t u.val = y ∧ ∀ m, m ≠ u.val → getUnit t m = getUnit s m
    let runs := fun (j' : SolverJob) => ∃ t, leaves (some j'.stepDone) t ∧ t.heads = s.heads ∧ t.regs = s.regs ∧ t.cores = s.cores
    let ends := fun (code : Nat) => ∃ t, leaves none t ∧ t.lastSolverFault = code
    s.units.length = 4 → getUnit s u.val = some j → j.plan = k :: rest → max (tget 0 s.readings SOLVER) s.time ≤ j.deadline → clean s →
    (k.1 = 3 ∨ k.1 = 5 ∨ k.1 = 9 ∨ (k.1 ∈ [6, 7, 10] ∧ k.2 ≠ 1) → runs j) ∧
    (k.1 = 0 → d.assemble = false → d.init = false → inTile d.factorIn d.bytes →
      let read := (((blockList d.m).drop (32 * k.2)).take 32).flatMap (fun b => words4 (memBytes s (d.factorIn + 16384 * blockIndex d.m b.1 b.2) 16384))
      read.all isFinite = true → runs { j with factor := j.factor ++ read, factorDone := false }) ∧
    (k.1 = 4 → runs { j with panel := k.2, column := 64 }) ∧
    (k = (6, 1) → runs { j with aux := zFrom d.n (invertLower d.n j.chol) }) ∧
    (k = (7, 1) → runs { j with aux := (refineZ d.n j.work j.aux).1, resid := (refineZ d.n j.work j.aux).2 }) ∧
    (k.1 = 8 → ∃ up : Int, runs { j with work := j.work.map (fun x => toF32 ((ofF32 x).scale (-(d.p * up)))), aux := scaledEye d.n (-up), chol := [] }) ∧
    (k.1 = 1 →
      let lam := dampingOf d j
      let a := buildMat d.n (fun i m => if i = m then fadd (blockAt d.m j.factor i i) lam else blockAt d.m j.factor i m)
      if a.any (fun w => !isFinite w) = true then ends 6
      else runs { j with lambda := lam, work := a, dMax := largest ((List.range d.n).map (fun i => matAt d.n a i i)), chol := [], panel := 0, column := 0 }) ∧
    (k.1 = 2 →
      let p := panelColumns d j.work j.dMax 64 (64 * k.2) j.chol (if d.alg = 1 ∧ k.2 ≠ 0 then some j.resid else none) 0
      if p.1 = .fine then runs { j with chol := p.2.1, panel := k.2, column := p.2.2.2, resid := if d.alg = 1 then p.2.2.1.getD 0 else j.resid }
      else if p.1 = .nonfinite then ends 6
      else if strictChannel j.channel = true then ends 5
      else if j.retried = true then ends 4
      else ∃ t y, leaves (some y) t ∧ y.retried = true ∧ y.done = j.done ∧ y.desc = j.desc ∧
        y.plan = (1, 0) :: factorSteps d.m ++ rest.filter (fun x => x.1 != 2 && x.1 != 3)) ∧
    (k = (10, 1) →
      let x := (rootIterate d.n d.p4 j.aux j.work).1
      let m := (rootIterate d.n d.p4 j.aux j.work).2
      let r := rootResid d.n m
      let n := j.iter + 1
      let j' := { j with aux := x, work := m, resid := r, iter := n }
      let small := fltLe (ofF32 r) (.fin false 1 (-(d.tol : Int)))
      let tail := (List.range (min d.refine (d.maxIter - n))).flatMap (fun _ => iterSteps d) ++ [(11, 0)]
      if isNaN r = true ∨ 0x40000000 < fmag r then ends 7
      else if j.convergedAt = none ∧ small = true then
        ∃ t, leaves (some ({ j'.stepDone with convergedAt := some n, plan := tail, total := j.done + 1 + tail.length } : SolverJob).reached) t
      else if j.convergedAt = none ∧ n = d.maxIter then ends 8
      else runs j') ∧
    (k.1 = 11 → j.slot = none → max (tget 0 s.readings SOLVER) s.time + writebackTime d ≤ j.deadline → inTile d.slot 64 →
      let v := ofBytes (memBytes s d.slot 64)
      let buf := if bit v 0 then fld v 469 428 else fld v 511 470
      slotBad v = false → inTile buf (32 * d.pitch * d.n) → d.n * d.width ≤ 32 * d.pitch → ∃ t, leaves (some { j with slot := some (BitVec.ofNat 512 v) }) t)

/-- JOB_DEADLINE and DELIVERY complete. A running job whose deadline a reading has passed ends with LATE, and one whose deadline none has passed runs on; a delivery in time writes the
slot's leading granule, in one write, with the version one higher and the other buffer named, and frees the unit (10_curvature_solver.md R378, R381, R385). -/
def Obligations.SolverEnds : Prop :=
  ∀ (s : State) (u : Fin 4) (j : SolverJob), s.units.length = 4 → getUnit s u.val = some j →
    (j.deadline + 4 < s.time → ∃ t, exec (.jobDeadline u) s = .next t ∧ getUnit t u.val = none ∧ t.lastSolverFault = 3 ∧ t.heads = s.heads ∧
      ∀ k, k ≠ u.val → getUnit t k = getUnit s k) ∧
    (max (tget 0 s.readings SOLVER) s.time ≤ j.deadline →
      (∃ t, exec (.jobDeadline u) s = .next t ∧ t.units = s.units ∧ t.regs = s.regs ∧ t.heads = s.heads ∧ t.cores = s.cores ∧ memoryKept s t) ∧
      (∀ (v : BitVec 512) (n : Fin 128) (a r : Nat), let d := solvDesc j.desc.toNat
        j.slot = some v → d.slot = tileBase n.val + 64 * a → d.record = tileBase n.val + 64 * r → a < 65536 → r < 65536 → a ≠ r →
        clean s → twf 0 s.mem = true →
        ∃ t T, exec (.delivery u) s = .next t ∧ getUnit t u.val = none ∧ T ≤ max (tget 0 s.readings SOLVER) s.time ∧ s.time ≤ T + 4 ∧
          memBytes t d.slot 32 = bytesOf (slotGranule d v.toNat T) 32 ∧ memBytes t (d.slot + 32) 32 = memBytes s (d.slot + 32) 32 ∧
          (∀ k, k ≠ u.val → getUnit t k = getUnit s k)))

/-! ### Collectives -/

/-- TABLE_LOAD, COLL_RING_RECORD and POST_PORT complete. A write of COLL.TABLE_LOAD by the host, on a powered module, replaces the entries it names, and only them; one by another
master, of no entries, beyond the table, or of an entry in use is rejected, and nothing else changes. On a READY module a good record with a stepped group that names this rank, an
INDEX and ordinal not held and no launch to wait for is posted: from a ring, whose TAIL advances, and from the post port, which holds it back while 64 collectives are held; a part of
a granule of the post port is discarded and counted (11_collectives.md R388, R389, R394 to R397). -/
def Obligations.CollectivesPost : Prop :=
  (∀ (s : State) (v : Word64),
    let first := fld v.toNat 9 0
    let n := fld v.toNat 20 10
    let refused := n = 0 ∨ 1024 < first + n ∨ ∃ c ∈ s.collectives, first ≤ c.id.index.toNat ∧ c.id.index.toNat < first + n
    let rd := (readSpan .collRecord s (getReg s COLL 0x028) (128 * n)).1
    let u := (readSpan .collRecord s (getReg s COLL 0x028) (128 * n)).2
    running s = true →
    (∀ m, m ≠ .host ∨ refused → exec (.tableLoad m v) s = .next { s with tableReject := true }) ∧
    (¬ refused → rd.poison ≠ [] → exec (.tableLoad .host v) s = .next { u with tableReject := true }) ∧
    (¬ refused → rd.poison = [] → rd.data.length = 128 * n → twf 0 s.collTable = true →
      ∃ t, exec (.tableLoad .host v) s = .next t ∧ t = { u with tableReject := false, collTable := t.collTable } ∧
        ∀ i, tget 0 t.collTable i = if first ≤ i ∧ i < first + n then BitVec.ofNat 1024 (ofBytes ((rd.data.drop (128 * (i - first))).take 128)) else tget 0 s.collTable i)) ∧
  (∀ (s : State) (keeper : Bool) (m : Master) (g : Fin 2),
    let entry := fun (v : Nat) => tget 0 s.collTable (fld v 117 108)
    let good := fun (v self : Nat) => let e := collEntry (entry v).toNat
      fld v 3 0 = 1 ∧ fld v 7 4 = 1 ∧ fld v 106 8 = 0 ∧ bit v 107 = false ∧ entryBad s e = false ∧ e.list = 0 ∧
      ((List.range e.size).map (fun i => e.base + i * e.stride)).idxOf? (ownRank s) = some self ∧ (∀ x ∈ s.collectives, x.armFail = false) ∧
      ∀ x ∈ s.collectives, x.id ≠ ⟨BitVec.ofNat 10 (fld v 117 108), BitVec.ofNat 32 (fld v 165 134)⟩ ∧ x.ordinal ≠ fld v 165 134 * 2 ^ 16 + e.ordinal
    let posts := fun (u t : State) (v self : Nat) => ∃ c : Collective, t.collectives = s.collectives ++ [c] ∧ c.record = BitVec.ofNat 256 v ∧ c.entry = entry v ∧
      c.id = ⟨BitVec.ofNat 10 (fld v 117 108), BitVec.ofNat 32 (fld v 165 134)⟩ ∧ c.self = self ∧ c.state = 0 ∧ c.waits = none ∧ c.contributions = [] ∧
      memoryKept u t ∧ t.cores = s.cores
    let base := if keeper then 0x060 else 0x040
    let r := readSpan .collRecord s (ringAddr (getReg s COLL base) (getReg s COLL (base + 8)) (getReg s COLL (base + 0x18)) 32) 32
    let room := isReady s = true ∧ s.collectives.length < 64 ∧ (blk s COLL).errorStopped = false
    (∀ self : Nat, twf 0 s.regs = true → r.2.regs = s.regs → collRingReady s base = true → r.1.poison = [] → good (ofBytes r.1.data) self →
      ∃ t, exec (.collRingRecord keeper) s = .next t ∧ getReg t COLL (base + 0x18) = (getReg s COLL (base + 0x18) + 1) % 2 ^ 32 ∧ posts r.2 t (ofBytes r.1.data) self) ∧
    (∀ (data : List Byte) (self : Nat), running s = true → data.length = 32 → room → good (ofBytes data) self →
      ∃ t, exec (.postPort m g data) s = .next t ∧ t.regs = s.regs ∧ posts s t (ofBytes data) self) ∧
    (∀ data : List Byte, running s = true → data.length = 32 → ¬ room →
      exec (.postPort m g data) s = .next { s with posted := s.posted ++ [(m, regBase + 65536 * COLL + 0x200 + 32 * g.val, data)] }) ∧
    (∀ data : List Byte, running s = true → data.length ≠ 32 → exec (.postPort m g data) s = .next (count s COLL 0x0D0 32)))

/-- COLLECTIVE_OPEN, OPEN_MESSAGE, ALL_REDUCE, REDUCE_SCATTER, ALL_GATHER, REDUCE, BROADCAST and PERMUTE complete. The collective that may open next opens, with nothing else of it
changed; an OPEN of its generation and digest from a member not heard before, whose frames are accepted, is noted, and nothing else of the module changes. A collective whose members
have all been heard starts, where its slot is enabled and has no commit pending; one without a bitmap and headers, with its destination inside one tile store, is in its data phase at
once, and a movement has sent all its source units (11_collectives.md R392, R400 to R403; 02_number_formats.md R71, R93). -/
def Obligations.CollectivesRun : Prop :=
  (∀ (s : State) (c : Collective), collOf s c.id = some c → (∀ x ∈ s.collectives, x.armFail = false) → nextToOpen s = some c → s.heldMessages = [] →
    ∃ t T, exec .collectiveOpen s = .next t ∧ collOf t c.id = some { c with state := 1, opened := T } ∧ T ≤ max (tget 0 s.readings COLL) s.time ∧ s.time ≤ T + 4 ∧
      (∀ k, k ≠ c.id → collOf t k = collOf s k)) ∧
  (∀ (s : State) (via : Via) (c : Collective) (src : BitVec 12) (i : Nat),
    let u := arrivalOf s via 2 c.id.index.toNat src.toNat
    accepted s via → collOf u c.id = some c → c.state ≠ 0 → c.members.idxOf? src.toNat = some i → i ∉ c.heard →
    exec (.openMessage ⟨via, src⟩ c.id (BitVec.ofNat 16 c.e.gen) (collDigest c)) s =
      .next (updColl u c.id (fun x => if x.heard.contains i then x else { x with heard := x.heard ++ [i] }))) ∧
  (∀ (s : State) (c : Collective) (i : Instr) (op : Nat),
    let slot := (numericOf c.e.num).slot
    (i, op) ∈ [(.allReduce c.id, 1), (.reduceScatter c.id, 2), (.allGather c.id, 3), (.reduce c.id, 4), (.broadcast c.id, 5), (.permute c.id, 6)] →
    collOf s c.id = some c → c.state = 1 → c.e.op = op → c.heard.length = c.members.length → (c.writes = true → stewardOn s slot = true ∧ slotPending (slotBits s slot) = false) →
    c.e.bitmap = 0 → c.e.hdr = false → (c.e.reduces = false → c.e.scaled = false) → c.dataPhase = false → c.contributions = [] → c.sourceDone = [] → inTile c.e.dst (c.e.unitBytes * c.e.units) →
    ∃ t y, exec i s = .next t ∧ collOf t c.id = some y ∧ y.state = 2 ∧ y.dataPhase = true ∧ y.entry = c.entry ∧ y.members = c.members ∧ y.heard = c.heard ∧
      (c.e.reduces = false → y.sourceDone = (List.range c.srcUnits.2).map (· + c.srcUnits.1)) ∧ (∀ k, k ≠ c.id → collOf t k = collOf s k))

/-- PRESENCE_MESSAGE, CONTRIBUTION and RESULT complete once their frames are accepted, and REDUCTION_BATCH in its collective's turn. What arrives for an open collective is kept for
its start: presence bits as a member's or as the group's, and a contribution in a new chain of pool cells; a batch that is not the last of its unit is noted as performed, with one
outcome more where it travels on. A whole unit of a result, in a format that is not scaled, lands in its destination inside a tile store: its bytes are there, every other byte of
local memory is as before, and the unit is done (11_collectives.md R406, R408, R409, R411, R412; 12_memory_system.md R444). -/
def Obligations.CollectivesMove : Prop :=
  (∀ (s : State) (via : Via) (c : Collective) (src : BitVec 12),
    let u := arrivalOf s via 2 c.id.index.toNat src.toNat
    let next := fun (t : State) (y : Collective) => collOf t c.id = some y ∧ ∀ k, k ≠ c.id → collOf t k = collOf u k
    accepted s via → collOf u c.id = some c →
    (∀ (first i : Nat) (bits : List Bool), c.state = 1 → c.e.bitmap ≠ 0 → c.dataPhase = false → c.members.idxOf? src.toNat = some i → i ≠ c.self →
      first + bits.length ≤ c.e.units → bits ≠ [] →
      ∃ t, exec (.presenceMessage ⟨via, src⟩ c.id first bits) s = .next t ∧ t = { u with collectives := t.collectives } ∧
        next t (if i = c.e.owner first then { c with known := c.known ++ (bits.zipIdx).map (fun b => (first + b.2, b.1)) }
          else { c with presence := c.presence ++ [(i, first, bits)] })) ∧
    (∀ (unit off i : Nat) (part : Bool) (data : List Byte) (poison : List Nat),
      let g := data.length / 32
      let n := ceilDiv data.length 256
      let r := requestCells u 2 src.toNat n
      c.state ≠ 0 → c.e.reduces = true → c.members.idxOf? src.toNat = some i → i ≠ c.self → unit < c.e.units → data ≠ [] → data.length % 32 = 0 → g ≤ 2048 →
      (c.e.terms c.self unit).flatten.find? (fun t => t.1 == i && i != c.self) = some (i, part) → off + g ≤ c.e.travel part →
      (List.range g).any (fun k => (c.pieceOf i unit (off + k)).isSome) = false → u.awaited = [] → (∃ q, granted r.2 r.1 = some q ∧ n ≤ q.cells) →
      ∃ t head, exec (.contribution ⟨via, src⟩ c.id (BitVec.ofNat 16 c.e.gen) unit off data poison) s = .next t ∧ (makeChain r.2 r.1 n 1).1 = some head ∧
        t.chains = (makeChain r.2 r.1 n 1).2.chains ∧ next t { c with contributions := c.contributions ++ [⟨i, unit, off, g, head, [], []⟩] }) ∧
    (∀ (unit off : Nat) (n : Fin 128) (data : List Byte),
      let a := c.e.dst + c.e.unitBytes * unit
      c.state = 2 → c.e.op = 1 → c.e.reduces = true → c.e.scaled = false → c.e.hdr = false → src.toNat ∈ c.members → unit < c.e.units → c.e.owner unit ≠ c.self →
      c.e.spreadsTo c.self unit = [] → data.length = c.e.unitBytes → 0 < c.e.len → unit ∉ c.results → c.landed = [] →
      a = tileBase n.val + off → off + c.e.unitBytes ≤ 0x400000 → clean u → twf 0 u.mem = true →
      ∃ t y, exec (.result ⟨via, src⟩ c.id (BitVec.ofNat 16 c.e.gen) unit 0 data []) s = .next t ∧ collOf t c.id = some y ∧ y.results = c.results ++ [unit] ∧ y.landed = [] ∧
        memBytes t a c.e.unitBytes = data ∧ ∀ b, ¬(a ≤ b ∧ b < a + c.e.unitBytes) → tget 0 t.mem b = tget 0 u.mem b)) ∧
  (∀ (s : State) (c : Collective) (r : Fin 4) (unit batch : Nat), collOf s c.id = some c → nextTurn s = some c.id → batchReady c unit batch = true →
    (∃ b, b < c.e.batches ∧ b ≠ batch ∧ (unit, b) ∉ c.batches) → c.self ≠ c.e.owner unit →
    ∃ t y, exec (.reductionBatch r c.id unit batch 0) s = .next t ∧ collOf t c.id = some y ∧ t.collTurn = some c.id ∧ y.batches = c.batches ++ [(unit, batch)] ∧
      y.made.length = c.made.length + 1 ∧ y.results = c.results ∧ y.retries = c.retries ∧ ∀ k, k ≠ c.id → collOf t k = collOf s k)

/-- COLLECTIVE_ABORT, ORDER_TIMEOUT, START_TIMEOUT, RUN_TIMEOUT and COLLECTIVE_END complete. A member's abort, whose frames are accepted, ends a posted collective here with a fault: its
code where it blames this rank, and PEER otherwise; each time-out whose time has passed does; one whose units are all done and acknowledged and that has nothing poisoned ends without,
and with POISON otherwise (11_collectives.md R403 to R405, R411). -/
def Obligations.CollectivesEnd : Prop :=
  (∀ (s : State) (via : Via) (c : Collective) (src blamed : BitVec 12) (code : BitVec 8),
    let u := arrivalOf s via 2 c.id.index.toNat src.toNat
    accepted s via → collOf u c.id = some c → src.toNat ∈ c.members → code ≠ 0 →
    ∃ t, exec (.collectiveAbort ⟨via, src⟩ c.id code blamed) s = .next t ∧ collOf t c.id = none ∧ c.id ∈ t.collFaulted ∧
      t.lastCollFault = (if blamed.toNat = ownRank u then code.toNat else 0xA) ∧ ∀ k, k ≠ c.id → collOf t k = collOf u k) ∧
  (∀ (s : State) (c : Collective), collOf s c.id = some c →
    let faults := fun (i : Instr) (code : Nat) => ∃ t, exec i s = .next t ∧ collOf t c.id = none ∧ c.id ∈ t.collFaulted ∧ t.lastCollFault = code ∧
      ∀ k, k ≠ c.id → collOf t k = collOf s k
    (c.state = 0 → c.waits = none → c.armFail = false → predecessors s c ≠ [] → getReg s COLL 0x010 ≠ 0 → getReg s COLL 0x010 + 4 ≤ s.time - c.armedAt →
      faults (.orderTimeout c.id) 3) ∧
    (c.state = 1 → getReg s COLL 0x018 ≠ 0 → getReg s COLL 0x018 + 4 < s.time - c.opened → faults (.startTimeout c.id) 7) ∧
    (c.state = 2 → getReg s COLL 0x020 ≠ 0 → getReg s COLL 0x020 + 4 < s.time - c.startedAt → faults (.runTimeout c.id) 7) ∧
    (collDone s c = true → c.poisoned = false → ∃ t, exec (.collectiveEnd c.id) s = .next t ∧ collOf t c.id = none ∧ t.lastCollFault = s.lastCollFault ∧
      t.collFaulted = s.collFaulted ∧ ∀ k, k ≠ c.id → collOf t k = collOf s k) ∧
    (collDone s c = true → c.poisoned = true → faults (.collectiveEnd c.id) 9))

/-! ### The shared cache, the buffer pool and the controllers -/

/-- SWAP, CAS, FETCH_ADD, FETCH_AND, FETCH_OR, FETCH_XOR, FETCH_MAXU, FETCH_MINU, FETCH_MAXS, FETCH_MINS, ADD_F32, MAX_F32, MIN_F32, ADDV_F32 and PCIE_ATOMICOP complete. On a powered
module an atomic of a Keeper core that R438 does not refuse, at a granule with a clean code, replaces exactly its bytes by its function of the old value and the operand, and answers
the old value, the FP32 ones nothing; no other byte of local memory changes. One that arrives in a frame which its lane accepts and which passes the checks of R480 does the same at
the address that the checks give. A refused one is counted; a PCIe atomic completes as unsupported (12_memory_system.md R437, R438; 13_fabric_links.md R480). -/
def Obligations.AtomicsStore : Prop :=
  ∀ (s : State) (c : Fin 4) (addr : BitVec 42) (size : Nat) (v cmp : Word64) (x : F32),
    let a := addr.toNat
    let k : AtomicIssuer := .keeper c
    let old := ofBytes (memBytes s a size)
    let W := 2 ^ (8 * size)
    let y := v.toNat % W
    let stores := fun (t : State) (b n new : Nat) => memBytes t b n = bytesOf new n ∧ (∀ j, ¬(b ≤ j ∧ j < b + n) → tget 0 t.mem j = tget 0 s.mem j) ∧ t.cores = s.cores
    let does := fun (i : Instr) (n new : Nat) (answers : Bool) =>
      ∃ t, exec i s = .next t ∧ stores t a n new ∧ t.out = s.out ++ (if answers then [.atomicOld (BitVec.ofNat 64 old) false] else [])
    running s = true → clean s → twf 0 s.mem = true →
    ((size = 4 ∨ size = 8) → atomicRefused s 1 size a = false → atomicOff s a = false →
      does (.swap k addr size v) size y true ∧ does (.cas k addr size v cmp) size (if old = cmp.toNat % W then y else old) true ∧
      does (.fetchAdd k addr size v) size ((old + y) % W) true ∧ does (.fetchAnd k addr size v) size (old &&& y) true ∧
      does (.fetchOr k addr size v) size (old ||| y) true ∧ does (.fetchXor k addr size v) size (old ^^^ y) true ∧
      does (.fetchMaxu k addr size v) size (max old y) true ∧ does (.fetchMinu k addr size v) size (min old y) true ∧
      does (.fetchMaxs k addr size v) size (if toInt (8 * size) old < toInt (8 * size) y then y else old) true ∧
      does (.fetchMins k addr size v) size (if toInt (8 * size) y < toInt (8 * size) old then y else old) true) ∧
    (atomicRefused s 0xB 4 a = false → atomicOff s a = false → let z := BitVec.ofNat 32 (ofBytes (memBytes s a 4))
      does (.addF32 k addr x) 4 (fadd z x).toNat false ∧ does (.maxF32 k addr x) 4 (fmax z x).toNat false ∧ does (.minF32 k addr x) 4 (fmin z x).toNat false) ∧
    (∀ l : List F32, l.length = 8 → atomicRefused s 0xE 32 a = false → atomicOff s a = false →
      ∃ t, exec (.addvF32 k addr l) s = .next t ∧ t.out = s.out ∧ (∀ b, ¬(a ≤ b ∧ b < a + 32) → tget 0 t.mem b = tget 0 s.mem b) ∧
        ∀ i, i < 8 → memBytes t (a + 4 * i) 4 = bytesOf (fadd (BitVec.ofNat 32 (ofBytes (memBytes s (a + 4 * i) 4))) (l.getD i 0)).toNat 4) ∧
    (∀ (lane : Fin 96) (h : FrameHeader) (i : Instr) (op n w b : Nat), let f : AtomicIssuer := .link lane h
      let u := (acceptFrame s lane.val h).2
      (i, op, n, w) ∈ [(.swap f addr size v, 1, size, v.toNat), (.cas f addr size v cmp, 2, size, v.toNat), (.fetchAdd f addr size v, 3, size, v.toNat), (.fetchAnd f addr size v, 4, size, v.toNat),
        (.fetchOr f addr size v, 5, size, v.toNat), (.fetchXor f addr size v, 6, size, v.toNat), (.fetchMaxu f addr size v, 7, size, v.toNat), (.fetchMinu f addr size v, 8, size, v.toNat),
        (.fetchMaxs f addr size v, 9, size, v.toNat), (.fetchMins f addr size v, 0xA, size, v.toNat), (.addF32 f addr x, 0xB, 4, x.toNat), (.maxF32 f addr x, 0xC, 4, x.toNat),
        (.minF32 f addr x, 0xD, 4, x.toNat)] →
      (acceptFrame s lane.val h).1 = true → checkInbound u lane.val (.atomic op n) h = .inr b → atomicRefused u op n b = false → atomicOff u b = false →
      ∃ t, exec i s = .next t ∧ stores t b n (atomicValue op n (ofBytes (memBytes s b n)) w cmp.toNat)) ∧
    (atomicRefused s 1 size a = true → regionOf s a ≠ .unmapped → exec (.swap k addr size v) s = .next (emit (count s SCACHE 0x038 32) (.accessFault (.keeper c) a))) ∧
    (s.host.linkUp = true → s.host.inReset = false → exec (.pcieAtomicop addr) s = .next (emit s (.unsupported .host a)))

/-- LR and SC complete on a powered module, at an address that R438 allows, with a clean code. LR of a Keeper core answers the bytes and reserves their 128-byte line; SC stores while
that reservation stands, and every reservation of the line ends with it; without it nothing is stored (12_memory_system.md R439). -/
def Obligations.ReservationsHold : Prop :=
  ∀ (s : State) (c : Fin 4) (addr : BitVec 42) (size : Nat) (v : Word64),
    let a := addr.toNat
    running s = true → clean s → twf 0 s.mem = true → twf 0 s.reserved = true → (size = 4 ∨ size = 8) → atomicRefused s 1 size a = false → atomicOff s a = false →
    (∃ t, exec (.lr c addr size) s = .next t ∧ tget 0 t.reserved c.val = a / 128 + 1 ∧ t.out = s.out ++ [.readData (.keeper c) a (memBytes s a size) []] ∧
      t.mem = s.mem ∧ t.cores = s.cores) ∧
    (tget 0 s.reserved c.val = a / 128 + 1 → ∃ t, exec (.sc c addr size v) s = .next t ∧ memBytes t a size = bytesOf v.toNat size ∧
      (∀ b, ¬(a ≤ b ∧ b < a + size) → tget 0 t.mem b = tget 0 s.mem b) ∧ t.out = s.out ++ [.storeConditional true] ∧
      ∀ k, tget 0 t.reserved k ≠ a / 128 + 1) ∧
    (tget 0 s.reserved c.val ≠ a / 128 + 1 →
      exec (.sc c addr size v) s = .next (emit { s with reserved := tset 0 s.reserved c.val 0 } (.storeConditional false)))

/-- WCB_DRAIN, CACHE_DISABLED, POOL_RELEASE, MARGIN_SWEEP and MARGIN_SWEEP_END complete. A pseudo-channel's write-combining entries drain when four of them stand, which cover 1 KiB, its
controller holds 48, or one is 1 µs old, and no byte changes; a cache that was disabling becomes disabled and empty. On a powered module a release of a chain by its head takes one
from its count, and the last one returns its cells; a release of anything else only is counted and logged. A margin sweep starts on a disabled controller, and its end reports the last
passing step and whether a mismatch stopped it: 4,096 writes and reads a step are counted, and the pattern stays in the granules that the sweep writes, and in no other byte
(12_memory_system.md R429, R430, R435, R442, R451, R452). -/
def Obligations.CacheAndPool : Prop :=
  ∀ (s : State),
    (∀ (k : Fin 12) (pc : Fin 64),
      let mine := channelEntries s k.val pc.val
      let due := 4 ≤ mine.length ∨ 48 ≤ (s.wcb.filter (fun e => e.channel / 32 == k.val)).length ∨ ∃ e ∈ mine, e.since + 1000 ≤ s.time
      (due → ∃ t, exec (.wcbDrain k pc) s = .next t ∧ channelEntries t k.val pc.val = [] ∧
        t.wcb = s.wcb.filter (fun e => !(e.channel / 32 == k.val && e.channel % 32 * 2 + e.pseudo == pc.val)) ∧ memoryKept s t ∧ t.cores = s.cores ∧ t.cacheLines = s.cacheLines) ∧
      (¬ due → exec (.wcbDrain k pc) s = .next s)) ∧
    (twf {} s.blocks = true → (blk s SCACHE).enabled = true → (blk s SCACHE).disabling = true →
      ∃ t, exec .cacheDisabled s = .next t ∧ isEnabled t SCACHE = false ∧ (blk t SCACHE).disabling = false ∧ t.cacheLines = [] ∧ memoryKept s t ∧ t.cores = s.cores) ∧
    (running s = true → ∀ (m : Master) (addr : BitVec 42),
      let a := addr.toNat
      (∀ c, chainAt s a = some c →
        (c.count ≤ 1 → ∃ t, exec (.poolRelease m addr) s = .next t ∧ t.chains = s.chains.filter (fun x => x.head != a) ∧ a ∈ t.freedHeads ∧ t.cores = s.cores ∧ memoryKept s t) ∧
        (1 < c.count → exec (.poolRelease m addr) s = .next { s with chains := mapIf (fun x => x.head == a) (fun x => { x with count := x.count - 1 }) s.chains })) ∧
      (chainAt s a = none → twf 0 s.regs = true → ∃ t, exec (.poolRelease m addr) s = .next t ∧ getReg t POOL 0x058 = satAdd 32 (getReg s POOL 0x058) 1 ∧
        t.chains = s.chains ∧ t.cores = s.cores)) ∧
    (∀ (k : Fin 12) (v : Word64), running s = true → twf 0 s.regs = true → bit v.toNat 22 = true → isEnabled s (MEMC k.val) = false → ((s.margins[k.val]?).getD {}).busy = false →
      ∃ t, exec (.marginSweep k v) s = .next t ∧ t.margins = s.margins.set k.val { busy := true, failed := false, passing := 0 } ∧
        getReg t (MEMC k.val) 0x058 = v.toNat % 2 ^ 23 ∧ memoryKept s t ∧ t.cores = s.cores) ∧
    (∀ (k : Fin 12) (p : Fin 128) (f : Bool), ((s.margins[k.val]?).getD {}).busy = true →
      let pc := fld (getReg s (MEMC k.val) 0x058) 21 16
      let steps := p.val + b2n f
      let counted := fun (t : State) (off : Nat) => getReg t (MEMC k.val) off = satAdd 48 (getReg s (MEMC k.val) off) (4096 * steps)
      ∃ t, exec (.marginSweepEnd k p f) s = .next t ∧ t.margins = s.margins.set k.val { busy := false, failed := f, passing := p.val } ∧ t.cores = s.cores ∧
        (steps ≠ 0 → (sweepAddr s k.val pc 0).isSome = true → twf 0 s.regs = true → counted t 0x020 ∧ counted t 0x028) ∧
        (steps = 0 → memoryKept s t ∧ t.regs = s.regs) ∧
        ∀ b, (∀ g a, g < 4096 → sweepAddr s k.val pc g = some a → a / 32 ≠ b / 32) → tget 0 t.mem b = tget 0 s.mem b)

/-! ### Lanes, frames and time -/

/-- LANE_TRAINING, LANE_RETRAIN, IDENTITY_EXCHANGE, CREDIT_EXCHANGE, TRAINING_TIMEOUT, KEEPALIVE_SEND, LANE_SILENCE and FRAME_REPLAY complete. A lane that is enabled starts training, or
again 100 ms after it FAILED; the peer's identity and versions decide its version and its plan result, and this module sends its own; the credits bring it UP; 20 ms without an end, or
a peer without a common version, leave it FAILED. A lane that has been silent for 1 ms sends a KEEPALIVE; one that has heard nothing for 3 ms leaves UP and trains again; a replay
sends every frame not yet acknowledged again, in order, and counts it, and a fifth one takes the lane out of UP (13_fabric_links.md R457 to R464, R469). -/
def Obligations.Lanes : Prop :=
  ∀ (s : State) (l : Fin 96), s.lanes.length = 96 →
    let x := getLane s l.val
    let others := fun (t : State) => (∀ k, k ≠ l.val → getLane t k = getLane s k) ∧ t.cores = s.cores
    let lane := fun (t : State) (y : Lane) => getLane t l.val = y ∧ others t
    let fresh := { x with status := 1, major := 0, minor := 0, result := 0, partner := 0, peerKnown := false, trainStart := s.time }
    (laneEnabled s l.val = true → (x.status = 0 ∨ x.status = 3 ∨ x.status = 5) → ∃ t, exec (.laneTraining l) s = .next t ∧ lane t fresh) ∧
    (laneEnabled s l.val = true → x.status = 4 → x.failedAt + 100000000 ≤ s.time → ∃ t, exec (.laneRetrain l) s = .next t ∧ lane t fresh) ∧
    (x.status = 4 → s.time < x.failedAt + 100000000 → exec (.laneRetrain l) s = .next s) ∧
    (∀ (sw : BitVec 32) (port : BitVec 16), x.status = 1 → x.peerKnown = false →
      let met := { x with peerSwitch := sw, peerPort := port, peerKnown := true, partner := 0 }
      let planned := planPeer s l.val = at_ sw.toNat 16 + port.toNat
      (∀ (mn : Nat) (major : Fin 2), planUnused s l.val = false → planned → (major = 0 → laneDirect s l.val = true ∧ 2 ≤ mn) →
        ∃ t, exec (.identityExchange l sw port [(major.val + 1, mn)]) s = .next t ∧ t.out = s.out ++ [.identity l.val 0 (fabricId s) [(2, 0), (2, 1), (1, 2), (1, 3)]] ∧
          lane t { met with result := 1, major := major.val + 1, minor := if major = 0 then min 3 mn else min 1 mn }) ∧
      ∃ t, exec (.identityExchange l sw port []) s = .next t ∧ getLane t l.val = { met with result := 6, status := 4, everSettled := true, failedAt := s.time } ∧
        (planned → others t)) ∧
    (∀ credits, x.status = 1 → x.peerKnown = true → joinsPort s l.val = true →
      ∃ t, exec (.creditExchange l credits) s = .next t ∧ t = { s with lanes := t.lanes } ∧
        lane t { x with credits := credits, sendSeq := 0, recvSeq := 0, unacked := [], waiting := [], suspect := none, lastSent := s.time, lastHeard := s.time,
                        status := 2, everSettled := true, failedAt := s.time }) ∧
    (x.status = 1 → x.trainStart + 20000000 ≤ s.time →
      ∃ t, exec (.trainingTimeout l) s = .next t ∧ (getLane t l.val).status = 4 ∧ (getLane t l.val).failedAt = s.time ∧
        (getLane t l.val).result = (if x.peerKnown then x.result else if planUnused s l.val then 7 else 4) ∧ others t) ∧
    (x.status = 1 → s.time < x.trainStart + 20000000 → exec (.trainingTimeout l) s = .next s) ∧
    (x.status = 2 ∨ x.status = 3 → x.lastSent + 1000000 ≤ s.time →
      ∃ t h, exec (.keepaliveSend l) s = .next t ∧ t.out = s.out ++ [.frame l.val (linkWord h) h [] []] ∧ h.type = 0xB ∧ h.seq = BitVec.ofNat 12 x.sendSeq ∧
        (getLane t l.val).lastSent = s.time ∧ (getLane t l.val).sendSeq = (x.sendSeq + 1) % 4096 ∧ (getLane t l.val).status = x.status ∧ others t) ∧
    (x.status = 2 → laneEnabled s l.val = true → x.lastHeard + 3000000 ≤ s.time →
      ∃ t, exec (.laneSilence l) s = .next t ∧ (getLane t l.val).status = 1 ∧ (getLane t l.val).unacked = [] ∧ (getLane t l.val).trainStart = s.time ∧ t.cores = s.cores) ∧
    (x.status = 2 → s.time < x.lastHeard + 3000000 → exec (.laneSilence l) s = .next s) ∧
    (∀ f fs, x.status = 2 → x.unacked = f :: fs →
      let again := fun (f : Frame) => { f.header with ack := BitVec.ofNat 12 (x.recvSeq + 4095) }
      let off := 0x130 + 64 * (l.val % 12)
      (f.replays < 4 → twf 0 s.regs = true →
        ∃ t, exec (.frameReplay l) s = .next t ∧ t.out = s.out ++ (f :: fs).map (fun f => .frame l.val (linkWord (again f)) (again f) f.ext f.data) ∧
          lane t { x with unacked := (f :: fs).map (fun f => { f with replays := f.replays + 1 }), lastSent := s.time } ∧
          getReg t (LINK (l.val / 12)) off = satAdd 32 (getReg s (LINK (l.val / 12)) off) (f :: fs).length ∧ memoryKept s t) ∧
      (4 ≤ f.replays → laneEnabled s l.val = true → ∃ t, exec (.frameReplay l) s = .next t ∧ (getLane t l.val).status = 1 ∧ (getLane t l.val).unacked = []))

/-- READ, WRITE, WRITE_MASKED, RESPONSE, REMOTE_TIMEOUT, DEFER, RESUME_FRAME and WINDOW_WRITE complete, the frames where their lane accepts them. A READ that passes the checks of R480 on
clean tile-store bytes that no access keeps waiting is answered with its tag, status 0 and the stored bytes; a WRITE stores its granules and a WRITE_MASKED its bytes at their place,
each acknowledged, and every other byte stays. A response that answers a read of a DMA channel gives it its granules; one that comes within no 4 ms is given up, counted, and the
granules arrive poisoned. DEFER of a message of a flow that is not stopped stops the flow towards its destination; RESUME ends the stop, and every message of it counts as sent. On a
powered module a write of a half of a window entry that is not VALID takes the half, where the entry is legal; a VALID entry refuses every write but the one that clears VALID
(13_fabric_links.md R465, R466, R469, R471, R472, R478, R480, R481; 15_integrity_faults.md R553). -/
def Obligations.Frames : Prop :=
  (∀ (s : State) (l : Fin 96) (h : FrameHeader) (n : Fin 128) (off : Nat) (data : List Byte),
    let u := (acceptFrame s l.val h).2
    let a := tileBase n.val + off
    let len := 32 * (h.len.toNat + 1)
    let bytes := 2 ^ h.op.toNat
    let waits := fun (n : Nat) (w : Option (List Byte × List Nat)) => accessWaits u { master := .link l, addr := a, len := n, write := w, frame := some (l, h) } u.waitingAccesses
    let answered := fun (t : State) (bs : List Byte) =>
      leaves u t l.val { seq := 0, header := ownHeader u h.srcId.toNat 5 1 h.kind.toNat h.off.toNat (bs.length / 32 - 1) h.tag.toNat 0 0, data := bs }
    let stored := fun (t : State) (x : Nat) (bs : List Byte) => ∀ b, tget 0 t.mem b = if x ≤ b ∧ b < x + bs.length then bs.getD (b - x) 0 else tget 0 s.mem b
    (acceptFrame s l.val h).1 = true → clean s → twf 0 s.mem = true → s.dispatches = [] → s.posted = [] →
    (checkInbound u l.val .read h = .inr a → off + len ≤ 0x400000 → waits len none = false →
      ∃ t, exec (.read l h) s = .next t ∧ answered t (memBytes s a len) ∧ memoryKept s t ∧ t.cores = s.cores) ∧
    (checkInbound u l.val .write h = .inr a → off % 32 = 0 → off + len ≤ 0x400000 → data.length = len → framePoison h = 0 → waits len (some (data, [])) = false →
      ∃ t, exec (.write l h data) s = .next t ∧ answered t [] ∧ stored t a data ∧ t.guard = [] ∧ t.cores = s.cores) ∧
    (let part := (data.drop (off % 32)).take bytes
     checkInbound u l.val .masked h = .inr a → off % 32 + bytes ≤ 32 → off < 0x400000 → data.length = 32 → framePoison h = 0 → waits bytes (some (part, [])) = false →
      ∃ t, exec (.writeMasked l h data) s = .next t ∧ answered t [] ∧ stored t a part ∧ t.guard = [] ∧ t.cores = s.cores)) ∧
  (∀ (s : State) (c : Fin 32) (r : RemoteRequest) (j : DmaJob), s.dma.length = 32 → r.master = .dma c → r.isWrite = false → getJob s c.val = some j →
    (∀ x ∈ s.remote, x.held = none) →
    let ended := fun (t : State) => t.remote = s.remote.filter (fun x => x.tag != r.tag) ∧ t.cores = s.cores ∧ ∀ k, k ≠ c.val → getJob t k = getJob s k
    (∀ (l : Fin 96) (h : FrameHeader) (data : List Byte), (acceptFrame s l.val h).1 = true → s.remote.find? (fun r => r.tag == h.tag.toNat) = some r → h.op = 0 → framePoison h = 0 →
      ∃ t, exec (.response l h data) s = .next t ∧ ended t ∧ memoryKept s t ∧
        getJob t c.val = some { j with got := j.got ++ gotGranules r.addr (data.take (32 * r.granules)) (fun _ => false) }) ∧
    (∀ tag : BitVec 12, s.remote.find? (fun x => x.tag == tag.toNat && x.held.isNone && decide (x.sentAt + 4000000 ≤ s.time)) = some r → twf 0 s.regs = true →
      ∃ t j', exec (.remoteTimeout tag) s = .next t ∧ ended t ∧ getJob t c.val = some j' ∧ j'.poisonReads = j.poisonReads + r.granules ∧
        j'.got = j.got ++ gotGranules r.addr (List.replicate (32 * r.granules) 0) (fun i => (List.range r.granules).contains i) ∧
        fld (getReg t CHIP 0x0A8) 31 16 = satAdd 16 (fld (getReg s CHIP 0x0A8) 31 16) 1) ∧
    (∀ tag : BitVec 12, (∀ x ∈ s.remote, x.tag = tag.toNat → s.time < x.sentAt + 4000000) → exec (.remoteTimeout tag) s = .next s)) ∧
  (∀ (s : State) (l : Fin 96) (h : FrameHeader) (dst : Nat),
    let kind := h.op.toNat
    let flow := flowOf h
    let mine := fun (m : SentMessage) => m.kind == kind && m.flow == flow && m.dst == dst
    (let h' := { h with type := 8 }
     let u := (acceptFrame s l.val h').2
     (acceptFrame s l.val h').1 = true → flowRank u h' = some dst → (∃ m ∈ u.messages, mine m = true ∧ m.msg = msgOf h) → flowStopped u kind flow dst = false →
      exec (.defer l h) s = .next { u with deferred := u.deferred ++ [⟨kind, flow, dst, msgOf h⟩] }) ∧
    (let h' := { h with type := 9 }
     let u := (acceptFrame s l.val h').2
     (acceptFrame s l.val h').1 = true → flowRank u h' = some dst → flowStopped u kind flow dst = true →
      ∃ t, exec (.resumeFrame l h) s = .next t ∧ flowStopped t kind flow dst = false ∧ (∀ m ∈ t.messages, mine m = true → m.sent = true) ∧
        t.messages.length = u.messages.length ∧ t.cores = s.cores)) ∧
  (∀ (s : State) (hi : Bool) (v : Word64), running s = true → twf 0 s.windows = true → twf 0 s.regs = true →
    let k := getReg s FABRIC 0x030
    let old := (tget 0 s.windows k).toNat
    let new := if hi then setFld old 127 64 v.toNat else setFld old 63 50 (v.toNat / 2 ^ 50)
    (bit old 127 = false → windowIllegal new = false → ∃ t, exec (.windowWrite hi v) s = .next t ∧ (tget 0 t.windows k).toNat = new ∧
      (∀ i, i ≠ k → tget 0 t.windows i = tget 0 s.windows i) ∧ t.regs = s.regs ∧ t.cores = s.cores) ∧
    (bit old 127 = true → new = old - 2 ^ 127 → ∃ t, exec (.windowWrite hi v) s = .next t ∧ (tget 0 t.windows k).toNat = new ∧ t.windowRejected ≠ some k) ∧
    ((if bit old 127 then new ≠ old - 2 ^ 127 else windowIllegal new = true) →
      exec (.windowWrite hi v) s = .next { setReg s FABRIC 0x050 k with windowRejected := some k }))

/-- SYNC_EXCHANGE, SYNC, SYNC_REQUEST, SYNC_LOSS and TIMEPULSE complete, the frames where their lane accepts them. An exchange that is due leaves with the counter as t1; its answer gives
the offset θ, which is slewed away, but for a first one above 1,000 units, by which the counter steps forward; the time master answers on the same lane with its counter; 1 ms without
an exchange unlocks. On a powered module TIMEPULSE is counted and captures the counter, which a master with PULSE_EN aligns (13_fabric_links.md R485, R486; 17_module_physical.md R604). -/
def Obligations.TimeSyncs : Prop :=
  ∀ (s : State), s.lanes.length = 96 → twf 0 s.regs = true →
    (∀ p l, syncDue s = true → choosePort s (streamOf (.keeper 0)) (fld (getReg s FABRIC 0x058) 45 34) 0 = some p → portLane s p = some l →
      ∃ t f, exec .syncExchange s = .next t ∧ f.header.type = 0xA ∧ f.header.dstId = BitVec.ofNat 12 (fld (getReg s FABRIC 0x058) 45 34) ∧ f.data = laidOut .sync [s.time, 0] 1 ∧
        leaves s t l f ∧ t.sync = { s.sync with sentAt := some s.time, lastSent := s.time } ∧ t.time = s.time ∧ t.cores = s.cores ∧ t.regs = s.regs) ∧
    (∀ (l : Fin 96) (h : FrameHeader),
      let u := (acceptFrame s l.val { h with type := 0xA }).2
      (acceptFrame s l.val { h with type := 0xA }).1 = true →
      (∀ (t1 : Nat) (t2 t3 : Word64) (cf cr : Nat) (theta : Int), timeMaster s = false → s.sync.sentAt = some t1 →
        ((t2.toNat : Int) - t1 - cf) - ((s.time : Int) - t3.toNat - cr) = 2 * theta →
        ∃ t, exec (.sync l h ⟨t2, t3⟩ ⟨cf, cr⟩) s = .next t ∧ t.sync.sentAt = none ∧ t.sync.theta = theta ∧ t.cores = s.cores ∧ memoryKept s t ∧
          (s.sync.stepped = false ∧ 1000 < theta → (t.time : Int) = s.time + theta ∧ t.sync.stepped = true ∧ t.sync.correction = 0 ∧
            getReg t TIMEBASE 0x020 = satAdd 32 (getReg u TIMEBASE 0x020) 1) ∧
          (s.sync.stepped = true ∨ theta ≤ 1000 → t.time = s.time ∧ t.sync.correction = theta ∧ t.sync.stepped = s.sync.stepped ∧ t.regs = u.regs) ∧
          (20 < theta.natAbs → s.sync.bad = 3 → t.sync.lock = 0) ∧ (theta.natAbs ≤ 10 → s.sync.good = 15 → t.sync.lock = 2)) ∧
      (∀ (t1 : Word64) (cf : Nat), timeMaster s = true →
        ∃ t f, exec (.syncRequest l h t1 cf) s = .next t ∧ f.header.type = 0xA ∧ f.header.dstId = h.srcId ∧ f.data = laidOut .sync [t1.toNat, s.time, s.time, cf] 1 ∧
          leaves u t l.val f ∧ t.sync = s.sync ∧ t.time = s.time ∧ t.regs = u.regs ∧ t.cores = s.cores)) ∧
    (timeMaster s = false → s.sync.lock ≠ 0 → s.sync.lastExchange + 1000000 ≤ s.time →
      exec .syncLoss s = .next { s with sync := { s.sync with lock := 0, good := 0, bad := 0 } }) ∧
    (s.time < s.sync.lastExchange + 1000000 → exec .syncLoss s = .next s) ∧
    (let cfg := getReg s FABRIC 0x058
     let period := fld cfg 33 2
     running s = true → s.power.scanPins = false → ∃ t, exec .timepulse s = .next t ∧ t.pulseLast = s.time ∧ getReg t TIMEBASE 0x018 = satAdd 32 (getReg s TIMEBASE 0x018) 1 ∧
      t.cores = s.cores ∧ memoryKept s t ∧
      (timeMaster s = true → bit cfg 1 = true → 0 < period → s.time ≤ t.time ∧ t.time < s.time + period ∧ t.time % period = 0) ∧
      (timeMaster s = false ∨ bit cfg 1 = false → t.time = s.time))

/-! ### Start-up, the host and the Keeper -/

/-- COLD_RESET, WARM_RESET, IMAGE, CONFIG, SRAM_INIT, BRING_UP and READY complete. A cold reset without a trip samples the straps and resets every block but the non-volatile memory; a
write of 0x5A01 to RESET_CMD of a powered module begins at phase 2 again, counts the boot and keeps the timebase and PROFILE_REQUEST. In its phase, an image that verifies starts, the
one that ACTIVE names first; the objects of phase 3 that verify make the next state, and the first that fails stops the start with its code; phases 4 to 6 clear the memories, and an
uncorrectable error, or a failed channel that is not mapped out, stops the start; the module is then READY (14_startup_host.md R491 to R497, R502, R505). -/
def Obligations.StartUp : Prop :=
  ∀ (s : State),
    let stopped := fun (t : State) (code detail : Nat) => t.boot.state = 6 ∧ t.boot.error = code ∧ t.boot.detail = BitVec.ofNat 32 detail
    let stops := fun (i : Instr) (code detail : Nat) => ∃ t, exec i s = .next t ∧ stopped t code detail ∧ t.cores = s.cores
    let first := b2n (bit (ofBytes (nvmBytes s 0 8)) 32)
    let fails := fun (slot : Nat) => placeFailure s [] 1 slot
    let starts := fun (t : State) (slot : Nat) => t.boot.state = 1 ∧ t.boot.imageSlot = slot ∧ t.keeper.inReset = false ∧ t.keeper.watchdogAt = s.time
    (∀ p f : Fin 4, s.power.tripped = false → ∃ t, exec (.coldReset p f) s = .next t ∧ t.boot = { strapProfile := BitVec.ofNat 2 p.val, strapSlot := BitVec.ofNat 2 f.val } ∧
      t.nvm = s.nvm ∧ t.mem = [] ∧ t.regs = State.reset.regs ∧ t.cores = State.reset.cores ∧ t.dma = State.reset.dma ∧ t.time = 0 ∧ t.dispatches = [] ∧
      t.collectives = [] ∧ t.power.regulators = true ∧ t.power.modReset = false) ∧
    (∀ p f : Fin 4, s.power.tripped = true → exec (.coldReset p f) s = .next s) ∧
    (∀ v : Word64, running s = true → v.toNat % 2 ^ 16 = 0x5A01 → ∃ t, exec (.warmReset v) s = .next t ∧ t.boot.state = 7 ∧ t.boot.strapSlot = s.boot.strapSlot ∧ t.nvm = s.nvm ∧
      t.mem = [] ∧ t.time = s.time ∧ t.cores = State.reset.cores ∧ t.dispatches = [] ∧ getReg t CHIP 0x020 = satAdd 32 (getReg s CHIP 0x020) 1 ∧
      getReg t CHIP 0x030 = getReg s CHIP 0x030 ∧ t.host.linkUp = s.host.linkUp) ∧
    (∀ v : Word64, v.toNat % 2 ^ 16 ≠ 0x5A01 → exec (.warmReset v) s = .next s) ∧
    (running s = true → (s.boot.state = 0 ∨ s.boot.state = 7) →
      ∃ t, exec .image s = .next t ∧ t.regs = s.regs ∧ t.cores = s.cores ∧ memoryKept s t ∧
        if ofBytes (nvmBytes s 0 4) ≠ nvmMagic then stopped t 3 0
        else if fails first = 0 then starts t first
        else if fails (1 - first) = 0 then starts t (1 - first)
        else stopped t 4 (fails 0 + 16 * fails 1)) ∧
    (s.boot.state = 1 → s.keeper.inReset = false →
      let key := (objBody (nvmObject s 2 0)).take 57
      let p := (chosenProfile s).1
      let plan := (profileHead (objBody (nvmObject s 3 p))).plan
      ∃ t, exec .config s = .next t ∧ t.regs = s.regs ∧ t.cores = s.cores ∧ memoryKept s t ∧
        if placeFailure s [] 2 0 ≠ 0 then stopped t 5 (placeFailure s [] 2 0)
        else if profileFailure s key p ≠ 0 then stopped t 6 (p + 256 * profileFailure s key p)
        else if planFails s key plan = true then stopped t 7 plan
        else if placeFailure s key 5 0 ≠ 0 ∨ 32 < (markedChannels s).length then stopped t 8 (markedChannels s).length
        else t.boot.state = 2 ∧ t.boot.serialKnown = true ∧ t.boot.profile = BitVec.ofNat 2 p ∧ t.boot.plan = BitVec.ofNat 2 plan ∧
          t.boot.mappedOut = markedChannels s) ∧
    (s.boot.state = 2 → (∃ t, exec (.sramInit none) s = .next t ∧ t.boot.state = 3) ∧ ∀ b : Fin 1024, stops (.sramInit (some b)) 9 (65536 * b.val)) ∧
    (s.boot.state = 3 → (∃ t, exec (.bringUp none) s = .next t ∧ t.boot.state = 4 ∧ t.boot.configured = true ∧ t.boot.hbmDone = true ∧
        (2 ^ 40 ≤ getReg s KEEPER 0x020 → ∀ a, a < 2 ^ 40 → tget 0 t.mem a = 0)) ∧
      ∀ c : Fin 384, (c.val ∉ s.boot.mappedOut → stops (.bringUp (some c)) 0xA c.val) ∧
        (c.val ∈ s.boot.mappedOut → ∃ t, exec (.bringUp (some c)) s = .next t ∧ t.boot.state = 4 ∧ t.boot.hbmDone = true)) ∧
    (mayBeReady s = true → ∃ t, exec .ready s = .next t ∧ t.boot.state = 5 ∧ t.boot.detail = (if s.boot.identityOk then 0 else 0x80000000) ∧ t.regs = s.regs ∧
      t.cores = s.cores ∧ memoryKept s t)

/-- PERST_ASSERT, PERST_DEASSERT, PCIE_LINK_UP, PCIE_CONFIG_WRITE, MSIX_TABLE_WRITE, KEEPER_LATE, WATCHDOG, WATCHDOG_RESTART and TELEMETRY_SAMPLE complete. On a powered module PERST
resets the host interface alone, ends, and the link comes up; a write of the configuration space sets MSI-X Enable and Bus Master Enable, upon which pending vectors are sent, and a
write of the MSI-X table its four bytes. A late Keeper raises its interrupt: each source that has risen with EN = 1, where no message may leave, has its vector's pending bit set. A
write of KEEPER.WATCHDOG restarts its period; 50 ms without one restart the image, or, with a bad digest, hold the Keeper in reset and stop its block. A telemetry sample is one more
of the samples, and the end of a 10 ms interval adapts its period to the load (14_startup_host.md R494, R509, R511, R515, R518, R520, R521; 15_integrity_faults.md R555). -/
def Obligations.HostAndKeeper : Prop :=
  ∀ (s : State),
    (running s = true → s.power.scanPins = false →
      (s.host.inReset = false → ∃ t, exec .perstAssert s = .next t ∧ t.host.inReset = true ∧ t.host.linkUp = false ∧ t.host.msix = [] ∧ t.host.busMaster = false ∧
        t.host.queues = s.host.queues ∧ t.cores = s.cores ∧ t.blocks = s.blocks ∧ t.dispatches = s.dispatches ∧ t.boot = s.boot) ∧
      exec .perstDeassert s = .next { s with host := { s.host with inReset := false } } ∧
      (s.host.inReset = false → exec .pcieLinkUp s = .next { s with host := { s.host with linkUp := true } })) ∧
    (∀ e b : Bool, hostUp s = true → ∃ t, exec (.pcieConfigWrite e b) s = .next t ∧ t.host.msixEnable = e ∧ t.host.busMaster = b ∧ t.host.msix = s.host.msix ∧
      t.regs = s.regs ∧ t.cores = s.cores ∧ memoryKept s t ∧ ((e && b) = false → t.host.pendingBits = s.host.pendingBits ∧ t.out = s.out) ∧
      ((e && b) = true → ∀ k, k < 64 → bit s.host.pendingBits.toNat k = true → vectorMasked s k = false →
        bit t.host.pendingBits.toNat k = false ∧ .msi k (tget {} s.host.msix k).addr (tget {} s.host.msix k).data ∈ t.out)) ∧
    (∀ (off : Nat) (v : BitVec 32), hostUp s = true → off % 4 = 0 → off < 1024 → twf {} s.host.msix = true →
      let k := off / 16
      let e := tget {} s.host.msix k
      ∃ t, exec (.msixTableWrite off v) s = .next t ∧ (∀ i, i ≠ k → tget {} t.host.msix i = tget {} s.host.msix i) ∧ t.regs = s.regs ∧ t.cores = s.cores ∧
        (off % 16 = 8 → tget {} t.host.msix k = { e with data := v }) ∧ (off % 16 = 12 → tget {} t.host.msix k = { e with ctrl := v }) ∧
        (off % 16 = 0 → tget {} t.host.msix k = { e with addr := BitVec.ofNat 64 (e.addr.toNat / 2 ^ 32 * 2 ^ 32 + v.toNat) }) ∧
        (off % 16 = 4 → tget {} t.host.msix k = { e with addr := BitVec.ofNat 64 (v.toNat * 2 ^ 32 + e.addr.toNat % 2 ^ 32) })) ∧
    (keeperLate s = true → ∃ t, exec .keeperLate s = .next t ∧ t.host.lastLevels = highSources s ∧ t.cores = s.cores ∧ t.regs = s.regs ∧ memoryKept s t ∧
      ∀ k ∈ highSources s, k ∉ s.host.lastLevels → bit (getReg s HOSTIF (0x200 + 8 * k)) 6 = true → msiOn s = false →
        bit t.host.pendingBits.toNat (getReg s HOSTIF (0x200 + 8 * k) % 64) = true) ∧
    (∀ m : Master, running s = true → (m = .host → hostUp s = true) → ∃ t, exec (.watchdog m) s = .next t ∧ t.keeper = { s.keeper with watchdogAt := s.time } ∧ t.regs = s.regs ∧
      t.cores = s.cores ∧ memoryKept s t) ∧
    (twf 0 s.regs = true → keeperRuns s = true → s.keeper.watchdogAt + 50000000 ≤ s.time →
      (∃ t, exec (.watchdogRestart true) s = .next t ∧ t.keeper = { s.keeper with watchdogAt := s.time } ∧ t.reserved = [] ∧ t.cores = s.cores ∧
        getReg t KEEPER 0x010 = satAdd 32 (getReg s KEEPER 0x010) 1) ∧
      ∃ t, exec (.watchdogRestart false) s = .next t ∧ t.keeper = { s.keeper with inReset := true } ∧ keeperRuns t = false ∧ t.cores = s.cores) ∧
    (s.time < s.keeper.watchdogAt + 50000000 → ∀ ok, exec (.watchdogRestart ok) s = .next s) ∧
    (∀ load : Fin 101, keeperRuns s = true → isReady s = true → s.keeper.telemetryAt + 1000 * s.keeper.telemetryPeriod ≤ s.time →
      ∃ t, exec (.telemetrySample load) s = .next t ∧ t.keeper.samples = s.keeper.samples ++ [sampleValues s] ∧ t.keeper.telemetryAt = s.time ∧ t.keeper.load = load.val ∧
        (s.time < s.keeper.loadAt + 10000000 → t.keeper.telemetryPeriod = s.keeper.telemetryPeriod) ∧
        (s.keeper.loadAt + 10000000 ≤ s.time → s.time < s.keeper.loadAt + 20000000 → t.keeper.telemetryPeriod = adaptPeriod s.boot.telemetryBase load.val s.keeper.telemetryPeriod) ∧
        t = { s with keeper := t.keeper, freeCtr := t.freeCtr })

/-- OPEN_JOB, CLOSE_JOB, STEP_START, STEP_STOP, ATTEST, NVM_WRITE, CHECKPOINT and RESET complete: a command that is the next of the ring advances the command ring's TAIL and the reply
ring's HEAD and has its effect. A job is opened or closed; the step driver starts, and pulls the data of its first two steps, or is asked to stop; a signed report is written; an
object that verifies is stored, and ACTIVE names a new image; a checkpoint's interval is set; RESET then begins at phase 2. A command that is busy changes no more than the rings
(14_startup_host.md R495, R508, R525 to R527). -/
def Obligations.KeeperCommands : Prop :=
  ∀ (s : State), twf 0 s.regs = true → twf 0xFF s.nvm = true → cmdWaits s = true →
    let answers := fun (i : Instr) (effect : State → Prop) => ∃ t, exec i s = .next t ∧ getReg t KEEPER 0x070 = (getReg s KEEPER 0x070 + 1) % 2 ^ 32 ∧
      getReg t KEEPER 0x080 = (getReg s KEEPER 0x080 + 1) % 2 ^ 32 ∧ t.cores = s.cores ∧ effect t
    let pulls := fun (a : StepStartArgs) => match s.keeper.job with
      | some j => [a.firstStep, a.firstStep + 1].flatMap (fun n => j.feeders.map (pullCopy j.staging n))
      | none => []
    (∀ a : OpenJobArgs, cmdCode s = 1 → (s.keeper.job = none → answers (.openJob a) (fun t => t.keeper.job = some a ∧
        getReg t FABRIC 0x018 = a.rank.toNat * 2 ^ 16 + a.jobId.toNat ∧ t.rankCache = [] ∧ t.windowRejected = none)) ∧
      (s.keeper.job ≠ none → answers (.openJob a) (fun t => t.keeper.job = s.keeper.job ∧ t.windows = s.windows))) ∧
    (cmdCode s = 2 → (s.dispatches = [] ∧ s.collectives = [] → answers .closeJob (fun t => t.keeper.job = none ∧ getReg t FABRIC 0x018 = 0)) ∧
      (s.dispatches ≠ [] ∨ s.collectives ≠ [] → answers .closeJob (fun t => t.keeper.job = s.keeper.job ∧ t.windows = s.windows))) ∧
    (∀ a : StepStartArgs, cmdCode s = 3 →
      (s.driver.mode ≠ 1 → answers (.stepStart a) (fun t =>
        t.driver = { mode := 1, args := some a, step := a.firstStep, pulled := a.firstStep + 2, copies := s.driver.copies.filter (·.checkpoint) ++ pulls a })) ∧
      (s.driver.mode = 1 → answers (.stepStart a) (fun t => t.driver = s.driver))) ∧
    (cmdCode s = 4 → answers .stepStop (fun t => t.driver = { s.driver with stopAsked := true })) ∧
    (∀ (nonce : BitVec 256) (addr : BitVec 42), cmdCode s = 5 →
      let reply := getReg s KEEPER 0x078 + 64 * (getReg s KEEPER 0x080 % 2 ^ getReg s KEEPER 0x060)
      (s.boot.identityOk = false → answers (.attest nonce addr) (fun t => t.nvm = s.nvm ∧ t.driver = s.driver ∧ t.keeper = s.keeper)) ∧
      (s.boot.identityOk = true → clean s → twf 0 s.mem = true → inTile addr.toNat 512 → inTile reply 64 → (addr.toNat + 512 ≤ reply ∨ reply + 64 ≤ addr.toNat) →
        answers (.attest nonce addr) (fun t => t.nvm = s.nvm ∧ t.keeper = s.keeper ∧ ∃ T, memBytes t addr.toNat 512 = reportBytes s nonce T))) ∧
    (∀ (type : BitVec 8) (index : Fin 4) (src : BitVec 42) (len a size : Nat),
      let u := (takeCmd s).2
      let rd := (readSpan (.keeper 0) u src.toNat len).1
      let slot := writeIndex s type.toNat index.val
      let good := objFailure s.boot.ownerKey type.toNat size rd.data = 0
      let i : Instr := .nvmWrite type index src len
      cmdCode s = 6 →
      (nvmPlace type.toNat slot = some (a, size) → len ≤ size → rd.poison = [] → rd.data.length = len →
        (good → answers i (fun t => nvmBytes t a len = rd.data ∧ (type = 1 → b2n (bit (ofBytes (nvmBytes t 0 8)) 32) = slot) ∧
          ∀ b, ¬(a ≤ b ∧ b < a + ceilDiv len 4096 * 4096) → (type = 1 → 8 ≤ b) → tget 0xFF t.nvm b = tget 0xFF s.nvm b)) ∧
        (¬ good → answers i (fun t => t.nvm = s.nvm))) ∧
      (nvmPlace type.toNat slot = none → answers i (fun t => t.nvm = s.nvm))) ∧
    (∀ (interval : Nat) (addr : BitVec 64), cmdCode s = 7 →
      answers (.checkpoint interval addr) (fun t => t.keeper = { s.keeper with checkpointInterval := interval, checkpointAddr := addr })) ∧
    (cmdCode s = 8 → ∃ t, exec .reset s = .next t ∧ t.boot.state = 7 ∧ t.nvm = s.nvm ∧ t.time = s.time ∧ t.cores = State.reset.cores ∧
      getReg t CHIP 0x020 = satAdd 32 (getReg s CHIP 0x020) 1)

/-- STEP_STAGE and STEP_PLAN_ENTRY complete. A started driver with no copy of its own begins stage 1 of its step with nothing issued; one that waits for its step's data stays before
it. Where no record is newly written, a stage with nothing left to issue gives way to its next once the records are written that R317 names: stage 1's for 2, the loss launch's for 3,
stage 3's for the next micro-batch, none for 4, stages 4's, 5's and 6's for their next; stage 6 keeps the step only where the reduced vector's norms and flags are zero; stage 7
commits the slots written, and after it a driver asked to stop stops. An entry that is the next of its stage and whose AFTER entries have ended is issued where its queue or ring has
room (09_training_step.md R317, R337, R338; 14_startup_host.md R522 to R525). -/
def Obligations.DriverSteps : Prop :=
  ∀ (s : State) (a : StepStartArgs), keeperRuns s = true → isReady s = true → s.driver.mode = 1 → s.driver.args = some a → s.driver.abandoned = false →
    let d := s.driver
    let goes := fun (k : Nat) => exec .stepStage s = .next { s with driver := { d with stage := k } }
    (d.stage = 0 → d.issued = [] → d.copies = [] → d.beside = [] → ∃ t, exec .stepStage s = .next t ∧ t.driver.stage = 1 ∧ t.driver.step = d.step ∧ t.driver.micro = 0 ∧
      t.driver.issued = [] ∧ t.driver.ended = [] ∧ t.driver.keep = true ∧ t.driver.health = healthCounts s ∧ t.driver.written = [] ∧ t.cores = s.cores ∧ t.nvm = s.nvm) ∧
    (∀ c, d.stage = 0 → d.issued = [] → d.beside = [] → d.copies = [c] → c.issued = true → c.checkpoint = false → c.step = d.step →
      recordWritten s (dmaDesc c.desc.toNat).record = false → ∃ t, exec .stepStage s = .next t ∧ t.driver.stage = 0 ∧ t.driver.copies = [c] ∧ t = { s with driver := t.driver }) ∧
    (pushCopies (driverLook s) = s →
      (toIssue s a = [] →
        (d.stage = 1 → stageEnded s a 1 = true → goes 2) ∧ (d.stage = 2 → lossEnded s a = true → goes 3) ∧
        (d.stage = 3 → d.micro + 1 < a.microBatches → stageEnded s a 3 = true → exec .stepStage s = .next { s with driver := { d with stage := 2, micro := d.micro + 1 } }) ∧
        (d.stage = 3 → a.microBatches ≤ d.micro + 1 → goes 4) ∧ (d.stage = 4 → stageEnded s a 4 = true → goes 5) ∧
        (d.stage = 5 → stageEnded s a 5 = true → (∀ c ∈ d.copies, c.checkpoint = false) → (∃ i, i < a.entries ∧ reducesHealth s a i = true) →
          let rd := (readSpan (.keeper 0) s a.health.toNat 32).1
          ∃ t, exec .stepStage s = .next t ∧ t.driver.stage = 6 ∧ t.driver.keep = (d.keep && rd.poison.isEmpty && fld (ofBytes rd.data) 127 0 == 0) ∧ t.cores = s.cores) ∧
        (d.stage = 6 → stageEnded s a 6 = true → twf 0 s.steward = true → d.written.Nodup → (∀ k ∈ d.written, k < 4096) →
          ∃ t, exec .stepStage s = .next t ∧ t.driver = { d with stage := 7, written := [] } ∧ t.cores = s.cores ∧ memoryKept s t ∧
            ∀ k, k < 4096 → slotEnabled (slotBits s k) = true → slotWriters (slotBits s k) = 0 →
              slotCurrent (slotBits t k) = if k ∈ d.written then (commitValues (slotBits s k)).2 else slotCurrent (slotBits s k)) ∧
        (d.stage = 7 → (List.range 8).all (stageEnded s a) = true → d.stopAsked = true →
          ∃ t, exec .stepStage s = .next t ∧ t.driver.mode = 0 ∧ t.driver.stage = 0 ∧ t.driver.stopAsked = false ∧ t.cores = s.cores) ∧
        (d.stage = 7 → (List.range 8).all (stageEnded s a) = true → d.stopAsked = false → a.stepCount = 0 → s.keeper.checkpointInterval = 0 → d.copies = [] →
          ∃ t, exec .stepStage s = .next t ∧ t.driver.stage = 1 ∧ t.driver.step = d.step + 1 ∧ t.driver.issued = [] ∧ t.cores = s.cores)) ∧
      (∀ (i m : Nat) (rest : List (Nat × Nat)) (w : State),
        let e := planAt s a i
        let p := readSpan (.keeper 0) s (a.plan.toNat + 32 * i) 32
        let r := planEntryOf (ofBytes p.1.data)
        let q := readSpan (.keeper 0) p.2 r.addr (recordBytes r.kind)
        1 ≤ d.stage → toIssue s a = (i, m) :: rest → afterEnded s a e m e.after1 = true → afterEnded s a e m e.after2 = true → rangeWritten s a e = true →
        reducesHealth s a i = false → p.1.poison = [] → q.1.poison = [] →
        pushRecord (clearTypes q.2 (recordTargets r.kind (ofBytes q.1.data))) r.kind r.target q.1.data = some w →
        exec (.stepPlanEntry i) s = .next { w with driver := { w.driver with issued := w.driver.issued ++ [(i, m)] } }))

/-- READ_PAGE, PROGRAM_PAGE, ERASE_SECTOR and NVM_DIRECT_DONE complete, the first three on a powered module. A direct command is taken while DIRECT_ENABLE holds and none is busy, and
refused otherwise; its end reads the page into the buffer, clears the page's bits that the buffer clears, or erases the sector, and no other byte of the memory changes; a failed one
changes none. A page is 256 bytes and a sector 4 KiB (14_startup_host.md R498, R531). -/
def Obligations.DirectCommands : Prop :=
  ∀ (s : State), twf 0xFF s.nvm = true → twf 0 s.regs = true →
    let addr := getReg s NVMIF 0x010
    let page := addr / 256 * 256
    let sector := addr / 4096 * 4096
    (∀ p ∈ [(Instr.readPage, 1), (.programPage, 2), (.eraseSector, 3)], running s = true →
      (nvmDirect s = true → s.nvmBusy = none → exec p.1 s = .next { s with nvmBusy := some p.2, nvmRefused := false }) ∧
      (nvmDirect s = false ∨ s.nvmBusy ≠ none → exec p.1 s = .next { s with nvmRefused := true })) ∧
    (∀ op, s.nvmBusy = some op → exec (.nvmDirectDone true) s = .next { s with nvmBusy := none, nvmRefused := true }) ∧
    (s.nvmBusy = some 1 → ∃ t, exec (.nvmDirectDone false) s = .next t ∧ t.nvmBusy = none ∧ t.nvm = s.nvm ∧
      ∀ j, j < 32 → getReg t NVMIF (0x018 + 8 * j) = ofBytes (nvmBytes s (page + 8 * j) 8)) ∧
    (s.nvmBusy = some 2 → ∃ t, exec (.nvmDirectDone false) s = .next t ∧ t.nvmBusy = none ∧ t.regs = s.regs ∧
      ∀ b, tget 0xFF t.nvm b = if page ≤ b ∧ b < page + 256 then
        tget 0xFF s.nvm b &&& BitVec.ofNat 8 (getReg s NVMIF (0x018 + (b - page) / 8 * 8) / 2 ^ (8 * ((b - page) % 8))) else tget 0xFF s.nvm b) ∧
    (s.nvmBusy = some 3 → ∃ t, exec (.nvmDirectDone false) s = .next t ∧ t.nvmBusy = none ∧ t.regs = s.regs ∧
      ∀ b, tget 0xFF t.nvm b = if sector ≤ b ∧ b < sector + 4096 then 0xFF else tget 0xFF s.nvm b)

/-- REGISTER_WRITE completes: on a powered module an aligned 8-byte write of a writable register, by a unit, the Keeper, or the host once BAR0 answers, stores the value's defined bits;
while the block counts as enabled, an RWD register keeps its own, and a write that differs is shown as rejected; a read-only register keeps its contents; no other register, core or
memory byte changes (16_register_interface.md R562, R567). -/
def Obligations.RegistersWrite : Prop :=
  ∀ (s : State) (m : Master) (b off mask : Nat) (rwd : Bool) (data : List Byte), running s = true → twf 0 s.regs = true → twf {} s.blocks = true →
    (m = .host → hostUp s = true ∧ s.boot.configured = true) → data.length = 8 →
    ((b, off, mask, rwd) ∈ [(KEEPER, 0x040, 2 ^ 13 - 1, false), (PWR, 0x028, 2 ^ 10 - 1, false), (COLL, 0x028, 2 ^ 42 - 2 ^ 7, false), (EXCH, 0x078, 2 ^ 32 - 1, false),
      (CORE 5, 0x0D8, 2 ^ 48 - 1, false), (POOL, 0x018, 2 ^ 19 - 1, true), (EXCH, 0x030, 2 ^ 32 - 1, true), (FABRIC, 0x018, 2 ^ 28 - 1, true),
      (NUMERIC, 0x010, 2 ^ 47 - 1, true), (FORAGE, 0x008, 2 ^ 32 - 1, true)] →
      let kept := rwd && blockEnabled s b
      ∃ t, exec (.registerWrite m (BitVec.ofNat 10 b) (BitVec.ofNat 16 off) data) s = .next t ∧
        getReg t b off = (if kept then getReg s b off &&& mask else ofBytes data &&& mask) ∧
        (∀ x, x < 4096 → x ≠ off → getReg t b x = getReg s b x) ∧ (∀ c x, c ≠ b → x < 4096 → getReg t c x = getReg s c x) ∧
        (kept = true → (getReg s b off ^^^ ofBytes data) &&& mask ≠ 0 → (blk t b).rejected = true) ∧ t.cores = s.cores ∧ memoryKept s t) ∧
    (exec (.registerWrite m (BitVec.ofNat 10 KEEPER) 0x020 data) s = .next (dropCapture s m KEEPER))

/-! ### Power, temperatures, SMBus and the test access port -/

/-- Input power above 1,700 W over 10 µs raises the power controller's proposal by two steps, to 6 at most, at once and is counted, and the 1 ms evaluation goes on from there;
every change of the applied step is counted, and writes no record and no log entry: nothing but the power controllers' own state and that counter changes
(17_module_physical.md R594, R595). -/
def Obligations.Throttles : Prop :=
  ∀ (s : State), twf 0 s.regs = true → running s = true →
    let only := fun (t : State) (off : Nat) => getReg t PWR off = satAdd 32 (getReg s PWR off) 1 ∧ (∀ k, k ≠ regKey PWR off → tget 0 t.regs k = tget 0 s.regs k) ∧
      t = { s with power := t.power, regs := t.regs }
    (∃ t, exec .fastLimit s = .next t ∧ only t 0x078 ∧ t.power.powerStep = min 6 (s.power.powerStep + 2) ∧ t.power.applied = s.power.applied ∧
      t.power.thermalStep = s.power.thermalStep ∧
      ∀ watts, ∃ u, exec (.powerEvaluation watts) t = .next u ∧
        (powerLimit s < watts → s.power.overFor < 7 → u.power.powerStep = min 6 (t.power.powerStep + 1)) ∧
        (watts ≤ powerLimit s → s.power.calm < 9 → u.power.powerStep = t.power.powerStep)) ∧
    (proposedStep s ≠ s.power.applied → ∃ t, exec .frequencyStep s = .next t ∧ only t 0x070 ∧ t.power = { s.power with applied := proposedStep s }) ∧
    (proposedStep s = s.power.applied → exec .frequencyStep s = .next s)

/-- POWER_EVALUATION, FAST_LIMIT, THERMAL_EVALUATION, FREQUENCY_STEP, THERMAL_TRIP, INPUT_EXCURSION, BROWN_OUT, POWER_LOSS and MOD_RESET_ASSERT complete, the first four and excursions on
a powered module. At the end of an interval the power controller's step rises by one above the limit, goes to 6 in the eighth interval above it in a row, and falls by one after ten
intervals at least 50 W below; the fast limiter raises it by two; the thermal controller does the same with its temperature; the applied step becomes the highest proposed. A junction
of 115 °C or a stack of 105 °C turns the module off and latches; an excursion within R591's limits is ridden through and counted in READY, ends a start that runs, and beyond them is a
brown-out; without power all but the non-volatile memory is lost, and 1 s without it clears the latch; MOD_RESET_N low for 10 µs holds every block in reset with the regulators on
(00_scope.md R8; 17_module_physical.md R587, R590 to R597, R599, R601). -/
def Obligations.PowerAndInputs : Prop :=
  ∀ (s : State),
    let p := s.power
    let off := fun (t : State) => t.power.regulators = false ∧ t.nvm = s.nvm ∧ t.mem = [] ∧ t.cores = State.reset.cores ∧ t.boot = State.reset.boot
    (running s = true →
      (∀ watts : Nat, ∃ t, exec (.powerEvaluation watts) s = .next t ∧ t.power.pin = watts ∧ t.power.thermalStep = p.thermalStep ∧ t.power.applied = p.applied ∧
        t.cores = s.cores ∧ memoryKept s t ∧
        (powerLimit s < watts → p.overFor < 7 → t.power.powerStep = min 6 (p.powerStep + 1) ∧ t.power.overFor = p.overFor + 1) ∧
        (powerLimit s < watts → 7 ≤ p.overFor → t.power.powerStep = 6) ∧
        (watts + 50 ≤ powerLimit s → p.calm = 9 → t.power.powerStep = p.powerStep - 1) ∧
        (watts + 50 ≤ powerLimit s → p.calm < 9 → t.power.powerStep = p.powerStep ∧ t.power.calm = p.calm + 1) ∧
        (watts ≤ powerLimit s → powerLimit s < watts + 50 → t.power.powerStep = p.powerStep ∧ t.power.calm = 0 ∧ t.power.overFor = 0)) ∧
      (∃ t, exec .fastLimit s = .next t ∧ t.power.powerStep = min 6 (p.powerStep + 2) ∧ t.power.thermalStep = p.thermalStep ∧ t.cores = s.cores ∧ memoryKept s t) ∧
      (∀ d0 d1 e st : List Nat, let tj := max (hottest d0) (max (hottest d1) (hottest e))
        ∃ t, exec (.thermalEvaluation d0 d1 e st) s = .next t ∧ t.power.die0 = hottest d0 ∧ t.power.die1 = hottest d1 ∧ t.power.exch = hottest e ∧
          t.power.stackTemps = st ∧ t.power.powerStep = p.powerStep ∧ t = { s with power := t.power } ∧
          (throttleTemp s ≤ tj → t.power.thermalStep = min 6 (p.thermalStep + 1)) ∧
          (tj + 5 < throttleTemp s → p.coolReadings = 9 → t.power.thermalStep = p.thermalStep - 1) ∧
          (tj < throttleTemp s → throttleTemp s ≤ tj + 5 → t.power.thermalStep = p.thermalStep ∧ t.power.coolReadings = 0)) ∧
      (∃ t, exec .frequencyStep s = .next t ∧ t.power.applied = max p.powerStep (max p.thermalStep (capStep s)) ∧ t.cores = s.cores ∧ memoryKept s t)) ∧
    (∀ j k : Nat, p.inputPresent = true → p.tripped = false →
      (115 ≤ j ∨ 105 ≤ k → ∃ t, exec (.thermalTrip j k) s = .next t ∧ off t ∧ t.power.tripped = true) ∧ (j < 115 → k < 105 → exec (.thermalTrip j k) s = .next s)) ∧
    (∀ mv us : Nat,
      (running s = false ∨ (46000 ≤ mv ∧ mv ≤ 56000) → exec (.inputExcursion mv us) s = .next s) ∧
      (running s = true → mv < 42000 ∨ 57500 < mv ∨ ((mv < 46000 ∨ 56000 < mv) ∧ 1000 < us) → ∃ t, exec (.inputExcursion mv us) s = .next t ∧ off t ∧
        t.power.tripped = p.tripped) ∧
      (running s = true → us ≤ 1000 → ((42000 ≤ mv ∧ mv < 46000) ∨ (56000 < mv ∧ mv ≤ 57500)) →
        (isReady s = true → exec (.inputExcursion mv us) s = .next (count s PWR 0x068 32)) ∧
        (s.boot.state ≠ 5 → s.boot.state ≠ 6 → ∃ t, exec (.inputExcursion mv us) s = .next t ∧ t.boot.state = 6 ∧ t.boot.error = 1 ∧ t.cores = s.cores))) ∧
    (∃ t, exec .brownOut s = .next t ∧ off t ∧ t.power.tripped = p.tripped) ∧
    (∀ ms : Nat, ∃ t, exec (.powerLoss ms) s = .next t ∧ off t ∧ t.power.inputPresent = false ∧ t.power.tripped = (p.tripped && decide (ms < 1000))) ∧
    (∀ us : Nat, p.scanPins = false → (10 ≤ us → ∃ t, exec (.modResetAssert us) s = .next t ∧ t.power.modReset = true ∧
        t.power.regulators = p.regulators ∧ t.nvm = s.nvm ∧ t.mem = [] ∧ t.cores = State.reset.cores) ∧
      (us < 10 → exec (.modResetAssert us) s = .next s))

/-- SMB_BOOT_STATE, SMB_INPUT_POWER, SMB_TJ_MAX, SMB_HBM_T_MAX, SMB_FREQ_ALERT, SMB_LIMIT_CUT_READ, SMB_SERIAL, SMB_READ_REGISTER, SMB_SELECT_REGISTER, SMB_LIMIT_CUT_WRITE,
SMB_ALERT_RESPONSE, BYPASS, SAMPLE_PRELOAD, EXTEST, EXTEST_PULSE, EXTEST_TRAIN, HIGHZ, CLAMP, IDCODE and TEST_LOGIC_RESET complete. From the end of phase 1 on, each SMBus read answers
its bytes with the packet error code over address, code, address and data, and before that none is acknowledged; a write with a bad code changes nothing; the alert response is the
module's address while ALERT_N is asserted. Each instruction of the test access port is loaded while the regulators are on; those that drive the pins take them from the module's
logic; IDCODE shifts out 0x1960_078B; TRST_N leaves no instruction loaded, and the pins as they are (17_module_physical.md R606 to R608; the packet error code's polynomial is
assumption log 38). -/
def Obligations.SmbusAndScan : Prop :=
  ∀ (s : State),
    let a := 2 * (0x58 + s.boot.strapSlot.toNat)
    let reads := [(Instr.smbBootState, 1, [s.boot.state % 16]), (.smbInputPower, 2, [s.power.pin % 256, s.power.pin / 256 % 256]), (.smbTjMax, 3, [tjMax s % 256]),
      (.smbHbmTMax, 4, [hbmTMax s % 256]), (.smbFreqAlert, 5, [16 * (s.power.applied % 8) + alertBits s]),
      (.smbLimitCutRead, 6, [getReg s PWR 0x028 % 256, getReg s PWR 0x028 / 256 % 256]),
      (.smbSerial, 7, 8 :: (bytesOf (if s.boot.serialKnown then Config.serialNumber.toNat else 0) 8).map (·.toNat)),
      (.smbReadRegister, 9, 8 :: (bytesOf (selectedRegister s) 8).map (·.toNat))]
    (∀ r ∈ reads, (smbAnswers s = true →
        exec r.1 s = .next { s with out := s.out ++ [.smbus ((r.2.2 ++ [pec ([a, r.2.1, a + 1] ++ r.2.2)]).map (BitVec.ofNat 8))] }) ∧
      (smbAnswers s = false → exec r.1 s = .next { s with out := s.out ++ [.smbusNack] })) ∧
    (smbAnswers s = true → (∀ v, exec (.smbSelectRegister v true) s = .next { s with smbSelect := v } ∧ exec (.smbSelectRegister v false) s = .next s) ∧
      ∀ v : BitVec 16, exec (.smbLimitCutWrite v false) s = .next s ∧
        exec (.smbLimitCutWrite v true) s = .next (setReg s PWR 0x028 (v.toNat % 2 ^ 10))) ∧
    (smbAnswers s = true → alertBits s ≠ 0 → ∃ t b, exec .smbAlertResponse s = .next t ∧ t.out = s.out ++ [.smbus b] ∧ (b.headD 0).toNat / 2 = a / 2 ∧ b.length = 2 ∧
      t.regs = s.regs ∧ t.cores = s.cores) ∧
    (smbAnswers s = false ∨ alertBits s = 0 → exec .smbAlertResponse s = .next { s with out := s.out ++ [.smbusNack] }) ∧
    (s.power.regulators = true →
      (∀ r ∈ [(Instr.bypass, 0, false), (.samplePreload, 2, false), (.extest, 3, true), (.extestPulse, 4, true), (.extestTrain, 5, true), (.highz, 6, true),
        (.clamp, 7, true)],
        ∃ t, exec r.1 s = .next t ∧ t.power = { s.power with scan := some r.2.1, scanPins := s.power.scanPins || r.2.2 } ∧
          t.host = { s.host with linkUp := s.host.linkUp && !r.2.2 } ∧ t = { s with power := t.power, host := t.host }) ∧
      (∃ t, exec .idcode s = .next t ∧ t.power = { s.power with scan := some 1 } ∧ t.out = s.out ++ [.tdo 1 0x1960078B] ∧ t = { s with power := t.power, out := t.out })) ∧
    exec .testLogicReset s = .next { s with power := { s.power with scan := none } }

/-! ### Whole-machine rules -/

/-- No command stops the block, whatever its state: the device's own faults and refusals are effects on its state (assumption log 3). -/
def Obligations.NothingStops : Prop := ∀ (c : Instr) (s : State), ∃ t, exec c s = .next t

/-- The memories and the register table keep their canonical form at every step, so that equal contents are equal data. -/
def Obligations.CanonicalKept : Prop := ∀ (s t : State), Memory.wf s = true → step s = .next t → Memory.wf t = true

/-- The state after reset is in canonical form, with every core idle and nothing on its way; CHIP.BOOT_STATE is ROM. -/
def Obligations.CanonicalAtReset : Prop :=
  Memory.wf State.reset = true ∧ State.reset.pending = [] ∧ State.reset.boot.state = 0 ∧ ∀ n : Fin 128, getCore State.reset n.val = {}
end

