-- ==== Sys2Proof/Laws/Table.lean ====
section
/-! SUPPORT. Laws of sparse tables: what a read gives after a write, and that every write keeps the canonical form. -/

namespace Sys2Proof.Machine

variable {α : Type} [DecidableEq α] {d : α}

/-- Every key of a table lies above a bound. -/
theorem tget_of_lt {t : Table α} {k : Nat} (h : ∀ p ∈ t, k < p.1) : tget d t k = d := by
  induction t with
  | nil => rfl
  | cons p t ih =>
    obtain ⟨k', v⟩ := p
    have h1 := h (k', v) (by simp)
    have : k' ≠ k := by simp at h1; omega
    simp only [tget, this, if_false]
    exact ih (fun q hq => h q (by simp [hq]))

theorem twf_cons {k : Nat} {v : α} {t : Table α} :
    twf d ((k, v) :: t) = true ↔ v ≠ d ∧ (∀ p ∈ t, k < p.1) ∧ twf d t = true := by
  simp [twf, and_assoc]

/-- Keys of a table after a write are the old ones and the written one. -/
theorem tset_keys {t : Table α} {k : Nat} {v : α} : ∀ p ∈ tset d t k v, p.1 = k ∨ ∃ q ∈ t, q.1 = p.1 := by
  induction t with
  | nil => intro p hp; simp only [tset] at hp; split at hp <;> simp_all
  | cons q t ih =>
    obtain ⟨k', v'⟩ := q
    intro p hp
    simp only [tset] at hp
    split at hp
    · split at hp
      · exact .inr ⟨p, hp, rfl⟩
      · rcases List.mem_cons.mp hp with rfl | hp
        · exact .inl rfl
        · exact .inr ⟨p, hp, rfl⟩
    · split at hp
      · split at hp
        · exact .inr ⟨p, List.mem_cons_of_mem _ hp, rfl⟩
        · rcases List.mem_cons.mp hp with rfl | hp
          · exact .inl rfl
          · exact .inr ⟨p, List.mem_cons_of_mem _ hp, rfl⟩
      · rcases List.mem_cons.mp hp with rfl | hp
        · exact .inr ⟨(k', v'), by simp, rfl⟩
        · rcases ih p hp with h | ⟨q, hq, h⟩
          · exact .inl h
          · exact .inr ⟨q, List.mem_cons_of_mem _ hq, h⟩

/-- A write keeps the canonical form. -/
theorem twf_tset {t : Table α} (h : twf d t = true) (k : Nat) (v : α) : twf d (tset d t k v) = true := by
  induction t with
  | nil => simp only [tset]; split <;> simp_all [twf]
  | cons q t ih =>
    obtain ⟨k', v'⟩ := q
    obtain ⟨h1, h2, h3⟩ := twf_cons.mp h
    simp only [tset]
    split
    · rename_i hk
      split
      · exact h
      · rename_i hv
        refine twf_cons.mpr ⟨hv, ?_, h⟩
        intro p hp
        rcases List.mem_cons.mp hp with rfl | hp
        · exact hk
        · exact Nat.lt_trans hk (h2 p hp)
    · split
      · rename_i hk
        split
        · exact h3
        · rename_i hv
          subst hk
          exact twf_cons.mpr ⟨hv, h2, h3⟩
      · refine twf_cons.mpr ⟨h1, ?_, ih h3⟩
        intro p hp
        rcases tset_keys p hp with h | ⟨q, hq, h⟩
        · omega
        · rw [← h]; exact h2 q hq

/-- Consecutive writes keep the canonical form. -/
theorem twf_tsetList {t : Table α} (h : twf d t = true) (k : Nat) (vs : List α) : twf d (tsetList d t k vs) = true := by
  induction vs generalizing t k with
  | nil => exact h
  | cons v vs ih => exact ih (twf_tset h k v) (k + 1)

/-- A read at another key is unchanged by a write. -/
theorem tget_tset_ne {t : Table α} {k j : Nat} {v : α} (hj : j ≠ k) (h : twf d t = true) : tget d (tset d t k v) j = tget d t j := by
  induction t with
  | nil => simp only [tset]; split <;> simp [tget, Ne.symm hj]
  | cons q t ih =>
    obtain ⟨k', v'⟩ := q
    obtain ⟨-, h2, h3⟩ := twf_cons.mp h
    simp only [tset]
    split
    · split
      · rfl
      · simp [tget, Ne.symm hj]
    · split
      · rename_i hk
        subst hk
        split
        · simp [tget, Ne.symm hj]
        · simp [tget, Ne.symm hj]
      · simp only [tget]; split <;> simp_all

/-- A read of the written key gives the written value. -/
theorem tget_tset_eq {t : Table α} {k : Nat} {v : α} (h : twf d t = true) : tget d (tset d t k v) k = v := by
  induction t with
  | nil => simp only [tset]; split <;> simp_all [tget]
  | cons q t ih =>
    obtain ⟨k', v'⟩ := q
    obtain ⟨-, h2, h3⟩ := twf_cons.mp h
    simp only [tset]
    split
    · rename_i hk
      split
      · rename_i hv
        have : k' ≠ k := by omega
        simp only [tget, this, if_false, hv]
        exact tget_of_lt (fun p hp => Nat.lt_trans hk (h2 p hp))
      · simp [tget]
    · split
      · rename_i hk
        subst hk
        split
        · rename_i hv; rw [hv]; exact tget_of_lt h2
        · simp [tget]
      · rename_i hk; simp only [tget, Ne.symm hk, if_false]; exact ih h3

/-- Read after write. -/
theorem tget_tset {t : Table α} (h : twf d t = true) (k j : Nat) (v : α) : tget d (tset d t k v) j = if j = k then v else tget d t j := by
  split
  · rename_i hj; rw [hj]; exact tget_tset_eq h
  · rename_i hj; exact tget_tset_ne hj h

/-- Removing entries keeps the canonical form. -/
theorem twf_filter {t : Table α} (h : twf d t = true) (p : Nat × α → Bool) : twf d (t.filter p) = true := by
  induction t with
  | nil => rfl
  | cons q t ih =>
    obtain ⟨k', v'⟩ := q
    obtain ⟨h1, h2, h3⟩ := twf_cons.mp h
    simp only [List.filter_cons]
    split
    · exact twf_cons.mpr ⟨h1, fun x hx => h2 x (List.mem_filter.mp hx).1, ih h3⟩
    · exact ih h3

/-- Equal reads make equal tables in canonical form. -/
theorem table_ext {t u : Table α} (ht : twf d t = true) (hu : twf d u = true) (h : ∀ k, tget d t k = tget d u k) : t = u := by
  induction t generalizing u with
  | nil =>
    cases u with
    | nil => rfl
    | cons q u =>
      obtain ⟨k, v⟩ := q
      obtain ⟨h1, -, -⟩ := twf_cons.mp hu
      have := h k
      simp only [tget, if_true] at this
      exact absurd this.symm h1
  | cons q t ih =>
    obtain ⟨k, v⟩ := q
    obtain ⟨h1, h2, h3⟩ := twf_cons.mp ht
    cases u with
    | nil =>
      have := h k
      simp only [tget, if_true] at this
      exact absurd this h1
    | cons r u =>
      obtain ⟨j, w⟩ := r
      obtain ⟨g1, g2, g3⟩ := twf_cons.mp hu
      have hkj : k = j := by
        rcases Nat.lt_trichotomy k j with hlt | heq | hlt
        · have e := h k
          simp only [tget, if_true] at e
          rw [if_neg (by omega), tget_of_lt (fun p hp => Nat.lt_trans hlt (g2 p hp))] at e
          exact absurd e h1
        · exact heq
        · have e := h j
          simp only [tget, if_true] at e
          rw [if_neg (by omega), tget_of_lt (fun p hp => Nat.lt_trans hlt (h2 p hp))] at e
          exact absurd e.symm g1
      subst hkj
      have hv : v = w := by have := h k; simpa [tget] using this
      subst hv
      refine congrArg _ (ih h3 g3 (fun i => ?_))
      have e := h i
      simp only [tget] at e
      split at e
      · rename_i hi
        subst hi
        rw [tget_of_lt h2, tget_of_lt g2]
      · exact e

/-- Reads of consecutive keys outside the written ones are unchanged. -/
theorem tget_tsetList_out {t : Table α} (h : twf d t = true) (k j : Nat) (vs : List α) (hj : j < k ∨ k + vs.length ≤ j) :
    tget d (tsetList d t k vs) j = tget d t j := by
  induction vs generalizing t k with
  | nil => rfl
  | cons v vs ih =>
    simp only [List.length_cons] at hj
    simp only [tsetList]
    rw [ih (twf_tset h k v) (k + 1) (by omega), tget_tset h, if_neg (by omega)]

/-- Reads of the written keys give the written values. -/
theorem tget_tsetList_in {t : Table α} (h : twf d t = true) (k j : Nat) (vs : List α) (hj : j < vs.length) :
    tget d (tsetList d t k vs) (k + j) = vs[j] := by
  induction vs generalizing t k j with
  | nil => simp at hj
  | cons v vs ih =>
    simp only [tsetList]
    cases j with
    | zero =>
      rw [tget_tsetList_out (twf_tset h k v) (k + 1) _ vs (by omega)]
      simpa using tget_tset_eq h
    | succ j =>
      have := ih (twf_tset h k v) (k + 1) j (by simpa using hj)
      rw [show k + (j + 1) = k + 1 + j by omega]
      simpa using this

theorem tgetList_length {t : Table α} (k n : Nat) : (tgetList d t k n).length = n := by
  induction n generalizing k with
  | zero => rfl
  | succ n ih => simp [tgetList, ih]

theorem tgetList_getElem {t : Table α} (k n i : Nat) (hi : i < n) : (tgetList d t k n)[i]'(by rw [tgetList_length]; exact hi) = tget d t (k + i) := by
  induction n generalizing k i with
  | zero => omega
  | succ n ih =>
    cases i with
    | zero => simp [tgetList]
    | succ i =>
      have := ih (k + 1) i (by omega)
      simp only [tgetList, List.getElem_cons_succ]
      rw [this, show k + 1 + i = k + (i + 1) by omega]

/-- A block read right after it is written. -/
theorem tgetList_tsetList {t : Table α} (h : twf d t = true) (k : Nat) (vs : List α) : tgetList d (tsetList d t k vs) k vs.length = vs := by
  apply List.ext_getElem
  · exact tgetList_length _ _
  · intro i h1 h2
    rw [tgetList_getElem _ _ _ h2, tget_tsetList_in h _ _ _ h2]

end Sys2Proof.Machine
end

