-- ==== Sys2Proof/Laws/State.lean ====
section
/-! SUPPORT. What each update of the state leaves alone: one lemma for each field and update, and what reads give after writes. -/

namespace Sys2Proof.Machine

variable (s : State)

@[simp] theorem setReg_pending (b o v : Nat) : (setReg s b o v).pending = s.pending := rfl
@[simp] theorem setReg_mem (b o v : Nat) : (setReg s b o v).mem = s.mem := rfl
@[simp] theorem setReg_guard (b o v : Nat) : (setReg s b o v).guard = s.guard := rfl
@[simp] theorem setReg_scrubs (b o v : Nat) : (setReg s b o v).scrubs = s.scrubs := rfl
@[simp] theorem setReg_nvm (b o v : Nat) : (setReg s b o v).nvm = s.nvm := rfl
@[simp] theorem setReg_blocks (b o v : Nat) : (setReg s b o v).blocks = s.blocks := rfl
@[simp] theorem setReg_latches (b o v : Nat) : (setReg s b o v).latches = s.latches := rfl
@[simp] theorem setReg_posted (b o v : Nat) : (setReg s b o v).posted = s.posted := rfl
@[simp] theorem setReg_heldAcks (b o v : Nat) : (setReg s b o v).heldAcks = s.heldAcks := rfl
@[simp] theorem setReg_waitingAccesses (b o v : Nat) : (setReg s b o v).waitingAccesses = s.waitingAccesses := rfl
@[simp] theorem setReg_time (b o v : Nat) : (setReg s b o v).time = s.time := rfl
@[simp] theorem setReg_pulseLast (b o v : Nat) : (setReg s b o v).pulseLast = s.pulseLast := rfl
@[simp] theorem setReg_readings (b o v : Nat) : (setReg s b o v).readings = s.readings := rfl
@[simp] theorem setReg_cores (b o v : Nat) : (setReg s b o v).cores = s.cores := rfl
@[simp] theorem setReg_forage (b o v : Nat) : (setReg s b o v).forage = s.forage := rfl
@[simp] theorem setReg_barriers (b o v : Nat) : (setReg s b o v).barriers = s.barriers := rfl
@[simp] theorem setReg_launches (b o v : Nat) : (setReg s b o v).launches = s.launches := rfl
@[simp] theorem setReg_ended (b o v : Nat) : (setReg s b o v).ended = s.ended := rfl
@[simp] theorem setReg_nextLaunch (b o v : Nat) : (setReg s b o v).nextLaunch = s.nextLaunch := rfl
@[simp] theorem setReg_steward (b o v : Nat) : (setReg s b o v).steward = s.steward := rfl
@[simp] theorem setReg_disables (b o v : Nat) : (setReg s b o v).disables = s.disables := rfl
@[simp] theorem setReg_slotRejected (b o v : Nat) : (setReg s b o v).slotRejected = s.slotRejected := rfl
@[simp] theorem setReg_dma (b o v : Nat) : (setReg s b o v).dma = s.dma := rfl
@[simp] theorem setReg_dmaRejected (b o v : Nat) : (setReg s b o v).dmaRejected = s.dmaRejected := rfl
@[simp] theorem setReg_dmaOn (b o v : Nat) : (setReg s b o v).dmaOn = s.dmaOn := rfl
@[simp] theorem setReg_dispatches (b o v : Nat) : (setReg s b o v).dispatches = s.dispatches := rfl
@[simp] theorem setReg_heldMessages (b o v : Nat) : (setReg s b o v).heldMessages = s.heldMessages := rfl
@[simp] theorem setReg_lastDispatchFault (b o v : Nat) : (setReg s b o v).lastDispatchFault = s.lastDispatchFault := rfl
@[simp] theorem setReg_chains (b o v : Nat) : (setReg s b o v).chains = s.chains := rfl
@[simp] theorem setReg_poolQueue (b o v : Nat) : (setReg s b o v).poolQueue = s.poolQueue := rfl
@[simp] theorem setReg_poolOver (b o v : Nat) : (setReg s b o v).poolOver = s.poolOver := rfl
@[simp] theorem setReg_reservations (b o v : Nat) : (setReg s b o v).reservations = s.reservations := rfl
@[simp] theorem setReg_nextPool (b o v : Nat) : (setReg s b o v).nextPool = s.nextPool := rfl
@[simp] theorem setReg_freedHeads (b o v : Nat) : (setReg s b o v).freedHeads = s.freedHeads := rfl
@[simp] theorem setReg_cacheLines (b o v : Nat) : (setReg s b o v).cacheLines = s.cacheLines := rfl
@[simp] theorem setReg_reserved (b o v : Nat) : (setReg s b o v).reserved = s.reserved := rfl
@[simp] theorem setReg_wcb (b o v : Nat) : (setReg s b o v).wcb = s.wcb := rfl
@[simp] theorem setReg_pcDir (b o v : Nat) : (setReg s b o v).pcDir = s.pcDir := rfl
@[simp] theorem setReg_margins (b o v : Nat) : (setReg s b o v).margins = s.margins := rfl
@[simp] theorem setReg_windows (b o v : Nat) : (setReg s b o v).windows = s.windows := rfl
@[simp] theorem setReg_windowRejected (b o v : Nat) : (setReg s b o v).windowRejected = s.windowRejected := rfl
@[simp] theorem setReg_rankCache (b o v : Nat) : (setReg s b o v).rankCache = s.rankCache := rfl
@[simp] theorem setReg_deferred (b o v : Nat) : (setReg s b o v).deferred = s.deferred := rfl
@[simp] theorem setReg_messages (b o v : Nat) : (setReg s b o v).messages = s.messages := rfl
@[simp] theorem setReg_looped (b o v : Nat) : (setReg s b o v).looped = s.looped := rfl
@[simp] theorem setReg_sendNext (b o v : Nat) : (setReg s b o v).sendNext = s.sendNext := rfl
@[simp] theorem setReg_arrivals (b o v : Nat) : (setReg s b o v).arrivals = s.arrivals := rfl
@[simp] theorem setReg_portTurn (b o v : Nat) : (setReg s b o v).portTurn = s.portTurn := rfl
@[simp] theorem setReg_doneWrites (b o v : Nat) : (setReg s b o v).doneWrites = s.doneWrites := rfl
@[simp] theorem setReg_awaited (b o v : Nat) : (setReg s b o v).awaited = s.awaited := rfl
@[simp] theorem setReg_broadcasts (b o v : Nat) : (setReg s b o v).broadcasts = s.broadcasts := rfl
@[simp] theorem setReg_remote (b o v : Nat) : (setReg s b o v).remote = s.remote := rfl
@[simp] theorem setReg_nextTag (b o v : Nat) : (setReg s b o v).nextTag = s.nextTag := rfl
@[simp] theorem setReg_lastRefusal (b o v : Nat) : (setReg s b o v).lastRefusal = s.lastRefusal := rfl
@[simp] theorem setReg_lanes (b o v : Nat) : (setReg s b o v).lanes = s.lanes := rfl
@[simp] theorem setReg_sync (b o v : Nat) : (setReg s b o v).sync = s.sync := rfl
@[simp] theorem setReg_collTable (b o v : Nat) : (setReg s b o v).collTable = s.collTable := rfl
@[simp] theorem setReg_hopErrors (b o v : Nat) : (setReg s b o v).hopErrors = s.hopErrors := rfl
@[simp] theorem setReg_stateErrors (b o v : Nat) : (setReg s b o v).stateErrors = s.stateErrors := rfl
@[simp] theorem setReg_metErrors (b o v : Nat) : (setReg s b o v).metErrors = s.metErrors := rfl
@[simp] theorem setReg_tableReject (b o v : Nat) : (setReg s b o v).tableReject = s.tableReject := rfl
@[simp] theorem setReg_collectives (b o v : Nat) : (setReg s b o v).collectives = s.collectives := rfl
@[simp] theorem setReg_collFaulted (b o v : Nat) : (setReg s b o v).collFaulted = s.collFaulted := rfl
@[simp] theorem setReg_lastCollFault (b o v : Nat) : (setReg s b o v).lastCollFault = s.lastCollFault := rfl
@[simp] theorem setReg_collTurn (b o v : Nat) : (setReg s b o v).collTurn = s.collTurn := rfl
@[simp] theorem setReg_heads (b o v : Nat) : (setReg s b o v).heads = s.heads := rfl
@[simp] theorem setReg_units (b o v : Nat) : (setReg s b o v).units = s.units := rfl
@[simp] theorem setReg_lastSolverFault (b o v : Nat) : (setReg s b o v).lastSolverFault = s.lastSolverFault := rfl
@[simp] theorem setReg_host (b o v : Nat) : (setReg s b o v).host = s.host := rfl
@[simp] theorem setReg_boot (b o v : Nat) : (setReg s b o v).boot = s.boot := rfl
@[simp] theorem setReg_keeper (b o v : Nat) : (setReg s b o v).keeper = s.keeper := rfl
@[simp] theorem setReg_driver (b o v : Nat) : (setReg s b o v).driver = s.driver := rfl
@[simp] theorem setReg_nvmBusy (b o v : Nat) : (setReg s b o v).nvmBusy = s.nvmBusy := rfl
@[simp] theorem setReg_nvmRefused (b o v : Nat) : (setReg s b o v).nvmRefused = s.nvmRefused := rfl
@[simp] theorem setReg_power (b o v : Nat) : (setReg s b o v).power = s.power := rfl
@[simp] theorem setReg_smbSelect (b o v : Nat) : (setReg s b o v).smbSelect = s.smbSelect := rfl
@[simp] theorem setReg_guardLast (b o v : Nat) : (setReg s b o v).guardLast = s.guardLast := rfl
@[simp] theorem setReg_out (b o v : Nat) : (setReg s b o v).out = s.out := rfl
@[simp] theorem setReg_freeCtr (b o v : Nat) : (setReg s b o v).freeCtr = s.freeCtr := rfl
@[simp] theorem setReg_tickPhase (b o v : Nat) : (setReg s b o v).tickPhase = s.tickPhase := rfl
@[simp] theorem setReg_exchPhase (b o v : Nat) : (setReg s b o v).exchPhase = s.exchPhase := rfl
@[simp] theorem setReg_cycles (b o v : Nat) : (setReg s b o v).cycles = s.cycles := rfl

@[simp] theorem count_pending (b o w : Nat) : (count s b o w).pending = s.pending := rfl
@[simp] theorem count_mem (b o w : Nat) : (count s b o w).mem = s.mem := rfl
@[simp] theorem count_guard (b o w : Nat) : (count s b o w).guard = s.guard := rfl
@[simp] theorem count_scrubs (b o w : Nat) : (count s b o w).scrubs = s.scrubs := rfl
@[simp] theorem count_nvm (b o w : Nat) : (count s b o w).nvm = s.nvm := rfl
@[simp] theorem count_blocks (b o w : Nat) : (count s b o w).blocks = s.blocks := rfl
@[simp] theorem count_latches (b o w : Nat) : (count s b o w).latches = s.latches := rfl
@[simp] theorem count_posted (b o w : Nat) : (count s b o w).posted = s.posted := rfl
@[simp] theorem count_heldAcks (b o w : Nat) : (count s b o w).heldAcks = s.heldAcks := rfl
@[simp] theorem count_waitingAccesses (b o w : Nat) : (count s b o w).waitingAccesses = s.waitingAccesses := rfl
@[simp] theorem count_time (b o w : Nat) : (count s b o w).time = s.time := rfl
@[simp] theorem count_pulseLast (b o w : Nat) : (count s b o w).pulseLast = s.pulseLast := rfl
@[simp] theorem count_readings (b o w : Nat) : (count s b o w).readings = s.readings := rfl
@[simp] theorem count_cores (b o w : Nat) : (count s b o w).cores = s.cores := rfl
@[simp] theorem count_forage (b o w : Nat) : (count s b o w).forage = s.forage := rfl
@[simp] theorem count_barriers (b o w : Nat) : (count s b o w).barriers = s.barriers := rfl
@[simp] theorem count_launches (b o w : Nat) : (count s b o w).launches = s.launches := rfl
@[simp] theorem count_ended (b o w : Nat) : (count s b o w).ended = s.ended := rfl
@[simp] theorem count_nextLaunch (b o w : Nat) : (count s b o w).nextLaunch = s.nextLaunch := rfl
@[simp] theorem count_steward (b o w : Nat) : (count s b o w).steward = s.steward := rfl
@[simp] theorem count_disables (b o w : Nat) : (count s b o w).disables = s.disables := rfl
@[simp] theorem count_slotRejected (b o w : Nat) : (count s b o w).slotRejected = s.slotRejected := rfl
@[simp] theorem count_dma (b o w : Nat) : (count s b o w).dma = s.dma := rfl
@[simp] theorem count_dmaRejected (b o w : Nat) : (count s b o w).dmaRejected = s.dmaRejected := rfl
@[simp] theorem count_dmaOn (b o w : Nat) : (count s b o w).dmaOn = s.dmaOn := rfl
@[simp] theorem count_dispatches (b o w : Nat) : (count s b o w).dispatches = s.dispatches := rfl
@[simp] theorem count_heldMessages (b o w : Nat) : (count s b o w).heldMessages = s.heldMessages := rfl
@[simp] theorem count_lastDispatchFault (b o w : Nat) : (count s b o w).lastDispatchFault = s.lastDispatchFault := rfl
@[simp] theorem count_chains (b o w : Nat) : (count s b o w).chains = s.chains := rfl
@[simp] theorem count_poolQueue (b o w : Nat) : (count s b o w).poolQueue = s.poolQueue := rfl
@[simp] theorem count_poolOver (b o w : Nat) : (count s b o w).poolOver = s.poolOver := rfl
@[simp] theorem count_reservations (b o w : Nat) : (count s b o w).reservations = s.reservations := rfl
@[simp] theorem count_nextPool (b o w : Nat) : (count s b o w).nextPool = s.nextPool := rfl
@[simp] theorem count_freedHeads (b o w : Nat) : (count s b o w).freedHeads = s.freedHeads := rfl
@[simp] theorem count_cacheLines (b o w : Nat) : (count s b o w).cacheLines = s.cacheLines := rfl
@[simp] theorem count_reserved (b o w : Nat) : (count s b o w).reserved = s.reserved := rfl
@[simp] theorem count_wcb (b o w : Nat) : (count s b o w).wcb = s.wcb := rfl
@[simp] theorem count_pcDir (b o w : Nat) : (count s b o w).pcDir = s.pcDir := rfl
@[simp] theorem count_margins (b o w : Nat) : (count s b o w).margins = s.margins := rfl
@[simp] theorem count_windows (b o w : Nat) : (count s b o w).windows = s.windows := rfl
@[simp] theorem count_windowRejected (b o w : Nat) : (count s b o w).windowRejected = s.windowRejected := rfl
@[simp] theorem count_rankCache (b o w : Nat) : (count s b o w).rankCache = s.rankCache := rfl
@[simp] theorem count_deferred (b o w : Nat) : (count s b o w).deferred = s.deferred := rfl
@[simp] theorem count_messages (b o w : Nat) : (count s b o w).messages = s.messages := rfl
@[simp] theorem count_looped (b o w : Nat) : (count s b o w).looped = s.looped := rfl
@[simp] theorem count_sendNext (b o w : Nat) : (count s b o w).sendNext = s.sendNext := rfl
@[simp] theorem count_arrivals (b o w : Nat) : (count s b o w).arrivals = s.arrivals := rfl
@[simp] theorem count_portTurn (b o w : Nat) : (count s b o w).portTurn = s.portTurn := rfl
@[simp] theorem count_doneWrites (b o w : Nat) : (count s b o w).doneWrites = s.doneWrites := rfl
@[simp] theorem count_awaited (b o w : Nat) : (count s b o w).awaited = s.awaited := rfl
@[simp] theorem count_broadcasts (b o w : Nat) : (count s b o w).broadcasts = s.broadcasts := rfl
@[simp] theorem count_remote (b o w : Nat) : (count s b o w).remote = s.remote := rfl
@[simp] theorem count_nextTag (b o w : Nat) : (count s b o w).nextTag = s.nextTag := rfl
@[simp] theorem count_lastRefusal (b o w : Nat) : (count s b o w).lastRefusal = s.lastRefusal := rfl
@[simp] theorem count_lanes (b o w : Nat) : (count s b o w).lanes = s.lanes := rfl
@[simp] theorem count_sync (b o w : Nat) : (count s b o w).sync = s.sync := rfl
@[simp] theorem count_collTable (b o w : Nat) : (count s b o w).collTable = s.collTable := rfl
@[simp] theorem count_hopErrors (b o w : Nat) : (count s b o w).hopErrors = s.hopErrors := rfl
@[simp] theorem count_stateErrors (b o w : Nat) : (count s b o w).stateErrors = s.stateErrors := rfl
@[simp] theorem count_metErrors (b o w : Nat) : (count s b o w).metErrors = s.metErrors := rfl
@[simp] theorem count_tableReject (b o w : Nat) : (count s b o w).tableReject = s.tableReject := rfl
@[simp] theorem count_collectives (b o w : Nat) : (count s b o w).collectives = s.collectives := rfl
@[simp] theorem count_collFaulted (b o w : Nat) : (count s b o w).collFaulted = s.collFaulted := rfl
@[simp] theorem count_lastCollFault (b o w : Nat) : (count s b o w).lastCollFault = s.lastCollFault := rfl
@[simp] theorem count_collTurn (b o w : Nat) : (count s b o w).collTurn = s.collTurn := rfl
@[simp] theorem count_heads (b o w : Nat) : (count s b o w).heads = s.heads := rfl
@[simp] theorem count_units (b o w : Nat) : (count s b o w).units = s.units := rfl
@[simp] theorem count_lastSolverFault (b o w : Nat) : (count s b o w).lastSolverFault = s.lastSolverFault := rfl
@[simp] theorem count_host (b o w : Nat) : (count s b o w).host = s.host := rfl
@[simp] theorem count_boot (b o w : Nat) : (count s b o w).boot = s.boot := rfl
@[simp] theorem count_keeper (b o w : Nat) : (count s b o w).keeper = s.keeper := rfl
@[simp] theorem count_driver (b o w : Nat) : (count s b o w).driver = s.driver := rfl
@[simp] theorem count_nvmBusy (b o w : Nat) : (count s b o w).nvmBusy = s.nvmBusy := rfl
@[simp] theorem count_nvmRefused (b o w : Nat) : (count s b o w).nvmRefused = s.nvmRefused := rfl
@[simp] theorem count_power (b o w : Nat) : (count s b o w).power = s.power := rfl
@[simp] theorem count_smbSelect (b o w : Nat) : (count s b o w).smbSelect = s.smbSelect := rfl
@[simp] theorem count_guardLast (b o w : Nat) : (count s b o w).guardLast = s.guardLast := rfl
@[simp] theorem count_out (b o w : Nat) : (count s b o w).out = s.out := rfl
@[simp] theorem count_freeCtr (b o w : Nat) : (count s b o w).freeCtr = s.freeCtr := rfl
@[simp] theorem count_tickPhase (b o w : Nat) : (count s b o w).tickPhase = s.tickPhase := rfl
@[simp] theorem count_exchPhase (b o w : Nat) : (count s b o w).exchPhase = s.exchPhase := rfl
@[simp] theorem count_cycles (b o w : Nat) : (count s b o w).cycles = s.cycles := rfl

@[simp] theorem countFault_pending (lo : Nat) : (countFault s lo).pending = s.pending := rfl
@[simp] theorem countFault_mem (lo : Nat) : (countFault s lo).mem = s.mem := rfl
@[simp] theorem countFault_guard (lo : Nat) : (countFault s lo).guard = s.guard := rfl
@[simp] theorem countFault_scrubs (lo : Nat) : (countFault s lo).scrubs = s.scrubs := rfl
@[simp] theorem countFault_nvm (lo : Nat) : (countFault s lo).nvm = s.nvm := rfl
@[simp] theorem countFault_blocks (lo : Nat) : (countFault s lo).blocks = s.blocks := rfl
@[simp] theorem countFault_latches (lo : Nat) : (countFault s lo).latches = s.latches := rfl
@[simp] theorem countFault_posted (lo : Nat) : (countFault s lo).posted = s.posted := rfl
@[simp] theorem countFault_heldAcks (lo : Nat) : (countFault s lo).heldAcks = s.heldAcks := rfl
@[simp] theorem countFault_waitingAccesses (lo : Nat) : (countFault s lo).waitingAccesses = s.waitingAccesses := rfl
@[simp] theorem countFault_time (lo : Nat) : (countFault s lo).time = s.time := rfl
@[simp] theorem countFault_pulseLast (lo : Nat) : (countFault s lo).pulseLast = s.pulseLast := rfl
@[simp] theorem countFault_readings (lo : Nat) : (countFault s lo).readings = s.readings := rfl
@[simp] theorem countFault_cores (lo : Nat) : (countFault s lo).cores = s.cores := rfl
@[simp] theorem countFault_forage (lo : Nat) : (countFault s lo).forage = s.forage := rfl
@[simp] theorem countFault_barriers (lo : Nat) : (countFault s lo).barriers = s.barriers := rfl
@[simp] theorem countFault_launches (lo : Nat) : (countFault s lo).launches = s.launches := rfl
@[simp] theorem countFault_ended (lo : Nat) : (countFault s lo).ended = s.ended := rfl
@[simp] theorem countFault_nextLaunch (lo : Nat) : (countFault s lo).nextLaunch = s.nextLaunch := rfl
@[simp] theorem countFault_steward (lo : Nat) : (countFault s lo).steward = s.steward := rfl
@[simp] theorem countFault_disables (lo : Nat) : (countFault s lo).disables = s.disables := rfl
@[simp] theorem countFault_slotRejected (lo : Nat) : (countFault s lo).slotRejected = s.slotRejected := rfl
@[simp] theorem countFault_dma (lo : Nat) : (countFault s lo).dma = s.dma := rfl
@[simp] theorem countFault_dmaRejected (lo : Nat) : (countFault s lo).dmaRejected = s.dmaRejected := rfl
@[simp] theorem countFault_dmaOn (lo : Nat) : (countFault s lo).dmaOn = s.dmaOn := rfl
@[simp] theorem countFault_dispatches (lo : Nat) : (countFault s lo).dispatches = s.dispatches := rfl
@[simp] theorem countFault_heldMessages (lo : Nat) : (countFault s lo).heldMessages = s.heldMessages := rfl
@[simp] theorem countFault_lastDispatchFault (lo : Nat) : (countFault s lo).lastDispatchFault = s.lastDispatchFault := rfl
@[simp] theorem countFault_chains (lo : Nat) : (countFault s lo).chains = s.chains := rfl
@[simp] theorem countFault_poolQueue (lo : Nat) : (countFault s lo).poolQueue = s.poolQueue := rfl
@[simp] theorem countFault_poolOver (lo : Nat) : (countFault s lo).poolOver = s.poolOver := rfl
@[simp] theorem countFault_reservations (lo : Nat) : (countFault s lo).reservations = s.reservations := rfl
@[simp] theorem countFault_nextPool (lo : Nat) : (countFault s lo).nextPool = s.nextPool := rfl
@[simp] theorem countFault_freedHeads (lo : Nat) : (countFault s lo).freedHeads = s.freedHeads := rfl
@[simp] theorem countFault_cacheLines (lo : Nat) : (countFault s lo).cacheLines = s.cacheLines := rfl
@[simp] theorem countFault_reserved (lo : Nat) : (countFault s lo).reserved = s.reserved := rfl
@[simp] theorem countFault_wcb (lo : Nat) : (countFault s lo).wcb = s.wcb := rfl
@[simp] theorem countFault_pcDir (lo : Nat) : (countFault s lo).pcDir = s.pcDir := rfl
@[simp] theorem countFault_margins (lo : Nat) : (countFault s lo).margins = s.margins := rfl
@[simp] theorem countFault_windows (lo : Nat) : (countFault s lo).windows = s.windows := rfl
@[simp] theorem countFault_windowRejected (lo : Nat) : (countFault s lo).windowRejected = s.windowRejected := rfl
@[simp] theorem countFault_rankCache (lo : Nat) : (countFault s lo).rankCache = s.rankCache := rfl
@[simp] theorem countFault_deferred (lo : Nat) : (countFault s lo).deferred = s.deferred := rfl
@[simp] theorem countFault_messages (lo : Nat) : (countFault s lo).messages = s.messages := rfl
@[simp] theorem countFault_looped (lo : Nat) : (countFault s lo).looped = s.looped := rfl
@[simp] theorem countFault_sendNext (lo : Nat) : (countFault s lo).sendNext = s.sendNext := rfl
@[simp] theorem countFault_arrivals (lo : Nat) : (countFault s lo).arrivals = s.arrivals := rfl
@[simp] theorem countFault_portTurn (lo : Nat) : (countFault s lo).portTurn = s.portTurn := rfl
@[simp] theorem countFault_doneWrites (lo : Nat) : (countFault s lo).doneWrites = s.doneWrites := rfl
@[simp] theorem countFault_awaited (lo : Nat) : (countFault s lo).awaited = s.awaited := rfl
@[simp] theorem countFault_broadcasts (lo : Nat) : (countFault s lo).broadcasts = s.broadcasts := rfl
@[simp] theorem countFault_remote (lo : Nat) : (countFault s lo).remote = s.remote := rfl
@[simp] theorem countFault_nextTag (lo : Nat) : (countFault s lo).nextTag = s.nextTag := rfl
@[simp] theorem countFault_lastRefusal (lo : Nat) : (countFault s lo).lastRefusal = s.lastRefusal := rfl
@[simp] theorem countFault_lanes (lo : Nat) : (countFault s lo).lanes = s.lanes := rfl
@[simp] theorem countFault_sync (lo : Nat) : (countFault s lo).sync = s.sync := rfl
@[simp] theorem countFault_collTable (lo : Nat) : (countFault s lo).collTable = s.collTable := rfl
@[simp] theorem countFault_hopErrors (lo : Nat) : (countFault s lo).hopErrors = s.hopErrors := rfl
@[simp] theorem countFault_stateErrors (lo : Nat) : (countFault s lo).stateErrors = s.stateErrors := rfl
@[simp] theorem countFault_metErrors (lo : Nat) : (countFault s lo).metErrors = s.metErrors := rfl
@[simp] theorem countFault_tableReject (lo : Nat) : (countFault s lo).tableReject = s.tableReject := rfl
@[simp] theorem countFault_collectives (lo : Nat) : (countFault s lo).collectives = s.collectives := rfl
@[simp] theorem countFault_collFaulted (lo : Nat) : (countFault s lo).collFaulted = s.collFaulted := rfl
@[simp] theorem countFault_lastCollFault (lo : Nat) : (countFault s lo).lastCollFault = s.lastCollFault := rfl
@[simp] theorem countFault_collTurn (lo : Nat) : (countFault s lo).collTurn = s.collTurn := rfl
@[simp] theorem countFault_heads (lo : Nat) : (countFault s lo).heads = s.heads := rfl
@[simp] theorem countFault_units (lo : Nat) : (countFault s lo).units = s.units := rfl
@[simp] theorem countFault_lastSolverFault (lo : Nat) : (countFault s lo).lastSolverFault = s.lastSolverFault := rfl
@[simp] theorem countFault_host (lo : Nat) : (countFault s lo).host = s.host := rfl
@[simp] theorem countFault_boot (lo : Nat) : (countFault s lo).boot = s.boot := rfl
@[simp] theorem countFault_keeper (lo : Nat) : (countFault s lo).keeper = s.keeper := rfl
@[simp] theorem countFault_driver (lo : Nat) : (countFault s lo).driver = s.driver := rfl
@[simp] theorem countFault_nvmBusy (lo : Nat) : (countFault s lo).nvmBusy = s.nvmBusy := rfl
@[simp] theorem countFault_nvmRefused (lo : Nat) : (countFault s lo).nvmRefused = s.nvmRefused := rfl
@[simp] theorem countFault_power (lo : Nat) : (countFault s lo).power = s.power := rfl
@[simp] theorem countFault_smbSelect (lo : Nat) : (countFault s lo).smbSelect = s.smbSelect := rfl
@[simp] theorem countFault_guardLast (lo : Nat) : (countFault s lo).guardLast = s.guardLast := rfl
@[simp] theorem countFault_out (lo : Nat) : (countFault s lo).out = s.out := rfl
@[simp] theorem countFault_freeCtr (lo : Nat) : (countFault s lo).freeCtr = s.freeCtr := rfl
@[simp] theorem countFault_tickPhase (lo : Nat) : (countFault s lo).tickPhase = s.tickPhase := rfl
@[simp] theorem countFault_exchPhase (lo : Nat) : (countFault s lo).exchPhase = s.exchPhase := rfl
@[simp] theorem countFault_cycles (lo : Nat) : (countFault s lo).cycles = s.cycles := rfl

@[simp] theorem setBlk_pending (b : Nat) (v : BlockStatus) : (setBlk s b v).pending = s.pending := rfl
@[simp] theorem setBlk_mem (b : Nat) (v : BlockStatus) : (setBlk s b v).mem = s.mem := rfl
@[simp] theorem setBlk_guard (b : Nat) (v : BlockStatus) : (setBlk s b v).guard = s.guard := rfl
@[simp] theorem setBlk_scrubs (b : Nat) (v : BlockStatus) : (setBlk s b v).scrubs = s.scrubs := rfl
@[simp] theorem setBlk_nvm (b : Nat) (v : BlockStatus) : (setBlk s b v).nvm = s.nvm := rfl
@[simp] theorem setBlk_regs (b : Nat) (v : BlockStatus) : (setBlk s b v).regs = s.regs := rfl
@[simp] theorem setBlk_latches (b : Nat) (v : BlockStatus) : (setBlk s b v).latches = s.latches := rfl
@[simp] theorem setBlk_posted (b : Nat) (v : BlockStatus) : (setBlk s b v).posted = s.posted := rfl
@[simp] theorem setBlk_heldAcks (b : Nat) (v : BlockStatus) : (setBlk s b v).heldAcks = s.heldAcks := rfl
@[simp] theorem setBlk_waitingAccesses (b : Nat) (v : BlockStatus) : (setBlk s b v).waitingAccesses = s.waitingAccesses := rfl
@[simp] theorem setBlk_time (b : Nat) (v : BlockStatus) : (setBlk s b v).time = s.time := rfl
@[simp] theorem setBlk_pulseLast (b : Nat) (v : BlockStatus) : (setBlk s b v).pulseLast = s.pulseLast := rfl
@[simp] theorem setBlk_readings (b : Nat) (v : BlockStatus) : (setBlk s b v).readings = s.readings := rfl
@[simp] theorem setBlk_cores (b : Nat) (v : BlockStatus) : (setBlk s b v).cores = s.cores := rfl
@[simp] theorem setBlk_forage (b : Nat) (v : BlockStatus) : (setBlk s b v).forage = s.forage := rfl
@[simp] theorem setBlk_barriers (b : Nat) (v : BlockStatus) : (setBlk s b v).barriers = s.barriers := rfl
@[simp] theorem setBlk_launches (b : Nat) (v : BlockStatus) : (setBlk s b v).launches = s.launches := rfl
@[simp] theorem setBlk_ended (b : Nat) (v : BlockStatus) : (setBlk s b v).ended = s.ended := rfl
@[simp] theorem setBlk_nextLaunch (b : Nat) (v : BlockStatus) : (setBlk s b v).nextLaunch = s.nextLaunch := rfl
@[simp] theorem setBlk_steward (b : Nat) (v : BlockStatus) : (setBlk s b v).steward = s.steward := rfl
@[simp] theorem setBlk_disables (b : Nat) (v : BlockStatus) : (setBlk s b v).disables = s.disables := rfl
@[simp] theorem setBlk_slotRejected (b : Nat) (v : BlockStatus) : (setBlk s b v).slotRejected = s.slotRejected := rfl
@[simp] theorem setBlk_dma (b : Nat) (v : BlockStatus) : (setBlk s b v).dma = s.dma := rfl
@[simp] theorem setBlk_dmaRejected (b : Nat) (v : BlockStatus) : (setBlk s b v).dmaRejected = s.dmaRejected := rfl
@[simp] theorem setBlk_dmaOn (b : Nat) (v : BlockStatus) : (setBlk s b v).dmaOn = s.dmaOn := rfl
@[simp] theorem setBlk_dispatches (b : Nat) (v : BlockStatus) : (setBlk s b v).dispatches = s.dispatches := rfl
@[simp] theorem setBlk_heldMessages (b : Nat) (v : BlockStatus) : (setBlk s b v).heldMessages = s.heldMessages := rfl
@[simp] theorem setBlk_lastDispatchFault (b : Nat) (v : BlockStatus) : (setBlk s b v).lastDispatchFault = s.lastDispatchFault := rfl
@[simp] theorem setBlk_chains (b : Nat) (v : BlockStatus) : (setBlk s b v).chains = s.chains := rfl
@[simp] theorem setBlk_poolQueue (b : Nat) (v : BlockStatus) : (setBlk s b v).poolQueue = s.poolQueue := rfl
@[simp] theorem setBlk_poolOver (b : Nat) (v : BlockStatus) : (setBlk s b v).poolOver = s.poolOver := rfl
@[simp] theorem setBlk_reservations (b : Nat) (v : BlockStatus) : (setBlk s b v).reservations = s.reservations := rfl
@[simp] theorem setBlk_nextPool (b : Nat) (v : BlockStatus) : (setBlk s b v).nextPool = s.nextPool := rfl
@[simp] theorem setBlk_freedHeads (b : Nat) (v : BlockStatus) : (setBlk s b v).freedHeads = s.freedHeads := rfl
@[simp] theorem setBlk_cacheLines (b : Nat) (v : BlockStatus) : (setBlk s b v).cacheLines = s.cacheLines := rfl
@[simp] theorem setBlk_reserved (b : Nat) (v : BlockStatus) : (setBlk s b v).reserved = s.reserved := rfl
@[simp] theorem setBlk_wcb (b : Nat) (v : BlockStatus) : (setBlk s b v).wcb = s.wcb := rfl
@[simp] theorem setBlk_pcDir (b : Nat) (v : BlockStatus) : (setBlk s b v).pcDir = s.pcDir := rfl
@[simp] theorem setBlk_margins (b : Nat) (v : BlockStatus) : (setBlk s b v).margins = s.margins := rfl
@[simp] theorem setBlk_windows (b : Nat) (v : BlockStatus) : (setBlk s b v).windows = s.windows := rfl
@[simp] theorem setBlk_windowRejected (b : Nat) (v : BlockStatus) : (setBlk s b v).windowRejected = s.windowRejected := rfl
@[simp] theorem setBlk_rankCache (b : Nat) (v : BlockStatus) : (setBlk s b v).rankCache = s.rankCache := rfl
@[simp] theorem setBlk_deferred (b : Nat) (v : BlockStatus) : (setBlk s b v).deferred = s.deferred := rfl
@[simp] theorem setBlk_messages (b : Nat) (v : BlockStatus) : (setBlk s b v).messages = s.messages := rfl
@[simp] theorem setBlk_looped (b : Nat) (v : BlockStatus) : (setBlk s b v).looped = s.looped := rfl
@[simp] theorem setBlk_sendNext (b : Nat) (v : BlockStatus) : (setBlk s b v).sendNext = s.sendNext := rfl
@[simp] theorem setBlk_arrivals (b : Nat) (v : BlockStatus) : (setBlk s b v).arrivals = s.arrivals := rfl
@[simp] theorem setBlk_portTurn (b : Nat) (v : BlockStatus) : (setBlk s b v).portTurn = s.portTurn := rfl
@[simp] theorem setBlk_doneWrites (b : Nat) (v : BlockStatus) : (setBlk s b v).doneWrites = s.doneWrites := rfl
@[simp] theorem setBlk_awaited (b : Nat) (v : BlockStatus) : (setBlk s b v).awaited = s.awaited := rfl
@[simp] theorem setBlk_broadcasts (b : Nat) (v : BlockStatus) : (setBlk s b v).broadcasts = s.broadcasts := rfl
@[simp] theorem setBlk_remote (b : Nat) (v : BlockStatus) : (setBlk s b v).remote = s.remote := rfl
@[simp] theorem setBlk_nextTag (b : Nat) (v : BlockStatus) : (setBlk s b v).nextTag = s.nextTag := rfl
@[simp] theorem setBlk_lastRefusal (b : Nat) (v : BlockStatus) : (setBlk s b v).lastRefusal = s.lastRefusal := rfl
@[simp] theorem setBlk_lanes (b : Nat) (v : BlockStatus) : (setBlk s b v).lanes = s.lanes := rfl
@[simp] theorem setBlk_sync (b : Nat) (v : BlockStatus) : (setBlk s b v).sync = s.sync := rfl
@[simp] theorem setBlk_collTable (b : Nat) (v : BlockStatus) : (setBlk s b v).collTable = s.collTable := rfl
@[simp] theorem setBlk_hopErrors (b : Nat) (v : BlockStatus) : (setBlk s b v).hopErrors = s.hopErrors := rfl
@[simp] theorem setBlk_stateErrors (b : Nat) (v : BlockStatus) : (setBlk s b v).stateErrors = s.stateErrors := rfl
@[simp] theorem setBlk_metErrors (b : Nat) (v : BlockStatus) : (setBlk s b v).metErrors = s.metErrors := rfl
@[simp] theorem setBlk_tableReject (b : Nat) (v : BlockStatus) : (setBlk s b v).tableReject = s.tableReject := rfl
@[simp] theorem setBlk_collectives (b : Nat) (v : BlockStatus) : (setBlk s b v).collectives = s.collectives := rfl
@[simp] theorem setBlk_collFaulted (b : Nat) (v : BlockStatus) : (setBlk s b v).collFaulted = s.collFaulted := rfl
@[simp] theorem setBlk_lastCollFault (b : Nat) (v : BlockStatus) : (setBlk s b v).lastCollFault = s.lastCollFault := rfl
@[simp] theorem setBlk_collTurn (b : Nat) (v : BlockStatus) : (setBlk s b v).collTurn = s.collTurn := rfl
@[simp] theorem setBlk_heads (b : Nat) (v : BlockStatus) : (setBlk s b v).heads = s.heads := rfl
@[simp] theorem setBlk_units (b : Nat) (v : BlockStatus) : (setBlk s b v).units = s.units := rfl
@[simp] theorem setBlk_lastSolverFault (b : Nat) (v : BlockStatus) : (setBlk s b v).lastSolverFault = s.lastSolverFault := rfl
@[simp] theorem setBlk_host (b : Nat) (v : BlockStatus) : (setBlk s b v).host = s.host := rfl
@[simp] theorem setBlk_boot (b : Nat) (v : BlockStatus) : (setBlk s b v).boot = s.boot := rfl
@[simp] theorem setBlk_keeper (b : Nat) (v : BlockStatus) : (setBlk s b v).keeper = s.keeper := rfl
@[simp] theorem setBlk_driver (b : Nat) (v : BlockStatus) : (setBlk s b v).driver = s.driver := rfl
@[simp] theorem setBlk_nvmBusy (b : Nat) (v : BlockStatus) : (setBlk s b v).nvmBusy = s.nvmBusy := rfl
@[simp] theorem setBlk_nvmRefused (b : Nat) (v : BlockStatus) : (setBlk s b v).nvmRefused = s.nvmRefused := rfl
@[simp] theorem setBlk_power (b : Nat) (v : BlockStatus) : (setBlk s b v).power = s.power := rfl
@[simp] theorem setBlk_smbSelect (b : Nat) (v : BlockStatus) : (setBlk s b v).smbSelect = s.smbSelect := rfl
@[simp] theorem setBlk_guardLast (b : Nat) (v : BlockStatus) : (setBlk s b v).guardLast = s.guardLast := rfl
@[simp] theorem setBlk_out (b : Nat) (v : BlockStatus) : (setBlk s b v).out = s.out := rfl
@[simp] theorem setBlk_freeCtr (b : Nat) (v : BlockStatus) : (setBlk s b v).freeCtr = s.freeCtr := rfl
@[simp] theorem setBlk_tickPhase (b : Nat) (v : BlockStatus) : (setBlk s b v).tickPhase = s.tickPhase := rfl
@[simp] theorem setBlk_exchPhase (b : Nat) (v : BlockStatus) : (setBlk s b v).exchPhase = s.exchPhase := rfl
@[simp] theorem setBlk_cycles (b : Nat) (v : BlockStatus) : (setBlk s b v).cycles = s.cycles := rfl

@[simp] theorem setCore_pending (n : Nat) (c : Core) : (setCore s n c).pending = s.pending := rfl
@[simp] theorem setCore_mem (n : Nat) (c : Core) : (setCore s n c).mem = s.mem := rfl
@[simp] theorem setCore_guard (n : Nat) (c : Core) : (setCore s n c).guard = s.guard := rfl
@[simp] theorem setCore_scrubs (n : Nat) (c : Core) : (setCore s n c).scrubs = s.scrubs := rfl
@[simp] theorem setCore_nvm (n : Nat) (c : Core) : (setCore s n c).nvm = s.nvm := rfl
@[simp] theorem setCore_regs (n : Nat) (c : Core) : (setCore s n c).regs = s.regs := rfl
@[simp] theorem setCore_blocks (n : Nat) (c : Core) : (setCore s n c).blocks = s.blocks := rfl
@[simp] theorem setCore_latches (n : Nat) (c : Core) : (setCore s n c).latches = s.latches := rfl
@[simp] theorem setCore_posted (n : Nat) (c : Core) : (setCore s n c).posted = s.posted := rfl
@[simp] theorem setCore_heldAcks (n : Nat) (c : Core) : (setCore s n c).heldAcks = s.heldAcks := rfl
@[simp] theorem setCore_waitingAccesses (n : Nat) (c : Core) : (setCore s n c).waitingAccesses = s.waitingAccesses := rfl
@[simp] theorem setCore_time (n : Nat) (c : Core) : (setCore s n c).time = s.time := rfl
@[simp] theorem setCore_pulseLast (n : Nat) (c : Core) : (setCore s n c).pulseLast = s.pulseLast := rfl
@[simp] theorem setCore_readings (n : Nat) (c : Core) : (setCore s n c).readings = s.readings := rfl
@[simp] theorem setCore_forage (n : Nat) (c : Core) : (setCore s n c).forage = s.forage := rfl
@[simp] theorem setCore_barriers (n : Nat) (c : Core) : (setCore s n c).barriers = s.barriers := rfl
@[simp] theorem setCore_launches (n : Nat) (c : Core) : (setCore s n c).launches = s.launches := rfl
@[simp] theorem setCore_ended (n : Nat) (c : Core) : (setCore s n c).ended = s.ended := rfl
@[simp] theorem setCore_nextLaunch (n : Nat) (c : Core) : (setCore s n c).nextLaunch = s.nextLaunch := rfl
@[simp] theorem setCore_steward (n : Nat) (c : Core) : (setCore s n c).steward = s.steward := rfl
@[simp] theorem setCore_disables (n : Nat) (c : Core) : (setCore s n c).disables = s.disables := rfl
@[simp] theorem setCore_slotRejected (n : Nat) (c : Core) : (setCore s n c).slotRejected = s.slotRejected := rfl
@[simp] theorem setCore_dma (n : Nat) (c : Core) : (setCore s n c).dma = s.dma := rfl
@[simp] theorem setCore_dmaRejected (n : Nat) (c : Core) : (setCore s n c).dmaRejected = s.dmaRejected := rfl
@[simp] theorem setCore_dmaOn (n : Nat) (c : Core) : (setCore s n c).dmaOn = s.dmaOn := rfl
@[simp] theorem setCore_dispatches (n : Nat) (c : Core) : (setCore s n c).dispatches = s.dispatches := rfl
@[simp] theorem setCore_heldMessages (n : Nat) (c : Core) : (setCore s n c).heldMessages = s.heldMessages := rfl
@[simp] theorem setCore_lastDispatchFault (n : Nat) (c : Core) : (setCore s n c).lastDispatchFault = s.lastDispatchFault := rfl
@[simp] theorem setCore_chains (n : Nat) (c : Core) : (setCore s n c).chains = s.chains := rfl
@[simp] theorem setCore_poolQueue (n : Nat) (c : Core) : (setCore s n c).poolQueue = s.poolQueue := rfl
@[simp] theorem setCore_poolOver (n : Nat) (c : Core) : (setCore s n c).poolOver = s.poolOver := rfl
@[simp] theorem setCore_reservations (n : Nat) (c : Core) : (setCore s n c).reservations = s.reservations := rfl
@[simp] theorem setCore_nextPool (n : Nat) (c : Core) : (setCore s n c).nextPool = s.nextPool := rfl
@[simp] theorem setCore_freedHeads (n : Nat) (c : Core) : (setCore s n c).freedHeads = s.freedHeads := rfl
@[simp] theorem setCore_cacheLines (n : Nat) (c : Core) : (setCore s n c).cacheLines = s.cacheLines := rfl
@[simp] theorem setCore_reserved (n : Nat) (c : Core) : (setCore s n c).reserved = s.reserved := rfl
@[simp] theorem setCore_wcb (n : Nat) (c : Core) : (setCore s n c).wcb = s.wcb := rfl
@[simp] theorem setCore_pcDir (n : Nat) (c : Core) : (setCore s n c).pcDir = s.pcDir := rfl
@[simp] theorem setCore_margins (n : Nat) (c : Core) : (setCore s n c).margins = s.margins := rfl
@[simp] theorem setCore_windows (n : Nat) (c : Core) : (setCore s n c).windows = s.windows := rfl
@[simp] theorem setCore_windowRejected (n : Nat) (c : Core) : (setCore s n c).windowRejected = s.windowRejected := rfl
@[simp] theorem setCore_rankCache (n : Nat) (c : Core) : (setCore s n c).rankCache = s.rankCache := rfl
@[simp] theorem setCore_deferred (n : Nat) (c : Core) : (setCore s n c).deferred = s.deferred := rfl
@[simp] theorem setCore_messages (n : Nat) (c : Core) : (setCore s n c).messages = s.messages := rfl
@[simp] theorem setCore_looped (n : Nat) (c : Core) : (setCore s n c).looped = s.looped := rfl
@[simp] theorem setCore_sendNext (n : Nat) (c : Core) : (setCore s n c).sendNext = s.sendNext := rfl
@[simp] theorem setCore_arrivals (n : Nat) (c : Core) : (setCore s n c).arrivals = s.arrivals := rfl
@[simp] theorem setCore_portTurn (n : Nat) (c : Core) : (setCore s n c).portTurn = s.portTurn := rfl
@[simp] theorem setCore_doneWrites (n : Nat) (c : Core) : (setCore s n c).doneWrites = s.doneWrites := rfl
@[simp] theorem setCore_awaited (n : Nat) (c : Core) : (setCore s n c).awaited = s.awaited := rfl
@[simp] theorem setCore_broadcasts (n : Nat) (c : Core) : (setCore s n c).broadcasts = s.broadcasts := rfl
@[simp] theorem setCore_remote (n : Nat) (c : Core) : (setCore s n c).remote = s.remote := rfl
@[simp] theorem setCore_nextTag (n : Nat) (c : Core) : (setCore s n c).nextTag = s.nextTag := rfl
@[simp] theorem setCore_lastRefusal (n : Nat) (c : Core) : (setCore s n c).lastRefusal = s.lastRefusal := rfl
@[simp] theorem setCore_lanes (n : Nat) (c : Core) : (setCore s n c).lanes = s.lanes := rfl
@[simp] theorem setCore_sync (n : Nat) (c : Core) : (setCore s n c).sync = s.sync := rfl
@[simp] theorem setCore_collTable (n : Nat) (c : Core) : (setCore s n c).collTable = s.collTable := rfl
@[simp] theorem setCore_hopErrors (n : Nat) (c : Core) : (setCore s n c).hopErrors = s.hopErrors := rfl
@[simp] theorem setCore_stateErrors (n : Nat) (c : Core) : (setCore s n c).stateErrors = s.stateErrors := rfl
@[simp] theorem setCore_metErrors (n : Nat) (c : Core) : (setCore s n c).metErrors = s.metErrors := rfl
@[simp] theorem setCore_tableReject (n : Nat) (c : Core) : (setCore s n c).tableReject = s.tableReject := rfl
@[simp] theorem setCore_collectives (n : Nat) (c : Core) : (setCore s n c).collectives = s.collectives := rfl
@[simp] theorem setCore_collFaulted (n : Nat) (c : Core) : (setCore s n c).collFaulted = s.collFaulted := rfl
@[simp] theorem setCore_lastCollFault (n : Nat) (c : Core) : (setCore s n c).lastCollFault = s.lastCollFault := rfl
@[simp] theorem setCore_collTurn (n : Nat) (c : Core) : (setCore s n c).collTurn = s.collTurn := rfl
@[simp] theorem setCore_heads (n : Nat) (c : Core) : (setCore s n c).heads = s.heads := rfl
@[simp] theorem setCore_units (n : Nat) (c : Core) : (setCore s n c).units = s.units := rfl
@[simp] theorem setCore_lastSolverFault (n : Nat) (c : Core) : (setCore s n c).lastSolverFault = s.lastSolverFault := rfl
@[simp] theorem setCore_host (n : Nat) (c : Core) : (setCore s n c).host = s.host := rfl
@[simp] theorem setCore_boot (n : Nat) (c : Core) : (setCore s n c).boot = s.boot := rfl
@[simp] theorem setCore_keeper (n : Nat) (c : Core) : (setCore s n c).keeper = s.keeper := rfl
@[simp] theorem setCore_driver (n : Nat) (c : Core) : (setCore s n c).driver = s.driver := rfl
@[simp] theorem setCore_nvmBusy (n : Nat) (c : Core) : (setCore s n c).nvmBusy = s.nvmBusy := rfl
@[simp] theorem setCore_nvmRefused (n : Nat) (c : Core) : (setCore s n c).nvmRefused = s.nvmRefused := rfl
@[simp] theorem setCore_power (n : Nat) (c : Core) : (setCore s n c).power = s.power := rfl
@[simp] theorem setCore_smbSelect (n : Nat) (c : Core) : (setCore s n c).smbSelect = s.smbSelect := rfl
@[simp] theorem setCore_guardLast (n : Nat) (c : Core) : (setCore s n c).guardLast = s.guardLast := rfl
@[simp] theorem setCore_out (n : Nat) (c : Core) : (setCore s n c).out = s.out := rfl
@[simp] theorem setCore_freeCtr (n : Nat) (c : Core) : (setCore s n c).freeCtr = s.freeCtr := rfl
@[simp] theorem setCore_tickPhase (n : Nat) (c : Core) : (setCore s n c).tickPhase = s.tickPhase := rfl
@[simp] theorem setCore_exchPhase (n : Nat) (c : Core) : (setCore s n c).exchPhase = s.exchPhase := rfl
@[simp] theorem setCore_cycles (n : Nat) (c : Core) : (setCore s n c).cycles = s.cycles := rfl

@[simp] theorem modCore_pending (n : Nat) (f : Core → Core) : (modCore s n f).pending = s.pending := rfl
@[simp] theorem modCore_mem (n : Nat) (f : Core → Core) : (modCore s n f).mem = s.mem := rfl
@[simp] theorem modCore_guard (n : Nat) (f : Core → Core) : (modCore s n f).guard = s.guard := rfl
@[simp] theorem modCore_scrubs (n : Nat) (f : Core → Core) : (modCore s n f).scrubs = s.scrubs := rfl
@[simp] theorem modCore_nvm (n : Nat) (f : Core → Core) : (modCore s n f).nvm = s.nvm := rfl
@[simp] theorem modCore_regs (n : Nat) (f : Core → Core) : (modCore s n f).regs = s.regs := rfl
@[simp] theorem modCore_blocks (n : Nat) (f : Core → Core) : (modCore s n f).blocks = s.blocks := rfl
@[simp] theorem modCore_latches (n : Nat) (f : Core → Core) : (modCore s n f).latches = s.latches := rfl
@[simp] theorem modCore_posted (n : Nat) (f : Core → Core) : (modCore s n f).posted = s.posted := rfl
@[simp] theorem modCore_heldAcks (n : Nat) (f : Core → Core) : (modCore s n f).heldAcks = s.heldAcks := rfl
@[simp] theorem modCore_waitingAccesses (n : Nat) (f : Core → Core) : (modCore s n f).waitingAccesses = s.waitingAccesses := rfl
@[simp] theorem modCore_time (n : Nat) (f : Core → Core) : (modCore s n f).time = s.time := rfl
@[simp] theorem modCore_pulseLast (n : Nat) (f : Core → Core) : (modCore s n f).pulseLast = s.pulseLast := rfl
@[simp] theorem modCore_readings (n : Nat) (f : Core → Core) : (modCore s n f).readings = s.readings := rfl
@[simp] theorem modCore_forage (n : Nat) (f : Core → Core) : (modCore s n f).forage = s.forage := rfl
@[simp] theorem modCore_barriers (n : Nat) (f : Core → Core) : (modCore s n f).barriers = s.barriers := rfl
@[simp] theorem modCore_launches (n : Nat) (f : Core → Core) : (modCore s n f).launches = s.launches := rfl
@[simp] theorem modCore_ended (n : Nat) (f : Core → Core) : (modCore s n f).ended = s.ended := rfl
@[simp] theorem modCore_nextLaunch (n : Nat) (f : Core → Core) : (modCore s n f).nextLaunch = s.nextLaunch := rfl
@[simp] theorem modCore_steward (n : Nat) (f : Core → Core) : (modCore s n f).steward = s.steward := rfl
@[simp] theorem modCore_disables (n : Nat) (f : Core → Core) : (modCore s n f).disables = s.disables := rfl
@[simp] theorem modCore_slotRejected (n : Nat) (f : Core → Core) : (modCore s n f).slotRejected = s.slotRejected := rfl
@[simp] theorem modCore_dma (n : Nat) (f : Core → Core) : (modCore s n f).dma = s.dma := rfl
@[simp] theorem modCore_dmaRejected (n : Nat) (f : Core → Core) : (modCore s n f).dmaRejected = s.dmaRejected := rfl
@[simp] theorem modCore_dmaOn (n : Nat) (f : Core → Core) : (modCore s n f).dmaOn = s.dmaOn := rfl
@[simp] theorem modCore_dispatches (n : Nat) (f : Core → Core) : (modCore s n f).dispatches = s.dispatches := rfl
@[simp] theorem modCore_heldMessages (n : Nat) (f : Core → Core) : (modCore s n f).heldMessages = s.heldMessages := rfl
@[simp] theorem modCore_lastDispatchFault (n : Nat) (f : Core → Core) : (modCore s n f).lastDispatchFault = s.lastDispatchFault := rfl
@[simp] theorem modCore_chains (n : Nat) (f : Core → Core) : (modCore s n f).chains = s.chains := rfl
@[simp] theorem modCore_poolQueue (n : Nat) (f : Core → Core) : (modCore s n f).poolQueue = s.poolQueue := rfl
@[simp] theorem modCore_poolOver (n : Nat) (f : Core → Core) : (modCore s n f).poolOver = s.poolOver := rfl
@[simp] theorem modCore_reservations (n : Nat) (f : Core → Core) : (modCore s n f).reservations = s.reservations := rfl
@[simp] theorem modCore_nextPool (n : Nat) (f : Core → Core) : (modCore s n f).nextPool = s.nextPool := rfl
@[simp] theorem modCore_freedHeads (n : Nat) (f : Core → Core) : (modCore s n f).freedHeads = s.freedHeads := rfl
@[simp] theorem modCore_cacheLines (n : Nat) (f : Core → Core) : (modCore s n f).cacheLines = s.cacheLines := rfl
@[simp] theorem modCore_reserved (n : Nat) (f : Core → Core) : (modCore s n f).reserved = s.reserved := rfl
@[simp] theorem modCore_wcb (n : Nat) (f : Core → Core) : (modCore s n f).wcb = s.wcb := rfl
@[simp] theorem modCore_pcDir (n : Nat) (f : Core → Core) : (modCore s n f).pcDir = s.pcDir := rfl
@[simp] theorem modCore_margins (n : Nat) (f : Core → Core) : (modCore s n f).margins = s.margins := rfl
@[simp] theorem modCore_windows (n : Nat) (f : Core → Core) : (modCore s n f).windows = s.windows := rfl
@[simp] theorem modCore_windowRejected (n : Nat) (f : Core → Core) : (modCore s n f).windowRejected = s.windowRejected := rfl
@[simp] theorem modCore_rankCache (n : Nat) (f : Core → Core) : (modCore s n f).rankCache = s.rankCache := rfl
@[simp] theorem modCore_deferred (n : Nat) (f : Core → Core) : (modCore s n f).deferred = s.deferred := rfl
@[simp] theorem modCore_messages (n : Nat) (f : Core → Core) : (modCore s n f).messages = s.messages := rfl
@[simp] theorem modCore_looped (n : Nat) (f : Core → Core) : (modCore s n f).looped = s.looped := rfl
@[simp] theorem modCore_sendNext (n : Nat) (f : Core → Core) : (modCore s n f).sendNext = s.sendNext := rfl
@[simp] theorem modCore_arrivals (n : Nat) (f : Core → Core) : (modCore s n f).arrivals = s.arrivals := rfl
@[simp] theorem modCore_portTurn (n : Nat) (f : Core → Core) : (modCore s n f).portTurn = s.portTurn := rfl
@[simp] theorem modCore_doneWrites (n : Nat) (f : Core → Core) : (modCore s n f).doneWrites = s.doneWrites := rfl
@[simp] theorem modCore_awaited (n : Nat) (f : Core → Core) : (modCore s n f).awaited = s.awaited := rfl
@[simp] theorem modCore_broadcasts (n : Nat) (f : Core → Core) : (modCore s n f).broadcasts = s.broadcasts := rfl
@[simp] theorem modCore_remote (n : Nat) (f : Core → Core) : (modCore s n f).remote = s.remote := rfl
@[simp] theorem modCore_nextTag (n : Nat) (f : Core → Core) : (modCore s n f).nextTag = s.nextTag := rfl
@[simp] theorem modCore_lastRefusal (n : Nat) (f : Core → Core) : (modCore s n f).lastRefusal = s.lastRefusal := rfl
@[simp] theorem modCore_lanes (n : Nat) (f : Core → Core) : (modCore s n f).lanes = s.lanes := rfl
@[simp] theorem modCore_sync (n : Nat) (f : Core → Core) : (modCore s n f).sync = s.sync := rfl
@[simp] theorem modCore_collTable (n : Nat) (f : Core → Core) : (modCore s n f).collTable = s.collTable := rfl
@[simp] theorem modCore_hopErrors (n : Nat) (f : Core → Core) : (modCore s n f).hopErrors = s.hopErrors := rfl
@[simp] theorem modCore_stateErrors (n : Nat) (f : Core → Core) : (modCore s n f).stateErrors = s.stateErrors := rfl
@[simp] theorem modCore_metErrors (n : Nat) (f : Core → Core) : (modCore s n f).metErrors = s.metErrors := rfl
@[simp] theorem modCore_tableReject (n : Nat) (f : Core → Core) : (modCore s n f).tableReject = s.tableReject := rfl
@[simp] theorem modCore_collectives (n : Nat) (f : Core → Core) : (modCore s n f).collectives = s.collectives := rfl
@[simp] theorem modCore_collFaulted (n : Nat) (f : Core → Core) : (modCore s n f).collFaulted = s.collFaulted := rfl
@[simp] theorem modCore_lastCollFault (n : Nat) (f : Core → Core) : (modCore s n f).lastCollFault = s.lastCollFault := rfl
@[simp] theorem modCore_collTurn (n : Nat) (f : Core → Core) : (modCore s n f).collTurn = s.collTurn := rfl
@[simp] theorem modCore_heads (n : Nat) (f : Core → Core) : (modCore s n f).heads = s.heads := rfl
@[simp] theorem modCore_units (n : Nat) (f : Core → Core) : (modCore s n f).units = s.units := rfl
@[simp] theorem modCore_lastSolverFault (n : Nat) (f : Core → Core) : (modCore s n f).lastSolverFault = s.lastSolverFault := rfl
@[simp] theorem modCore_host (n : Nat) (f : Core → Core) : (modCore s n f).host = s.host := rfl
@[simp] theorem modCore_boot (n : Nat) (f : Core → Core) : (modCore s n f).boot = s.boot := rfl
@[simp] theorem modCore_keeper (n : Nat) (f : Core → Core) : (modCore s n f).keeper = s.keeper := rfl
@[simp] theorem modCore_driver (n : Nat) (f : Core → Core) : (modCore s n f).driver = s.driver := rfl
@[simp] theorem modCore_nvmBusy (n : Nat) (f : Core → Core) : (modCore s n f).nvmBusy = s.nvmBusy := rfl
@[simp] theorem modCore_nvmRefused (n : Nat) (f : Core → Core) : (modCore s n f).nvmRefused = s.nvmRefused := rfl
@[simp] theorem modCore_power (n : Nat) (f : Core → Core) : (modCore s n f).power = s.power := rfl
@[simp] theorem modCore_smbSelect (n : Nat) (f : Core → Core) : (modCore s n f).smbSelect = s.smbSelect := rfl
@[simp] theorem modCore_guardLast (n : Nat) (f : Core → Core) : (modCore s n f).guardLast = s.guardLast := rfl
@[simp] theorem modCore_out (n : Nat) (f : Core → Core) : (modCore s n f).out = s.out := rfl
@[simp] theorem modCore_freeCtr (n : Nat) (f : Core → Core) : (modCore s n f).freeCtr = s.freeCtr := rfl
@[simp] theorem modCore_tickPhase (n : Nat) (f : Core → Core) : (modCore s n f).tickPhase = s.tickPhase := rfl
@[simp] theorem modCore_exchPhase (n : Nat) (f : Core → Core) : (modCore s n f).exchPhase = s.exchPhase := rfl
@[simp] theorem modCore_cycles (n : Nat) (f : Core → Core) : (modCore s n f).cycles = s.cycles := rfl

@[simp] theorem emit_pending (o : Out) : (emit s o).pending = s.pending := rfl
@[simp] theorem emit_mem (o : Out) : (emit s o).mem = s.mem := rfl
@[simp] theorem emit_guard (o : Out) : (emit s o).guard = s.guard := rfl
@[simp] theorem emit_scrubs (o : Out) : (emit s o).scrubs = s.scrubs := rfl
@[simp] theorem emit_nvm (o : Out) : (emit s o).nvm = s.nvm := rfl
@[simp] theorem emit_regs (o : Out) : (emit s o).regs = s.regs := rfl
@[simp] theorem emit_blocks (o : Out) : (emit s o).blocks = s.blocks := rfl
@[simp] theorem emit_latches (o : Out) : (emit s o).latches = s.latches := rfl
@[simp] theorem emit_posted (o : Out) : (emit s o).posted = s.posted := rfl
@[simp] theorem emit_heldAcks (o : Out) : (emit s o).heldAcks = s.heldAcks := rfl
@[simp] theorem emit_waitingAccesses (o : Out) : (emit s o).waitingAccesses = s.waitingAccesses := rfl
@[simp] theorem emit_time (o : Out) : (emit s o).time = s.time := rfl
@[simp] theorem emit_pulseLast (o : Out) : (emit s o).pulseLast = s.pulseLast := rfl
@[simp] theorem emit_readings (o : Out) : (emit s o).readings = s.readings := rfl
@[simp] theorem emit_cores (o : Out) : (emit s o).cores = s.cores := rfl
@[simp] theorem emit_forage (o : Out) : (emit s o).forage = s.forage := rfl
@[simp] theorem emit_barriers (o : Out) : (emit s o).barriers = s.barriers := rfl
@[simp] theorem emit_launches (o : Out) : (emit s o).launches = s.launches := rfl
@[simp] theorem emit_ended (o : Out) : (emit s o).ended = s.ended := rfl
@[simp] theorem emit_nextLaunch (o : Out) : (emit s o).nextLaunch = s.nextLaunch := rfl
@[simp] theorem emit_steward (o : Out) : (emit s o).steward = s.steward := rfl
@[simp] theorem emit_disables (o : Out) : (emit s o).disables = s.disables := rfl
@[simp] theorem emit_slotRejected (o : Out) : (emit s o).slotRejected = s.slotRejected := rfl
@[simp] theorem emit_dma (o : Out) : (emit s o).dma = s.dma := rfl
@[simp] theorem emit_dmaRejected (o : Out) : (emit s o).dmaRejected = s.dmaRejected := rfl
@[simp] theorem emit_dmaOn (o : Out) : (emit s o).dmaOn = s.dmaOn := rfl
@[simp] theorem emit_dispatches (o : Out) : (emit s o).dispatches = s.dispatches := rfl
@[simp] theorem emit_heldMessages (o : Out) : (emit s o).heldMessages = s.heldMessages := rfl
@[simp] theorem emit_lastDispatchFault (o : Out) : (emit s o).lastDispatchFault = s.lastDispatchFault := rfl
@[simp] theorem emit_chains (o : Out) : (emit s o).chains = s.chains := rfl
@[simp] theorem emit_poolQueue (o : Out) : (emit s o).poolQueue = s.poolQueue := rfl
@[simp] theorem emit_poolOver (o : Out) : (emit s o).poolOver = s.poolOver := rfl
@[simp] theorem emit_reservations (o : Out) : (emit s o).reservations = s.reservations := rfl
@[simp] theorem emit_nextPool (o : Out) : (emit s o).nextPool = s.nextPool := rfl
@[simp] theorem emit_freedHeads (o : Out) : (emit s o).freedHeads = s.freedHeads := rfl
@[simp] theorem emit_cacheLines (o : Out) : (emit s o).cacheLines = s.cacheLines := rfl
@[simp] theorem emit_reserved (o : Out) : (emit s o).reserved = s.reserved := rfl
@[simp] theorem emit_wcb (o : Out) : (emit s o).wcb = s.wcb := rfl
@[simp] theorem emit_pcDir (o : Out) : (emit s o).pcDir = s.pcDir := rfl
@[simp] theorem emit_margins (o : Out) : (emit s o).margins = s.margins := rfl
@[simp] theorem emit_windows (o : Out) : (emit s o).windows = s.windows := rfl
@[simp] theorem emit_windowRejected (o : Out) : (emit s o).windowRejected = s.windowRejected := rfl
@[simp] theorem emit_rankCache (o : Out) : (emit s o).rankCache = s.rankCache := rfl
@[simp] theorem emit_deferred (o : Out) : (emit s o).deferred = s.deferred := rfl
@[simp] theorem emit_messages (o : Out) : (emit s o).messages = s.messages := rfl
@[simp] theorem emit_looped (o : Out) : (emit s o).looped = s.looped := rfl
@[simp] theorem emit_sendNext (o : Out) : (emit s o).sendNext = s.sendNext := rfl
@[simp] theorem emit_arrivals (o : Out) : (emit s o).arrivals = s.arrivals := rfl
@[simp] theorem emit_portTurn (o : Out) : (emit s o).portTurn = s.portTurn := rfl
@[simp] theorem emit_doneWrites (o : Out) : (emit s o).doneWrites = s.doneWrites := rfl
@[simp] theorem emit_awaited (o : Out) : (emit s o).awaited = s.awaited := rfl
@[simp] theorem emit_broadcasts (o : Out) : (emit s o).broadcasts = s.broadcasts := rfl
@[simp] theorem emit_remote (o : Out) : (emit s o).remote = s.remote := rfl
@[simp] theorem emit_nextTag (o : Out) : (emit s o).nextTag = s.nextTag := rfl
@[simp] theorem emit_lastRefusal (o : Out) : (emit s o).lastRefusal = s.lastRefusal := rfl
@[simp] theorem emit_lanes (o : Out) : (emit s o).lanes = s.lanes := rfl
@[simp] theorem emit_sync (o : Out) : (emit s o).sync = s.sync := rfl
@[simp] theorem emit_collTable (o : Out) : (emit s o).collTable = s.collTable := rfl
@[simp] theorem emit_hopErrors (o : Out) : (emit s o).hopErrors = s.hopErrors := rfl
@[simp] theorem emit_stateErrors (o : Out) : (emit s o).stateErrors = s.stateErrors := rfl
@[simp] theorem emit_metErrors (o : Out) : (emit s o).metErrors = s.metErrors := rfl
@[simp] theorem emit_tableReject (o : Out) : (emit s o).tableReject = s.tableReject := rfl
@[simp] theorem emit_collectives (o : Out) : (emit s o).collectives = s.collectives := rfl
@[simp] theorem emit_collFaulted (o : Out) : (emit s o).collFaulted = s.collFaulted := rfl
@[simp] theorem emit_lastCollFault (o : Out) : (emit s o).lastCollFault = s.lastCollFault := rfl
@[simp] theorem emit_collTurn (o : Out) : (emit s o).collTurn = s.collTurn := rfl
@[simp] theorem emit_heads (o : Out) : (emit s o).heads = s.heads := rfl
@[simp] theorem emit_units (o : Out) : (emit s o).units = s.units := rfl
@[simp] theorem emit_lastSolverFault (o : Out) : (emit s o).lastSolverFault = s.lastSolverFault := rfl
@[simp] theorem emit_host (o : Out) : (emit s o).host = s.host := rfl
@[simp] theorem emit_boot (o : Out) : (emit s o).boot = s.boot := rfl
@[simp] theorem emit_keeper (o : Out) : (emit s o).keeper = s.keeper := rfl
@[simp] theorem emit_driver (o : Out) : (emit s o).driver = s.driver := rfl
@[simp] theorem emit_nvmBusy (o : Out) : (emit s o).nvmBusy = s.nvmBusy := rfl
@[simp] theorem emit_nvmRefused (o : Out) : (emit s o).nvmRefused = s.nvmRefused := rfl
@[simp] theorem emit_power (o : Out) : (emit s o).power = s.power := rfl
@[simp] theorem emit_smbSelect (o : Out) : (emit s o).smbSelect = s.smbSelect := rfl
@[simp] theorem emit_guardLast (o : Out) : (emit s o).guardLast = s.guardLast := rfl
@[simp] theorem emit_freeCtr (o : Out) : (emit s o).freeCtr = s.freeCtr := rfl
@[simp] theorem emit_tickPhase (o : Out) : (emit s o).tickPhase = s.tickPhase := rfl
@[simp] theorem emit_exchPhase (o : Out) : (emit s o).exchPhase = s.exchPhase := rfl
@[simp] theorem emit_cycles (o : Out) : (emit s o).cycles = s.cycles := rfl

@[simp] theorem fresh_pending : ((fresh s).2).pending = s.pending := rfl
@[simp] theorem fresh_mem : ((fresh s).2).mem = s.mem := rfl
@[simp] theorem fresh_guard : ((fresh s).2).guard = s.guard := rfl
@[simp] theorem fresh_scrubs : ((fresh s).2).scrubs = s.scrubs := rfl
@[simp] theorem fresh_nvm : ((fresh s).2).nvm = s.nvm := rfl
@[simp] theorem fresh_regs : ((fresh s).2).regs = s.regs := rfl
@[simp] theorem fresh_blocks : ((fresh s).2).blocks = s.blocks := rfl
@[simp] theorem fresh_latches : ((fresh s).2).latches = s.latches := rfl
@[simp] theorem fresh_posted : ((fresh s).2).posted = s.posted := rfl
@[simp] theorem fresh_heldAcks : ((fresh s).2).heldAcks = s.heldAcks := rfl
@[simp] theorem fresh_waitingAccesses : ((fresh s).2).waitingAccesses = s.waitingAccesses := rfl
@[simp] theorem fresh_time : ((fresh s).2).time = s.time := rfl
@[simp] theorem fresh_pulseLast : ((fresh s).2).pulseLast = s.pulseLast := rfl
@[simp] theorem fresh_readings : ((fresh s).2).readings = s.readings := rfl
@[simp] theorem fresh_cores : ((fresh s).2).cores = s.cores := rfl
@[simp] theorem fresh_forage : ((fresh s).2).forage = s.forage := rfl
@[simp] theorem fresh_barriers : ((fresh s).2).barriers = s.barriers := rfl
@[simp] theorem fresh_launches : ((fresh s).2).launches = s.launches := rfl
@[simp] theorem fresh_ended : ((fresh s).2).ended = s.ended := rfl
@[simp] theorem fresh_nextLaunch : ((fresh s).2).nextLaunch = s.nextLaunch := rfl
@[simp] theorem fresh_steward : ((fresh s).2).steward = s.steward := rfl
@[simp] theorem fresh_disables : ((fresh s).2).disables = s.disables := rfl
@[simp] theorem fresh_slotRejected : ((fresh s).2).slotRejected = s.slotRejected := rfl
@[simp] theorem fresh_dma : ((fresh s).2).dma = s.dma := rfl
@[simp] theorem fresh_dmaRejected : ((fresh s).2).dmaRejected = s.dmaRejected := rfl
@[simp] theorem fresh_dmaOn : ((fresh s).2).dmaOn = s.dmaOn := rfl
@[simp] theorem fresh_dispatches : ((fresh s).2).dispatches = s.dispatches := rfl
@[simp] theorem fresh_heldMessages : ((fresh s).2).heldMessages = s.heldMessages := rfl
@[simp] theorem fresh_lastDispatchFault : ((fresh s).2).lastDispatchFault = s.lastDispatchFault := rfl
@[simp] theorem fresh_chains : ((fresh s).2).chains = s.chains := rfl
@[simp] theorem fresh_poolQueue : ((fresh s).2).poolQueue = s.poolQueue := rfl
@[simp] theorem fresh_poolOver : ((fresh s).2).poolOver = s.poolOver := rfl
@[simp] theorem fresh_reservations : ((fresh s).2).reservations = s.reservations := rfl
@[simp] theorem fresh_nextPool : ((fresh s).2).nextPool = s.nextPool := rfl
@[simp] theorem fresh_freedHeads : ((fresh s).2).freedHeads = s.freedHeads := rfl
@[simp] theorem fresh_cacheLines : ((fresh s).2).cacheLines = s.cacheLines := rfl
@[simp] theorem fresh_reserved : ((fresh s).2).reserved = s.reserved := rfl
@[simp] theorem fresh_wcb : ((fresh s).2).wcb = s.wcb := rfl
@[simp] theorem fresh_pcDir : ((fresh s).2).pcDir = s.pcDir := rfl
@[simp] theorem fresh_margins : ((fresh s).2).margins = s.margins := rfl
@[simp] theorem fresh_windows : ((fresh s).2).windows = s.windows := rfl
@[simp] theorem fresh_windowRejected : ((fresh s).2).windowRejected = s.windowRejected := rfl
@[simp] theorem fresh_rankCache : ((fresh s).2).rankCache = s.rankCache := rfl
@[simp] theorem fresh_deferred : ((fresh s).2).deferred = s.deferred := rfl
@[simp] theorem fresh_messages : ((fresh s).2).messages = s.messages := rfl
@[simp] theorem fresh_looped : ((fresh s).2).looped = s.looped := rfl
@[simp] theorem fresh_sendNext : ((fresh s).2).sendNext = s.sendNext := rfl
@[simp] theorem fresh_arrivals : ((fresh s).2).arrivals = s.arrivals := rfl
@[simp] theorem fresh_portTurn : ((fresh s).2).portTurn = s.portTurn := rfl
@[simp] theorem fresh_doneWrites : ((fresh s).2).doneWrites = s.doneWrites := rfl
@[simp] theorem fresh_awaited : ((fresh s).2).awaited = s.awaited := rfl
@[simp] theorem fresh_broadcasts : ((fresh s).2).broadcasts = s.broadcasts := rfl
@[simp] theorem fresh_remote : ((fresh s).2).remote = s.remote := rfl
@[simp] theorem fresh_nextTag : ((fresh s).2).nextTag = s.nextTag := rfl
@[simp] theorem fresh_lastRefusal : ((fresh s).2).lastRefusal = s.lastRefusal := rfl
@[simp] theorem fresh_lanes : ((fresh s).2).lanes = s.lanes := rfl
@[simp] theorem fresh_sync : ((fresh s).2).sync = s.sync := rfl
@[simp] theorem fresh_collTable : ((fresh s).2).collTable = s.collTable := rfl
@[simp] theorem fresh_hopErrors : ((fresh s).2).hopErrors = s.hopErrors := rfl
@[simp] theorem fresh_stateErrors : ((fresh s).2).stateErrors = s.stateErrors := rfl
@[simp] theorem fresh_metErrors : ((fresh s).2).metErrors = s.metErrors := rfl
@[simp] theorem fresh_tableReject : ((fresh s).2).tableReject = s.tableReject := rfl
@[simp] theorem fresh_collectives : ((fresh s).2).collectives = s.collectives := rfl
@[simp] theorem fresh_collFaulted : ((fresh s).2).collFaulted = s.collFaulted := rfl
@[simp] theorem fresh_lastCollFault : ((fresh s).2).lastCollFault = s.lastCollFault := rfl
@[simp] theorem fresh_collTurn : ((fresh s).2).collTurn = s.collTurn := rfl
@[simp] theorem fresh_heads : ((fresh s).2).heads = s.heads := rfl
@[simp] theorem fresh_units : ((fresh s).2).units = s.units := rfl
@[simp] theorem fresh_lastSolverFault : ((fresh s).2).lastSolverFault = s.lastSolverFault := rfl
@[simp] theorem fresh_host : ((fresh s).2).host = s.host := rfl
@[simp] theorem fresh_boot : ((fresh s).2).boot = s.boot := rfl
@[simp] theorem fresh_keeper : ((fresh s).2).keeper = s.keeper := rfl
@[simp] theorem fresh_driver : ((fresh s).2).driver = s.driver := rfl
@[simp] theorem fresh_nvmBusy : ((fresh s).2).nvmBusy = s.nvmBusy := rfl
@[simp] theorem fresh_nvmRefused : ((fresh s).2).nvmRefused = s.nvmRefused := rfl
@[simp] theorem fresh_power : ((fresh s).2).power = s.power := rfl
@[simp] theorem fresh_smbSelect : ((fresh s).2).smbSelect = s.smbSelect := rfl
@[simp] theorem fresh_guardLast : ((fresh s).2).guardLast = s.guardLast := rfl
@[simp] theorem fresh_out : ((fresh s).2).out = s.out := rfl
@[simp] theorem fresh_tickPhase : ((fresh s).2).tickPhase = s.tickPhase := rfl
@[simp] theorem fresh_exchPhase : ((fresh s).2).exchPhase = s.exchPhase := rfl
@[simp] theorem fresh_cycles : ((fresh s).2).cycles = s.cycles := rfl

@[simp] theorem readTime_pending (u : Nat) : ((readTime s u).2).pending = s.pending := rfl
@[simp] theorem readTime_mem (u : Nat) : ((readTime s u).2).mem = s.mem := rfl
@[simp] theorem readTime_guard (u : Nat) : ((readTime s u).2).guard = s.guard := rfl
@[simp] theorem readTime_scrubs (u : Nat) : ((readTime s u).2).scrubs = s.scrubs := rfl
@[simp] theorem readTime_nvm (u : Nat) : ((readTime s u).2).nvm = s.nvm := rfl
@[simp] theorem readTime_regs (u : Nat) : ((readTime s u).2).regs = s.regs := rfl
@[simp] theorem readTime_blocks (u : Nat) : ((readTime s u).2).blocks = s.blocks := rfl
@[simp] theorem readTime_latches (u : Nat) : ((readTime s u).2).latches = s.latches := rfl
@[simp] theorem readTime_posted (u : Nat) : ((readTime s u).2).posted = s.posted := rfl
@[simp] theorem readTime_heldAcks (u : Nat) : ((readTime s u).2).heldAcks = s.heldAcks := rfl
@[simp] theorem readTime_waitingAccesses (u : Nat) : ((readTime s u).2).waitingAccesses = s.waitingAccesses := rfl
@[simp] theorem readTime_time (u : Nat) : ((readTime s u).2).time = s.time := rfl
@[simp] theorem readTime_pulseLast (u : Nat) : ((readTime s u).2).pulseLast = s.pulseLast := rfl
@[simp] theorem readTime_cores (u : Nat) : ((readTime s u).2).cores = s.cores := rfl
@[simp] theorem readTime_forage (u : Nat) : ((readTime s u).2).forage = s.forage := rfl
@[simp] theorem readTime_barriers (u : Nat) : ((readTime s u).2).barriers = s.barriers := rfl
@[simp] theorem readTime_launches (u : Nat) : ((readTime s u).2).launches = s.launches := rfl
@[simp] theorem readTime_ended (u : Nat) : ((readTime s u).2).ended = s.ended := rfl
@[simp] theorem readTime_nextLaunch (u : Nat) : ((readTime s u).2).nextLaunch = s.nextLaunch := rfl
@[simp] theorem readTime_steward (u : Nat) : ((readTime s u).2).steward = s.steward := rfl
@[simp] theorem readTime_disables (u : Nat) : ((readTime s u).2).disables = s.disables := rfl
@[simp] theorem readTime_slotRejected (u : Nat) : ((readTime s u).2).slotRejected = s.slotRejected := rfl
@[simp] theorem readTime_dma (u : Nat) : ((readTime s u).2).dma = s.dma := rfl
@[simp] theorem readTime_dmaRejected (u : Nat) : ((readTime s u).2).dmaRejected = s.dmaRejected := rfl
@[simp] theorem readTime_dmaOn (u : Nat) : ((readTime s u).2).dmaOn = s.dmaOn := rfl
@[simp] theorem readTime_dispatches (u : Nat) : ((readTime s u).2).dispatches = s.dispatches := rfl
@[simp] theorem readTime_heldMessages (u : Nat) : ((readTime s u).2).heldMessages = s.heldMessages := rfl
@[simp] theorem readTime_lastDispatchFault (u : Nat) : ((readTime s u).2).lastDispatchFault = s.lastDispatchFault := rfl
@[simp] theorem readTime_chains (u : Nat) : ((readTime s u).2).chains = s.chains := rfl
@[simp] theorem readTime_poolQueue (u : Nat) : ((readTime s u).2).poolQueue = s.poolQueue := rfl
@[simp] theorem readTime_poolOver (u : Nat) : ((readTime s u).2).poolOver = s.poolOver := rfl
@[simp] theorem readTime_reservations (u : Nat) : ((readTime s u).2).reservations = s.reservations := rfl
@[simp] theorem readTime_nextPool (u : Nat) : ((readTime s u).2).nextPool = s.nextPool := rfl
@[simp] theorem readTime_freedHeads (u : Nat) : ((readTime s u).2).freedHeads = s.freedHeads := rfl
@[simp] theorem readTime_cacheLines (u : Nat) : ((readTime s u).2).cacheLines = s.cacheLines := rfl
@[simp] theorem readTime_reserved (u : Nat) : ((readTime s u).2).reserved = s.reserved := rfl
@[simp] theorem readTime_wcb (u : Nat) : ((readTime s u).2).wcb = s.wcb := rfl
@[simp] theorem readTime_pcDir (u : Nat) : ((readTime s u).2).pcDir = s.pcDir := rfl
@[simp] theorem readTime_margins (u : Nat) : ((readTime s u).2).margins = s.margins := rfl
@[simp] theorem readTime_windows (u : Nat) : ((readTime s u).2).windows = s.windows := rfl
@[simp] theorem readTime_windowRejected (u : Nat) : ((readTime s u).2).windowRejected = s.windowRejected := rfl
@[simp] theorem readTime_rankCache (u : Nat) : ((readTime s u).2).rankCache = s.rankCache := rfl
@[simp] theorem readTime_deferred (u : Nat) : ((readTime s u).2).deferred = s.deferred := rfl
@[simp] theorem readTime_messages (u : Nat) : ((readTime s u).2).messages = s.messages := rfl
@[simp] theorem readTime_looped (u : Nat) : ((readTime s u).2).looped = s.looped := rfl
@[simp] theorem readTime_sendNext (u : Nat) : ((readTime s u).2).sendNext = s.sendNext := rfl
@[simp] theorem readTime_arrivals (u : Nat) : ((readTime s u).2).arrivals = s.arrivals := rfl
@[simp] theorem readTime_portTurn (u : Nat) : ((readTime s u).2).portTurn = s.portTurn := rfl
@[simp] theorem readTime_doneWrites (u : Nat) : ((readTime s u).2).doneWrites = s.doneWrites := rfl
@[simp] theorem readTime_awaited (u : Nat) : ((readTime s u).2).awaited = s.awaited := rfl
@[simp] theorem readTime_broadcasts (u : Nat) : ((readTime s u).2).broadcasts = s.broadcasts := rfl
@[simp] theorem readTime_remote (u : Nat) : ((readTime s u).2).remote = s.remote := rfl
@[simp] theorem readTime_nextTag (u : Nat) : ((readTime s u).2).nextTag = s.nextTag := rfl
@[simp] theorem readTime_lastRefusal (u : Nat) : ((readTime s u).2).lastRefusal = s.lastRefusal := rfl
@[simp] theorem readTime_lanes (u : Nat) : ((readTime s u).2).lanes = s.lanes := rfl
@[simp] theorem readTime_sync (u : Nat) : ((readTime s u).2).sync = s.sync := rfl
@[simp] theorem readTime_collTable (u : Nat) : ((readTime s u).2).collTable = s.collTable := rfl
@[simp] theorem readTime_hopErrors (u : Nat) : ((readTime s u).2).hopErrors = s.hopErrors := rfl
@[simp] theorem readTime_stateErrors (u : Nat) : ((readTime s u).2).stateErrors = s.stateErrors := rfl
@[simp] theorem readTime_metErrors (u : Nat) : ((readTime s u).2).metErrors = s.metErrors := rfl
@[simp] theorem readTime_tableReject (u : Nat) : ((readTime s u).2).tableReject = s.tableReject := rfl
@[simp] theorem readTime_collectives (u : Nat) : ((readTime s u).2).collectives = s.collectives := rfl
@[simp] theorem readTime_collFaulted (u : Nat) : ((readTime s u).2).collFaulted = s.collFaulted := rfl
@[simp] theorem readTime_lastCollFault (u : Nat) : ((readTime s u).2).lastCollFault = s.lastCollFault := rfl
@[simp] theorem readTime_collTurn (u : Nat) : ((readTime s u).2).collTurn = s.collTurn := rfl
@[simp] theorem readTime_heads (u : Nat) : ((readTime s u).2).heads = s.heads := rfl
@[simp] theorem readTime_units (u : Nat) : ((readTime s u).2).units = s.units := rfl
@[simp] theorem readTime_lastSolverFault (u : Nat) : ((readTime s u).2).lastSolverFault = s.lastSolverFault := rfl
@[simp] theorem readTime_host (u : Nat) : ((readTime s u).2).host = s.host := rfl
@[simp] theorem readTime_boot (u : Nat) : ((readTime s u).2).boot = s.boot := rfl
@[simp] theorem readTime_keeper (u : Nat) : ((readTime s u).2).keeper = s.keeper := rfl
@[simp] theorem readTime_driver (u : Nat) : ((readTime s u).2).driver = s.driver := rfl
@[simp] theorem readTime_nvmBusy (u : Nat) : ((readTime s u).2).nvmBusy = s.nvmBusy := rfl
@[simp] theorem readTime_nvmRefused (u : Nat) : ((readTime s u).2).nvmRefused = s.nvmRefused := rfl
@[simp] theorem readTime_power (u : Nat) : ((readTime s u).2).power = s.power := rfl
@[simp] theorem readTime_smbSelect (u : Nat) : ((readTime s u).2).smbSelect = s.smbSelect := rfl
@[simp] theorem readTime_guardLast (u : Nat) : ((readTime s u).2).guardLast = s.guardLast := rfl
@[simp] theorem readTime_out (u : Nat) : ((readTime s u).2).out = s.out := rfl
@[simp] theorem readTime_tickPhase (u : Nat) : ((readTime s u).2).tickPhase = s.tickPhase := rfl
@[simp] theorem readTime_exchPhase (u : Nat) : ((readTime s u).2).exchPhase = s.exchPhase := rfl
@[simp] theorem readTime_cycles (u : Nat) : ((readTime s u).2).cycles = s.cycles := rfl

@[simp] theorem putBytes_pending (a : Nat) (bs : List Byte) : (putBytes s a bs).pending = s.pending := rfl
@[simp] theorem putBytes_guard (a : Nat) (bs : List Byte) : (putBytes s a bs).guard = s.guard := rfl
@[simp] theorem putBytes_scrubs (a : Nat) (bs : List Byte) : (putBytes s a bs).scrubs = s.scrubs := rfl
@[simp] theorem putBytes_nvm (a : Nat) (bs : List Byte) : (putBytes s a bs).nvm = s.nvm := rfl
@[simp] theorem putBytes_regs (a : Nat) (bs : List Byte) : (putBytes s a bs).regs = s.regs := rfl
@[simp] theorem putBytes_blocks (a : Nat) (bs : List Byte) : (putBytes s a bs).blocks = s.blocks := rfl
@[simp] theorem putBytes_latches (a : Nat) (bs : List Byte) : (putBytes s a bs).latches = s.latches := rfl
@[simp] theorem putBytes_posted (a : Nat) (bs : List Byte) : (putBytes s a bs).posted = s.posted := rfl
@[simp] theorem putBytes_heldAcks (a : Nat) (bs : List Byte) : (putBytes s a bs).heldAcks = s.heldAcks := rfl
@[simp] theorem putBytes_waitingAccesses (a : Nat) (bs : List Byte) : (putBytes s a bs).waitingAccesses = s.waitingAccesses := rfl
@[simp] theorem putBytes_time (a : Nat) (bs : List Byte) : (putBytes s a bs).time = s.time := rfl
@[simp] theorem putBytes_pulseLast (a : Nat) (bs : List Byte) : (putBytes s a bs).pulseLast = s.pulseLast := rfl
@[simp] theorem putBytes_readings (a : Nat) (bs : List Byte) : (putBytes s a bs).readings = s.readings := rfl
@[simp] theorem putBytes_cores (a : Nat) (bs : List Byte) : (putBytes s a bs).cores = s.cores := rfl
@[simp] theorem putBytes_forage (a : Nat) (bs : List Byte) : (putBytes s a bs).forage = s.forage := rfl
@[simp] theorem putBytes_barriers (a : Nat) (bs : List Byte) : (putBytes s a bs).barriers = s.barriers := rfl
@[simp] theorem putBytes_launches (a : Nat) (bs : List Byte) : (putBytes s a bs).launches = s.launches := rfl
@[simp] theorem putBytes_ended (a : Nat) (bs : List Byte) : (putBytes s a bs).ended = s.ended := rfl
@[simp] theorem putBytes_nextLaunch (a : Nat) (bs : List Byte) : (putBytes s a bs).nextLaunch = s.nextLaunch := rfl
@[simp] theorem putBytes_steward (a : Nat) (bs : List Byte) : (putBytes s a bs).steward = s.steward := rfl
@[simp] theorem putBytes_disables (a : Nat) (bs : List Byte) : (putBytes s a bs).disables = s.disables := rfl
@[simp] theorem putBytes_slotRejected (a : Nat) (bs : List Byte) : (putBytes s a bs).slotRejected = s.slotRejected := rfl
@[simp] theorem putBytes_dma (a : Nat) (bs : List Byte) : (putBytes s a bs).dma = s.dma := rfl
@[simp] theorem putBytes_dmaRejected (a : Nat) (bs : List Byte) : (putBytes s a bs).dmaRejected = s.dmaRejected := rfl
@[simp] theorem putBytes_dmaOn (a : Nat) (bs : List Byte) : (putBytes s a bs).dmaOn = s.dmaOn := rfl
@[simp] theorem putBytes_dispatches (a : Nat) (bs : List Byte) : (putBytes s a bs).dispatches = s.dispatches := rfl
@[simp] theorem putBytes_heldMessages (a : Nat) (bs : List Byte) : (putBytes s a bs).heldMessages = s.heldMessages := rfl
@[simp] theorem putBytes_lastDispatchFault (a : Nat) (bs : List Byte) : (putBytes s a bs).lastDispatchFault = s.lastDispatchFault := rfl
@[simp] theorem putBytes_chains (a : Nat) (bs : List Byte) : (putBytes s a bs).chains = s.chains := rfl
@[simp] theorem putBytes_poolQueue (a : Nat) (bs : List Byte) : (putBytes s a bs).poolQueue = s.poolQueue := rfl
@[simp] theorem putBytes_poolOver (a : Nat) (bs : List Byte) : (putBytes s a bs).poolOver = s.poolOver := rfl
@[simp] theorem putBytes_reservations (a : Nat) (bs : List Byte) : (putBytes s a bs).reservations = s.reservations := rfl
@[simp] theorem putBytes_nextPool (a : Nat) (bs : List Byte) : (putBytes s a bs).nextPool = s.nextPool := rfl
@[simp] theorem putBytes_freedHeads (a : Nat) (bs : List Byte) : (putBytes s a bs).freedHeads = s.freedHeads := rfl
@[simp] theorem putBytes_cacheLines (a : Nat) (bs : List Byte) : (putBytes s a bs).cacheLines = s.cacheLines := rfl
@[simp] theorem putBytes_reserved (a : Nat) (bs : List Byte) : (putBytes s a bs).reserved = s.reserved := rfl
@[simp] theorem putBytes_wcb (a : Nat) (bs : List Byte) : (putBytes s a bs).wcb = s.wcb := rfl
@[simp] theorem putBytes_pcDir (a : Nat) (bs : List Byte) : (putBytes s a bs).pcDir = s.pcDir := rfl
@[simp] theorem putBytes_margins (a : Nat) (bs : List Byte) : (putBytes s a bs).margins = s.margins := rfl
@[simp] theorem putBytes_windows (a : Nat) (bs : List Byte) : (putBytes s a bs).windows = s.windows := rfl
@[simp] theorem putBytes_windowRejected (a : Nat) (bs : List Byte) : (putBytes s a bs).windowRejected = s.windowRejected := rfl
@[simp] theorem putBytes_rankCache (a : Nat) (bs : List Byte) : (putBytes s a bs).rankCache = s.rankCache := rfl
@[simp] theorem putBytes_deferred (a : Nat) (bs : List Byte) : (putBytes s a bs).deferred = s.deferred := rfl
@[simp] theorem putBytes_messages (a : Nat) (bs : List Byte) : (putBytes s a bs).messages = s.messages := rfl
@[simp] theorem putBytes_looped (a : Nat) (bs : List Byte) : (putBytes s a bs).looped = s.looped := rfl
@[simp] theorem putBytes_sendNext (a : Nat) (bs : List Byte) : (putBytes s a bs).sendNext = s.sendNext := rfl
@[simp] theorem putBytes_arrivals (a : Nat) (bs : List Byte) : (putBytes s a bs).arrivals = s.arrivals := rfl
@[simp] theorem putBytes_portTurn (a : Nat) (bs : List Byte) : (putBytes s a bs).portTurn = s.portTurn := rfl
@[simp] theorem putBytes_doneWrites (a : Nat) (bs : List Byte) : (putBytes s a bs).doneWrites = s.doneWrites := rfl
@[simp] theorem putBytes_awaited (a : Nat) (bs : List Byte) : (putBytes s a bs).awaited = s.awaited := rfl
@[simp] theorem putBytes_broadcasts (a : Nat) (bs : List Byte) : (putBytes s a bs).broadcasts = s.broadcasts := rfl
@[simp] theorem putBytes_remote (a : Nat) (bs : List Byte) : (putBytes s a bs).remote = s.remote := rfl
@[simp] theorem putBytes_nextTag (a : Nat) (bs : List Byte) : (putBytes s a bs).nextTag = s.nextTag := rfl
@[simp] theorem putBytes_lastRefusal (a : Nat) (bs : List Byte) : (putBytes s a bs).lastRefusal = s.lastRefusal := rfl
@[simp] theorem putBytes_lanes (a : Nat) (bs : List Byte) : (putBytes s a bs).lanes = s.lanes := rfl
@[simp] theorem putBytes_sync (a : Nat) (bs : List Byte) : (putBytes s a bs).sync = s.sync := rfl
@[simp] theorem putBytes_collTable (a : Nat) (bs : List Byte) : (putBytes s a bs).collTable = s.collTable := rfl
@[simp] theorem putBytes_hopErrors (a : Nat) (bs : List Byte) : (putBytes s a bs).hopErrors = s.hopErrors := rfl
@[simp] theorem putBytes_stateErrors (a : Nat) (bs : List Byte) : (putBytes s a bs).stateErrors = s.stateErrors := rfl
@[simp] theorem putBytes_metErrors (a : Nat) (bs : List Byte) : (putBytes s a bs).metErrors = s.metErrors := rfl
@[simp] theorem putBytes_tableReject (a : Nat) (bs : List Byte) : (putBytes s a bs).tableReject = s.tableReject := rfl
@[simp] theorem putBytes_collectives (a : Nat) (bs : List Byte) : (putBytes s a bs).collectives = s.collectives := rfl
@[simp] theorem putBytes_collFaulted (a : Nat) (bs : List Byte) : (putBytes s a bs).collFaulted = s.collFaulted := rfl
@[simp] theorem putBytes_lastCollFault (a : Nat) (bs : List Byte) : (putBytes s a bs).lastCollFault = s.lastCollFault := rfl
@[simp] theorem putBytes_collTurn (a : Nat) (bs : List Byte) : (putBytes s a bs).collTurn = s.collTurn := rfl
@[simp] theorem putBytes_heads (a : Nat) (bs : List Byte) : (putBytes s a bs).heads = s.heads := rfl
@[simp] theorem putBytes_units (a : Nat) (bs : List Byte) : (putBytes s a bs).units = s.units := rfl
@[simp] theorem putBytes_lastSolverFault (a : Nat) (bs : List Byte) : (putBytes s a bs).lastSolverFault = s.lastSolverFault := rfl
@[simp] theorem putBytes_host (a : Nat) (bs : List Byte) : (putBytes s a bs).host = s.host := rfl
@[simp] theorem putBytes_boot (a : Nat) (bs : List Byte) : (putBytes s a bs).boot = s.boot := rfl
@[simp] theorem putBytes_keeper (a : Nat) (bs : List Byte) : (putBytes s a bs).keeper = s.keeper := rfl
@[simp] theorem putBytes_driver (a : Nat) (bs : List Byte) : (putBytes s a bs).driver = s.driver := rfl
@[simp] theorem putBytes_nvmBusy (a : Nat) (bs : List Byte) : (putBytes s a bs).nvmBusy = s.nvmBusy := rfl
@[simp] theorem putBytes_nvmRefused (a : Nat) (bs : List Byte) : (putBytes s a bs).nvmRefused = s.nvmRefused := rfl
@[simp] theorem putBytes_power (a : Nat) (bs : List Byte) : (putBytes s a bs).power = s.power := rfl
@[simp] theorem putBytes_smbSelect (a : Nat) (bs : List Byte) : (putBytes s a bs).smbSelect = s.smbSelect := rfl
@[simp] theorem putBytes_guardLast (a : Nat) (bs : List Byte) : (putBytes s a bs).guardLast = s.guardLast := rfl
@[simp] theorem putBytes_out (a : Nat) (bs : List Byte) : (putBytes s a bs).out = s.out := rfl
@[simp] theorem putBytes_freeCtr (a : Nat) (bs : List Byte) : (putBytes s a bs).freeCtr = s.freeCtr := rfl
@[simp] theorem putBytes_tickPhase (a : Nat) (bs : List Byte) : (putBytes s a bs).tickPhase = s.tickPhase := rfl
@[simp] theorem putBytes_exchPhase (a : Nat) (bs : List Byte) : (putBytes s a bs).exchPhase = s.exchPhase := rfl
@[simp] theorem putBytes_cycles (a : Nat) (bs : List Byte) : (putBytes s a bs).cycles = s.cycles := rfl

@[simp] theorem setList_pending (l : Nat) (f : ForageList) : (setList s l f).pending = s.pending := rfl
@[simp] theorem setList_mem (l : Nat) (f : ForageList) : (setList s l f).mem = s.mem := rfl
@[simp] theorem setList_guard (l : Nat) (f : ForageList) : (setList s l f).guard = s.guard := rfl
@[simp] theorem setList_scrubs (l : Nat) (f : ForageList) : (setList s l f).scrubs = s.scrubs := rfl
@[simp] theorem setList_nvm (l : Nat) (f : ForageList) : (setList s l f).nvm = s.nvm := rfl
@[simp] theorem setList_regs (l : Nat) (f : ForageList) : (setList s l f).regs = s.regs := rfl
@[simp] theorem setList_blocks (l : Nat) (f : ForageList) : (setList s l f).blocks = s.blocks := rfl
@[simp] theorem setList_latches (l : Nat) (f : ForageList) : (setList s l f).latches = s.latches := rfl
@[simp] theorem setList_posted (l : Nat) (f : ForageList) : (setList s l f).posted = s.posted := rfl
@[simp] theorem setList_heldAcks (l : Nat) (f : ForageList) : (setList s l f).heldAcks = s.heldAcks := rfl
@[simp] theorem setList_waitingAccesses (l : Nat) (f : ForageList) : (setList s l f).waitingAccesses = s.waitingAccesses := rfl
@[simp] theorem setList_time (l : Nat) (f : ForageList) : (setList s l f).time = s.time := rfl
@[simp] theorem setList_pulseLast (l : Nat) (f : ForageList) : (setList s l f).pulseLast = s.pulseLast := rfl
@[simp] theorem setList_readings (l : Nat) (f : ForageList) : (setList s l f).readings = s.readings := rfl
@[simp] theorem setList_cores (l : Nat) (f : ForageList) : (setList s l f).cores = s.cores := rfl
@[simp] theorem setList_barriers (l : Nat) (f : ForageList) : (setList s l f).barriers = s.barriers := rfl
@[simp] theorem setList_launches (l : Nat) (f : ForageList) : (setList s l f).launches = s.launches := rfl
@[simp] theorem setList_ended (l : Nat) (f : ForageList) : (setList s l f).ended = s.ended := rfl
@[simp] theorem setList_nextLaunch (l : Nat) (f : ForageList) : (setList s l f).nextLaunch = s.nextLaunch := rfl
@[simp] theorem setList_steward (l : Nat) (f : ForageList) : (setList s l f).steward = s.steward := rfl
@[simp] theorem setList_disables (l : Nat) (f : ForageList) : (setList s l f).disables = s.disables := rfl
@[simp] theorem setList_slotRejected (l : Nat) (f : ForageList) : (setList s l f).slotRejected = s.slotRejected := rfl
@[simp] theorem setList_dma (l : Nat) (f : ForageList) : (setList s l f).dma = s.dma := rfl
@[simp] theorem setList_dmaRejected (l : Nat) (f : ForageList) : (setList s l f).dmaRejected = s.dmaRejected := rfl
@[simp] theorem setList_dmaOn (l : Nat) (f : ForageList) : (setList s l f).dmaOn = s.dmaOn := rfl
@[simp] theorem setList_dispatches (l : Nat) (f : ForageList) : (setList s l f).dispatches = s.dispatches := rfl
@[simp] theorem setList_heldMessages (l : Nat) (f : ForageList) : (setList s l f).heldMessages = s.heldMessages := rfl
@[simp] theorem setList_lastDispatchFault (l : Nat) (f : ForageList) : (setList s l f).lastDispatchFault = s.lastDispatchFault := rfl
@[simp] theorem setList_chains (l : Nat) (f : ForageList) : (setList s l f).chains = s.chains := rfl
@[simp] theorem setList_poolQueue (l : Nat) (f : ForageList) : (setList s l f).poolQueue = s.poolQueue := rfl
@[simp] theorem setList_poolOver (l : Nat) (f : ForageList) : (setList s l f).poolOver = s.poolOver := rfl
@[simp] theorem setList_reservations (l : Nat) (f : ForageList) : (setList s l f).reservations = s.reservations := rfl
@[simp] theorem setList_nextPool (l : Nat) (f : ForageList) : (setList s l f).nextPool = s.nextPool := rfl
@[simp] theorem setList_freedHeads (l : Nat) (f : ForageList) : (setList s l f).freedHeads = s.freedHeads := rfl
@[simp] theorem setList_cacheLines (l : Nat) (f : ForageList) : (setList s l f).cacheLines = s.cacheLines := rfl
@[simp] theorem setList_reserved (l : Nat) (f : ForageList) : (setList s l f).reserved = s.reserved := rfl
@[simp] theorem setList_wcb (l : Nat) (f : ForageList) : (setList s l f).wcb = s.wcb := rfl
@[simp] theorem setList_pcDir (l : Nat) (f : ForageList) : (setList s l f).pcDir = s.pcDir := rfl
@[simp] theorem setList_margins (l : Nat) (f : ForageList) : (setList s l f).margins = s.margins := rfl
@[simp] theorem setList_windows (l : Nat) (f : ForageList) : (setList s l f).windows = s.windows := rfl
@[simp] theorem setList_windowRejected (l : Nat) (f : ForageList) : (setList s l f).windowRejected = s.windowRejected := rfl
@[simp] theorem setList_rankCache (l : Nat) (f : ForageList) : (setList s l f).rankCache = s.rankCache := rfl
@[simp] theorem setList_deferred (l : Nat) (f : ForageList) : (setList s l f).deferred = s.deferred := rfl
@[simp] theorem setList_messages (l : Nat) (f : ForageList) : (setList s l f).messages = s.messages := rfl
@[simp] theorem setList_looped (l : Nat) (f : ForageList) : (setList s l f).looped = s.looped := rfl
@[simp] theorem setList_sendNext (l : Nat) (f : ForageList) : (setList s l f).sendNext = s.sendNext := rfl
@[simp] theorem setList_arrivals (l : Nat) (f : ForageList) : (setList s l f).arrivals = s.arrivals := rfl
@[simp] theorem setList_portTurn (l : Nat) (f : ForageList) : (setList s l f).portTurn = s.portTurn := rfl
@[simp] theorem setList_doneWrites (l : Nat) (f : ForageList) : (setList s l f).doneWrites = s.doneWrites := rfl
@[simp] theorem setList_awaited (l : Nat) (f : ForageList) : (setList s l f).awaited = s.awaited := rfl
@[simp] theorem setList_broadcasts (l : Nat) (f : ForageList) : (setList s l f).broadcasts = s.broadcasts := rfl
@[simp] theorem setList_remote (l : Nat) (f : ForageList) : (setList s l f).remote = s.remote := rfl
@[simp] theorem setList_nextTag (l : Nat) (f : ForageList) : (setList s l f).nextTag = s.nextTag := rfl
@[simp] theorem setList_lastRefusal (l : Nat) (f : ForageList) : (setList s l f).lastRefusal = s.lastRefusal := rfl
@[simp] theorem setList_lanes (l : Nat) (f : ForageList) : (setList s l f).lanes = s.lanes := rfl
@[simp] theorem setList_sync (l : Nat) (f : ForageList) : (setList s l f).sync = s.sync := rfl
@[simp] theorem setList_collTable (l : Nat) (f : ForageList) : (setList s l f).collTable = s.collTable := rfl
@[simp] theorem setList_hopErrors (l : Nat) (f : ForageList) : (setList s l f).hopErrors = s.hopErrors := rfl
@[simp] theorem setList_stateErrors (l : Nat) (f : ForageList) : (setList s l f).stateErrors = s.stateErrors := rfl
@[simp] theorem setList_metErrors (l : Nat) (f : ForageList) : (setList s l f).metErrors = s.metErrors := rfl
@[simp] theorem setList_tableReject (l : Nat) (f : ForageList) : (setList s l f).tableReject = s.tableReject := rfl
@[simp] theorem setList_collectives (l : Nat) (f : ForageList) : (setList s l f).collectives = s.collectives := rfl
@[simp] theorem setList_collFaulted (l : Nat) (f : ForageList) : (setList s l f).collFaulted = s.collFaulted := rfl
@[simp] theorem setList_lastCollFault (l : Nat) (f : ForageList) : (setList s l f).lastCollFault = s.lastCollFault := rfl
@[simp] theorem setList_collTurn (l : Nat) (f : ForageList) : (setList s l f).collTurn = s.collTurn := rfl
@[simp] theorem setList_heads (l : Nat) (f : ForageList) : (setList s l f).heads = s.heads := rfl
@[simp] theorem setList_units (l : Nat) (f : ForageList) : (setList s l f).units = s.units := rfl
@[simp] theorem setList_lastSolverFault (l : Nat) (f : ForageList) : (setList s l f).lastSolverFault = s.lastSolverFault := rfl
@[simp] theorem setList_host (l : Nat) (f : ForageList) : (setList s l f).host = s.host := rfl
@[simp] theorem setList_boot (l : Nat) (f : ForageList) : (setList s l f).boot = s.boot := rfl
@[simp] theorem setList_keeper (l : Nat) (f : ForageList) : (setList s l f).keeper = s.keeper := rfl
@[simp] theorem setList_driver (l : Nat) (f : ForageList) : (setList s l f).driver = s.driver := rfl
@[simp] theorem setList_nvmBusy (l : Nat) (f : ForageList) : (setList s l f).nvmBusy = s.nvmBusy := rfl
@[simp] theorem setList_nvmRefused (l : Nat) (f : ForageList) : (setList s l f).nvmRefused = s.nvmRefused := rfl
@[simp] theorem setList_power (l : Nat) (f : ForageList) : (setList s l f).power = s.power := rfl
@[simp] theorem setList_smbSelect (l : Nat) (f : ForageList) : (setList s l f).smbSelect = s.smbSelect := rfl
@[simp] theorem setList_guardLast (l : Nat) (f : ForageList) : (setList s l f).guardLast = s.guardLast := rfl
@[simp] theorem setList_out (l : Nat) (f : ForageList) : (setList s l f).out = s.out := rfl
@[simp] theorem setList_freeCtr (l : Nat) (f : ForageList) : (setList s l f).freeCtr = s.freeCtr := rfl
@[simp] theorem setList_tickPhase (l : Nat) (f : ForageList) : (setList s l f).tickPhase = s.tickPhase := rfl
@[simp] theorem setList_exchPhase (l : Nat) (f : ForageList) : (setList s l f).exchPhase = s.exchPhase := rfl
@[simp] theorem setList_cycles (l : Nat) (f : ForageList) : (setList s l f).cycles = s.cycles := rfl

@[simp] theorem setLane_pending (l : Nat) (x : Lane) : (setLane s l x).pending = s.pending := rfl
@[simp] theorem setLane_mem (l : Nat) (x : Lane) : (setLane s l x).mem = s.mem := rfl
@[simp] theorem setLane_guard (l : Nat) (x : Lane) : (setLane s l x).guard = s.guard := rfl
@[simp] theorem setLane_scrubs (l : Nat) (x : Lane) : (setLane s l x).scrubs = s.scrubs := rfl
@[simp] theorem setLane_nvm (l : Nat) (x : Lane) : (setLane s l x).nvm = s.nvm := rfl
@[simp] theorem setLane_regs (l : Nat) (x : Lane) : (setLane s l x).regs = s.regs := rfl
@[simp] theorem setLane_blocks (l : Nat) (x : Lane) : (setLane s l x).blocks = s.blocks := rfl
@[simp] theorem setLane_latches (l : Nat) (x : Lane) : (setLane s l x).latches = s.latches := rfl
@[simp] theorem setLane_posted (l : Nat) (x : Lane) : (setLane s l x).posted = s.posted := rfl
@[simp] theorem setLane_heldAcks (l : Nat) (x : Lane) : (setLane s l x).heldAcks = s.heldAcks := rfl
@[simp] theorem setLane_waitingAccesses (l : Nat) (x : Lane) : (setLane s l x).waitingAccesses = s.waitingAccesses := rfl
@[simp] theorem setLane_time (l : Nat) (x : Lane) : (setLane s l x).time = s.time := rfl
@[simp] theorem setLane_pulseLast (l : Nat) (x : Lane) : (setLane s l x).pulseLast = s.pulseLast := rfl
@[simp] theorem setLane_readings (l : Nat) (x : Lane) : (setLane s l x).readings = s.readings := rfl
@[simp] theorem setLane_cores (l : Nat) (x : Lane) : (setLane s l x).cores = s.cores := rfl
@[simp] theorem setLane_forage (l : Nat) (x : Lane) : (setLane s l x).forage = s.forage := rfl
@[simp] theorem setLane_barriers (l : Nat) (x : Lane) : (setLane s l x).barriers = s.barriers := rfl
@[simp] theorem setLane_launches (l : Nat) (x : Lane) : (setLane s l x).launches = s.launches := rfl
@[simp] theorem setLane_ended (l : Nat) (x : Lane) : (setLane s l x).ended = s.ended := rfl
@[simp] theorem setLane_nextLaunch (l : Nat) (x : Lane) : (setLane s l x).nextLaunch = s.nextLaunch := rfl
@[simp] theorem setLane_steward (l : Nat) (x : Lane) : (setLane s l x).steward = s.steward := rfl
@[simp] theorem setLane_disables (l : Nat) (x : Lane) : (setLane s l x).disables = s.disables := rfl
@[simp] theorem setLane_slotRejected (l : Nat) (x : Lane) : (setLane s l x).slotRejected = s.slotRejected := rfl
@[simp] theorem setLane_dma (l : Nat) (x : Lane) : (setLane s l x).dma = s.dma := rfl
@[simp] theorem setLane_dmaRejected (l : Nat) (x : Lane) : (setLane s l x).dmaRejected = s.dmaRejected := rfl
@[simp] theorem setLane_dmaOn (l : Nat) (x : Lane) : (setLane s l x).dmaOn = s.dmaOn := rfl
@[simp] theorem setLane_dispatches (l : Nat) (x : Lane) : (setLane s l x).dispatches = s.dispatches := rfl
@[simp] theorem setLane_heldMessages (l : Nat) (x : Lane) : (setLane s l x).heldMessages = s.heldMessages := rfl
@[simp] theorem setLane_lastDispatchFault (l : Nat) (x : Lane) : (setLane s l x).lastDispatchFault = s.lastDispatchFault := rfl
@[simp] theorem setLane_chains (l : Nat) (x : Lane) : (setLane s l x).chains = s.chains := rfl
@[simp] theorem setLane_poolQueue (l : Nat) (x : Lane) : (setLane s l x).poolQueue = s.poolQueue := rfl
@[simp] theorem setLane_poolOver (l : Nat) (x : Lane) : (setLane s l x).poolOver = s.poolOver := rfl
@[simp] theorem setLane_reservations (l : Nat) (x : Lane) : (setLane s l x).reservations = s.reservations := rfl
@[simp] theorem setLane_nextPool (l : Nat) (x : Lane) : (setLane s l x).nextPool = s.nextPool := rfl
@[simp] theorem setLane_freedHeads (l : Nat) (x : Lane) : (setLane s l x).freedHeads = s.freedHeads := rfl
@[simp] theorem setLane_cacheLines (l : Nat) (x : Lane) : (setLane s l x).cacheLines = s.cacheLines := rfl
@[simp] theorem setLane_reserved (l : Nat) (x : Lane) : (setLane s l x).reserved = s.reserved := rfl
@[simp] theorem setLane_wcb (l : Nat) (x : Lane) : (setLane s l x).wcb = s.wcb := rfl
@[simp] theorem setLane_pcDir (l : Nat) (x : Lane) : (setLane s l x).pcDir = s.pcDir := rfl
@[simp] theorem setLane_margins (l : Nat) (x : Lane) : (setLane s l x).margins = s.margins := rfl
@[simp] theorem setLane_windows (l : Nat) (x : Lane) : (setLane s l x).windows = s.windows := rfl
@[simp] theorem setLane_windowRejected (l : Nat) (x : Lane) : (setLane s l x).windowRejected = s.windowRejected := rfl
@[simp] theorem setLane_rankCache (l : Nat) (x : Lane) : (setLane s l x).rankCache = s.rankCache := rfl
@[simp] theorem setLane_deferred (l : Nat) (x : Lane) : (setLane s l x).deferred = s.deferred := rfl
@[simp] theorem setLane_messages (l : Nat) (x : Lane) : (setLane s l x).messages = s.messages := rfl
@[simp] theorem setLane_looped (l : Nat) (x : Lane) : (setLane s l x).looped = s.looped := rfl
@[simp] theorem setLane_sendNext (l : Nat) (x : Lane) : (setLane s l x).sendNext = s.sendNext := rfl
@[simp] theorem setLane_arrivals (l : Nat) (x : Lane) : (setLane s l x).arrivals = s.arrivals := rfl
@[simp] theorem setLane_portTurn (l : Nat) (x : Lane) : (setLane s l x).portTurn = s.portTurn := rfl
@[simp] theorem setLane_doneWrites (l : Nat) (x : Lane) : (setLane s l x).doneWrites = s.doneWrites := rfl
@[simp] theorem setLane_awaited (l : Nat) (x : Lane) : (setLane s l x).awaited = s.awaited := rfl
@[simp] theorem setLane_broadcasts (l : Nat) (x : Lane) : (setLane s l x).broadcasts = s.broadcasts := rfl
@[simp] theorem setLane_remote (l : Nat) (x : Lane) : (setLane s l x).remote = s.remote := rfl
@[simp] theorem setLane_nextTag (l : Nat) (x : Lane) : (setLane s l x).nextTag = s.nextTag := rfl
@[simp] theorem setLane_lastRefusal (l : Nat) (x : Lane) : (setLane s l x).lastRefusal = s.lastRefusal := rfl
@[simp] theorem setLane_sync (l : Nat) (x : Lane) : (setLane s l x).sync = s.sync := rfl
@[simp] theorem setLane_collTable (l : Nat) (x : Lane) : (setLane s l x).collTable = s.collTable := rfl
@[simp] theorem setLane_hopErrors (l : Nat) (x : Lane) : (setLane s l x).hopErrors = s.hopErrors := rfl
@[simp] theorem setLane_stateErrors (l : Nat) (x : Lane) : (setLane s l x).stateErrors = s.stateErrors := rfl
@[simp] theorem setLane_metErrors (l : Nat) (x : Lane) : (setLane s l x).metErrors = s.metErrors := rfl
@[simp] theorem setLane_tableReject (l : Nat) (x : Lane) : (setLane s l x).tableReject = s.tableReject := rfl
@[simp] theorem setLane_collectives (l : Nat) (x : Lane) : (setLane s l x).collectives = s.collectives := rfl
@[simp] theorem setLane_collFaulted (l : Nat) (x : Lane) : (setLane s l x).collFaulted = s.collFaulted := rfl
@[simp] theorem setLane_lastCollFault (l : Nat) (x : Lane) : (setLane s l x).lastCollFault = s.lastCollFault := rfl
@[simp] theorem setLane_collTurn (l : Nat) (x : Lane) : (setLane s l x).collTurn = s.collTurn := rfl
@[simp] theorem setLane_heads (l : Nat) (x : Lane) : (setLane s l x).heads = s.heads := rfl
@[simp] theorem setLane_units (l : Nat) (x : Lane) : (setLane s l x).units = s.units := rfl
@[simp] theorem setLane_lastSolverFault (l : Nat) (x : Lane) : (setLane s l x).lastSolverFault = s.lastSolverFault := rfl
@[simp] theorem setLane_host (l : Nat) (x : Lane) : (setLane s l x).host = s.host := rfl
@[simp] theorem setLane_boot (l : Nat) (x : Lane) : (setLane s l x).boot = s.boot := rfl
@[simp] theorem setLane_keeper (l : Nat) (x : Lane) : (setLane s l x).keeper = s.keeper := rfl
@[simp] theorem setLane_driver (l : Nat) (x : Lane) : (setLane s l x).driver = s.driver := rfl
@[simp] theorem setLane_nvmBusy (l : Nat) (x : Lane) : (setLane s l x).nvmBusy = s.nvmBusy := rfl
@[simp] theorem setLane_nvmRefused (l : Nat) (x : Lane) : (setLane s l x).nvmRefused = s.nvmRefused := rfl
@[simp] theorem setLane_power (l : Nat) (x : Lane) : (setLane s l x).power = s.power := rfl
@[simp] theorem setLane_smbSelect (l : Nat) (x : Lane) : (setLane s l x).smbSelect = s.smbSelect := rfl
@[simp] theorem setLane_guardLast (l : Nat) (x : Lane) : (setLane s l x).guardLast = s.guardLast := rfl
@[simp] theorem setLane_out (l : Nat) (x : Lane) : (setLane s l x).out = s.out := rfl
@[simp] theorem setLane_freeCtr (l : Nat) (x : Lane) : (setLane s l x).freeCtr = s.freeCtr := rfl
@[simp] theorem setLane_tickPhase (l : Nat) (x : Lane) : (setLane s l x).tickPhase = s.tickPhase := rfl
@[simp] theorem setLane_exchPhase (l : Nat) (x : Lane) : (setLane s l x).exchPhase = s.exchPhase := rfl
@[simp] theorem setLane_cycles (l : Nat) (x : Lane) : (setLane s l x).cycles = s.cycles := rfl

@[simp] theorem modLane_pending (l : Nat) (f : Lane → Lane) : (modLane s l f).pending = s.pending := rfl
@[simp] theorem modLane_mem (l : Nat) (f : Lane → Lane) : (modLane s l f).mem = s.mem := rfl
@[simp] theorem modLane_guard (l : Nat) (f : Lane → Lane) : (modLane s l f).guard = s.guard := rfl
@[simp] theorem modLane_scrubs (l : Nat) (f : Lane → Lane) : (modLane s l f).scrubs = s.scrubs := rfl
@[simp] theorem modLane_nvm (l : Nat) (f : Lane → Lane) : (modLane s l f).nvm = s.nvm := rfl
@[simp] theorem modLane_regs (l : Nat) (f : Lane → Lane) : (modLane s l f).regs = s.regs := rfl
@[simp] theorem modLane_blocks (l : Nat) (f : Lane → Lane) : (modLane s l f).blocks = s.blocks := rfl
@[simp] theorem modLane_latches (l : Nat) (f : Lane → Lane) : (modLane s l f).latches = s.latches := rfl
@[simp] theorem modLane_posted (l : Nat) (f : Lane → Lane) : (modLane s l f).posted = s.posted := rfl
@[simp] theorem modLane_heldAcks (l : Nat) (f : Lane → Lane) : (modLane s l f).heldAcks = s.heldAcks := rfl
@[simp] theorem modLane_waitingAccesses (l : Nat) (f : Lane → Lane) : (modLane s l f).waitingAccesses = s.waitingAccesses := rfl
@[simp] theorem modLane_time (l : Nat) (f : Lane → Lane) : (modLane s l f).time = s.time := rfl
@[simp] theorem modLane_pulseLast (l : Nat) (f : Lane → Lane) : (modLane s l f).pulseLast = s.pulseLast := rfl
@[simp] theorem modLane_readings (l : Nat) (f : Lane → Lane) : (modLane s l f).readings = s.readings := rfl
@[simp] theorem modLane_cores (l : Nat) (f : Lane → Lane) : (modLane s l f).cores = s.cores := rfl
@[simp] theorem modLane_forage (l : Nat) (f : Lane → Lane) : (modLane s l f).forage = s.forage := rfl
@[simp] theorem modLane_barriers (l : Nat) (f : Lane → Lane) : (modLane s l f).barriers = s.barriers := rfl
@[simp] theorem modLane_launches (l : Nat) (f : Lane → Lane) : (modLane s l f).launches = s.launches := rfl
@[simp] theorem modLane_ended (l : Nat) (f : Lane → Lane) : (modLane s l f).ended = s.ended := rfl
@[simp] theorem modLane_nextLaunch (l : Nat) (f : Lane → Lane) : (modLane s l f).nextLaunch = s.nextLaunch := rfl
@[simp] theorem modLane_steward (l : Nat) (f : Lane → Lane) : (modLane s l f).steward = s.steward := rfl
@[simp] theorem modLane_disables (l : Nat) (f : Lane → Lane) : (modLane s l f).disables = s.disables := rfl
@[simp] theorem modLane_slotRejected (l : Nat) (f : Lane → Lane) : (modLane s l f).slotRejected = s.slotRejected := rfl
@[simp] theorem modLane_dma (l : Nat) (f : Lane → Lane) : (modLane s l f).dma = s.dma := rfl
@[simp] theorem modLane_dmaRejected (l : Nat) (f : Lane → Lane) : (modLane s l f).dmaRejected = s.dmaRejected := rfl
@[simp] theorem modLane_dmaOn (l : Nat) (f : Lane → Lane) : (modLane s l f).dmaOn = s.dmaOn := rfl
@[simp] theorem modLane_dispatches (l : Nat) (f : Lane → Lane) : (modLane s l f).dispatches = s.dispatches := rfl
@[simp] theorem modLane_heldMessages (l : Nat) (f : Lane → Lane) : (modLane s l f).heldMessages = s.heldMessages := rfl
@[simp] theorem modLane_lastDispatchFault (l : Nat) (f : Lane → Lane) : (modLane s l f).lastDispatchFault = s.lastDispatchFault := rfl
@[simp] theorem modLane_chains (l : Nat) (f : Lane → Lane) : (modLane s l f).chains = s.chains := rfl
@[simp] theorem modLane_poolQueue (l : Nat) (f : Lane → Lane) : (modLane s l f).poolQueue = s.poolQueue := rfl
@[simp] theorem modLane_poolOver (l : Nat) (f : Lane → Lane) : (modLane s l f).poolOver = s.poolOver := rfl
@[simp] theorem modLane_reservations (l : Nat) (f : Lane → Lane) : (modLane s l f).reservations = s.reservations := rfl
@[simp] theorem modLane_nextPool (l : Nat) (f : Lane → Lane) : (modLane s l f).nextPool = s.nextPool := rfl
@[simp] theorem modLane_freedHeads (l : Nat) (f : Lane → Lane) : (modLane s l f).freedHeads = s.freedHeads := rfl
@[simp] theorem modLane_cacheLines (l : Nat) (f : Lane → Lane) : (modLane s l f).cacheLines = s.cacheLines := rfl
@[simp] theorem modLane_reserved (l : Nat) (f : Lane → Lane) : (modLane s l f).reserved = s.reserved := rfl
@[simp] theorem modLane_wcb (l : Nat) (f : Lane → Lane) : (modLane s l f).wcb = s.wcb := rfl
@[simp] theorem modLane_pcDir (l : Nat) (f : Lane → Lane) : (modLane s l f).pcDir = s.pcDir := rfl
@[simp] theorem modLane_margins (l : Nat) (f : Lane → Lane) : (modLane s l f).margins = s.margins := rfl
@[simp] theorem modLane_windows (l : Nat) (f : Lane → Lane) : (modLane s l f).windows = s.windows := rfl
@[simp] theorem modLane_windowRejected (l : Nat) (f : Lane → Lane) : (modLane s l f).windowRejected = s.windowRejected := rfl
@[simp] theorem modLane_rankCache (l : Nat) (f : Lane → Lane) : (modLane s l f).rankCache = s.rankCache := rfl
@[simp] theorem modLane_deferred (l : Nat) (f : Lane → Lane) : (modLane s l f).deferred = s.deferred := rfl
@[simp] theorem modLane_messages (l : Nat) (f : Lane → Lane) : (modLane s l f).messages = s.messages := rfl
@[simp] theorem modLane_looped (l : Nat) (f : Lane → Lane) : (modLane s l f).looped = s.looped := rfl
@[simp] theorem modLane_sendNext (l : Nat) (f : Lane → Lane) : (modLane s l f).sendNext = s.sendNext := rfl
@[simp] theorem modLane_arrivals (l : Nat) (f : Lane → Lane) : (modLane s l f).arrivals = s.arrivals := rfl
@[simp] theorem modLane_portTurn (l : Nat) (f : Lane → Lane) : (modLane s l f).portTurn = s.portTurn := rfl
@[simp] theorem modLane_doneWrites (l : Nat) (f : Lane → Lane) : (modLane s l f).doneWrites = s.doneWrites := rfl
@[simp] theorem modLane_awaited (l : Nat) (f : Lane → Lane) : (modLane s l f).awaited = s.awaited := rfl
@[simp] theorem modLane_broadcasts (l : Nat) (f : Lane → Lane) : (modLane s l f).broadcasts = s.broadcasts := rfl
@[simp] theorem modLane_remote (l : Nat) (f : Lane → Lane) : (modLane s l f).remote = s.remote := rfl
@[simp] theorem modLane_nextTag (l : Nat) (f : Lane → Lane) : (modLane s l f).nextTag = s.nextTag := rfl
@[simp] theorem modLane_lastRefusal (l : Nat) (f : Lane → Lane) : (modLane s l f).lastRefusal = s.lastRefusal := rfl
@[simp] theorem modLane_sync (l : Nat) (f : Lane → Lane) : (modLane s l f).sync = s.sync := rfl
@[simp] theorem modLane_collTable (l : Nat) (f : Lane → Lane) : (modLane s l f).collTable = s.collTable := rfl
@[simp] theorem modLane_hopErrors (l : Nat) (f : Lane → Lane) : (modLane s l f).hopErrors = s.hopErrors := rfl
@[simp] theorem modLane_stateErrors (l : Nat) (f : Lane → Lane) : (modLane s l f).stateErrors = s.stateErrors := rfl
@[simp] theorem modLane_metErrors (l : Nat) (f : Lane → Lane) : (modLane s l f).metErrors = s.metErrors := rfl
@[simp] theorem modLane_tableReject (l : Nat) (f : Lane → Lane) : (modLane s l f).tableReject = s.tableReject := rfl
@[simp] theorem modLane_collectives (l : Nat) (f : Lane → Lane) : (modLane s l f).collectives = s.collectives := rfl
@[simp] theorem modLane_collFaulted (l : Nat) (f : Lane → Lane) : (modLane s l f).collFaulted = s.collFaulted := rfl
@[simp] theorem modLane_lastCollFault (l : Nat) (f : Lane → Lane) : (modLane s l f).lastCollFault = s.lastCollFault := rfl
@[simp] theorem modLane_collTurn (l : Nat) (f : Lane → Lane) : (modLane s l f).collTurn = s.collTurn := rfl
@[simp] theorem modLane_heads (l : Nat) (f : Lane → Lane) : (modLane s l f).heads = s.heads := rfl
@[simp] theorem modLane_units (l : Nat) (f : Lane → Lane) : (modLane s l f).units = s.units := rfl
@[simp] theorem modLane_lastSolverFault (l : Nat) (f : Lane → Lane) : (modLane s l f).lastSolverFault = s.lastSolverFault := rfl
@[simp] theorem modLane_host (l : Nat) (f : Lane → Lane) : (modLane s l f).host = s.host := rfl
@[simp] theorem modLane_boot (l : Nat) (f : Lane → Lane) : (modLane s l f).boot = s.boot := rfl
@[simp] theorem modLane_keeper (l : Nat) (f : Lane → Lane) : (modLane s l f).keeper = s.keeper := rfl
@[simp] theorem modLane_driver (l : Nat) (f : Lane → Lane) : (modLane s l f).driver = s.driver := rfl
@[simp] theorem modLane_nvmBusy (l : Nat) (f : Lane → Lane) : (modLane s l f).nvmBusy = s.nvmBusy := rfl
@[simp] theorem modLane_nvmRefused (l : Nat) (f : Lane → Lane) : (modLane s l f).nvmRefused = s.nvmRefused := rfl
@[simp] theorem modLane_power (l : Nat) (f : Lane → Lane) : (modLane s l f).power = s.power := rfl
@[simp] theorem modLane_smbSelect (l : Nat) (f : Lane → Lane) : (modLane s l f).smbSelect = s.smbSelect := rfl
@[simp] theorem modLane_guardLast (l : Nat) (f : Lane → Lane) : (modLane s l f).guardLast = s.guardLast := rfl
@[simp] theorem modLane_out (l : Nat) (f : Lane → Lane) : (modLane s l f).out = s.out := rfl
@[simp] theorem modLane_freeCtr (l : Nat) (f : Lane → Lane) : (modLane s l f).freeCtr = s.freeCtr := rfl
@[simp] theorem modLane_tickPhase (l : Nat) (f : Lane → Lane) : (modLane s l f).tickPhase = s.tickPhase := rfl
@[simp] theorem modLane_exchPhase (l : Nat) (f : Lane → Lane) : (modLane s l f).exchPhase = s.exchPhase := rfl
@[simp] theorem modLane_cycles (l : Nat) (f : Lane → Lane) : (modLane s l f).cycles = s.cycles := rfl

@[simp] theorem setJob_pending (c : Nat) (j : Option DmaJob) : (setJob s c j).pending = s.pending := rfl
@[simp] theorem setJob_mem (c : Nat) (j : Option DmaJob) : (setJob s c j).mem = s.mem := rfl
@[simp] theorem setJob_guard (c : Nat) (j : Option DmaJob) : (setJob s c j).guard = s.guard := rfl
@[simp] theorem setJob_scrubs (c : Nat) (j : Option DmaJob) : (setJob s c j).scrubs = s.scrubs := rfl
@[simp] theorem setJob_nvm (c : Nat) (j : Option DmaJob) : (setJob s c j).nvm = s.nvm := rfl
@[simp] theorem setJob_regs (c : Nat) (j : Option DmaJob) : (setJob s c j).regs = s.regs := rfl
@[simp] theorem setJob_blocks (c : Nat) (j : Option DmaJob) : (setJob s c j).blocks = s.blocks := rfl
@[simp] theorem setJob_latches (c : Nat) (j : Option DmaJob) : (setJob s c j).latches = s.latches := rfl
@[simp] theorem setJob_posted (c : Nat) (j : Option DmaJob) : (setJob s c j).posted = s.posted := rfl
@[simp] theorem setJob_heldAcks (c : Nat) (j : Option DmaJob) : (setJob s c j).heldAcks = s.heldAcks := rfl
@[simp] theorem setJob_waitingAccesses (c : Nat) (j : Option DmaJob) : (setJob s c j).waitingAccesses = s.waitingAccesses := rfl
@[simp] theorem setJob_time (c : Nat) (j : Option DmaJob) : (setJob s c j).time = s.time := rfl
@[simp] theorem setJob_pulseLast (c : Nat) (j : Option DmaJob) : (setJob s c j).pulseLast = s.pulseLast := rfl
@[simp] theorem setJob_readings (c : Nat) (j : Option DmaJob) : (setJob s c j).readings = s.readings := rfl
@[simp] theorem setJob_cores (c : Nat) (j : Option DmaJob) : (setJob s c j).cores = s.cores := rfl
@[simp] theorem setJob_forage (c : Nat) (j : Option DmaJob) : (setJob s c j).forage = s.forage := rfl
@[simp] theorem setJob_barriers (c : Nat) (j : Option DmaJob) : (setJob s c j).barriers = s.barriers := rfl
@[simp] theorem setJob_launches (c : Nat) (j : Option DmaJob) : (setJob s c j).launches = s.launches := rfl
@[simp] theorem setJob_ended (c : Nat) (j : Option DmaJob) : (setJob s c j).ended = s.ended := rfl
@[simp] theorem setJob_nextLaunch (c : Nat) (j : Option DmaJob) : (setJob s c j).nextLaunch = s.nextLaunch := rfl
@[simp] theorem setJob_steward (c : Nat) (j : Option DmaJob) : (setJob s c j).steward = s.steward := rfl
@[simp] theorem setJob_disables (c : Nat) (j : Option DmaJob) : (setJob s c j).disables = s.disables := rfl
@[simp] theorem setJob_slotRejected (c : Nat) (j : Option DmaJob) : (setJob s c j).slotRejected = s.slotRejected := rfl
@[simp] theorem setJob_dmaRejected (c : Nat) (j : Option DmaJob) : (setJob s c j).dmaRejected = s.dmaRejected := rfl
@[simp] theorem setJob_dmaOn (c : Nat) (j : Option DmaJob) : (setJob s c j).dmaOn = s.dmaOn := rfl
@[simp] theorem setJob_dispatches (c : Nat) (j : Option DmaJob) : (setJob s c j).dispatches = s.dispatches := rfl
@[simp] theorem setJob_heldMessages (c : Nat) (j : Option DmaJob) : (setJob s c j).heldMessages = s.heldMessages := rfl
@[simp] theorem setJob_lastDispatchFault (c : Nat) (j : Option DmaJob) : (setJob s c j).lastDispatchFault = s.lastDispatchFault := rfl
@[simp] theorem setJob_chains (c : Nat) (j : Option DmaJob) : (setJob s c j).chains = s.chains := rfl
@[simp] theorem setJob_poolQueue (c : Nat) (j : Option DmaJob) : (setJob s c j).poolQueue = s.poolQueue := rfl
@[simp] theorem setJob_poolOver (c : Nat) (j : Option DmaJob) : (setJob s c j).poolOver = s.poolOver := rfl
@[simp] theorem setJob_reservations (c : Nat) (j : Option DmaJob) : (setJob s c j).reservations = s.reservations := rfl
@[simp] theorem setJob_nextPool (c : Nat) (j : Option DmaJob) : (setJob s c j).nextPool = s.nextPool := rfl
@[simp] theorem setJob_freedHeads (c : Nat) (j : Option DmaJob) : (setJob s c j).freedHeads = s.freedHeads := rfl
@[simp] theorem setJob_cacheLines (c : Nat) (j : Option DmaJob) : (setJob s c j).cacheLines = s.cacheLines := rfl
@[simp] theorem setJob_reserved (c : Nat) (j : Option DmaJob) : (setJob s c j).reserved = s.reserved := rfl
@[simp] theorem setJob_wcb (c : Nat) (j : Option DmaJob) : (setJob s c j).wcb = s.wcb := rfl
@[simp] theorem setJob_pcDir (c : Nat) (j : Option DmaJob) : (setJob s c j).pcDir = s.pcDir := rfl
@[simp] theorem setJob_margins (c : Nat) (j : Option DmaJob) : (setJob s c j).margins = s.margins := rfl
@[simp] theorem setJob_windows (c : Nat) (j : Option DmaJob) : (setJob s c j).windows = s.windows := rfl
@[simp] theorem setJob_windowRejected (c : Nat) (j : Option DmaJob) : (setJob s c j).windowRejected = s.windowRejected := rfl
@[simp] theorem setJob_rankCache (c : Nat) (j : Option DmaJob) : (setJob s c j).rankCache = s.rankCache := rfl
@[simp] theorem setJob_deferred (c : Nat) (j : Option DmaJob) : (setJob s c j).deferred = s.deferred := rfl
@[simp] theorem setJob_messages (c : Nat) (j : Option DmaJob) : (setJob s c j).messages = s.messages := rfl
@[simp] theorem setJob_looped (c : Nat) (j : Option DmaJob) : (setJob s c j).looped = s.looped := rfl
@[simp] theorem setJob_sendNext (c : Nat) (j : Option DmaJob) : (setJob s c j).sendNext = s.sendNext := rfl
@[simp] theorem setJob_arrivals (c : Nat) (j : Option DmaJob) : (setJob s c j).arrivals = s.arrivals := rfl
@[simp] theorem setJob_portTurn (c : Nat) (j : Option DmaJob) : (setJob s c j).portTurn = s.portTurn := rfl
@[simp] theorem setJob_doneWrites (c : Nat) (j : Option DmaJob) : (setJob s c j).doneWrites = s.doneWrites := rfl
@[simp] theorem setJob_awaited (c : Nat) (j : Option DmaJob) : (setJob s c j).awaited = s.awaited := rfl
@[simp] theorem setJob_broadcasts (c : Nat) (j : Option DmaJob) : (setJob s c j).broadcasts = s.broadcasts := rfl
@[simp] theorem setJob_remote (c : Nat) (j : Option DmaJob) : (setJob s c j).remote = s.remote := rfl
@[simp] theorem setJob_nextTag (c : Nat) (j : Option DmaJob) : (setJob s c j).nextTag = s.nextTag := rfl
@[simp] theorem setJob_lastRefusal (c : Nat) (j : Option DmaJob) : (setJob s c j).lastRefusal = s.lastRefusal := rfl
@[simp] theorem setJob_lanes (c : Nat) (j : Option DmaJob) : (setJob s c j).lanes = s.lanes := rfl
@[simp] theorem setJob_sync (c : Nat) (j : Option DmaJob) : (setJob s c j).sync = s.sync := rfl
@[simp] theorem setJob_collTable (c : Nat) (j : Option DmaJob) : (setJob s c j).collTable = s.collTable := rfl
@[simp] theorem setJob_hopErrors (c : Nat) (j : Option DmaJob) : (setJob s c j).hopErrors = s.hopErrors := rfl
@[simp] theorem setJob_stateErrors (c : Nat) (j : Option DmaJob) : (setJob s c j).stateErrors = s.stateErrors := rfl
@[simp] theorem setJob_metErrors (c : Nat) (j : Option DmaJob) : (setJob s c j).metErrors = s.metErrors := rfl
@[simp] theorem setJob_tableReject (c : Nat) (j : Option DmaJob) : (setJob s c j).tableReject = s.tableReject := rfl
@[simp] theorem setJob_collectives (c : Nat) (j : Option DmaJob) : (setJob s c j).collectives = s.collectives := rfl
@[simp] theorem setJob_collFaulted (c : Nat) (j : Option DmaJob) : (setJob s c j).collFaulted = s.collFaulted := rfl
@[simp] theorem setJob_lastCollFault (c : Nat) (j : Option DmaJob) : (setJob s c j).lastCollFault = s.lastCollFault := rfl
@[simp] theorem setJob_collTurn (c : Nat) (j : Option DmaJob) : (setJob s c j).collTurn = s.collTurn := rfl
@[simp] theorem setJob_heads (c : Nat) (j : Option DmaJob) : (setJob s c j).heads = s.heads := rfl
@[simp] theorem setJob_units (c : Nat) (j : Option DmaJob) : (setJob s c j).units = s.units := rfl
@[simp] theorem setJob_lastSolverFault (c : Nat) (j : Option DmaJob) : (setJob s c j).lastSolverFault = s.lastSolverFault := rfl
@[simp] theorem setJob_host (c : Nat) (j : Option DmaJob) : (setJob s c j).host = s.host := rfl
@[simp] theorem setJob_boot (c : Nat) (j : Option DmaJob) : (setJob s c j).boot = s.boot := rfl
@[simp] theorem setJob_keeper (c : Nat) (j : Option DmaJob) : (setJob s c j).keeper = s.keeper := rfl
@[simp] theorem setJob_driver (c : Nat) (j : Option DmaJob) : (setJob s c j).driver = s.driver := rfl
@[simp] theorem setJob_nvmBusy (c : Nat) (j : Option DmaJob) : (setJob s c j).nvmBusy = s.nvmBusy := rfl
@[simp] theorem setJob_nvmRefused (c : Nat) (j : Option DmaJob) : (setJob s c j).nvmRefused = s.nvmRefused := rfl
@[simp] theorem setJob_power (c : Nat) (j : Option DmaJob) : (setJob s c j).power = s.power := rfl
@[simp] theorem setJob_smbSelect (c : Nat) (j : Option DmaJob) : (setJob s c j).smbSelect = s.smbSelect := rfl
@[simp] theorem setJob_guardLast (c : Nat) (j : Option DmaJob) : (setJob s c j).guardLast = s.guardLast := rfl
@[simp] theorem setJob_out (c : Nat) (j : Option DmaJob) : (setJob s c j).out = s.out := rfl
@[simp] theorem setJob_freeCtr (c : Nat) (j : Option DmaJob) : (setJob s c j).freeCtr = s.freeCtr := rfl
@[simp] theorem setJob_tickPhase (c : Nat) (j : Option DmaJob) : (setJob s c j).tickPhase = s.tickPhase := rfl
@[simp] theorem setJob_exchPhase (c : Nat) (j : Option DmaJob) : (setJob s c j).exchPhase = s.exchPhase := rfl
@[simp] theorem setJob_cycles (c : Nat) (j : Option DmaJob) : (setJob s c j).cycles = s.cycles := rfl

@[simp] theorem setHead_pending (c : Nat) (h : Option HeadJob) : (setHead s c h).pending = s.pending := rfl
@[simp] theorem setHead_mem (c : Nat) (h : Option HeadJob) : (setHead s c h).mem = s.mem := rfl
@[simp] theorem setHead_guard (c : Nat) (h : Option HeadJob) : (setHead s c h).guard = s.guard := rfl
@[simp] theorem setHead_scrubs (c : Nat) (h : Option HeadJob) : (setHead s c h).scrubs = s.scrubs := rfl
@[simp] theorem setHead_nvm (c : Nat) (h : Option HeadJob) : (setHead s c h).nvm = s.nvm := rfl
@[simp] theorem setHead_regs (c : Nat) (h : Option HeadJob) : (setHead s c h).regs = s.regs := rfl
@[simp] theorem setHead_blocks (c : Nat) (h : Option HeadJob) : (setHead s c h).blocks = s.blocks := rfl
@[simp] theorem setHead_latches (c : Nat) (h : Option HeadJob) : (setHead s c h).latches = s.latches := rfl
@[simp] theorem setHead_posted (c : Nat) (h : Option HeadJob) : (setHead s c h).posted = s.posted := rfl
@[simp] theorem setHead_heldAcks (c : Nat) (h : Option HeadJob) : (setHead s c h).heldAcks = s.heldAcks := rfl
@[simp] theorem setHead_waitingAccesses (c : Nat) (h : Option HeadJob) : (setHead s c h).waitingAccesses = s.waitingAccesses := rfl
@[simp] theorem setHead_time (c : Nat) (h : Option HeadJob) : (setHead s c h).time = s.time := rfl
@[simp] theorem setHead_pulseLast (c : Nat) (h : Option HeadJob) : (setHead s c h).pulseLast = s.pulseLast := rfl
@[simp] theorem setHead_readings (c : Nat) (h : Option HeadJob) : (setHead s c h).readings = s.readings := rfl
@[simp] theorem setHead_cores (c : Nat) (h : Option HeadJob) : (setHead s c h).cores = s.cores := rfl
@[simp] theorem setHead_forage (c : Nat) (h : Option HeadJob) : (setHead s c h).forage = s.forage := rfl
@[simp] theorem setHead_barriers (c : Nat) (h : Option HeadJob) : (setHead s c h).barriers = s.barriers := rfl
@[simp] theorem setHead_launches (c : Nat) (h : Option HeadJob) : (setHead s c h).launches = s.launches := rfl
@[simp] theorem setHead_ended (c : Nat) (h : Option HeadJob) : (setHead s c h).ended = s.ended := rfl
@[simp] theorem setHead_nextLaunch (c : Nat) (h : Option HeadJob) : (setHead s c h).nextLaunch = s.nextLaunch := rfl
@[simp] theorem setHead_steward (c : Nat) (h : Option HeadJob) : (setHead s c h).steward = s.steward := rfl
@[simp] theorem setHead_disables (c : Nat) (h : Option HeadJob) : (setHead s c h).disables = s.disables := rfl
@[simp] theorem setHead_slotRejected (c : Nat) (h : Option HeadJob) : (setHead s c h).slotRejected = s.slotRejected := rfl
@[simp] theorem setHead_dma (c : Nat) (h : Option HeadJob) : (setHead s c h).dma = s.dma := rfl
@[simp] theorem setHead_dmaRejected (c : Nat) (h : Option HeadJob) : (setHead s c h).dmaRejected = s.dmaRejected := rfl
@[simp] theorem setHead_dmaOn (c : Nat) (h : Option HeadJob) : (setHead s c h).dmaOn = s.dmaOn := rfl
@[simp] theorem setHead_dispatches (c : Nat) (h : Option HeadJob) : (setHead s c h).dispatches = s.dispatches := rfl
@[simp] theorem setHead_heldMessages (c : Nat) (h : Option HeadJob) : (setHead s c h).heldMessages = s.heldMessages := rfl
@[simp] theorem setHead_lastDispatchFault (c : Nat) (h : Option HeadJob) : (setHead s c h).lastDispatchFault = s.lastDispatchFault := rfl
@[simp] theorem setHead_chains (c : Nat) (h : Option HeadJob) : (setHead s c h).chains = s.chains := rfl
@[simp] theorem setHead_poolQueue (c : Nat) (h : Option HeadJob) : (setHead s c h).poolQueue = s.poolQueue := rfl
@[simp] theorem setHead_poolOver (c : Nat) (h : Option HeadJob) : (setHead s c h).poolOver = s.poolOver := rfl
@[simp] theorem setHead_reservations (c : Nat) (h : Option HeadJob) : (setHead s c h).reservations = s.reservations := rfl
@[simp] theorem setHead_nextPool (c : Nat) (h : Option HeadJob) : (setHead s c h).nextPool = s.nextPool := rfl
@[simp] theorem setHead_freedHeads (c : Nat) (h : Option HeadJob) : (setHead s c h).freedHeads = s.freedHeads := rfl
@[simp] theorem setHead_cacheLines (c : Nat) (h : Option HeadJob) : (setHead s c h).cacheLines = s.cacheLines := rfl
@[simp] theorem setHead_reserved (c : Nat) (h : Option HeadJob) : (setHead s c h).reserved = s.reserved := rfl
@[simp] theorem setHead_wcb (c : Nat) (h : Option HeadJob) : (setHead s c h).wcb = s.wcb := rfl
@[simp] theorem setHead_pcDir (c : Nat) (h : Option HeadJob) : (setHead s c h).pcDir = s.pcDir := rfl
@[simp] theorem setHead_margins (c : Nat) (h : Option HeadJob) : (setHead s c h).margins = s.margins := rfl
@[simp] theorem setHead_windows (c : Nat) (h : Option HeadJob) : (setHead s c h).windows = s.windows := rfl
@[simp] theorem setHead_windowRejected (c : Nat) (h : Option HeadJob) : (setHead s c h).windowRejected = s.windowRejected := rfl
@[simp] theorem setHead_rankCache (c : Nat) (h : Option HeadJob) : (setHead s c h).rankCache = s.rankCache := rfl
@[simp] theorem setHead_deferred (c : Nat) (h : Option HeadJob) : (setHead s c h).deferred = s.deferred := rfl
@[simp] theorem setHead_messages (c : Nat) (h : Option HeadJob) : (setHead s c h).messages = s.messages := rfl
@[simp] theorem setHead_looped (c : Nat) (h : Option HeadJob) : (setHead s c h).looped = s.looped := rfl
@[simp] theorem setHead_sendNext (c : Nat) (h : Option HeadJob) : (setHead s c h).sendNext = s.sendNext := rfl
@[simp] theorem setHead_arrivals (c : Nat) (h : Option HeadJob) : (setHead s c h).arrivals = s.arrivals := rfl
@[simp] theorem setHead_portTurn (c : Nat) (h : Option HeadJob) : (setHead s c h).portTurn = s.portTurn := rfl
@[simp] theorem setHead_doneWrites (c : Nat) (h : Option HeadJob) : (setHead s c h).doneWrites = s.doneWrites := rfl
@[simp] theorem setHead_awaited (c : Nat) (h : Option HeadJob) : (setHead s c h).awaited = s.awaited := rfl
@[simp] theorem setHead_broadcasts (c : Nat) (h : Option HeadJob) : (setHead s c h).broadcasts = s.broadcasts := rfl
@[simp] theorem setHead_remote (c : Nat) (h : Option HeadJob) : (setHead s c h).remote = s.remote := rfl
@[simp] theorem setHead_nextTag (c : Nat) (h : Option HeadJob) : (setHead s c h).nextTag = s.nextTag := rfl
@[simp] theorem setHead_lastRefusal (c : Nat) (h : Option HeadJob) : (setHead s c h).lastRefusal = s.lastRefusal := rfl
@[simp] theorem setHead_lanes (c : Nat) (h : Option HeadJob) : (setHead s c h).lanes = s.lanes := rfl
@[simp] theorem setHead_sync (c : Nat) (h : Option HeadJob) : (setHead s c h).sync = s.sync := rfl
@[simp] theorem setHead_collTable (c : Nat) (h : Option HeadJob) : (setHead s c h).collTable = s.collTable := rfl
@[simp] theorem setHead_hopErrors (c : Nat) (h : Option HeadJob) : (setHead s c h).hopErrors = s.hopErrors := rfl
@[simp] theorem setHead_stateErrors (c : Nat) (h : Option HeadJob) : (setHead s c h).stateErrors = s.stateErrors := rfl
@[simp] theorem setHead_metErrors (c : Nat) (h : Option HeadJob) : (setHead s c h).metErrors = s.metErrors := rfl
@[simp] theorem setHead_tableReject (c : Nat) (h : Option HeadJob) : (setHead s c h).tableReject = s.tableReject := rfl
@[simp] theorem setHead_collectives (c : Nat) (h : Option HeadJob) : (setHead s c h).collectives = s.collectives := rfl
@[simp] theorem setHead_collFaulted (c : Nat) (h : Option HeadJob) : (setHead s c h).collFaulted = s.collFaulted := rfl
@[simp] theorem setHead_lastCollFault (c : Nat) (h : Option HeadJob) : (setHead s c h).lastCollFault = s.lastCollFault := rfl
@[simp] theorem setHead_collTurn (c : Nat) (h : Option HeadJob) : (setHead s c h).collTurn = s.collTurn := rfl
@[simp] theorem setHead_units (c : Nat) (h : Option HeadJob) : (setHead s c h).units = s.units := rfl
@[simp] theorem setHead_lastSolverFault (c : Nat) (h : Option HeadJob) : (setHead s c h).lastSolverFault = s.lastSolverFault := rfl
@[simp] theorem setHead_host (c : Nat) (h : Option HeadJob) : (setHead s c h).host = s.host := rfl
@[simp] theorem setHead_boot (c : Nat) (h : Option HeadJob) : (setHead s c h).boot = s.boot := rfl
@[simp] theorem setHead_keeper (c : Nat) (h : Option HeadJob) : (setHead s c h).keeper = s.keeper := rfl
@[simp] theorem setHead_driver (c : Nat) (h : Option HeadJob) : (setHead s c h).driver = s.driver := rfl
@[simp] theorem setHead_nvmBusy (c : Nat) (h : Option HeadJob) : (setHead s c h).nvmBusy = s.nvmBusy := rfl
@[simp] theorem setHead_nvmRefused (c : Nat) (h : Option HeadJob) : (setHead s c h).nvmRefused = s.nvmRefused := rfl
@[simp] theorem setHead_power (c : Nat) (h : Option HeadJob) : (setHead s c h).power = s.power := rfl
@[simp] theorem setHead_smbSelect (c : Nat) (h : Option HeadJob) : (setHead s c h).smbSelect = s.smbSelect := rfl
@[simp] theorem setHead_guardLast (c : Nat) (h : Option HeadJob) : (setHead s c h).guardLast = s.guardLast := rfl
@[simp] theorem setHead_out (c : Nat) (h : Option HeadJob) : (setHead s c h).out = s.out := rfl
@[simp] theorem setHead_freeCtr (c : Nat) (h : Option HeadJob) : (setHead s c h).freeCtr = s.freeCtr := rfl
@[simp] theorem setHead_tickPhase (c : Nat) (h : Option HeadJob) : (setHead s c h).tickPhase = s.tickPhase := rfl
@[simp] theorem setHead_exchPhase (c : Nat) (h : Option HeadJob) : (setHead s c h).exchPhase = s.exchPhase := rfl
@[simp] theorem setHead_cycles (c : Nat) (h : Option HeadJob) : (setHead s c h).cycles = s.cycles := rfl

@[simp] theorem setUnit_pending (u : Nat) (j : Option SolverJob) : (setUnit s u j).pending = s.pending := rfl
@[simp] theorem setUnit_mem (u : Nat) (j : Option SolverJob) : (setUnit s u j).mem = s.mem := rfl
@[simp] theorem setUnit_guard (u : Nat) (j : Option SolverJob) : (setUnit s u j).guard = s.guard := rfl
@[simp] theorem setUnit_scrubs (u : Nat) (j : Option SolverJob) : (setUnit s u j).scrubs = s.scrubs := rfl
@[simp] theorem setUnit_nvm (u : Nat) (j : Option SolverJob) : (setUnit s u j).nvm = s.nvm := rfl
@[simp] theorem setUnit_regs (u : Nat) (j : Option SolverJob) : (setUnit s u j).regs = s.regs := rfl
@[simp] theorem setUnit_blocks (u : Nat) (j : Option SolverJob) : (setUnit s u j).blocks = s.blocks := rfl
@[simp] theorem setUnit_latches (u : Nat) (j : Option SolverJob) : (setUnit s u j).latches = s.latches := rfl
@[simp] theorem setUnit_posted (u : Nat) (j : Option SolverJob) : (setUnit s u j).posted = s.posted := rfl
@[simp] theorem setUnit_heldAcks (u : Nat) (j : Option SolverJob) : (setUnit s u j).heldAcks = s.heldAcks := rfl
@[simp] theorem setUnit_waitingAccesses (u : Nat) (j : Option SolverJob) : (setUnit s u j).waitingAccesses = s.waitingAccesses := rfl
@[simp] theorem setUnit_time (u : Nat) (j : Option SolverJob) : (setUnit s u j).time = s.time := rfl
@[simp] theorem setUnit_pulseLast (u : Nat) (j : Option SolverJob) : (setUnit s u j).pulseLast = s.pulseLast := rfl
@[simp] theorem setUnit_readings (u : Nat) (j : Option SolverJob) : (setUnit s u j).readings = s.readings := rfl
@[simp] theorem setUnit_cores (u : Nat) (j : Option SolverJob) : (setUnit s u j).cores = s.cores := rfl
@[simp] theorem setUnit_forage (u : Nat) (j : Option SolverJob) : (setUnit s u j).forage = s.forage := rfl
@[simp] theorem setUnit_barriers (u : Nat) (j : Option SolverJob) : (setUnit s u j).barriers = s.barriers := rfl
@[simp] theorem setUnit_launches (u : Nat) (j : Option SolverJob) : (setUnit s u j).launches = s.launches := rfl
@[simp] theorem setUnit_ended (u : Nat) (j : Option SolverJob) : (setUnit s u j).ended = s.ended := rfl
@[simp] theorem setUnit_nextLaunch (u : Nat) (j : Option SolverJob) : (setUnit s u j).nextLaunch = s.nextLaunch := rfl
@[simp] theorem setUnit_steward (u : Nat) (j : Option SolverJob) : (setUnit s u j).steward = s.steward := rfl
@[simp] theorem setUnit_disables (u : Nat) (j : Option SolverJob) : (setUnit s u j).disables = s.disables := rfl
@[simp] theorem setUnit_slotRejected (u : Nat) (j : Option SolverJob) : (setUnit s u j).slotRejected = s.slotRejected := rfl
@[simp] theorem setUnit_dma (u : Nat) (j : Option SolverJob) : (setUnit s u j).dma = s.dma := rfl
@[simp] theorem setUnit_dmaRejected (u : Nat) (j : Option SolverJob) : (setUnit s u j).dmaRejected = s.dmaRejected := rfl
@[simp] theorem setUnit_dmaOn (u : Nat) (j : Option SolverJob) : (setUnit s u j).dmaOn = s.dmaOn := rfl
@[simp] theorem setUnit_dispatches (u : Nat) (j : Option SolverJob) : (setUnit s u j).dispatches = s.dispatches := rfl
@[simp] theorem setUnit_heldMessages (u : Nat) (j : Option SolverJob) : (setUnit s u j).heldMessages = s.heldMessages := rfl
@[simp] theorem setUnit_lastDispatchFault (u : Nat) (j : Option SolverJob) : (setUnit s u j).lastDispatchFault = s.lastDispatchFault := rfl
@[simp] theorem setUnit_chains (u : Nat) (j : Option SolverJob) : (setUnit s u j).chains = s.chains := rfl
@[simp] theorem setUnit_poolQueue (u : Nat) (j : Option SolverJob) : (setUnit s u j).poolQueue = s.poolQueue := rfl
@[simp] theorem setUnit_poolOver (u : Nat) (j : Option SolverJob) : (setUnit s u j).poolOver = s.poolOver := rfl
@[simp] theorem setUnit_reservations (u : Nat) (j : Option SolverJob) : (setUnit s u j).reservations = s.reservations := rfl
@[simp] theorem setUnit_nextPool (u : Nat) (j : Option SolverJob) : (setUnit s u j).nextPool = s.nextPool := rfl
@[simp] theorem setUnit_freedHeads (u : Nat) (j : Option SolverJob) : (setUnit s u j).freedHeads = s.freedHeads := rfl
@[simp] theorem setUnit_cacheLines (u : Nat) (j : Option SolverJob) : (setUnit s u j).cacheLines = s.cacheLines := rfl
@[simp] theorem setUnit_reserved (u : Nat) (j : Option SolverJob) : (setUnit s u j).reserved = s.reserved := rfl
@[simp] theorem setUnit_wcb (u : Nat) (j : Option SolverJob) : (setUnit s u j).wcb = s.wcb := rfl
@[simp] theorem setUnit_pcDir (u : Nat) (j : Option SolverJob) : (setUnit s u j).pcDir = s.pcDir := rfl
@[simp] theorem setUnit_margins (u : Nat) (j : Option SolverJob) : (setUnit s u j).margins = s.margins := rfl
@[simp] theorem setUnit_windows (u : Nat) (j : Option SolverJob) : (setUnit s u j).windows = s.windows := rfl
@[simp] theorem setUnit_windowRejected (u : Nat) (j : Option SolverJob) : (setUnit s u j).windowRejected = s.windowRejected := rfl
@[simp] theorem setUnit_rankCache (u : Nat) (j : Option SolverJob) : (setUnit s u j).rankCache = s.rankCache := rfl
@[simp] theorem setUnit_deferred (u : Nat) (j : Option SolverJob) : (setUnit s u j).deferred = s.deferred := rfl
@[simp] theorem setUnit_messages (u : Nat) (j : Option SolverJob) : (setUnit s u j).messages = s.messages := rfl
@[simp] theorem setUnit_looped (u : Nat) (j : Option SolverJob) : (setUnit s u j).looped = s.looped := rfl
@[simp] theorem setUnit_sendNext (u : Nat) (j : Option SolverJob) : (setUnit s u j).sendNext = s.sendNext := rfl
@[simp] theorem setUnit_arrivals (u : Nat) (j : Option SolverJob) : (setUnit s u j).arrivals = s.arrivals := rfl
@[simp] theorem setUnit_portTurn (u : Nat) (j : Option SolverJob) : (setUnit s u j).portTurn = s.portTurn := rfl
@[simp] theorem setUnit_doneWrites (u : Nat) (j : Option SolverJob) : (setUnit s u j).doneWrites = s.doneWrites := rfl
@[simp] theorem setUnit_awaited (u : Nat) (j : Option SolverJob) : (setUnit s u j).awaited = s.awaited := rfl
@[simp] theorem setUnit_broadcasts (u : Nat) (j : Option SolverJob) : (setUnit s u j).broadcasts = s.broadcasts := rfl
@[simp] theorem setUnit_remote (u : Nat) (j : Option SolverJob) : (setUnit s u j).remote = s.remote := rfl
@[simp] theorem setUnit_nextTag (u : Nat) (j : Option SolverJob) : (setUnit s u j).nextTag = s.nextTag := rfl
@[simp] theorem setUnit_lastRefusal (u : Nat) (j : Option SolverJob) : (setUnit s u j).lastRefusal = s.lastRefusal := rfl
@[simp] theorem setUnit_lanes (u : Nat) (j : Option SolverJob) : (setUnit s u j).lanes = s.lanes := rfl
@[simp] theorem setUnit_sync (u : Nat) (j : Option SolverJob) : (setUnit s u j).sync = s.sync := rfl
@[simp] theorem setUnit_collTable (u : Nat) (j : Option SolverJob) : (setUnit s u j).collTable = s.collTable := rfl
@[simp] theorem setUnit_hopErrors (u : Nat) (j : Option SolverJob) : (setUnit s u j).hopErrors = s.hopErrors := rfl
@[simp] theorem setUnit_stateErrors (u : Nat) (j : Option SolverJob) : (setUnit s u j).stateErrors = s.stateErrors := rfl
@[simp] theorem setUnit_metErrors (u : Nat) (j : Option SolverJob) : (setUnit s u j).metErrors = s.metErrors := rfl
@[simp] theorem setUnit_tableReject (u : Nat) (j : Option SolverJob) : (setUnit s u j).tableReject = s.tableReject := rfl
@[simp] theorem setUnit_collectives (u : Nat) (j : Option SolverJob) : (setUnit s u j).collectives = s.collectives := rfl
@[simp] theorem setUnit_collFaulted (u : Nat) (j : Option SolverJob) : (setUnit s u j).collFaulted = s.collFaulted := rfl
@[simp] theorem setUnit_lastCollFault (u : Nat) (j : Option SolverJob) : (setUnit s u j).lastCollFault = s.lastCollFault := rfl
@[simp] theorem setUnit_collTurn (u : Nat) (j : Option SolverJob) : (setUnit s u j).collTurn = s.collTurn := rfl
@[simp] theorem setUnit_heads (u : Nat) (j : Option SolverJob) : (setUnit s u j).heads = s.heads := rfl
@[simp] theorem setUnit_lastSolverFault (u : Nat) (j : Option SolverJob) : (setUnit s u j).lastSolverFault = s.lastSolverFault := rfl
@[simp] theorem setUnit_host (u : Nat) (j : Option SolverJob) : (setUnit s u j).host = s.host := rfl
@[simp] theorem setUnit_boot (u : Nat) (j : Option SolverJob) : (setUnit s u j).boot = s.boot := rfl
@[simp] theorem setUnit_keeper (u : Nat) (j : Option SolverJob) : (setUnit s u j).keeper = s.keeper := rfl
@[simp] theorem setUnit_driver (u : Nat) (j : Option SolverJob) : (setUnit s u j).driver = s.driver := rfl
@[simp] theorem setUnit_nvmBusy (u : Nat) (j : Option SolverJob) : (setUnit s u j).nvmBusy = s.nvmBusy := rfl
@[simp] theorem setUnit_nvmRefused (u : Nat) (j : Option SolverJob) : (setUnit s u j).nvmRefused = s.nvmRefused := rfl
@[simp] theorem setUnit_power (u : Nat) (j : Option SolverJob) : (setUnit s u j).power = s.power := rfl
@[simp] theorem setUnit_smbSelect (u : Nat) (j : Option SolverJob) : (setUnit s u j).smbSelect = s.smbSelect := rfl
@[simp] theorem setUnit_guardLast (u : Nat) (j : Option SolverJob) : (setUnit s u j).guardLast = s.guardLast := rfl
@[simp] theorem setUnit_out (u : Nat) (j : Option SolverJob) : (setUnit s u j).out = s.out := rfl
@[simp] theorem setUnit_freeCtr (u : Nat) (j : Option SolverJob) : (setUnit s u j).freeCtr = s.freeCtr := rfl
@[simp] theorem setUnit_tickPhase (u : Nat) (j : Option SolverJob) : (setUnit s u j).tickPhase = s.tickPhase := rfl
@[simp] theorem setUnit_exchPhase (u : Nat) (j : Option SolverJob) : (setUnit s u j).exchPhase = s.exchPhase := rfl
@[simp] theorem setUnit_cycles (u : Nat) (j : Option SolverJob) : (setUnit s u j).cycles = s.cycles := rfl

@[simp] theorem updColl_pending (k : CollId) (f : Collective → Collective) : (updColl s k f).pending = s.pending := rfl
@[simp] theorem updColl_mem (k : CollId) (f : Collective → Collective) : (updColl s k f).mem = s.mem := rfl
@[simp] theorem updColl_guard (k : CollId) (f : Collective → Collective) : (updColl s k f).guard = s.guard := rfl
@[simp] theorem updColl_scrubs (k : CollId) (f : Collective → Collective) : (updColl s k f).scrubs = s.scrubs := rfl
@[simp] theorem updColl_nvm (k : CollId) (f : Collective → Collective) : (updColl s k f).nvm = s.nvm := rfl
@[simp] theorem updColl_regs (k : CollId) (f : Collective → Collective) : (updColl s k f).regs = s.regs := rfl
@[simp] theorem updColl_blocks (k : CollId) (f : Collective → Collective) : (updColl s k f).blocks = s.blocks := rfl
@[simp] theorem updColl_latches (k : CollId) (f : Collective → Collective) : (updColl s k f).latches = s.latches := rfl
@[simp] theorem updColl_posted (k : CollId) (f : Collective → Collective) : (updColl s k f).posted = s.posted := rfl
@[simp] theorem updColl_heldAcks (k : CollId) (f : Collective → Collective) : (updColl s k f).heldAcks = s.heldAcks := rfl
@[simp] theorem updColl_waitingAccesses (k : CollId) (f : Collective → Collective) : (updColl s k f).waitingAccesses = s.waitingAccesses := rfl
@[simp] theorem updColl_time (k : CollId) (f : Collective → Collective) : (updColl s k f).time = s.time := rfl
@[simp] theorem updColl_pulseLast (k : CollId) (f : Collective → Collective) : (updColl s k f).pulseLast = s.pulseLast := rfl
@[simp] theorem updColl_readings (k : CollId) (f : Collective → Collective) : (updColl s k f).readings = s.readings := rfl
@[simp] theorem updColl_cores (k : CollId) (f : Collective → Collective) : (updColl s k f).cores = s.cores := rfl
@[simp] theorem updColl_forage (k : CollId) (f : Collective → Collective) : (updColl s k f).forage = s.forage := rfl
@[simp] theorem updColl_barriers (k : CollId) (f : Collective → Collective) : (updColl s k f).barriers = s.barriers := rfl
@[simp] theorem updColl_launches (k : CollId) (f : Collective → Collective) : (updColl s k f).launches = s.launches := rfl
@[simp] theorem updColl_ended (k : CollId) (f : Collective → Collective) : (updColl s k f).ended = s.ended := rfl
@[simp] theorem updColl_nextLaunch (k : CollId) (f : Collective → Collective) : (updColl s k f).nextLaunch = s.nextLaunch := rfl
@[simp] theorem updColl_steward (k : CollId) (f : Collective → Collective) : (updColl s k f).steward = s.steward := rfl
@[simp] theorem updColl_disables (k : CollId) (f : Collective → Collective) : (updColl s k f).disables = s.disables := rfl
@[simp] theorem updColl_slotRejected (k : CollId) (f : Collective → Collective) : (updColl s k f).slotRejected = s.slotRejected := rfl
@[simp] theorem updColl_dma (k : CollId) (f : Collective → Collective) : (updColl s k f).dma = s.dma := rfl
@[simp] theorem updColl_dmaRejected (k : CollId) (f : Collective → Collective) : (updColl s k f).dmaRejected = s.dmaRejected := rfl
@[simp] theorem updColl_dmaOn (k : CollId) (f : Collective → Collective) : (updColl s k f).dmaOn = s.dmaOn := rfl
@[simp] theorem updColl_dispatches (k : CollId) (f : Collective → Collective) : (updColl s k f).dispatches = s.dispatches := rfl
@[simp] theorem updColl_heldMessages (k : CollId) (f : Collective → Collective) : (updColl s k f).heldMessages = s.heldMessages := rfl
@[simp] theorem updColl_lastDispatchFault (k : CollId) (f : Collective → Collective) : (updColl s k f).lastDispatchFault = s.lastDispatchFault := rfl
@[simp] theorem updColl_chains (k : CollId) (f : Collective → Collective) : (updColl s k f).chains = s.chains := rfl
@[simp] theorem updColl_poolQueue (k : CollId) (f : Collective → Collective) : (updColl s k f).poolQueue = s.poolQueue := rfl
@[simp] theorem updColl_poolOver (k : CollId) (f : Collective → Collective) : (updColl s k f).poolOver = s.poolOver := rfl
@[simp] theorem updColl_reservations (k : CollId) (f : Collective → Collective) : (updColl s k f).reservations = s.reservations := rfl
@[simp] theorem updColl_nextPool (k : CollId) (f : Collective → Collective) : (updColl s k f).nextPool = s.nextPool := rfl
@[simp] theorem updColl_freedHeads (k : CollId) (f : Collective → Collective) : (updColl s k f).freedHeads = s.freedHeads := rfl
@[simp] theorem updColl_cacheLines (k : CollId) (f : Collective → Collective) : (updColl s k f).cacheLines = s.cacheLines := rfl
@[simp] theorem updColl_reserved (k : CollId) (f : Collective → Collective) : (updColl s k f).reserved = s.reserved := rfl
@[simp] theorem updColl_wcb (k : CollId) (f : Collective → Collective) : (updColl s k f).wcb = s.wcb := rfl
@[simp] theorem updColl_pcDir (k : CollId) (f : Collective → Collective) : (updColl s k f).pcDir = s.pcDir := rfl
@[simp] theorem updColl_margins (k : CollId) (f : Collective → Collective) : (updColl s k f).margins = s.margins := rfl
@[simp] theorem updColl_windows (k : CollId) (f : Collective → Collective) : (updColl s k f).windows = s.windows := rfl
@[simp] theorem updColl_windowRejected (k : CollId) (f : Collective → Collective) : (updColl s k f).windowRejected = s.windowRejected := rfl
@[simp] theorem updColl_rankCache (k : CollId) (f : Collective → Collective) : (updColl s k f).rankCache = s.rankCache := rfl
@[simp] theorem updColl_deferred (k : CollId) (f : Collective → Collective) : (updColl s k f).deferred = s.deferred := rfl
@[simp] theorem updColl_messages (k : CollId) (f : Collective → Collective) : (updColl s k f).messages = s.messages := rfl
@[simp] theorem updColl_looped (k : CollId) (f : Collective → Collective) : (updColl s k f).looped = s.looped := rfl
@[simp] theorem updColl_sendNext (k : CollId) (f : Collective → Collective) : (updColl s k f).sendNext = s.sendNext := rfl
@[simp] theorem updColl_arrivals (k : CollId) (f : Collective → Collective) : (updColl s k f).arrivals = s.arrivals := rfl
@[simp] theorem updColl_portTurn (k : CollId) (f : Collective → Collective) : (updColl s k f).portTurn = s.portTurn := rfl
@[simp] theorem updColl_doneWrites (k : CollId) (f : Collective → Collective) : (updColl s k f).doneWrites = s.doneWrites := rfl
@[simp] theorem updColl_awaited (k : CollId) (f : Collective → Collective) : (updColl s k f).awaited = s.awaited := rfl
@[simp] theorem updColl_broadcasts (k : CollId) (f : Collective → Collective) : (updColl s k f).broadcasts = s.broadcasts := rfl
@[simp] theorem updColl_remote (k : CollId) (f : Collective → Collective) : (updColl s k f).remote = s.remote := rfl
@[simp] theorem updColl_nextTag (k : CollId) (f : Collective → Collective) : (updColl s k f).nextTag = s.nextTag := rfl
@[simp] theorem updColl_lastRefusal (k : CollId) (f : Collective → Collective) : (updColl s k f).lastRefusal = s.lastRefusal := rfl
@[simp] theorem updColl_lanes (k : CollId) (f : Collective → Collective) : (updColl s k f).lanes = s.lanes := rfl
@[simp] theorem updColl_sync (k : CollId) (f : Collective → Collective) : (updColl s k f).sync = s.sync := rfl
@[simp] theorem updColl_collTable (k : CollId) (f : Collective → Collective) : (updColl s k f).collTable = s.collTable := rfl
@[simp] theorem updColl_hopErrors (k : CollId) (f : Collective → Collective) : (updColl s k f).hopErrors = s.hopErrors := rfl
@[simp] theorem updColl_stateErrors (k : CollId) (f : Collective → Collective) : (updColl s k f).stateErrors = s.stateErrors := rfl
@[simp] theorem updColl_metErrors (k : CollId) (f : Collective → Collective) : (updColl s k f).metErrors = s.metErrors := rfl
@[simp] theorem updColl_tableReject (k : CollId) (f : Collective → Collective) : (updColl s k f).tableReject = s.tableReject := rfl
@[simp] theorem updColl_collFaulted (k : CollId) (f : Collective → Collective) : (updColl s k f).collFaulted = s.collFaulted := rfl
@[simp] theorem updColl_lastCollFault (k : CollId) (f : Collective → Collective) : (updColl s k f).lastCollFault = s.lastCollFault := rfl
@[simp] theorem updColl_collTurn (k : CollId) (f : Collective → Collective) : (updColl s k f).collTurn = s.collTurn := rfl
@[simp] theorem updColl_heads (k : CollId) (f : Collective → Collective) : (updColl s k f).heads = s.heads := rfl
@[simp] theorem updColl_units (k : CollId) (f : Collective → Collective) : (updColl s k f).units = s.units := rfl
@[simp] theorem updColl_lastSolverFault (k : CollId) (f : Collective → Collective) : (updColl s k f).lastSolverFault = s.lastSolverFault := rfl
@[simp] theorem updColl_host (k : CollId) (f : Collective → Collective) : (updColl s k f).host = s.host := rfl
@[simp] theorem updColl_boot (k : CollId) (f : Collective → Collective) : (updColl s k f).boot = s.boot := rfl
@[simp] theorem updColl_keeper (k : CollId) (f : Collective → Collective) : (updColl s k f).keeper = s.keeper := rfl
@[simp] theorem updColl_driver (k : CollId) (f : Collective → Collective) : (updColl s k f).driver = s.driver := rfl
@[simp] theorem updColl_nvmBusy (k : CollId) (f : Collective → Collective) : (updColl s k f).nvmBusy = s.nvmBusy := rfl
@[simp] theorem updColl_nvmRefused (k : CollId) (f : Collective → Collective) : (updColl s k f).nvmRefused = s.nvmRefused := rfl
@[simp] theorem updColl_power (k : CollId) (f : Collective → Collective) : (updColl s k f).power = s.power := rfl
@[simp] theorem updColl_smbSelect (k : CollId) (f : Collective → Collective) : (updColl s k f).smbSelect = s.smbSelect := rfl
@[simp] theorem updColl_guardLast (k : CollId) (f : Collective → Collective) : (updColl s k f).guardLast = s.guardLast := rfl
@[simp] theorem updColl_out (k : CollId) (f : Collective → Collective) : (updColl s k f).out = s.out := rfl
@[simp] theorem updColl_freeCtr (k : CollId) (f : Collective → Collective) : (updColl s k f).freeCtr = s.freeCtr := rfl
@[simp] theorem updColl_tickPhase (k : CollId) (f : Collective → Collective) : (updColl s k f).tickPhase = s.tickPhase := rfl
@[simp] theorem updColl_exchPhase (k : CollId) (f : Collective → Collective) : (updColl s k f).exchPhase = s.exchPhase := rfl
@[simp] theorem updColl_cycles (k : CollId) (f : Collective → Collective) : (updColl s k f).cycles = s.cycles := rfl

@[simp] theorem updDispatch_pending (l : Nat) (f : Dispatch → Dispatch) : (updDispatch s l f).pending = s.pending := rfl
@[simp] theorem updDispatch_mem (l : Nat) (f : Dispatch → Dispatch) : (updDispatch s l f).mem = s.mem := rfl
@[simp] theorem updDispatch_guard (l : Nat) (f : Dispatch → Dispatch) : (updDispatch s l f).guard = s.guard := rfl
@[simp] theorem updDispatch_scrubs (l : Nat) (f : Dispatch → Dispatch) : (updDispatch s l f).scrubs = s.scrubs := rfl
@[simp] theorem updDispatch_nvm (l : Nat) (f : Dispatch → Dispatch) : (updDispatch s l f).nvm = s.nvm := rfl
@[simp] theorem updDispatch_regs (l : Nat) (f : Dispatch → Dispatch) : (updDispatch s l f).regs = s.regs := rfl
@[simp] theorem updDispatch_blocks (l : Nat) (f : Dispatch → Dispatch) : (updDispatch s l f).blocks = s.blocks := rfl
@[simp] theorem updDispatch_latches (l : Nat) (f : Dispatch → Dispatch) : (updDispatch s l f).latches = s.latches := rfl
@[simp] theorem updDispatch_posted (l : Nat) (f : Dispatch → Dispatch) : (updDispatch s l f).posted = s.posted := rfl
@[simp] theorem updDispatch_heldAcks (l : Nat) (f : Dispatch → Dispatch) : (updDispatch s l f).heldAcks = s.heldAcks := rfl
@[simp] theorem updDispatch_waitingAccesses (l : Nat) (f : Dispatch → Dispatch) : (updDispatch s l f).waitingAccesses = s.waitingAccesses := rfl
@[simp] theorem updDispatch_time (l : Nat) (f : Dispatch → Dispatch) : (updDispatch s l f).time = s.time := rfl
@[simp] theorem updDispatch_pulseLast (l : Nat) (f : Dispatch → Dispatch) : (updDispatch s l f).pulseLast = s.pulseLast := rfl
@[simp] theorem updDispatch_readings (l : Nat) (f : Dispatch → Dispatch) : (updDispatch s l f).readings = s.readings := rfl
@[simp] theorem updDispatch_cores (l : Nat) (f : Dispatch → Dispatch) : (updDispatch s l f).cores = s.cores := rfl
@[simp] theorem updDispatch_forage (l : Nat) (f : Dispatch → Dispatch) : (updDispatch s l f).forage = s.forage := rfl
@[simp] theorem updDispatch_barriers (l : Nat) (f : Dispatch → Dispatch) : (updDispatch s l f).barriers = s.barriers := rfl
@[simp] theorem updDispatch_launches (l : Nat) (f : Dispatch → Dispatch) : (updDispatch s l f).launches = s.launches := rfl
@[simp] theorem updDispatch_ended (l : Nat) (f : Dispatch → Dispatch) : (updDispatch s l f).ended = s.ended := rfl
@[simp] theorem updDispatch_nextLaunch (l : Nat) (f : Dispatch → Dispatch) : (updDispatch s l f).nextLaunch = s.nextLaunch := rfl
@[simp] theorem updDispatch_steward (l : Nat) (f : Dispatch → Dispatch) : (updDispatch s l f).steward = s.steward := rfl
@[simp] theorem updDispatch_disables (l : Nat) (f : Dispatch → Dispatch) : (updDispatch s l f).disables = s.disables := rfl
@[simp] theorem updDispatch_slotRejected (l : Nat) (f : Dispatch → Dispatch) : (updDispatch s l f).slotRejected = s.slotRejected := rfl
@[simp] theorem updDispatch_dma (l : Nat) (f : Dispatch → Dispatch) : (updDispatch s l f).dma = s.dma := rfl
@[simp] theorem updDispatch_dmaRejected (l : Nat) (f : Dispatch → Dispatch) : (updDispatch s l f).dmaRejected = s.dmaRejected := rfl
@[simp] theorem updDispatch_dmaOn (l : Nat) (f : Dispatch → Dispatch) : (updDispatch s l f).dmaOn = s.dmaOn := rfl
@[simp] theorem updDispatch_heldMessages (l : Nat) (f : Dispatch → Dispatch) : (updDispatch s l f).heldMessages = s.heldMessages := rfl
@[simp] theorem updDispatch_lastDispatchFault (l : Nat) (f : Dispatch → Dispatch) : (updDispatch s l f).lastDispatchFault = s.lastDispatchFault := rfl
@[simp] theorem updDispatch_chains (l : Nat) (f : Dispatch → Dispatch) : (updDispatch s l f).chains = s.chains := rfl
@[simp] theorem updDispatch_poolQueue (l : Nat) (f : Dispatch → Dispatch) : (updDispatch s l f).poolQueue = s.poolQueue := rfl
@[simp] theorem updDispatch_poolOver (l : Nat) (f : Dispatch → Dispatch) : (updDispatch s l f).poolOver = s.poolOver := rfl
@[simp] theorem updDispatch_reservations (l : Nat) (f : Dispatch → Dispatch) : (updDispatch s l f).reservations = s.reservations := rfl
@[simp] theorem updDispatch_nextPool (l : Nat) (f : Dispatch → Dispatch) : (updDispatch s l f).nextPool = s.nextPool := rfl
@[simp] theorem updDispatch_freedHeads (l : Nat) (f : Dispatch → Dispatch) : (updDispatch s l f).freedHeads = s.freedHeads := rfl
@[simp] theorem updDispatch_cacheLines (l : Nat) (f : Dispatch → Dispatch) : (updDispatch s l f).cacheLines = s.cacheLines := rfl
@[simp] theorem updDispatch_reserved (l : Nat) (f : Dispatch → Dispatch) : (updDispatch s l f).reserved = s.reserved := rfl
@[simp] theorem updDispatch_wcb (l : Nat) (f : Dispatch → Dispatch) : (updDispatch s l f).wcb = s.wcb := rfl
@[simp] theorem updDispatch_pcDir (l : Nat) (f : Dispatch → Dispatch) : (updDispatch s l f).pcDir = s.pcDir := rfl
@[simp] theorem updDispatch_margins (l : Nat) (f : Dispatch → Dispatch) : (updDispatch s l f).margins = s.margins := rfl
@[simp] theorem updDispatch_windows (l : Nat) (f : Dispatch → Dispatch) : (updDispatch s l f).windows = s.windows := rfl
@[simp] theorem updDispatch_windowRejected (l : Nat) (f : Dispatch → Dispatch) : (updDispatch s l f).windowRejected = s.windowRejected := rfl
@[simp] theorem updDispatch_rankCache (l : Nat) (f : Dispatch → Dispatch) : (updDispatch s l f).rankCache = s.rankCache := rfl
@[simp] theorem updDispatch_deferred (l : Nat) (f : Dispatch → Dispatch) : (updDispatch s l f).deferred = s.deferred := rfl
@[simp] theorem updDispatch_messages (l : Nat) (f : Dispatch → Dispatch) : (updDispatch s l f).messages = s.messages := rfl
@[simp] theorem updDispatch_looped (l : Nat) (f : Dispatch → Dispatch) : (updDispatch s l f).looped = s.looped := rfl
@[simp] theorem updDispatch_sendNext (l : Nat) (f : Dispatch → Dispatch) : (updDispatch s l f).sendNext = s.sendNext := rfl
@[simp] theorem updDispatch_arrivals (l : Nat) (f : Dispatch → Dispatch) : (updDispatch s l f).arrivals = s.arrivals := rfl
@[simp] theorem updDispatch_portTurn (l : Nat) (f : Dispatch → Dispatch) : (updDispatch s l f).portTurn = s.portTurn := rfl
@[simp] theorem updDispatch_doneWrites (l : Nat) (f : Dispatch → Dispatch) : (updDispatch s l f).doneWrites = s.doneWrites := rfl
@[simp] theorem updDispatch_awaited (l : Nat) (f : Dispatch → Dispatch) : (updDispatch s l f).awaited = s.awaited := rfl
@[simp] theorem updDispatch_broadcasts (l : Nat) (f : Dispatch → Dispatch) : (updDispatch s l f).broadcasts = s.broadcasts := rfl
@[simp] theorem updDispatch_remote (l : Nat) (f : Dispatch → Dispatch) : (updDispatch s l f).remote = s.remote := rfl
@[simp] theorem updDispatch_nextTag (l : Nat) (f : Dispatch → Dispatch) : (updDispatch s l f).nextTag = s.nextTag := rfl
@[simp] theorem updDispatch_lastRefusal (l : Nat) (f : Dispatch → Dispatch) : (updDispatch s l f).lastRefusal = s.lastRefusal := rfl
@[simp] theorem updDispatch_lanes (l : Nat) (f : Dispatch → Dispatch) : (updDispatch s l f).lanes = s.lanes := rfl
@[simp] theorem updDispatch_sync (l : Nat) (f : Dispatch → Dispatch) : (updDispatch s l f).sync = s.sync := rfl
@[simp] theorem updDispatch_collTable (l : Nat) (f : Dispatch → Dispatch) : (updDispatch s l f).collTable = s.collTable := rfl
@[simp] theorem updDispatch_hopErrors (l : Nat) (f : Dispatch → Dispatch) : (updDispatch s l f).hopErrors = s.hopErrors := rfl
@[simp] theorem updDispatch_stateErrors (l : Nat) (f : Dispatch → Dispatch) : (updDispatch s l f).stateErrors = s.stateErrors := rfl
@[simp] theorem updDispatch_metErrors (l : Nat) (f : Dispatch → Dispatch) : (updDispatch s l f).metErrors = s.metErrors := rfl
@[simp] theorem updDispatch_tableReject (l : Nat) (f : Dispatch → Dispatch) : (updDispatch s l f).tableReject = s.tableReject := rfl
@[simp] theorem updDispatch_collectives (l : Nat) (f : Dispatch → Dispatch) : (updDispatch s l f).collectives = s.collectives := rfl
@[simp] theorem updDispatch_collFaulted (l : Nat) (f : Dispatch → Dispatch) : (updDispatch s l f).collFaulted = s.collFaulted := rfl
@[simp] theorem updDispatch_lastCollFault (l : Nat) (f : Dispatch → Dispatch) : (updDispatch s l f).lastCollFault = s.lastCollFault := rfl
@[simp] theorem updDispatch_collTurn (l : Nat) (f : Dispatch → Dispatch) : (updDispatch s l f).collTurn = s.collTurn := rfl
@[simp] theorem updDispatch_heads (l : Nat) (f : Dispatch → Dispatch) : (updDispatch s l f).heads = s.heads := rfl
@[simp] theorem updDispatch_units (l : Nat) (f : Dispatch → Dispatch) : (updDispatch s l f).units = s.units := rfl
@[simp] theorem updDispatch_lastSolverFault (l : Nat) (f : Dispatch → Dispatch) : (updDispatch s l f).lastSolverFault = s.lastSolverFault := rfl
@[simp] theorem updDispatch_host (l : Nat) (f : Dispatch → Dispatch) : (updDispatch s l f).host = s.host := rfl
@[simp] theorem updDispatch_boot (l : Nat) (f : Dispatch → Dispatch) : (updDispatch s l f).boot = s.boot := rfl
@[simp] theorem updDispatch_keeper (l : Nat) (f : Dispatch → Dispatch) : (updDispatch s l f).keeper = s.keeper := rfl
@[simp] theorem updDispatch_driver (l : Nat) (f : Dispatch → Dispatch) : (updDispatch s l f).driver = s.driver := rfl
@[simp] theorem updDispatch_nvmBusy (l : Nat) (f : Dispatch → Dispatch) : (updDispatch s l f).nvmBusy = s.nvmBusy := rfl
@[simp] theorem updDispatch_nvmRefused (l : Nat) (f : Dispatch → Dispatch) : (updDispatch s l f).nvmRefused = s.nvmRefused := rfl
@[simp] theorem updDispatch_power (l : Nat) (f : Dispatch → Dispatch) : (updDispatch s l f).power = s.power := rfl
@[simp] theorem updDispatch_smbSelect (l : Nat) (f : Dispatch → Dispatch) : (updDispatch s l f).smbSelect = s.smbSelect := rfl
@[simp] theorem updDispatch_guardLast (l : Nat) (f : Dispatch → Dispatch) : (updDispatch s l f).guardLast = s.guardLast := rfl
@[simp] theorem updDispatch_out (l : Nat) (f : Dispatch → Dispatch) : (updDispatch s l f).out = s.out := rfl
@[simp] theorem updDispatch_freeCtr (l : Nat) (f : Dispatch → Dispatch) : (updDispatch s l f).freeCtr = s.freeCtr := rfl
@[simp] theorem updDispatch_tickPhase (l : Nat) (f : Dispatch → Dispatch) : (updDispatch s l f).tickPhase = s.tickPhase := rfl
@[simp] theorem updDispatch_exchPhase (l : Nat) (f : Dispatch → Dispatch) : (updDispatch s l f).exchPhase = s.exchPhase := rfl
@[simp] theorem updDispatch_cycles (l : Nat) (f : Dispatch → Dispatch) : (updDispatch s l f).cycles = s.cycles := rfl

@[simp] theorem putNvm_pending (a : Nat) (bs : List Byte) : (putNvm s a bs).pending = s.pending := rfl
@[simp] theorem putNvm_mem (a : Nat) (bs : List Byte) : (putNvm s a bs).mem = s.mem := rfl
@[simp] theorem putNvm_guard (a : Nat) (bs : List Byte) : (putNvm s a bs).guard = s.guard := rfl
@[simp] theorem putNvm_scrubs (a : Nat) (bs : List Byte) : (putNvm s a bs).scrubs = s.scrubs := rfl
@[simp] theorem putNvm_regs (a : Nat) (bs : List Byte) : (putNvm s a bs).regs = s.regs := rfl
@[simp] theorem putNvm_blocks (a : Nat) (bs : List Byte) : (putNvm s a bs).blocks = s.blocks := rfl
@[simp] theorem putNvm_latches (a : Nat) (bs : List Byte) : (putNvm s a bs).latches = s.latches := rfl
@[simp] theorem putNvm_posted (a : Nat) (bs : List Byte) : (putNvm s a bs).posted = s.posted := rfl
@[simp] theorem putNvm_heldAcks (a : Nat) (bs : List Byte) : (putNvm s a bs).heldAcks = s.heldAcks := rfl
@[simp] theorem putNvm_waitingAccesses (a : Nat) (bs : List Byte) : (putNvm s a bs).waitingAccesses = s.waitingAccesses := rfl
@[simp] theorem putNvm_time (a : Nat) (bs : List Byte) : (putNvm s a bs).time = s.time := rfl
@[simp] theorem putNvm_pulseLast (a : Nat) (bs : List Byte) : (putNvm s a bs).pulseLast = s.pulseLast := rfl
@[simp] theorem putNvm_readings (a : Nat) (bs : List Byte) : (putNvm s a bs).readings = s.readings := rfl
@[simp] theorem putNvm_cores (a : Nat) (bs : List Byte) : (putNvm s a bs).cores = s.cores := rfl
@[simp] theorem putNvm_forage (a : Nat) (bs : List Byte) : (putNvm s a bs).forage = s.forage := rfl
@[simp] theorem putNvm_barriers (a : Nat) (bs : List Byte) : (putNvm s a bs).barriers = s.barriers := rfl
@[simp] theorem putNvm_launches (a : Nat) (bs : List Byte) : (putNvm s a bs).launches = s.launches := rfl
@[simp] theorem putNvm_ended (a : Nat) (bs : List Byte) : (putNvm s a bs).ended = s.ended := rfl
@[simp] theorem putNvm_nextLaunch (a : Nat) (bs : List Byte) : (putNvm s a bs).nextLaunch = s.nextLaunch := rfl
@[simp] theorem putNvm_steward (a : Nat) (bs : List Byte) : (putNvm s a bs).steward = s.steward := rfl
@[simp] theorem putNvm_disables (a : Nat) (bs : List Byte) : (putNvm s a bs).disables = s.disables := rfl
@[simp] theorem putNvm_slotRejected (a : Nat) (bs : List Byte) : (putNvm s a bs).slotRejected = s.slotRejected := rfl
@[simp] theorem putNvm_dma (a : Nat) (bs : List Byte) : (putNvm s a bs).dma = s.dma := rfl
@[simp] theorem putNvm_dmaRejected (a : Nat) (bs : List Byte) : (putNvm s a bs).dmaRejected = s.dmaRejected := rfl
@[simp] theorem putNvm_dmaOn (a : Nat) (bs : List Byte) : (putNvm s a bs).dmaOn = s.dmaOn := rfl
@[simp] theorem putNvm_dispatches (a : Nat) (bs : List Byte) : (putNvm s a bs).dispatches = s.dispatches := rfl
@[simp] theorem putNvm_heldMessages (a : Nat) (bs : List Byte) : (putNvm s a bs).heldMessages = s.heldMessages := rfl
@[simp] theorem putNvm_lastDispatchFault (a : Nat) (bs : List Byte) : (putNvm s a bs).lastDispatchFault = s.lastDispatchFault := rfl
@[simp] theorem putNvm_chains (a : Nat) (bs : List Byte) : (putNvm s a bs).chains = s.chains := rfl
@[simp] theorem putNvm_poolQueue (a : Nat) (bs : List Byte) : (putNvm s a bs).poolQueue = s.poolQueue := rfl
@[simp] theorem putNvm_poolOver (a : Nat) (bs : List Byte) : (putNvm s a bs).poolOver = s.poolOver := rfl
@[simp] theorem putNvm_reservations (a : Nat) (bs : List Byte) : (putNvm s a bs).reservations = s.reservations := rfl
@[simp] theorem putNvm_nextPool (a : Nat) (bs : List Byte) : (putNvm s a bs).nextPool = s.nextPool := rfl
@[simp] theorem putNvm_freedHeads (a : Nat) (bs : List Byte) : (putNvm s a bs).freedHeads = s.freedHeads := rfl
@[simp] theorem putNvm_cacheLines (a : Nat) (bs : List Byte) : (putNvm s a bs).cacheLines = s.cacheLines := rfl
@[simp] theorem putNvm_reserved (a : Nat) (bs : List Byte) : (putNvm s a bs).reserved = s.reserved := rfl
@[simp] theorem putNvm_wcb (a : Nat) (bs : List Byte) : (putNvm s a bs).wcb = s.wcb := rfl
@[simp] theorem putNvm_pcDir (a : Nat) (bs : List Byte) : (putNvm s a bs).pcDir = s.pcDir := rfl
@[simp] theorem putNvm_margins (a : Nat) (bs : List Byte) : (putNvm s a bs).margins = s.margins := rfl
@[simp] theorem putNvm_windows (a : Nat) (bs : List Byte) : (putNvm s a bs).windows = s.windows := rfl
@[simp] theorem putNvm_windowRejected (a : Nat) (bs : List Byte) : (putNvm s a bs).windowRejected = s.windowRejected := rfl
@[simp] theorem putNvm_rankCache (a : Nat) (bs : List Byte) : (putNvm s a bs).rankCache = s.rankCache := rfl
@[simp] theorem putNvm_deferred (a : Nat) (bs : List Byte) : (putNvm s a bs).deferred = s.deferred := rfl
@[simp] theorem putNvm_messages (a : Nat) (bs : List Byte) : (putNvm s a bs).messages = s.messages := rfl
@[simp] theorem putNvm_looped (a : Nat) (bs : List Byte) : (putNvm s a bs).looped = s.looped := rfl
@[simp] theorem putNvm_sendNext (a : Nat) (bs : List Byte) : (putNvm s a bs).sendNext = s.sendNext := rfl
@[simp] theorem putNvm_arrivals (a : Nat) (bs : List Byte) : (putNvm s a bs).arrivals = s.arrivals := rfl
@[simp] theorem putNvm_portTurn (a : Nat) (bs : List Byte) : (putNvm s a bs).portTurn = s.portTurn := rfl
@[simp] theorem putNvm_doneWrites (a : Nat) (bs : List Byte) : (putNvm s a bs).doneWrites = s.doneWrites := rfl
@[simp] theorem putNvm_awaited (a : Nat) (bs : List Byte) : (putNvm s a bs).awaited = s.awaited := rfl
@[simp] theorem putNvm_broadcasts (a : Nat) (bs : List Byte) : (putNvm s a bs).broadcasts = s.broadcasts := rfl
@[simp] theorem putNvm_remote (a : Nat) (bs : List Byte) : (putNvm s a bs).remote = s.remote := rfl
@[simp] theorem putNvm_nextTag (a : Nat) (bs : List Byte) : (putNvm s a bs).nextTag = s.nextTag := rfl
@[simp] theorem putNvm_lastRefusal (a : Nat) (bs : List Byte) : (putNvm s a bs).lastRefusal = s.lastRefusal := rfl
@[simp] theorem putNvm_lanes (a : Nat) (bs : List Byte) : (putNvm s a bs).lanes = s.lanes := rfl
@[simp] theorem putNvm_sync (a : Nat) (bs : List Byte) : (putNvm s a bs).sync = s.sync := rfl
@[simp] theorem putNvm_collTable (a : Nat) (bs : List Byte) : (putNvm s a bs).collTable = s.collTable := rfl
@[simp] theorem putNvm_hopErrors (a : Nat) (bs : List Byte) : (putNvm s a bs).hopErrors = s.hopErrors := rfl
@[simp] theorem putNvm_stateErrors (a : Nat) (bs : List Byte) : (putNvm s a bs).stateErrors = s.stateErrors := rfl
@[simp] theorem putNvm_metErrors (a : Nat) (bs : List Byte) : (putNvm s a bs).metErrors = s.metErrors := rfl
@[simp] theorem putNvm_tableReject (a : Nat) (bs : List Byte) : (putNvm s a bs).tableReject = s.tableReject := rfl
@[simp] theorem putNvm_collectives (a : Nat) (bs : List Byte) : (putNvm s a bs).collectives = s.collectives := rfl
@[simp] theorem putNvm_collFaulted (a : Nat) (bs : List Byte) : (putNvm s a bs).collFaulted = s.collFaulted := rfl
@[simp] theorem putNvm_lastCollFault (a : Nat) (bs : List Byte) : (putNvm s a bs).lastCollFault = s.lastCollFault := rfl
@[simp] theorem putNvm_collTurn (a : Nat) (bs : List Byte) : (putNvm s a bs).collTurn = s.collTurn := rfl
@[simp] theorem putNvm_heads (a : Nat) (bs : List Byte) : (putNvm s a bs).heads = s.heads := rfl
@[simp] theorem putNvm_units (a : Nat) (bs : List Byte) : (putNvm s a bs).units = s.units := rfl
@[simp] theorem putNvm_lastSolverFault (a : Nat) (bs : List Byte) : (putNvm s a bs).lastSolverFault = s.lastSolverFault := rfl
@[simp] theorem putNvm_host (a : Nat) (bs : List Byte) : (putNvm s a bs).host = s.host := rfl
@[simp] theorem putNvm_boot (a : Nat) (bs : List Byte) : (putNvm s a bs).boot = s.boot := rfl
@[simp] theorem putNvm_keeper (a : Nat) (bs : List Byte) : (putNvm s a bs).keeper = s.keeper := rfl
@[simp] theorem putNvm_driver (a : Nat) (bs : List Byte) : (putNvm s a bs).driver = s.driver := rfl
@[simp] theorem putNvm_nvmBusy (a : Nat) (bs : List Byte) : (putNvm s a bs).nvmBusy = s.nvmBusy := rfl
@[simp] theorem putNvm_nvmRefused (a : Nat) (bs : List Byte) : (putNvm s a bs).nvmRefused = s.nvmRefused := rfl
@[simp] theorem putNvm_power (a : Nat) (bs : List Byte) : (putNvm s a bs).power = s.power := rfl
@[simp] theorem putNvm_smbSelect (a : Nat) (bs : List Byte) : (putNvm s a bs).smbSelect = s.smbSelect := rfl
@[simp] theorem putNvm_guardLast (a : Nat) (bs : List Byte) : (putNvm s a bs).guardLast = s.guardLast := rfl
@[simp] theorem putNvm_out (a : Nat) (bs : List Byte) : (putNvm s a bs).out = s.out := rfl
@[simp] theorem putNvm_freeCtr (a : Nat) (bs : List Byte) : (putNvm s a bs).freeCtr = s.freeCtr := rfl
@[simp] theorem putNvm_tickPhase (a : Nat) (bs : List Byte) : (putNvm s a bs).tickPhase = s.tickPhase := rfl
@[simp] theorem putNvm_exchPhase (a : Nat) (bs : List Byte) : (putNvm s a bs).exchPhase = s.exchPhase := rfl
@[simp] theorem putNvm_cycles (a : Nat) (bs : List Byte) : (putNvm s a bs).cycles = s.cycles := rfl

@[simp] theorem setSlot_pending (k v : Nat) : (setSlot s k v).pending = s.pending := rfl
@[simp] theorem setSlot_mem (k v : Nat) : (setSlot s k v).mem = s.mem := rfl
@[simp] theorem setSlot_guard (k v : Nat) : (setSlot s k v).guard = s.guard := rfl
@[simp] theorem setSlot_scrubs (k v : Nat) : (setSlot s k v).scrubs = s.scrubs := rfl
@[simp] theorem setSlot_nvm (k v : Nat) : (setSlot s k v).nvm = s.nvm := rfl
@[simp] theorem setSlot_regs (k v : Nat) : (setSlot s k v).regs = s.regs := rfl
@[simp] theorem setSlot_blocks (k v : Nat) : (setSlot s k v).blocks = s.blocks := rfl
@[simp] theorem setSlot_latches (k v : Nat) : (setSlot s k v).latches = s.latches := rfl
@[simp] theorem setSlot_posted (k v : Nat) : (setSlot s k v).posted = s.posted := rfl
@[simp] theorem setSlot_heldAcks (k v : Nat) : (setSlot s k v).heldAcks = s.heldAcks := rfl
@[simp] theorem setSlot_waitingAccesses (k v : Nat) : (setSlot s k v).waitingAccesses = s.waitingAccesses := rfl
@[simp] theorem setSlot_time (k v : Nat) : (setSlot s k v).time = s.time := rfl
@[simp] theorem setSlot_pulseLast (k v : Nat) : (setSlot s k v).pulseLast = s.pulseLast := rfl
@[simp] theorem setSlot_readings (k v : Nat) : (setSlot s k v).readings = s.readings := rfl
@[simp] theorem setSlot_cores (k v : Nat) : (setSlot s k v).cores = s.cores := rfl
@[simp] theorem setSlot_forage (k v : Nat) : (setSlot s k v).forage = s.forage := rfl
@[simp] theorem setSlot_barriers (k v : Nat) : (setSlot s k v).barriers = s.barriers := rfl
@[simp] theorem setSlot_launches (k v : Nat) : (setSlot s k v).launches = s.launches := rfl
@[simp] theorem setSlot_ended (k v : Nat) : (setSlot s k v).ended = s.ended := rfl
@[simp] theorem setSlot_nextLaunch (k v : Nat) : (setSlot s k v).nextLaunch = s.nextLaunch := rfl
@[simp] theorem setSlot_disables (k v : Nat) : (setSlot s k v).disables = s.disables := rfl
@[simp] theorem setSlot_slotRejected (k v : Nat) : (setSlot s k v).slotRejected = s.slotRejected := rfl
@[simp] theorem setSlot_dma (k v : Nat) : (setSlot s k v).dma = s.dma := rfl
@[simp] theorem setSlot_dmaRejected (k v : Nat) : (setSlot s k v).dmaRejected = s.dmaRejected := rfl
@[simp] theorem setSlot_dmaOn (k v : Nat) : (setSlot s k v).dmaOn = s.dmaOn := rfl
@[simp] theorem setSlot_dispatches (k v : Nat) : (setSlot s k v).dispatches = s.dispatches := rfl
@[simp] theorem setSlot_heldMessages (k v : Nat) : (setSlot s k v).heldMessages = s.heldMessages := rfl
@[simp] theorem setSlot_lastDispatchFault (k v : Nat) : (setSlot s k v).lastDispatchFault = s.lastDispatchFault := rfl
@[simp] theorem setSlot_chains (k v : Nat) : (setSlot s k v).chains = s.chains := rfl
@[simp] theorem setSlot_poolQueue (k v : Nat) : (setSlot s k v).poolQueue = s.poolQueue := rfl
@[simp] theorem setSlot_poolOver (k v : Nat) : (setSlot s k v).poolOver = s.poolOver := rfl
@[simp] theorem setSlot_reservations (k v : Nat) : (setSlot s k v).reservations = s.reservations := rfl
@[simp] theorem setSlot_nextPool (k v : Nat) : (setSlot s k v).nextPool = s.nextPool := rfl
@[simp] theorem setSlot_freedHeads (k v : Nat) : (setSlot s k v).freedHeads = s.freedHeads := rfl
@[simp] theorem setSlot_cacheLines (k v : Nat) : (setSlot s k v).cacheLines = s.cacheLines := rfl
@[simp] theorem setSlot_reserved (k v : Nat) : (setSlot s k v).reserved = s.reserved := rfl
@[simp] theorem setSlot_wcb (k v : Nat) : (setSlot s k v).wcb = s.wcb := rfl
@[simp] theorem setSlot_pcDir (k v : Nat) : (setSlot s k v).pcDir = s.pcDir := rfl
@[simp] theorem setSlot_margins (k v : Nat) : (setSlot s k v).margins = s.margins := rfl
@[simp] theorem setSlot_windows (k v : Nat) : (setSlot s k v).windows = s.windows := rfl
@[simp] theorem setSlot_windowRejected (k v : Nat) : (setSlot s k v).windowRejected = s.windowRejected := rfl
@[simp] theorem setSlot_rankCache (k v : Nat) : (setSlot s k v).rankCache = s.rankCache := rfl
@[simp] theorem setSlot_deferred (k v : Nat) : (setSlot s k v).deferred = s.deferred := rfl
@[simp] theorem setSlot_messages (k v : Nat) : (setSlot s k v).messages = s.messages := rfl
@[simp] theorem setSlot_looped (k v : Nat) : (setSlot s k v).looped = s.looped := rfl
@[simp] theorem setSlot_sendNext (k v : Nat) : (setSlot s k v).sendNext = s.sendNext := rfl
@[simp] theorem setSlot_arrivals (k v : Nat) : (setSlot s k v).arrivals = s.arrivals := rfl
@[simp] theorem setSlot_portTurn (k v : Nat) : (setSlot s k v).portTurn = s.portTurn := rfl
@[simp] theorem setSlot_doneWrites (k v : Nat) : (setSlot s k v).doneWrites = s.doneWrites := rfl
@[simp] theorem setSlot_awaited (k v : Nat) : (setSlot s k v).awaited = s.awaited := rfl
@[simp] theorem setSlot_broadcasts (k v : Nat) : (setSlot s k v).broadcasts = s.broadcasts := rfl
@[simp] theorem setSlot_remote (k v : Nat) : (setSlot s k v).remote = s.remote := rfl
@[simp] theorem setSlot_nextTag (k v : Nat) : (setSlot s k v).nextTag = s.nextTag := rfl
@[simp] theorem setSlot_lastRefusal (k v : Nat) : (setSlot s k v).lastRefusal = s.lastRefusal := rfl
@[simp] theorem setSlot_lanes (k v : Nat) : (setSlot s k v).lanes = s.lanes := rfl
@[simp] theorem setSlot_sync (k v : Nat) : (setSlot s k v).sync = s.sync := rfl
@[simp] theorem setSlot_collTable (k v : Nat) : (setSlot s k v).collTable = s.collTable := rfl
@[simp] theorem setSlot_hopErrors (k v : Nat) : (setSlot s k v).hopErrors = s.hopErrors := rfl
@[simp] theorem setSlot_stateErrors (k v : Nat) : (setSlot s k v).stateErrors = s.stateErrors := rfl
@[simp] theorem setSlot_metErrors (k v : Nat) : (setSlot s k v).metErrors = s.metErrors := rfl
@[simp] theorem setSlot_tableReject (k v : Nat) : (setSlot s k v).tableReject = s.tableReject := rfl
@[simp] theorem setSlot_collectives (k v : Nat) : (setSlot s k v).collectives = s.collectives := rfl
@[simp] theorem setSlot_collFaulted (k v : Nat) : (setSlot s k v).collFaulted = s.collFaulted := rfl
@[simp] theorem setSlot_lastCollFault (k v : Nat) : (setSlot s k v).lastCollFault = s.lastCollFault := rfl
@[simp] theorem setSlot_collTurn (k v : Nat) : (setSlot s k v).collTurn = s.collTurn := rfl
@[simp] theorem setSlot_heads (k v : Nat) : (setSlot s k v).heads = s.heads := rfl
@[simp] theorem setSlot_units (k v : Nat) : (setSlot s k v).units = s.units := rfl
@[simp] theorem setSlot_lastSolverFault (k v : Nat) : (setSlot s k v).lastSolverFault = s.lastSolverFault := rfl
@[simp] theorem setSlot_host (k v : Nat) : (setSlot s k v).host = s.host := rfl
@[simp] theorem setSlot_boot (k v : Nat) : (setSlot s k v).boot = s.boot := rfl
@[simp] theorem setSlot_keeper (k v : Nat) : (setSlot s k v).keeper = s.keeper := rfl
@[simp] theorem setSlot_driver (k v : Nat) : (setSlot s k v).driver = s.driver := rfl
@[simp] theorem setSlot_nvmBusy (k v : Nat) : (setSlot s k v).nvmBusy = s.nvmBusy := rfl
@[simp] theorem setSlot_nvmRefused (k v : Nat) : (setSlot s k v).nvmRefused = s.nvmRefused := rfl
@[simp] theorem setSlot_power (k v : Nat) : (setSlot s k v).power = s.power := rfl
@[simp] theorem setSlot_smbSelect (k v : Nat) : (setSlot s k v).smbSelect = s.smbSelect := rfl
@[simp] theorem setSlot_guardLast (k v : Nat) : (setSlot s k v).guardLast = s.guardLast := rfl
@[simp] theorem setSlot_out (k v : Nat) : (setSlot s k v).out = s.out := rfl
@[simp] theorem setSlot_freeCtr (k v : Nat) : (setSlot s k v).freeCtr = s.freeCtr := rfl
@[simp] theorem setSlot_tickPhase (k v : Nat) : (setSlot s k v).tickPhase = s.tickPhase := rfl
@[simp] theorem setSlot_exchPhase (k v : Nat) : (setSlot s k v).exchPhase = s.exchPhase := rfl
@[simp] theorem setSlot_cycles (k v : Nat) : (setSlot s k v).cycles = s.cycles := rfl

/-! ### Reads after writes -/

variable {s : State}

theorem regKey_inj {b b' o o' : Nat} (h : o < 4096) (h' : o' < 4096) : regKey b o = regKey b' o' ↔ b = b' ∧ o = o' := by
  simp only [regKey]; omega

/-- A register reads what was written, within 64 bits. -/
theorem getReg_setReg (h : twf 0 s.regs = true) (b o b' o' v : Nat) (hv : v < 2 ^ 64) :
    getReg (setReg s b o v) b' o' = if regKey b' o' = regKey b o then v else getReg s b' o' := by
  simp only [getReg, setReg, tget_tset h]
  split
  · rename_i hk
    have hd : regDefault (regKey b o) < 2 ^ 64 := by
      simp only [regDefault]; repeat' split
      all_goals decide
    have : Nat.xor v (regDefault (regKey b o)) < 2 ^ 64 := Nat.xor_lt_two_pow hv hd
    rw [hk, BitVec.toNat_ofNat, Nat.mod_eq_of_lt this]
    show (v ^^^ _) ^^^ _ = v
    rw [Nat.xor_assoc, Nat.xor_self, Nat.xor_zero]
  · rfl

theorem blk_setBlk (h : twf {} s.blocks = true) (b b' : Nat) (v : BlockStatus) : blk (setBlk s b v) b' = if b' = b then v else blk s b' := by
  simp only [blk, setBlk]; exact tget_tset h b b' v

theorem getCore_setCore (n m : Nat) (c : Core) (h : n < s.cores.length) : getCore (setCore s n c) m = if m = n then c else getCore s m := by
  simp only [getCore, setCore]
  split
  · rename_i hm; subst hm; simp [h]
  · rename_i hm; rw [List.getElem?_set_ne (Ne.symm hm)]

theorem getCore_modCore (n m : Nat) (f : Core → Core) (h : n < s.cores.length) :
    getCore (modCore s n f) m = if m = n then f (getCore s n) else getCore s m := getCore_setCore n m _ h

@[simp] theorem setCore_setCore (n : Nat) (c d : Core) : setCore (setCore s n c) n d = setCore s n d := by
  simp only [setCore, List.set_set]

theorem setCore_getCore (n : Nat) : setCore s n (getCore s n) = s := by
  simp only [setCore, getCore]
  cases h : s.cores[n]? with
  | none => rw [List.set_eq_of_length_le (by simpa using h)]
  | some c =>
    obtain ⟨hn, rfl⟩ := List.getElem?_eq_some_iff.mp h
    simp

theorem modCore_modCore (n : Nat) (f g : Core → Core) (h : n < s.cores.length) : modCore (modCore s n f) n g = modCore s n (fun c => g (f c)) := by
  simp only [modCore, getCore_setCore n n _ h, if_true, setCore_setCore]

theorem modCore_id (n : Nat) (f : Core → Core) (h : f (getCore s n) = getCore s n) : modCore s n f = s := by
  rw [modCore, h, setCore_getCore]

@[simp] theorem setCore_cores_length (n : Nat) (c : Core) : (setCore s n c).cores.length = s.cores.length := by simp [setCore]

@[simp] theorem modCore_cores_length (n : Nat) (f : Core → Core) : (modCore s n f).cores.length = s.cores.length := by simp [modCore]

theorem getLane_setLane (l m : Nat) (x : Lane) (h : l < s.lanes.length) : getLane (setLane s l x) m = if m = l then x else getLane s m := by
  simp only [getLane, setLane]
  split
  · rename_i hm; subst hm; simp [h]
  · rename_i hm; rw [List.getElem?_set_ne (Ne.symm hm)]

theorem getJob_setJob (c k : Nat) (j : Option DmaJob) (h : c < s.dma.length) : getJob (setJob s c j) k = if k = c then j else getJob s k := by
  simp only [getJob, setJob]
  split
  · rename_i hm; subst hm; simp [h]
  · rename_i hm; rw [List.getElem?_set_ne (Ne.symm hm)]

end Sys2Proof.Machine
end

