-- ==== Sys2Proof/Laws/Cores.lean ====
section
/-! SUPPORT. A core cycle of a core that has nothing on its way: what the cycle's reads and writes do then. -/

namespace Sys2Proof.Machine

variable {s : State} {n : Nat}

/-- The events of a core all lie after its current cycle. -/
def Later (c : Core) : Prop := ∀ e ∈ c.events, c.cycle < e.1

theorem dueEvents_later {c : Core} (h : Later c) : dueEvents c = [] := by
  simp only [dueEvents, List.map_eq_nil_iff, List.filter_eq_nil_iff]
  intro e he
  have := h e he
  simp; omega

theorem flatMap_later {α : Type} {c : Core} (h : Later c) (f : Nat × CoreEvent → List α) :
    c.events.flatMap (fun e => if e.1 ≠ c.cycle then [] else f e) = [] := by
  simp only [List.flatMap_eq_nil_iff]
  intro e he
  have := h e he
  rw [if_pos (by omega)]

theorem staticReads_calm {c : Core} (h : Later c) (hp : c.passes = []) : staticReads c = [] := by
  simp only [staticReads, hp, List.flatMap_nil, List.append_nil]
  exact flatMap_later h _

theorem staticWrites_calm {c : Core} (h : Later c) : staticWrites c = [] := flatMap_later h _

theorem writeHazards_calm {c : Core} (h : Later c) (m : Nat) : writeHazards c m = [] := flatMap_later h _

theorem conflictHalt_calm {c : Core} (h : Later c) (hp : c.passes = []) : conflictHalt c = none := by
  simp [conflictHalt, staticReads_calm h hp, staticWrites_calm h, bankConflict]

theorem runVectors_calm {c : Core} (hp : c.passes = []) (hl : c.nextLoaded = []) : runVectors c = c := by
  obtain ⟨⟩ := c
  simp only at hp hl
  subst hp hl
  rfl

/-- Nothing is read in a cycle in which nothing is due. -/
theorem cycleReads_calm {f : Found} (h : Later (getCore f.2 n)) (hp : (getCore f.2 n).passes = []) (hl : (getCore f.2 n).nextLoaded = []) :
    cycleReads n f = f := by
  simp only [cycleReads, conflictHalt_calm h hp, dueEvents_later h, hp, List.foldl_nil, List.map_nil, writeHazards_calm h, List.append_nil]
  rw [modCore_id n runVectors (runVectors_calm hp hl)]

theorem applyHead_calm (hq : (getCore s n).queues = []) (b : Nat) : applyHead s n b = s := by
  simp [applyHead, hq]

theorem foldl_fixed {α β : Type} (f : β → α → β) (b : β) (l : List α) (h : ∀ a ∈ l, f b a = b) : l.foldl f b = b := by
  induction l with
  | nil => rfl
  | cons a l ih =>
    rw [List.foldl_cons, h a (by simp)]
    exact ih (fun x hx => h x (List.mem_cons_of_mem _ hx))

theorem headBanks_calm {c : Core} (hq : c.queues = []) (busy : List Nat) : headBanks c busy = [] := by
  simp [headBanks, hq]

theorem usePorts_usePorts (hn : n < s.cores.length) (xs ys : List (Nat × Nat × Nat)) : usePorts (usePorts s n xs) n ys = usePorts s n (xs ++ ys) := by
  have e : (usePorts s n xs).cycles = s.cycles := rfl
  have g : portsNow (usePorts s n xs) (getCore (usePorts s n xs) n) = portsNow s (getCore s n) ++ xs := by
    simp [portsNow, usePorts, getCore_modCore _ _ _ hn]
  rw [usePorts, e]
  simp only [modCore, g]
  simp [usePorts, modCore, getCore_setCore _ _ _ hn]

theorem usePorts_clear (hn : n < s.cores.length) : usePorts (clearPorts s n) n [] = clearPorts s n := by
  have e : (clearPorts s n).cycles = s.cycles := rfl
  have g : portsNow (clearPorts s n) (getCore (clearPorts s n) n) = [] := by
    simp [portsNow, clearPorts, getCore_modCore _ _ _ hn]
  rw [usePorts, e]
  simp only [modCore, g]
  simp [clearPorts, modCore, getCore_setCore _ _ _ hn]

theorem applyHeads_calm (hq : (getCore s n).queues = []) (busy : List Nat) : applyHeads s n busy = usePorts s n [] := by
  simp [applyHeads, headBanks_calm hq]

theorem joinWaiting_calm (hw : (getCore s n).waiting = []) : joinWaiting s n = s := by
  simp only [joinWaiting]
  exact foldl_fixed _ _ _ (fun b _ => by simp [hw])

theorem mover_filter {x : Mover} (h : x.moves = []) (p : Move → Bool) : { x with moves := x.moves.filter p } = x := by
  cases x
  simp only at h
  simp [h]

theorem dropMoves_calm {c : Core} (h0 : c.mover0.moves = []) (h1 : c.mover1.moves = []) : dropMoves c = c := by
  simp only [dropMoves, mover_filter h0, mover_filter h1]

/-- Nothing is written in a cycle in which nothing is due: the core's cycle count moves on. -/
theorem cycleWrites_calm (h : Later (getCore s n)) (hn : n < s.cores.length) (hp : (getCore s n).passes = []) (hq : (getCore s n).queues = [])
    (hw : (getCore s n).waiting = []) :
    cycleWrites s n = modCore s n (fun c => dropMoves { c with ports := portsNow s c, portsAt := s.cycles, cycle := c.cycle + 1 }) := by
  have q : (getCore (usePorts s n []) n).queues = [] := by simp [usePorts, getCore_modCore _ _ _ hn, hq]
  have w : (getCore (usePorts s n []) n).waiting = [] := by simp [usePorts, getCore_modCore _ _ _ hn, hw]
  have e : (getCore s n).events.filter (fun e => decide ((getCore s n).cycle < e.1)) = (getCore s n).events := by
    rw [List.filter_eq_self]
    intro e he
    simpa using h e he
  simp only [cycleWrites, dueEvents_later h, List.foldl_nil, staticReads_calm h hp, staticWrites_calm h, List.append_nil, List.flatMap_nil, List.eraseDups_nil,
    List.map_nil, List.filter_nil]
  rw [applyHeads_calm q, usePorts_usePorts hn, List.append_nil, joinWaiting_calm w, usePorts, modCore_modCore _ _ _ hn]
  simp only [modCore, List.append_nil]
  congr 2
  simp only [e]

theorem requestLine_calm (m : Nat) (h : (getMover (getCore s n) m).moves = []) : requestLine s n m = s := by
  simp [requestLine, h]

theorem still_fields {c : Core} (h : Still c) :
    c.run = .running ∧ c.ended = false ∧ c.brk = none ∧ c.breakRequest = none ∧ c.events = [] ∧ c.passes = [] ∧ c.nextLoaded = [] ∧
      c.queues = [] ∧ c.waiting = [] ∧ c.mover0.moves = [] ∧ c.mover1.moves = [] ∧ c.mover0.lines = [] ∧ c.mover1.lines = [] ∧ isCsf1 c = false ∧
      c.fileErrors = [] := by
  obtain ⟨h1, h2, h3, h4, h5, h6, h7⟩ := h
  simp only [mayIssue, quiescent, moverIdle, Bool.and_eq_true, List.isEmpty_iff, Bool.not_eq_true', Option.isNone_iff_eq_none, beq_iff_eq] at h1 h2
  simp_all

/-- A core with nothing on its way is not frozen. -/
theorem still_not_frozen {c : Core} (h : Still c) : coreFrozen c = false := by
  have := still_fields h
  simp [coreFrozen, creditFreeze, xlateFreeze, accFreeze, moverStalls, this]

theorem getCore_clear (hn : n < s.cores.length) : getCore (clearPorts s n) n = { getCore s n with ports := [], portsAt := s.cycles } := by
  simp [clearPorts, getCore_modCore _ _ _ hn]

/-- Reads of undamaged internal files find nothing. -/
theorem meetFiles_none {xs : List (Nat × Nat × Nat)} {pc : Nat} (h : (getCore s n).fileErrors = []) : meetFiles s n pc xs = ([], s) :=
  foldl_fixed _ _ _ (fun x _ => by simp [meetFile, h])

/-- A still core stays still when its cycle begins. -/
theorem still_clear (hn : n < s.cores.length) (h : Still (getCore s n)) : Still (getCore (clearPorts s n) n) := by
  rw [getCore_clear hn]; exact h

/-- The cycle of a still core that is given a bundle: the bundle's effects, the reads and the writes of the cycle. -/
theorem coreCycle_still (hn : n < s.cores.length) (h : Still (getCore s n)) (src : Source) :
    coreCycle s n src =
      match cycleReads n (issueFrom (clearPorts s n) n src) with
      | ([], s) => cycleWrites s n
      | (hs, s) => haltAmong s n hs := by
  have hf := still_fields h
  have hf' := still_fields (still_clear hn h)
  have hr : requestLine (requestLine (clearPorts s n) n 0) n 1 = clearPorts s n := by
    rw [requestLine_calm 0 (by simp only [getMover, hf', if_true]), requestLine_calm 1 (by simp [getMover, hf'])]
  have he : cycleReads n ([], clearPorts s n) = ([], clearPorts s n) :=
    cycleReads_calm (by simp only [Later, hf']; simp) hf'.2.2.2.2.2.1 hf'.2.2.2.2.2.2.1
  simp only [coreCycle, hf.1, true_or, if_true, hr, still_not_frozen (still_clear hn h), he]
  rfl

end Sys2Proof.Machine
end

