-- ==== Sys2Proof/Laws/Ops.lean ====
section
/-! SUPPORT. What each operation on local memory and its bookkeeping can do: it keeps the canonical form, and it leaves everything alone but memory, codes, registers, the log
ring and the caches' and buffers' books. -/

namespace Sys2Proof.Machine

/-- The state without what operations on memory may change. -/
def aside (s : State) : State :=
  { s with mem := [], guard := [], scrubs := [], regs := [], readings := [], reserved := [], rankCache := [], wcb := [], pcDir := [], cacheLines := [],
           freeCtr := 0, guardLast := 0, posted := [], hopErrors := [], metErrors := [] }

/-- A step from s to t that only an operation on memory makes: the rest of the state is as before, and the canonical form is kept. -/
structure Tidy (s t : State) : Prop where
  rest : aside t = aside s
  wf : Memory.wf s = true → Memory.wf t = true

theorem Tidy.refl (s : State) : Tidy s s := ⟨rfl, id⟩

theorem Tidy.trans {s t u : State} (h : Tidy s t) (g : Tidy t u) : Tidy s u := ⟨g.rest.trans h.rest, fun w => g.wf (h.wf w)⟩

theorem Tidy.cores {s t : State} (h : Tidy s t) : t.cores = s.cores := (congrArg State.cores h.rest :)
theorem Tidy.nvm {s t : State} (h : Tidy s t) : t.nvm = s.nvm := (congrArg State.nvm h.rest :)
theorem Tidy.blocks {s t : State} (h : Tidy s t) : t.blocks = s.blocks := (congrArg State.blocks h.rest :)
theorem Tidy.time {s t : State} (h : Tidy s t) : t.time = s.time := (congrArg State.time h.rest :)
theorem Tidy.dma {s t : State} (h : Tidy s t) : t.dma = s.dma := (congrArg State.dma h.rest :)
theorem Tidy.dispatches {s t : State} (h : Tidy s t) : t.dispatches = s.dispatches := (congrArg State.dispatches h.rest :)
theorem Tidy.collectives {s t : State} (h : Tidy s t) : t.collectives = s.collectives := (congrArg State.collectives h.rest :)
theorem Tidy.units {s t : State} (h : Tidy s t) : t.units = s.units := (congrArg State.units h.rest :)
theorem Tidy.heads {s t : State} (h : Tidy s t) : t.heads = s.heads := (congrArg State.heads h.rest :)
theorem Tidy.lanes {s t : State} (h : Tidy s t) : t.lanes = s.lanes := (congrArg State.lanes h.rest :)
theorem Tidy.forage {s t : State} (h : Tidy s t) : t.forage = s.forage := (congrArg State.forage h.rest :)
theorem Tidy.chains {s t : State} (h : Tidy s t) : t.chains = s.chains := (congrArg State.chains h.rest :)
theorem Tidy.host {s t : State} (h : Tidy s t) : t.host = s.host := (congrArg State.host h.rest :)
theorem Tidy.boot {s t : State} (h : Tidy s t) : t.boot = s.boot := (congrArg State.boot h.rest :)
theorem Tidy.keeper {s t : State} (h : Tidy s t) : t.keeper = s.keeper := (congrArg State.keeper h.rest :)
theorem Tidy.driver {s t : State} (h : Tidy s t) : t.driver = s.driver := (congrArg State.driver h.rest :)
theorem Tidy.power {s t : State} (h : Tidy s t) : t.power = s.power := (congrArg State.power h.rest :)
theorem Tidy.out {s t : State} (h : Tidy s t) : t.out = s.out := (congrArg State.out h.rest :)
theorem Tidy.pending {s t : State} (h : Tidy s t) : t.pending = s.pending := (congrArg State.pending h.rest :)
theorem Tidy.steward {s t : State} (h : Tidy s t) : t.steward = s.steward := (congrArg State.steward h.rest :)

theorem wf_iff {s : State} : Memory.wf s = true ↔ twf 0 s.mem = true ∧ twf 0 s.guard = true ∧ twf 0xFF s.nvm = true ∧ twf 0 s.regs = true := by
  simp [Memory.wf, and_assoc]

theorem tidy_ite {p : Prop} [Decidable p] {s t u : State} (h : Tidy s t) (g : Tidy s u) : Tidy s (if p then t else u) := by
  split
  · exact h
  · exact g

/-- Updates of the books alone. -/
theorem Tidy.books {s t : State} (h : aside t = aside s) (hm : t.mem = s.mem) (hg : t.guard = s.guard) (hn : t.nvm = s.nvm) (hr : t.regs = s.regs) : Tidy s t :=
  ⟨h, fun w => by rw [wf_iff] at *; rw [hm, hg, hn, hr]; exact w⟩

theorem tidy_foldl {β : Type} {f : State → β → State} (h : ∀ s b, Tidy s (f s b)) (l : List β) (s : State) : Tidy s (l.foldl f s) := by
  induction l generalizing s with
  | nil => exact .refl s
  | cons b l ih => exact (h s b).trans (ih _)

theorem tidy_foldl_snd {α β : Type} {f : α × State → β → α × State} (h : ∀ a s b, Tidy s (f (a, s) b).2) (l : List β) (a : α) (s : State) :
    Tidy s (l.foldl f (a, s)).2 := by
  induction l generalizing a s with
  | nil => exact .refl s
  | cons b l ih => simpa using (h a s b).trans (ih (f (a, s) b).1 (f (a, s) b).2)

theorem tidy_foldl_fst {α β : Type} {f : State × α → β → State × α} (h : ∀ a s b, Tidy s (f (s, a) b).1) (l : List β) (a : α) (s : State) :
    Tidy s (l.foldl f (s, a)).1 := by
  induction l generalizing a s with
  | nil => exact .refl s
  | cons b l ih => simpa using (h a s b).trans (ih (f (s, a) b).2 (f (s, a) b).1)

/-! ### Registers, counters, readings -/

theorem setReg_tidy (s : State) (b off v : Nat) : Tidy s (setReg s b off v) :=
  ⟨rfl, fun w => by rw [wf_iff] at *; exact ⟨w.1, w.2.1, w.2.2.1, twf_tset w.2.2.2 _ _⟩⟩

theorem countN_tidy (s : State) (b off w n : Nat) : Tidy s (countN s b off w n) := by
  unfold countN; split
  · exact .refl s
  · exact setReg_tidy ..

theorem count_tidy (s : State) (b off w : Nat) : Tidy s (count s b off w) := countN_tidy ..

theorem countFault_tidy (s : State) (lo : Nat) : Tidy s (countFault s lo) := setReg_tidy ..

theorem readTime_tidy (s : State) (u : Nat) : Tidy s (readTime s u).2 := .books rfl rfl rfl rfl rfl

theorem fresh_tidy (s : State) : Tidy s (fresh s).2 := .books rfl rfl rfl rfl rfl

/-! ### Bytes and granules -/

theorem putBytes_tidy (s : State) (a : Nat) (bs : List Byte) : Tidy s (putBytes s a bs) :=
  ⟨rfl, fun w => by rw [wf_iff] at *; exact ⟨twf_tsetList w.1 _ _, w.2⟩⟩

theorem touchGranule_tidy (s : State) (g : Nat) : Tidy s (touchGranule s g) := .books rfl rfl rfl rfl rfl

theorem storeGranule_tidy (s : State) (g : Nat) (bs : List Byte) (p : Bool) : Tidy s (storeGranule s g bs p) :=
  ((touchGranule_tidy s g).trans (putBytes_tidy _ (32 * g) bs)).trans
    ⟨rfl, fun w => by rw [wf_iff] at *; exact ⟨w.1, twf_tset w.2.1 _ _, w.2.2⟩⟩

theorem storePart_tidy (s : State) (g off : Nat) (bs : List Byte) : Tidy s (storePart s g off bs) := by
  unfold storePart; split
  · exact (putBytes_tidy ..).trans (touchGranule_tidy ..)
  · exact storeGranule_tidy ..
  · exact storeGranule_tidy ..

theorem storeBytes_tidy (s : State) (g off : Nat) (bs : List Byte) (p : Bool) : Tidy s (storeBytes s g off bs p) := by
  unfold storeBytes; split
  · exact storeGranule_tidy ..
  · split
    · exact (storePart_tidy ..).trans (storeGranule_tidy ..)
    · exact storePart_tidy ..

theorem logEntry_tidy (s : State) (b c code d : Nat) : Tidy s (logEntry s b c code d) := by
  unfold logEntry
  dsimp only
  split
  · exact count_tidy ..
  · exact ((readTime_tidy s KEEPER).trans (storeGranule_tidy ..)).trans (setReg_tidy ..)

theorem noteUnmapped_tidy (m : Master) (s : State) (a : Nat) : Tidy s (noteUnmapped m s a) := (countFault_tidy ..).trans (logEntry_tidy ..)

theorem notePoisonConsumed_tidy (s : State) (b a u : Nat) : Tidy s (notePoisonConsumed s b a u) := logEntry_tidy ..

theorem guardLast_tidy (s : State) (v : Word64) : Tidy s { s with guardLast := v } := .books rfl rfl rfl rfl rfl

theorem noteUncorr_tidy (s : State) (p b g : Nat) : Tidy s (noteUncorr s p b g) := by
  unfold noteUncorr
  dsimp only
  exact (((count_tidy ..).trans (count_tidy ..)).trans (guardLast_tidy _ _)).trans (logEntry_tidy ..)

theorem noteCorr_tidy (s : State) (p : Nat) : Tidy s (noteCorr s p) := (count_tidy ..).trans (count_tidy ..)

theorem scrubs_tidy (s : State) (x : List (Nat × Bool)) : Tidy s { s with scrubs := x } := .books rfl rfl rfl rfl rfl

theorem met_tidy (s : State) (x : List (Nat × Bool)) (y : List (Nat × Nat)) : Tidy s { s with scrubs := x, metErrors := y } := .books rfl rfl rfl rfl rfl

theorem noteCheck_tidy (s : State) (g : Nat) (r : Guard) : Tidy s (noteCheck s g r) := by
  cases r with
  | clean => exact .refl s
  | poison => exact .refl s
  | corrected e => exact (noteCorr_tidy ..).trans (scrubs_tidy _ _)
  | uncorrectable => exact tidy_ite (.refl s) ((met_tidy _ _ _).trans (noteUncorr_tidy ..))

/-! ### The books of HBM, the shared cache and the write-combining buffers -/

theorem stackAccess_tidy (s : State) (a : Nat) (w r : Bool) : Tidy s (stackAccess s a w r) := by
  have ite : ∀ (p : Prop) [Decidable p] (x : State) (k o : Nat), Tidy x (if p then count x k o 48 else x) := by
    intro p _ x k o; split
    · exact count_tidy ..
    · exact .refl x
  unfold stackAccess
  exact (((count_tidy ..).trans (ite ..)).trans (ite ..)).trans (.books rfl rfl rfl rfl rfl)

theorem wcb_tidy (s : State) (w : List WcbEntry) : Tidy s { s with wcb := w } := .books rfl rfl rfl rfl rfl

theorem batchAccess_tidy (p : State × OpenRows) (a : Nat) (w : Bool) : Tidy p.1 (batchAccess p a w).1 := stackAccess_tidy ..

theorem drainGranule_tidy (k : Nat) (e : WcbEntry) (p : State × OpenRows) (i : Nat) : Tidy p.1 (drainGranule k e p i).1 := by
  unfold drainGranule
  dsimp only
  split
  · exact .refl _
  · split
    · exact batchAccess_tidy ..
    · refine Tidy.trans ?_ (batchAccess_tidy ..)
      exact (batchAccess_tidy ..).trans (count_tidy ..)

theorem drainBatch_tidy (s : State) (k pc : Nat) : Tidy s (drainBatch s k pc) := by
  unfold drainBatch
  refine Tidy.trans ?_ (wcb_tidy _ _)
  exact tidy_foldl_fst (fun rows s e => tidy_foldl_fst (fun rows s i => drainGranule_tidy k e (s, rows) i) _ rows s) _ _ s

theorem stackReads_tidy (s : State) (as : List Nat) (r : Bool) : Tidy s (stackReads s as r) :=
  tidy_foldl_fst (fun r s a => by dsimp only; split; exacts [.refl s, stackAccess_tidy ..]) as r s

theorem lines_tidy (s : State) (w : List (Nat × Bool)) : Tidy s { s with cacheLines := w } := .books rfl rfl rfl rfl rfl

theorem wcbWrite_tidy (s : State) (a off len : Nat) : Tidy s (wcbWrite s a off len) := by
  unfold wcbWrite
  dsimp only
  split
  · exact wcb_tidy ..
  · refine Tidy.trans ?_ (wcb_tidy ..)
    split
    · exact .refl s
    · split
      · exact drainBatch_tidy ..
      · exact .refl s

theorem evictLine_tidy (s : State) (l : Nat) (d : Bool) : Tidy s (evictLine s l d) := by
  unfold evictLine
  dsimp only
  have h : Tidy s { s with cacheLines := s.cacheLines.filter (fun x => x.1 != l), reserved := s.reserved.filter (fun r => r.2 != l + 1) } := .books rfl rfl rfl rfl rfl
  split
  · exact (h.trans (count_tidy ..)).trans (wcbWrite_tidy ..)
  · exact h

theorem allocLine_tidy (s : State) (l : Nat) (d : Bool) : Tidy s (allocLine s l d) := by
  unfold allocLine
  dsimp only
  refine tidy_ite (.refl s) (Tidy.trans (tidy_ite (.refl s) ((fresh_tidy s).trans ?_)) (lines_tidy ..))
  generalize (fresh s).2 = t
  generalize (if s.cacheLines.isEmpty = true then [] else s.cacheLines.filter (fun x => Config.cacheSet x.1 == Config.cacheSet l)) = mine
  split
  · exact evictLine_tidy ..
  · exact .refl _

theorem hit_tidy (p : Prop) [Decidable p] (s : State) (o : Nat) : Tidy s (if p then count s SCACHE o 48 else s) := tidy_ite (count_tidy ..) (.refl s)

theorem hbmReadNote_tidy (s : State) (a : Nat) (f at' : Bool) : Tidy s (hbmReadNote s a f at') :=
  tidy_ite (tidy_ite (hit_tidy ..) ((hit_tidy ..).trans (tidy_ite ((stackReads_tidy ..).trans (allocLine_tidy ..)) (stackReads_tidy ..)))) (stackReads_tidy ..)

theorem hbmWriteNote_tidy (s : State) (a off len : Nat) (f at' : Bool) : Tidy s (hbmWriteNote s a off len f at') :=
  tidy_ite (tidy_ite ((hit_tidy ..).trans (lines_tidy ..))
    ((hit_tidy ..).trans (tidy_ite ((stackReads_tidy ..).trans (allocLine_tidy ..)) (wcbWrite_tidy ..)))) (wcbWrite_tidy ..)

/-! ### Reads and writes by a master, and completion records -/

theorem readGranule_tidy (s : State) (g : Nat) (f : Bool) : Tidy s (readGranule s g f).2.2 := by
  unfold readGranule
  dsimp only
  split
  · split
    · exact count_tidy ..
    · exact (hbmReadNote_tidy ..).trans (noteCheck_tidy ..)
  · exact .refl s
  · exact noteCheck_tidy ..

theorem hopErrors_tidy (s : State) (x : List (Nat × Nat × BitVec 32)) : Tidy s { s with hopErrors := x } := .books rfl rfl rfl rfl rfl

theorem crossHop_tidy (g : Nat) (p : Guard × State) (point : Nat) : Tidy p.2 (crossHop g p point).2 := by
  unfold crossHop
  split
  · exact .refl _
  · dsimp only
    split
    · exact (hopErrors_tidy p.2 _).trans (noteCorr_tidy ..)
    · exact (hopErrors_tidy p.2 _).trans (noteUncorr_tidy ..)
    · exact hopErrors_tidy p.2 _
    · exact hopErrors_tidy p.2 _

/-- A granule on its way changes the counters and the log alone. -/
theorem crossHops_tidy (m : Master) (s : State) (g : Nat) (r : Guard) : Tidy s (crossHops m s g r).2 := by
  unfold crossHops
  split
  · exact .refl s
  · exact tidy_foldl_snd (fun r s p => crossHop_tidy g (r, s) p) _ r s

theorem crossHops_none {m : Master} {s : State} (g : Nat) (r : Guard) (h : s.hopErrors = []) : crossHops m s g r = (r, s) := by
  simp [crossHops, h]

theorem noteTimeRead_tidy (s : State) (b off n : Nat) : Tidy s (noteTimeRead s b off n) := by
  unfold noteTimeRead
  split
  · exact .books rfl rfl rfl rfl rfl
  · exact .refl s

theorem readSpan_tidy (m : Master) (s : State) (a n : Nat) : Tidy s (readSpan m s a n).2 := by
  unfold readSpan
  refine tidy_foldl_snd (fun rd s p => ?_) _ _ _
  dsimp only
  split
  · split
    · exact .refl s
    · exact noteUnmapped_tidy ..
  · exact noteTimeRead_tidy ..
  · exact (readGranule_tidy ..).trans (crossHops_tidy ..)

theorem writePiece_tidy (m : Master) (s : State) (g off : Nat) (bs : List Byte) (p f : Bool) : Tidy s (writePiece m s g off bs p f) := by
  unfold writePiece
  dsimp only
  generalize regionOf s (32 * g + off) = r
  cases r <;> dsimp only
  case unmapped => exact .refl s
  case regs => exact .books rfl rfl rfl rfl rfl
  case imem => exact tidy_ite (storeBytes_tidy ..) (tidy_ite (count_tidy ..) (.refl s))
  case solverStore => exact tidy_ite (tidy_ite (count_tidy ..) (.refl s)) (storeBytes_tidy ..)
  case hbm => exact tidy_ite (count_tidy ..) ((hbmWriteNote_tidy ..).trans (storeBytes_tidy ..))
  all_goals exact storeBytes_tidy ..

theorem writeSpan_tidy (m : Master) (s : State) (a : Nat) (bs : List Byte) (p : List Nat) : Tidy s (writeSpan m s a bs p).2 := by
  unfold writeSpan
  dsimp only
  refine Tidy.trans ?_ (tidy_foldl_fst (fun _ _ _ => (crossHops_tidy ..).trans (writePiece_tidy ..)) _ _ _)
  split
  · exact noteUnmapped_tidy ..
  · exact .refl s

theorem noteLines_tidy_rest (s : State) (a n : Nat) : noteLines s a n = { s with doneWrites := (noteLines s a n).doneWrites } := by
  unfold noteLines
  split <;> rfl

theorem writeNat_tidy (m : Master) (s : State) (a v n : Nat) : Tidy s (writeNat m s a v n).2 := writeSpan_tidy ..

theorem writeRecord_tidy (m : Master) (s : State) (a : Nat) (r : Record) : Tidy s (writeRecord m s a r) := by
  unfold writeRecord
  dsimp only
  split
  · exact (readTime_tidy ..).trans (writeSpan_tidy ..)
  · exact ((readTime_tidy ..).trans (writeSpan_tidy ..)).trans (writeSpan_tidy ..)

/-! ### Telemetry -/

/-- The passing of intervals changes the Keeper's telemetry period and interval, and uses free values. -/
theorem passIntervals_frame (load n : Nat) (s : State) :
    let t := passIntervals load n s
    t = { s with keeper := t.keeper, freeCtr := t.freeCtr } ∧
      t.keeper = { s.keeper with loadAt := t.keeper.loadAt, telemetryPeriod := t.keeper.telemetryPeriod } := by
  induction n generalizing s with
  | zero => exact ⟨rfl, rfl⟩
  | succ n ih =>
    simp only [passIntervals]
    split <;> exact ⟨(ih _).1, (ih _).2⟩

end Sys2Proof.Machine
end

