-- ==== Sys2Proof/Laws/Fabric.lean ====
section
/-! SUPPORT. What the sending side of the fabric can do: it leaves everything alone but the lanes, what has left the module, the requests that await an answer, and what an
operation on memory may change. -/

namespace Sys2Proof.Machine

/-- The state without what the sending side may change. -/
def netAside (s : State) : State := { aside s with lastRefusal := 0, lanes := [], out := [], remote := [], nextTag := 0, messages := [], portTurn := [], looped := [], sendNext := [] }

/-- A step from s to t that the sending side of the fabric makes. -/
structure NetTidy (s t : State) : Prop where
  rest : netAside t = netAside s
  wf : Memory.wf s = true → Memory.wf t = true

theorem NetTidy.refl (s : State) : NetTidy s s := ⟨rfl, id⟩

theorem NetTidy.trans {s t u : State} (h : NetTidy s t) (g : NetTidy t u) : NetTidy s u := ⟨g.rest.trans h.rest, fun w => g.wf (h.wf w)⟩

/-- An operation on memory is one of them. -/
theorem Tidy.net {s t : State} (h : Tidy s t) : NetTidy s t :=
  ⟨congrArg (fun x : State => { x with lastRefusal := 0, lanes := [], out := [], remote := [], nextTag := 0, messages := [], portTurn := [], looped := [], sendNext := [] }) h.rest, h.wf⟩

theorem NetTidy.cores {s t : State} (h : NetTidy s t) : t.cores = s.cores := (congrArg State.cores h.rest :)
theorem NetTidy.nvm {s t : State} (h : NetTidy s t) : t.nvm = s.nvm := (congrArg State.nvm h.rest :)
theorem NetTidy.blocks {s t : State} (h : NetTidy s t) : t.blocks = s.blocks := (congrArg State.blocks h.rest :)
theorem NetTidy.time {s t : State} (h : NetTidy s t) : t.time = s.time := (congrArg State.time h.rest :)
theorem NetTidy.dma {s t : State} (h : NetTidy s t) : t.dma = s.dma := (congrArg State.dma h.rest :)
theorem NetTidy.dispatches {s t : State} (h : NetTidy s t) : t.dispatches = s.dispatches := (congrArg State.dispatches h.rest :)
theorem NetTidy.collectives {s t : State} (h : NetTidy s t) : t.collectives = s.collectives := (congrArg State.collectives h.rest :)
theorem NetTidy.units {s t : State} (h : NetTidy s t) : t.units = s.units := (congrArg State.units h.rest :)
theorem NetTidy.chains {s t : State} (h : NetTidy s t) : t.chains = s.chains := (congrArg State.chains h.rest :)
theorem NetTidy.windows {s t : State} (h : NetTidy s t) : t.windows = s.windows := (congrArg State.windows h.rest :)
theorem NetTidy.boot {s t : State} (h : NetTidy s t) : t.boot = s.boot := (congrArg State.boot h.rest :)

theorem netTidy_ite {p : Prop} [Decidable p] {s t u : State} (h : NetTidy s t) (g : NetTidy s u) : NetTidy s (if p then t else u) := by
  split
  · exact h
  · exact g

/-! ### The rank map and where a request goes -/

theorem useRank_tidy (s : State) (r : Nat) (e : BitVec 32) : Tidy s (useRank s r e) := by
  unfold useRank
  dsimp only
  generalize List.drop _ _ = l
  exact .books rfl rfl rfl rfl rfl

theorem loadRank_tidy (s : State) (r : Nat) : Tidy s (loadRank s r).2 := by
  unfold loadRank
  exact (readSpan_tidy ..).trans (useRank_tidy ..)

theorem fillRank_tidy (s : State) (r : Nat) : Tidy s (fillRank s r).2 := by
  unfold fillRank
  exact (count_tidy ..).trans (loadRank_tidy ..)

theorem rankEntry_tidy (s : State) (r : Nat) : Tidy s (rankEntry s r).2 := by
  unfold rankEntry
  split
  · exact useRank_tidy ..
  · exact fillRank_tidy ..

theorem lastRefusal_net (s : State) (v : Word64) : NetTidy s { s with lastRefusal := v } := ⟨rfl, id⟩

theorem refuse_net (s : State) (st src job off : Nat) : NetTidy s (refuse s st src job off) := by
  unfold refuse
  exact (count_tidy ..).net.trans (lastRefusal_net _ _)

theorem resolve_net (m : Master) (s : State) (k a n : Nat) (f : Bool) : NetTidy s (resolve m s k a n f).2 := by
  unfold resolve
  dsimp only
  split
  · exact .refl s
  · split
    · split
      · exact .refl s
      · split <;> exact .refl s
    · split
      · exact .refl s
      · split
        · split
          · exact refuse_net ..
          · split
            · exact refuse_net ..
            · split
              · exact (noteUnmapped_tidy ..).net.trans (refuse_net ..)
              · exact .refl s
        · split
          · exact .refl s
          · split <;> exact (rankEntry_tidy ..).net

/-! ### Frames, requests and messages -/

theorem emit_net (s : State) (o : Out) : NetTidy s (emit s o) := ⟨rfl, id⟩

theorem setLane_net (s : State) (l : Nat) (x : Lane) : NetTidy s (setLane s l x) := ⟨rfl, id⟩

theorem portTurn_net (s : State) (x : List (Nat × Nat)) : NetTidy s { s with portTurn := x } := ⟨rfl, id⟩

theorem remote_net (s : State) (x : Nat) (y : List RemoteRequest) : NetTidy s { s with nextTag := x, remote := y } := ⟨rfl, id⟩

theorem messages_net (s : State) (x : List SentMessage) : NetTidy s { s with messages := x } := ⟨rfl, id⟩

theorem putFrame_net (s : State) (l : Nat) (f : Frame) : NetTidy s (putFrame s l f) := by
  unfold putFrame
  dsimp only
  exact (setLane_net s l _).trans (emit_net _ _)

theorem sendOn_net (s : State) (l : Nat) (f : Frame) : NetTidy s (sendOn s l f) := by
  unfold sendOn
  split
  · exact putFrame_net ..
  · exact setLane_net ..

theorem sendFrame_net (s : State) (l : Nat) (h : FrameHeader) (d : List Byte) : NetTidy s (sendFrame s l h d) := sendOn_net ..

theorem sendVia_net (s : State) (p : Nat) (f : Frame) : NetTidy s (sendVia s p f) := by
  unfold sendVia
  split
  · exact (portTurn_net s _).trans (sendOn_net ..)
  · exact .refl s

theorem netTidy_foldl {β : Type} {f : State → β → State} (h : ∀ s b, NetTidy s (f s b)) (l : List β) (s : State) : NetTidy s (l.foldl f s) := by
  induction l generalizing s with
  | nil => exact .refl s
  | cons b l ih => exact (h s b).trans (ih _)

theorem issueRequest_net (s : State) (r : RemoteRequest) (h : FrameHeader) (d : List Byte) :
    NetTidy s (Sum.elim (fun _ => s) (fun x => x.2) (issueRequest s r h d)) := by
  unfold issueRequest
  split
  · exact .refl s
  · dsimp only
    split
    · exact remote_net s _ _
    · exact (remote_net s _ _).trans (sendVia_net ..)

theorem sendRequest_net (m : Master) (s : State) (dst route k a g : Nat) (w : Bool) (d : List Byte) (p : Nat) :
    NetTidy s (Sum.elim (fun _ => s) (fun r => r.2) (sendRequest m s dst route k a g w d p)) := issueRequest_net ..

theorem dropRemote_net (s : State) (tag : Nat) : NetTidy s (dropRemote s tag) := ⟨rfl, id⟩

theorem emitMessage_net (s : State) (m : SentMessage) : NetTidy s (emitMessage s m).2 := by
  unfold emitMessage
  split
  · exact ⟨rfl, id⟩
  · split
    · exact .refl s
    · dsimp only
      refine (rankEntry_tidy s m.dst).net.trans ?_
      split
      · exact .refl _
      · split
        · exact .refl _
        · split
          · exact (count_tidy ..).net
          · exact (fresh_tidy _).net.trans (netTidy_foldl (fun s f => sendVia_net s _ f) _ _)

theorem launchMessage_net (s : State) (m : SentMessage) : NetTidy s (launchMessage s m) := by
  unfold launchMessage
  exact (emitMessage_net s m).trans (messages_net _ _)

theorem sendMessage_net (s : State) (k flow dst : Nat) (w : Message) : NetTidy s (sendMessage s k flow dst w) := by
  unfold sendMessage
  dsimp only
  have h : ∀ (x : List (Nat × Nat)) (y : List SentMessage), NetTidy s { s with sendNext := x, messages := y } := fun _ _ => ⟨rfl, id⟩
  split
  · exact h _ _
  · exact (h _ _).trans (launchMessage_net ..)

end Sys2Proof.Machine
end

