-- ==== Sys2Proof/Laws/Issue.lean ====
section
/-! SUPPORT. What a still core does with a bundle whose only operation is in its sequencer slot. -/

namespace Sys2Proof.Machine
variable {s : State} {n : Nat}

theorem range6 : List.range 6 = [0, 1, 2, 3, 4, 5] := by decide

/-- A bundle with a sequencer operation alone passes the checks of R209 when its sequencer slot does. -/
theorem bundleChecks_seq {tag : BitVec 16} {op : BitVec 6} {d a b : BitVec 5} {imm : BitVec 32} {pc : Nat} (hc : isCsf1 (getCore s n) = false)
    (hu : slotUndefined (seqBundle tag op d a b imm) false 0 = false) (hr : slotReserved (seqBundle tag op d a b imm) false 0 = false)
    (hq : seqChecks (getCore s n) n pc ⟨op, d, a, b, 0, imm⟩ = none) :
    bundleChecks s n pc (seqBundle tag op d a b imm) = (none, s) := by
  have mem6 : ∀ {k : Nat}, k ∈ List.range 6 → k = 0 ∨ k = 1 ∨ k = 2 ∨ k = 3 ∨ k = 4 ∨ k = 5 := by
    intro k hk; have := List.mem_range.mp hk; omega
  have h1 : ∀ k ∈ List.range 6, slotUndefined (seqBundle tag op d a b imm) false k = false := by
    intro k hk
    rcases mem6 hk with rfl | rfl | rfl | rfl | rfl | rfl
    · exact hu
    all_goals rfl
  have h2 : ∀ k ∈ List.range 6, slotReserved (seqBundle tag op d a b imm) false k = false := by
    intro k hk
    rcases mem6 hk with rfl | rfl | rfl | rfl | rfl | rfl
    · exact hr
    all_goals simp [slotReserved, seqBundle, matBits, vecBits, dmBits, accBits, at_]
  have h3 : ∀ k, suppressed (getCore s n) (seqBundle tag op d a b imm) k = false := by
    intro k
    simp [suppressed, predBit, seqBundle, bit]
  have h4 : ∀ k ∈ List.range 6, slotChecks s n pc (seqBundle tag op d a b imm) k = (none, s) := by
    intro k hk
    simp only [slotChecks, h3]
    rcases mem6 hk with rfl | rfl | rfl | rfl | rfl | rfl
    · simp only [seqBundle, hq]; rfl
    all_goals rfl
  have e1 : (List.range 6).find? (slotUndefined (seqBundle tag op d a b imm) false) = none := by
    rw [List.find?_eq_none]; intro k hk; simp [h1 k hk]
  have e2 : (List.range 6).find? (fun k => (!suppressed (getCore s n) (seqBundle tag op d a b imm) k || false) && slotReserved (seqBundle tag op d a b imm) false k) = none := by
    rw [List.find?_eq_none]; intro k hk; simp [h2 k hk]
  have e3 : (seqBundle tag op d a b imm).rsvd = 0 := rfl
  simp only [bundleChecks, hc, e1, e2, e3, ne_eq, not_true_eq_false, if_false]
  exact foldl_fixed _ _ _ (fun k hk => by simp only [h4 k hk]; rfl)

/-- What a still core does with a bundle whose only operation is in the sequencer slot: the slot's effect, and the move to the next bundle. -/
theorem seq_issue {n : Fin 128} {tag : BitVec 16} {op : BitVec 6} {d a b : BitVec 5} {imm : BitVec 32}
    (h : StillAt s n (seqBundle tag op d a b imm)) (hop : op ≠ 3 ∧ op ≠ 4)
    (hu : slotUndefined (seqBundle tag op d a b imm) false 0 = false) (hr : slotReserved (seqBundle tag op d a b imm) false 0 = false)
    (hk : seqChecks (getCore s n.val) n.val (getCore s n.val).pc ⟨op, d, a, b, 0, imm⟩ = none) :
    issueBundle s n.val (seqBundle tag op d a b imm) none = 
      ([], modCore (seqEffect s n.val (getCore s n.val).pc ⟨op, d, a, b, 0, imm⟩ false) n.val (fun c =>
        { c with pc := (nextBundle (getCore s n.val) (getCore s n.val).pc ⟨op, d, a, b, 0, imm⟩).1,
                 loops := (nextBundle (getCore s n.val) (getCore s n.val).pc ⟨op, d, a, b, 0, imm⟩).2, bundles := c.bundles + 1, breakExempt := false })) := by
  obtain ⟨hl, hs, -, ha⟩ := h
  have hf := still_fields hs
  have h3 : ∀ k, suppressed (getCore s n.val) (seqBundle tag op d a b imm) k = false := by
    intro k
    simp [suppressed, predBit, seqBundle, bit]
  have e3 : (seqBundle tag op d a b imm).seq = ⟨op, d, a, b, 0, imm⟩ := rfl
  simp only [issueBundle, meetFiles_none hf.2.2.2.2.2.2.2.2.2.2.2.2.2.2, bundleChecks_seq (imm := imm) (tag := tag) hf.2.2.2.2.2.2.2.2.2.2.2.2.2.1 hu hr hk, ha, performBundle, h3, e3, hop.1, hop.2]
  rw [List.find?_eq_none.mpr (by simp)]
  simp [seqBundle]

/-- A still core has no break to take where its settings are off. -/
theorem breakAt_still {n : Fin 128} {b : Bundle} (h : StillAt s n b) : breakAt s n.val b = none := by
  have hf := still_fields h.2.1
  simp [breakAt, breakMatch, h.2.2.1, hf, bit]

theorem stillAt_len {n : Fin 128} {b : Bundle} (h : StillAt s n b) : n.val < s.cores.length := by rw [h.1]; exact n.isLt

/-- A still core stays so when its cycle begins. -/
theorem stillAt_clear {n : Fin 128} {b : Bundle} (h : StillAt s n b) : StillAt (clearPorts s n.val) n b := by
  have hn := stillAt_len h
  refine ⟨by rw [clearPorts, modCore_cores_length]; exact h.1, still_clear hn h.2.1, h.2.2.1, ?_⟩
  have e : ∀ b o, getReg (clearPorts s n.val) b o = getReg s b o := fun _ _ => rfl
  simpa [auditedBundle, getCore_clear hn, e] using h.2.2.2

/-- The cycle in which a still core is given a bundle whose slot effect leaves the core calm but for later events. -/
theorem issueRow_still {n : Fin 128} {b : Bundle} {s' : State} (h : StillAt s n b) (hi : issueBundle (clearPorts s n.val) n.val b none = ([], s'))
    (hc : n.val < s'.cores.length) (hl : Later (getCore s' n.val)) (hp : (getCore s' n.val).passes = []) (hn : (getCore s' n.val).nextLoaded = [])
    (hq : (getCore s' n.val).queues = []) (hw : (getCore s' n.val).waiting = []) :
    issueRow s n b = .next (modCore s' n.val (fun c => dropMoves { c with ports := portsNow s' c, portsAt := s'.cycles, cycle := c.cycle + 1 })) := by
  have hs := h.2.1
  have hs' := still_clear (stillAt_len h) hs
  have e : issueFrom (clearPorts s n.val) n.val (.given b) = ([], s') := by
    simp only [issueFrom, hs'.1, if_true, breakAt_still (stillAt_clear h), hi]
  have er : cycleReads n.val ([], s') = ([], s') := cycleReads_calm hl hp hn
  simp only [issueRow, hs.1, if_true, coreCycle_still (stillAt_len h) hs, e, er, cycleWrites_calm hl hc hp hq hw]

/-- The common form of the operations that write one scalar register in the next core cycle (R213). -/
theorem alu_issue {n : Fin 128} {tag : BitVec 16} {op : BitVec 6} {d a b : BitVec 5} {imm : BitVec 32} {v : Word64}
    (h : StillAt s n (seqBundle tag op d a b imm)) (hop : op ≠ 1 ∧ op ≠ 3 ∧ op ≠ 4)
    (hu : slotUndefined (seqBundle tag op d a b imm) false 0 = false) (hr : slotReserved (seqBundle tag op d a b imm) false 0 = false)
    (hk : seqChecks (getCore (clearPorts s n.val) n.val) n.val (getCore s n.val).pc ⟨op, d, a, b, 0, imm⟩ = none)
    (he : seqEffect (clearPorts s n.val) n.val (getCore s n.val).pc ⟨op, d, a, b, 0, imm⟩ false =
      modCore (clearPorts s n.val) n.val (fun c => addEvents c [((getCore s n.val).cycle + 1, .writeSreg d.toNat v)])) :
    issueRow s n (seqBundle tag op d a b imm) = .next (issued s n [((getCore s n.val).cycle + 1, .writeSreg d.toNat v)]) := by
  have hn := stillAt_len h
  have h' := stillAt_clear h
  have hn' : n.val < (clearPorts s n.val).cores.length := stillAt_len h'
  have ec := getCore_clear hn
  have epc : (getCore (clearPorts s n.val) n.val).pc = (getCore s n.val).pc := by rw [ec]
  have hi := seq_issue h' hop.2 hu hr (by rw [epc]; exact hk)
  have hf := still_fields h.2.1
  rw [epc, he, modCore_modCore _ _ _ hn'] at hi
  refine (issueRow_still h hi ?_ ?_ ?_ ?_ ?_ ?_).trans ?_
  · rw [modCore_cores_length]; exact hn'
  iterate 5 · simp [getCore_modCore _ _ _ hn', ec, addEvents, hf, Later]
  rw [modCore_modCore _ _ _ hn', clearPorts, modCore_modCore _ _ _ hn]
  have e1 : ¬ op = 1#6 := hop.1
  simp only [modCore, issued]
  congr 2
  rw [dropMoves_calm (by simp [addEvents, hf]) (by simp [addEvents, hf])]
  simp [nextBundle, e1, addEvents, hf, portsNow, getCore_setCore _ _ _ hn]

/-- The model's register read is the scalar register's value. -/
theorem sreg_scalar (s : State) (n : Fin 128) (i : BitVec 5) : sreg (getCore s n.val) i = (scalar s n i).toNat := by
  simp only [sreg, scalar]; split <;> simp

/-- The sequencer checks of an operation that reads no memory and is no loop. -/
theorem seqChecks_alu {c : Core} {n pc : Nat} {x : SeqSlot} (h : c.events = []) (h1 : x.sop ≠ 1) (ha : seqAccess c x = none) (hw : x.sop ≠ 0x1A ∧ x.sop ≠ 0x1B): seqChecks c n pc x = none := by
  have : ¬ (x.sop.toNat = 26 ∨ x.sop.toNat = 27) := by
    rintro (h | h)
    · exact hw.1 (BitVec.eq_of_toNat_eq h)
    · exact hw.2 (BitVec.eq_of_toNat_eq h)
  have h1' : (x.sop == 1) = false := by simpa using h1
  simp only [seqChecks, seqCollision, h, ha, h1', Bool.false_and]
  simp [this, firstStop]

/-- The one-register operations of a still core. -/
theorem alu_exec {s : State} {n : Fin 128} {tag : BitVec 16} {op : BitVec 6} {d a b : BitVec 5} {imm : BitVec 32} (v : Word64)
    (h : StillAt s n (seqBundle tag op d a b imm)) (hop : op ∈ [0x8, 0x9, 0xA, 0xB, 0xC, 0xD, 0xE, 0xF, 0x10, 0x11, 0x12, 0x13, 0x14, 0x15, 0x16])
    (hr : slotReserved (seqBundle tag op d a b imm) false 0 = false)
    (hv : BitVec.ofNat 64 (aluResult s n.val (getCore s n.val) ⟨op, d, a, b, 0, imm⟩).1 = v) :
    issueRow s n (seqBundle tag op d a b imm) = .next (writes s n d v) := by
  have hf := still_fields h.2.1
  apply alu_issue h
  · simp only [List.mem_cons, List.not_mem_nil, or_false] at hop
    rcases hop with rfl | rfl | rfl | rfl | rfl | rfl | rfl | rfl | rfl | rfl | rfl | rfl | rfl | rfl | rfl <;> decide
  · simp only [List.mem_cons, List.not_mem_nil, or_false] at hop
    rcases hop with rfl | rfl | rfl | rfl | rfl | rfl | rfl | rfl | rfl | rfl | rfl | rfl | rfl | rfl | rfl <;> simp [slotUndefined, seqBundle, predBit, bit]
  · exact hr
  · simp only [List.mem_cons, List.not_mem_nil, or_false] at hop
    apply seqChecks_alu (by rw [getCore_clear (stillAt_len h)]; exact hf.2.2.2.2.1)
    all_goals rcases hop with rfl | rfl | rfl | rfl | rfl | rfl | rfl | rfl | rfl | rfl | rfl | rfl | rfl | rfl | rfl <;> simp [seqAccess]
  · simp only [List.mem_cons, List.not_mem_nil, or_false] at hop
    have ec := getCore_clear (stillAt_len h)
    have e : ∀ i, sreg (getCore (clearPorts s n.val) n.val) i = sreg (getCore s n.val) i := by intro i; rw [ec]; rfl
    have k : (getCore (clearPorts s n.val) n.val).cycle = (getCore s n.val).cycle := by rw [ec]
    rw [← hv]
    rcases hop with rfl | rfl | rfl | rfl | rfl | rfl | rfl | rfl | rfl | rfl | rfl | rfl | rfl | rfl | rfl <;>
      simp only [seqEffect, aluResult, e, k] <;> rfl

/-- The arithmetic right shift as the exact quotient. -/
theorem sar_toNat (x : BitVec 64) (k : Nat) : BitVec.ofNat 64 (ofInt 64 (toInt 64 x.toNat / (2 ^ k : Nat))) = x.sshiftRight k := by
  apply BitVec.eq_of_toInt_eq
  have e : toInt 64 x.toNat = x.toInt := by
    simp only [toInt, BitVec.toInt, Nat.mod_eq_of_lt x.isLt]
  rw [e, ofInt, BitVec.toInt_sshiftRight, Int.shiftRight_eq_div_pow]
  have hpos : (0 : Int) < ((2 ^ 64 : Nat) : Int) := by decide
  rw [← BitVec.ofInt_natCast, Int.toNat_of_nonneg (Int.emod_nonneg _ (by decide)), BitVec.toInt_ofInt]
  rw [show ((2 ^ 64 : Nat) : Int) = ((2 ^ 64 : Nat)) from rfl, Int.emod_bmod]
  have h1 := x.toInt_lt
  have h2 := x.le_toInt
  have hk : (1 : Int) ≤ (2 ^ k : Nat) := by exact_mod_cast Nat.one_le_two_pow
  generalize ((2 ^ k : Nat) : Int) = K at hk ⊢
  norm_num at h1 h2
  apply Int.bmod_eq_of_le
  · have : -(2:Int)^63 ≤ x.toInt / K := by
      apply Int.le_ediv_of_mul_le (by omega)
      norm_num; nlinarith
    simpa using this
  · have : x.toInt / K < 2 ^ 63 := by
      apply Int.ediv_lt_of_lt_mul (by omega)
      norm_num; nlinarith
    simpa using this

/-- IMM sign-extended. -/
theorem imm32_eq (op : BitVec 6) (d a b : BitVec 5) (imm : BitVec 32) : imm32 ⟨op, d, a, b, 0, imm⟩ = (imm.signExtend 64).toNat := by
  have e : toInt 32 imm.toNat = imm.toInt := by
    simp only [toInt, BitVec.toInt, Nat.mod_eq_of_lt imm.isLt]
  simp only [imm32, BitVec.signExtend, BitVec.toNat_ofInt, ofInt, e]

end Sys2Proof.Machine
end

