-- ==== Sys2Proof/Laws/Pool.lean ====
section
/-! SUPPORT. What each operation of the buffer pool can do: it leaves everything alone but the pool's own state, and a write or a read of a chain is an operation on memory. -/

namespace Sys2Proof.Machine

/-- The state without the pool's own. -/
def poolAside (s : State) : State := { s with chains := [], poolQueue := [], poolOver := [], reservations := [], nextPool := 0, freeCtr := 0, freedHeads := [] }

/-- A step from s to t that changes the pool alone. -/
def PoolOnly (s t : State) : Prop := poolAside t = poolAside s

theorem PoolOnly.refl (s : State) : PoolOnly s s := rfl

theorem PoolOnly.trans {s t u : State} (h : PoolOnly s t) (g : PoolOnly t u) : PoolOnly s u := Eq.trans g h

theorem PoolOnly.cores {s t : State} (h : PoolOnly s t) : t.cores = s.cores := (congrArg State.cores h :)
theorem PoolOnly.mem {s t : State} (h : PoolOnly s t) : t.mem = s.mem := (congrArg State.mem h :)
theorem PoolOnly.guard {s t : State} (h : PoolOnly s t) : t.guard = s.guard := (congrArg State.guard h :)
theorem PoolOnly.nvm {s t : State} (h : PoolOnly s t) : t.nvm = s.nvm := (congrArg State.nvm h :)
theorem PoolOnly.regs {s t : State} (h : PoolOnly s t) : t.regs = s.regs := (congrArg State.regs h :)
theorem PoolOnly.blocks {s t : State} (h : PoolOnly s t) : t.blocks = s.blocks := (congrArg State.blocks h :)
theorem PoolOnly.dispatches {s t : State} (h : PoolOnly s t) : t.dispatches = s.dispatches := (congrArg State.dispatches h :)
theorem PoolOnly.collectives {s t : State} (h : PoolOnly s t) : t.collectives = s.collectives := (congrArg State.collectives h :)

/-- The pool's operations keep the canonical form. -/
theorem PoolOnly.wf {s t : State} (h : PoolOnly s t) : Memory.wf t = Memory.wf s := by
  simp only [Memory.wf, h.mem, h.guard, h.nvm, h.regs]

theorem poolOnly_ite {p : Prop} [Decidable p] {s t u : State} (h : PoolOnly s t) (g : PoolOnly s u) : PoolOnly s (if p then t else u) := by
  split
  · exact h
  · exact g

theorem grantCells_only (s : State) (r : PoolRequest) (f : Bool) : PoolOnly s (grantCells s r f) := rfl

theorem applyQuota_only (s : State) : PoolOnly s (applyQuota s) := rfl

theorem serveLoop_only (n : Nat) (s : State) : PoolOnly s (serveLoop n s) := by
  induction n generalizing s with
  | zero => rfl
  | succ n ih =>
    unfold serveLoop
    split
    · exact (grantCells_only s _ true).trans (ih _)
    · split
      · exact poolOnly_ite (((applyQuota_only s).trans (grantCells_only ..)).trans (ih _)) (applyQuota_only s)
      · exact applyQuota_only s

theorem poolServe_only (s : State) : PoolOnly s (poolServe s) := poolOnly_ite (serveLoop_only ..) (.refl s)

theorem requestCells_only (s : State) (c a n : Nat) : PoolOnly s (requestCells s c a n).2 :=
  Eq.trans (poolServe_only _) (poolOnly_ite rfl rfl)

theorem dropRequest_only (s : State) (id : Nat) : PoolOnly s (dropRequest s id) :=
  Eq.trans (poolServe_only _) rfl

theorem freeDispatchCells_only (s : State) (l : Nat) : PoolOnly s (freeDispatchCells s l) :=
  Eq.trans (poolServe_only _) rfl

theorem pickCells_only (n : Nat) (s : State) (used : List Nat) : PoolOnly s (pickCells n s used).2 := by
  induction n generalizing s used with
  | zero => rfl
  | succ n ih => exact Eq.trans (ih _ _) rfl

theorem makeChain_only (s : State) (id n refs : Nat) : PoolOnly s (makeChain s id n refs).2 := by
  unfold makeChain
  dsimp only
  split
  · rfl
  · split
    · rfl
    · exact (pickCells_only ..).trans rfl

/-- As many cells as asked for. -/
theorem pickCells_length (n : Nat) (s : State) (used : List Nat) : (pickCells n s used).1.length = n := by
  induction n generalizing s used with
  | zero => rfl
  | succ n ih => simp [pickCells, ih]

theorem writeChain_tidy (s : State) (c : Chain) (bs : List Byte) (p : List Nat) : Tidy s (writeChain s c bs p) := by
  unfold writeChain
  refine tidy_foldl (fun s x => ?_) _ s
  split
  · exact storeBytes_tidy ..
  · exact .refl s

end Sys2Proof.Machine
end

