-- ==== Sys2Proof/WellFormed.lean ====
section
/-! DEFINITION. Which operands of a command are well formed: the lengths, sizes and codes that the spec fixes for the command's row. A meaning is defined on every operand; these checks say which ones a sender can form. -/

namespace Sys2Proof

/-- A frame carries as many granules of data as its LEN names (13_fabric_links.md R465, R466). -/
def frameDataOk (h : FrameHeader) (data : List Byte) : Bool := data.length == 32 * (h.len.toNat + 1)

/-- A response carries its data, or none where it answers a write (13_fabric_links.md R480). -/
def responseDataOk (h : FrameHeader) (data : List Byte) : Bool := data.isEmpty || frameDataOk h data

/-- Bytes that travel in whole granules, and poison marks that name granules among them (15_integrity_faults.md R541). -/
def granulesOk (data : List Byte) (poison : List Nat) : Bool :=
  data.length % 32 == 0 && poison.all (fun p => decide (32 * p < data.length))

/-- The bundle's sequencer slot holds the row's operation (06_core_programs.md R213). -/
def sopOk (b : Bundle) (op : BitVec 6) : Bool := b.seq.sop == op

/-- The named data mover's slot holds the row's operation (06_core_programs.md R221). -/
def dopOk (b : Bundle) (m : Fin 2) (op : BitVec 3) : Bool := (if m = 0 then b.dm0 else b.dm1).dop == op

/-- A range of local addresses is not empty and ends within the 42-bit space (01_architecture.md R48). -/
def spanOk (addr : BitVec 42) (len : Nat) : Bool := decide (0 < len ∧ addr.toNat + len ≤ 2 ^ 42)

/-- Scout entries are for non-zero counts, in ascending (slot, rank) (08_routing_exchange.md R289). -/
def scoutOk : List ScoutEntry → Bool
  | [] => true
  | [e] => e.count != 0
  | e :: f :: rest => e.count != 0 && decide (8 * e.slot.toNat + e.rank.toNat < 8 * f.slot.toNat + f.rank.toNat) && scoutOk (f :: rest)

/-- A row tag names 1 to 8 targets, and a return's tag one (08_routing_exchange.md R297, R306). -/
def tagOk (t : RowTag) (most : Nat) : Bool := decide (1 ≤ t.targets.length ∧ t.targets.length ≤ most)

/-- A target of 4 or 8 bytes (12_memory_system.md R437, R439). -/
def atomicSizeOk (size : Nat) : Bool := size == 4 || size == 8

/-- A window access's size: 4, 8, 16, 32 or 64 bytes (16_register_interface.md R560, R561). -/
def accessSizeOk (n : Nat) : Bool := [4, 8, 16, 32, 64].contains n

/-- The operands of a command are well formed. -/
def Instr.wf : Instr → Bool
  | .nop _ b => sopOk b 0x00
  | .loop _ b => sopOk b 0x01
  | .endLaunch _ b => sopOk b 0x02
  | .halt _ b => sopOk b 0x03
  | .barrier _ b => sopOk b 0x04
  | .forage _ b => sopOk b 0x05
  | .fprime _ b => sopOk b 0x06
  | .lidx _ b => sopOk b 0x07
  | .li _ b => sopOk b 0x08
  | .lui _ b => sopOk b 0x09
  | .add _ b => sopOk b 0x0A
  | .sub _ b => sopOk b 0x0B
  | .and _ b => sopOk b 0x0C
  | .or _ b => sopOk b 0x0D
  | .xor _ b => sopOk b 0x0E
  | .shl _ b => sopOk b 0x0F
  | .shr _ b => sopOk b 0x10
  | .sar _ b => sopOk b 0x11
  | .mul _ b => sopOk b 0x12
  | .minu _ b => sopOk b 0x13
  | .maxu _ b => sopOk b 0x14
  | .addi _ b => sopOk b 0x15
  | .sltu _ b => sopOk b 0x16
  | .sld _ b => sopOk b 0x18
  | .sst _ b => sopOk b 0x19
  | .wdesc _ b => sopOk b 0x1A
  | .wrcp _ b => sopOk b 0x1B
  | .tbr _ b => sopOk b 0x1C
  | .productOperation _ b => b.mat.mop == 1
  | .statisticsProduct _ b => b.mat.mop == 1
  | .alternatingPair _ b => b.mat.mop == 1
  | .pass _ b => b.vec.vop == 1
  | .move _ m b => dopOk b m 1
  | .gather _ m b => dopOk b m 2
  | .zero _ b => b.acc.aop == 1
  | .copy _ b => b.acc.aop == 2
  | .breakBroadcast src n => src != n
  | .localRead _ addr len => spanOk addr len
  | .localWrite _ addr data _ => spanOk addr data.length
  | .scrubWrite g => decide (g < 2 ^ 37)
  | .poisonWrite g => decide (g < 2 ^ 37)
  | .scoutMessage _ es => scoutOk es
  | .carryRow m row poison => tagOk m.what 8 && granulesOk row poison
  | .post _ _ line => line.length == 64
  | .returnRow m row poison => tagOk m.what 1 && granulesOk row poison
  | .postPort _ _ data => decide (data.length ≤ 32)
  | .contribution _ _ _ _ _ data poison => granulesOk data poison
  | .result _ _ _ _ _ data poison => granulesOk data poison
  | .swap _ _ size _ => atomicSizeOk size
  | .cas _ _ size _ _ => atomicSizeOk size
  | .fetchAdd _ _ size _ => atomicSizeOk size
  | .fetchAnd _ _ size _ => atomicSizeOk size
  | .fetchOr _ _ size _ => atomicSizeOk size
  | .fetchXor _ _ size _ => atomicSizeOk size
  | .fetchMaxu _ _ size _ => atomicSizeOk size
  | .fetchMinu _ _ size _ => atomicSizeOk size
  | .fetchMaxs _ _ size _ => atomicSizeOk size
  | .fetchMins _ _ size _ => atomicSizeOk size
  | .addvF32 _ _ v => v.length == 8
  | .lr _ _ size => atomicSizeOk size
  | .sc _ _ size _ => atomicSizeOk size
  | .write _ h data => frameDataOk h data
  | .writeMasked _ h data => frameDataOk h data && decide (h.op.toNat < 4)
  | .response _ h data => responseDataOk h data
  | .creditExchange _ credits => credits.length == 4
  | .msixTableWrite off _ => decide (off < 1024) && off % 4 == 0
  -- the inbound window table has 2,048 entries (13_fabric_links.md R477)
  | .openJob a => decide (a.windows.length ≤ 2048)
  | .registerWrite _ _ off data => accessSizeOk data.length && off.toNat % data.length == 0
  | .thermalEvaluation d0 d1 x st => d0.length == 16 && d1.length == 16 && x.length == 8 && st.length == 12
  | _ => true

end Sys2Proof
end

