-- ==== Sys2Proof/Tests/Slice0.lean ====
section
/-! SUPPORT. The model's own tests. -/

namespace Sys2Proof.Machine

set_option Elab.async false

/-! ### Ill-formed operands, one for each check of Sys2Proof/WellFormed.lean -/

/-- A bundle of empty slots. -/
def blank : Bundle := ⟨0, 0, 0, ⟨0, 0, 0, 0, 0, 0⟩, ⟨0, 0, 0, 0, 0, 0⟩, ⟨0, 0, 0, 0⟩, ⟨0, 0, 0, 0, 0⟩, ⟨0, 0, 0, 0, 0⟩, ⟨0, 0, 0, 0, 0⟩⟩

/-- A frame header of zeros. -/
def header0 : FrameHeader := { dstId := 0, srcId := 0, job := 0, off := 0, type := 0, vc := 0, len := 0, tag := 0, kind := 0, poison := 0, op := 0 }

theorem test_wf_sop_nop : Instr.wf (.nop 0 { blank with seq := { blank.seq with sop := 1 } }) = false := by decide

theorem test_wf_sop : ([.loop 0 blank, .endLaunch 0 blank, .halt 0 blank, .barrier 0 blank, .forage 0 blank, .fprime 0 blank, .lidx 0 blank, .li 0 blank, .lui 0 blank, .add 0 blank, .sub 0 blank, .and 0 blank, .or 0 blank, .xor 0 blank, .shl 0 blank, .shr 0 blank, .sar 0 blank, .mul 0 blank, .minu 0 blank, .maxu 0 blank, .addi 0 blank, .sltu 0 blank, .sld 0 blank, .sst 0 blank, .wdesc 0 blank, .wrcp 0 blank, .tbr 0 blank] : List Instr).all (fun i => !i.wf) = true := by decide

theorem test_wf_slots : ([.productOperation 0 blank, .statisticsProduct 0 blank, .alternatingPair 0 blank, .pass 0 blank, .move 0 0 blank, .move 0 1 blank, .gather 0 0 blank, .zero 0 blank, .copy 0 blank] : List Instr).all (fun i => !i.wf) = true := by decide

theorem test_wf_broadcast : Instr.wf (.breakBroadcast 3 3) = false := by decide

theorem test_wf_span_empty : Instr.wf (.localRead .host 0 0) = false := by decide

theorem test_wf_span_end : Instr.wf (.localRead .host (BitVec.ofNat 42 (2 ^ 42 - 1)) 2) = false := by decide

theorem test_wf_write_empty : Instr.wf (.localWrite .host 0 [] false) = false := by decide

theorem test_wf_scrub : Instr.wf (.scrubWrite (2 ^ 37)) = false := by decide

theorem test_wf_poison : Instr.wf (.poisonWrite (2 ^ 37)) = false := by decide

theorem test_wf_scout_zero : Instr.wf (.scoutMessage ⟨[], ⟨0, 0, 0, 0, 0⟩⟩ [⟨0, 0, 0⟩]) = false := by decide

theorem test_wf_scout_order : Instr.wf (.scoutMessage ⟨[], ⟨0, 0, 0, 0, 0⟩⟩ [⟨1, 0, 1⟩, ⟨0, 7, 1⟩]) = false := by decide

theorem test_wf_carry_targets : Instr.wf (.carryRow ⟨[], ⟨0, 0, 0, 0, []⟩⟩ [] []) = false := by decide

theorem test_wf_carry_granule : Instr.wf (.carryRow ⟨[], ⟨0, 0, 0, 0, [(0, 0, 0)]⟩⟩ [0] []) = false := by decide

theorem test_wf_carry_poison : Instr.wf (.carryRow ⟨[], ⟨0, 0, 0, 0, [(0, 0, 0)]⟩⟩ (List.replicate 32 0) [1]) = false := by decide

theorem test_wf_post : Instr.wf (.post .host 0 (List.replicate 32 0)) = false := by decide

theorem test_wf_return_targets : Instr.wf (.returnRow ⟨[], ⟨0, 0, 0, 0, [(0, 0, 0), (1, 0, 0)]⟩⟩ [] []) = false := by decide

theorem test_wf_port : Instr.wf (.postPort .host 0 (List.replicate 33 0)) = false := by decide

theorem test_wf_contribution : Instr.wf (.contribution ⟨[], 0⟩ ⟨0, 0⟩ 0 0 0 [0] []) = false := by decide

theorem test_wf_result : Instr.wf (.result ⟨[], 0⟩ ⟨0, 0⟩ 0 0 0 [] [0]) = false := by decide

theorem test_wf_atomic_sizes : ([.swap (.keeper 0) 0 2 0, .cas (.keeper 0) 0 2 0 0, .fetchAdd (.keeper 0) 0 2 0, .fetchAnd (.keeper 0) 0 2 0, .fetchOr (.keeper 0) 0 2 0, .fetchXor (.keeper 0) 0 2 0, .fetchMaxu (.keeper 0) 0 2 0, .fetchMinu (.keeper 0) 0 2 0, .fetchMaxs (.keeper 0) 0 2 0, .fetchMins (.keeper 0) 0 2 0, .lr 0 0 2, .sc 0 0 2 0] : List Instr).all (fun i => !i.wf) = true := by decide

theorem test_wf_addv : Instr.wf (.addvF32 (.keeper 0) 0 [0]) = false := by decide

theorem test_wf_write : Instr.wf (.write 0 header0 []) = false := by decide

theorem test_wf_masked_length : Instr.wf (.writeMasked 0 header0 []) = false := by decide

theorem test_wf_masked_size : Instr.wf (.writeMasked 0 { header0 with op := 4 } (List.replicate 32 0)) = false := by decide

theorem test_wf_response : Instr.wf (.response 0 header0 [0]) = false := by decide

theorem test_wf_credits : Instr.wf (.creditExchange 0 []) = false := by decide

theorem test_wf_msix_end : Instr.wf (.msixTableWrite 1024 0) = false := by decide

theorem test_wf_msix_align : Instr.wf (.msixTableWrite 2 0) = false := by decide

theorem test_wf_register_size : Instr.wf (.registerWrite .host 0 0 [0]) = false := by decide

theorem test_wf_register_align : Instr.wf (.registerWrite .host 0 4 (List.replicate 8 0)) = false := by decide

theorem test_wf_thermal : Instr.wf (.thermalEvaluation [] [] [] []) = false := by decide

theorem test_wf_windows : Instr.wf (.openJob ⟨0, 0, 0, List.replicate 2049 0, [], 0⟩) = false := by
  simp only [Instr.wf, List.length_replicate]; decide

theorem test_wf_accepts : ([.nop 0 blank, .post .host 0 (List.replicate 64 0), .write 0 header0 (List.replicate 32 0), .lr 0 0 8] : List Instr).all (·.wf) = true := by decide

theorem test_reset_memory : Memory.wf State.reset = true := by decide

/-! ### States that meet the hypotheses of the statements, core programs -/

/-- A running core with values in S1 and S2. -/
def aCore : Core := { run := .running, launch := some ⟨7, 0, false, 0⟩, sregs := [(1, 0x20), (2, 64)] }

/-- The reset state with core 0 as given. -/
def with0 (c : Core) : State := setCore State.reset 0 c

/-- A core whose launch does not ask for an audit audits no bundle. -/
theorem audit_off {s : State} {n : Nat} {b : Bundle} {l : CoreLaunch} (h : (getCore s n).launch = some l) (hb : bit l.record.toNat 45 = false) :
    auditedBundle s n b = false := by simp [auditedBundle, h, hb]

/-- What a still core needs beside its launch record, as one decidable fact. -/
theorem still_of {s : State} {n : Fin 128} {b : Bundle} {l : CoreLaunch} (h : (getCore s n).launch = some l) (hb : bit l.record.toNat 45 = false)
    (hs : (s.cores.length = 128 ∧ (mayIssue (getCore s n.val) = true ∧ quiescent (getCore s n.val) = true ∧ (getCore s n.val).mover0.moves = [] ∧
      (getCore s n.val).mover1.moves = [] ∧ (getCore s n.val).breakRequest = none ∧ isCsf1 (getCore s n.val) = false ∧ (getCore s n.val).fileErrors = []) ∧ getReg s (CORE n.val) 0x0D0 = 0)) : StillAt s n b :=
  ⟨hs.1, hs.2.1, hs.2.2, audit_off h hb⟩

theorem witness_still (b : Bundle) : StillAt (with0 aCore) 0 b :=
  still_of (l := ⟨7, 0, false, 0⟩) (by decide +kernel) (by decide +kernel) (by decide +kernel)

theorem witness_SeqResults : StillAt (with0 aCore) 0 (seqBundle 0xFFFF 0x0A 31 1 2 0) ∧ StillAt (with0 aCore) 0 (seqBundle 0 0x09 0 1 0 0xFFFFFFFF) :=
  ⟨witness_still .., witness_still ..⟩

theorem witness_SeqPlain : StillAt (with0 aCore) 0 (seqBundle 0 0x00 0 0 0 0) ∧ StillAt (with0 aCore) 0 (seqBundle 0 0x02 0 0 0 0) ∧
    StillAt (with0 aCore) 0 (seqBundle 0 0x07 1 0 0 3) ∧ StillAt (with0 aCore) 0 (seqBundle 0 0x1C 31 0 0 0) :=
  ⟨witness_still .., witness_still .., witness_still .., witness_still ..⟩

/-- Four active loops are the most; three leave room for one more, here with a body that ends where the innermost one ends. -/
def loopCore : Core := { aCore with loops := [⟨0, 9, 2, 0⟩, ⟨0, 9, 1, 5⟩, ⟨0, 20, 7, 0⟩] }

theorem witness_SeqControl : let s := with0 loopCore
    (StillAt s 0 (seqBundle 0 0x01 0 2 0 9) ∧ StillAt s 0 (seqBundle 0 0x01 0 0 0 9) ∧ (9 : BitVec 11) ≠ 0 ∧ (getCore s 0).loops.length < 4 ∧
      (∀ f, (getCore s 0).loops.head? = some f → (getCore s 0).pc + 9 ≤ f.last) ∧ (scalar s 0 2).toNat = 64 ∧ (scalar s 0 0).toNat = 0) ∧
    StillAt (with0 aCore) 0 (seqBundle 0 0x03 0 0 0 0xFFFF) ∧ StillAt (with0 aCore) 0 (seqBundle 0 0x04 0 0 0 0xF) ∧
    (getCore (with0 aCore) 0).launch = some ⟨7, 0, false, 0⟩ ∧ ∀ b ∈ (with0 aCore).barriers, ¬(b.launch = 7 ∧ b.number = (getCore (with0 aCore) 0).barrierCount) :=
  ⟨⟨still_of (l := ⟨7, 0, false, 0⟩) (by decide +kernel) (by decide +kernel) (by decide +kernel),
    still_of (l := ⟨7, 0, false, 0⟩) (by decide +kernel) (by decide +kernel) (by decide +kernel), by decide, by decide +kernel,
    by rintro f hf; cases hf; decide +kernel, by decide +kernel, by decide +kernel⟩, witness_still .., witness_still .., by decide +kernel, by rintro b ⟨⟩⟩

/-- A core whose mailbox 3 is full and whose mailbox 2 awaits an answer. -/
def fedCore : Core := { aCore with mailboxes := [(2, .pending), (3, .full 5)] }

theorem witness_fed (b : Bundle) : StillAt (with0 fedCore) 0 b :=
  still_of (l := ⟨7, 0, false, 0⟩) (by decide +kernel) (by decide +kernel) (by decide +kernel)

theorem witness_ForageTakes : twf .empty (getCore (with0 fedCore) 0).mailboxes = true ∧
    StillAt (with0 fedCore) 0 (seqBundle 0 0x05 28 0 0 3) ∧ mailbox (getCore (with0 fedCore) 0) 3 = .full 5 ∧
    StillAt (with0 fedCore) 0 (seqBundle 0 0x05 4 0 0 0) ∧ StillAt (with0 fedCore) 0 (seqBundle 0 0x06 0 0 0 0) ∧ mailbox (getCore (with0 fedCore) 0) 0 = .empty ∧
    StillAt (with0 fedCore) 0 (seqBundle 0 0x05 4 0 0 2) ∧ StillAt (with0 fedCore) 0 (seqBundle 0 0x06 0 0 0 2) ∧ mailbox (getCore (with0 fedCore) 0) 2 = .pending :=
  ⟨by decide +kernel, witness_fed .., by decide +kernel, witness_fed .., witness_fed .., by decide +kernel, witness_fed .., witness_fed .., by decide +kernel⟩

/-- A core with the last aligned offsets of its tile store in S3 to S5: for 8, 32 and 256 bytes. -/
def farCore : Core := { aCore with sregs := [(3, 0x3FFFF8), (4, 0x3FFFE0), (5, 0x3FFF00)] }

theorem witness_far (b : Bundle) : StillAt (with0 farCore) 0 b :=
  still_of (l := ⟨7, 0, false, 0⟩) (by decide +kernel) (by decide +kernel) (by decide +kernel)

theorem witness_SeqMemoryIssues : let s := with0 farCore
    StillAt s 0 (seqBundle 0 0x18 1 3 0 0) ∧ StillAt s 0 (seqBundle 0 0x19 0 3 1 0) ∧ StillAt s 0 (seqBundle 0 0x1A 0 4 0 31) ∧ StillAt s 0 (seqBundle 0 0x1B 0 5 0 15) ∧
    (scalar s 0 3).toNat % 8 = 0 ∧ (scalar s 0 3).toNat + 8 ≤ 0x400000 ∧
    (scalar s 0 4).toNat % 32 = 0 ∧ (scalar s 0 4).toNat + 32 ≤ 0x400000 ∧ (scalar s 0 5).toNat % 256 = 0 ∧ (scalar s 0 5).toNat + 256 ≤ 0x400000 :=
  ⟨witness_far .., witness_far .., witness_far .., witness_far .., by decide +kernel, by decide +kernel, by decide +kernel, by decide +kernel, by decide +kernel, by decide +kernel⟩

theorem witness_RegisterWriteLands : ∀ i ∈ [0, 31], let s := with0 { aCore with events := [(0, .writeSreg i 5)] }
    s.cores.length = 128 ∧ Still { getCore s 0 with events := [] } ∧ (getCore s 0).events = [((getCore s 0).cycle, .writeSreg i 5)] ∧ twf 0 (getCore s 0).sregs = true := by
  unfold Still; decide +kernel

/-- The reset state with one byte stored at the end of core 0's tile store. -/
def storedState : State := { State.reset with mem := [(tileBase 0 + 0x3FFFFF, 7)] }

theorem witness_SstStores : (0x3FFFF8 % 8 = 0 ∧ 0x3FFFF8 + 8 ≤ 0x400000) ∧ twf 0 storedState.mem = true ∧ twf 0 storedState.guard = true ∧
    tget 0 storedState.guard ((tileBase 0 + 0x3FFFF8) / 32) = 0 := by decide +kernel

theorem witness_TileOperations : let s := with0 aCore
    (getCore s 0).accFree ≤ (getCore s 0).cycle ∧ (63 : BitVec 6).toNat + (0 : BitVec 6).toNat ≤ 63 ∧ (0 : BitVec 6).toNat + (63 : BitVec 6).toNat ≤ 63 ∧
    StillAt s 0 (accBundle 0 ⟨1, 63, 0, 0, 0⟩) ∧ StillAt s 0 (accBundle 0 ⟨2, 0, 0, 63, 0⟩) ∧ twf 0 s.mem = true :=
  ⟨by decide +kernel, by decide, by decide, witness_still .., witness_still .., by decide +kernel⟩

/-- A core with a move of one line in entry 15 of its move file. -/
def moverCore : Core := { aCore with moveFile := [(15, BitVec.ofNat 256 (2 ^ 192 + 2 ^ 180 + 16 * 2 ^ 168))] }

theorem witness_MovesIssue : let s := with0 moverCore
    StillAt s 0 (dmBundle 0 1 ⟨1, 15, 1, 2, 0⟩) ∧ moveChecks (getCore s 0) 0 1 false ⟨1, 15, 1, 2, 0⟩ (scalar s 0 2).toNat (dmBits ⟨1, 15, 1, 2, 0⟩) = none ∧
    StillAt s 0 (dmBundle 0 0 ⟨2, 15, 1, 0, 0⟩) ∧ moveChecks (getCore s 0) 0 0 false ⟨2, 15, 1, 0, 0⟩ (scalar s 0 0).toNat (dmBits ⟨2, 15, 1, 0, 0⟩) = none :=
  ⟨still_of (l := ⟨7, 0, false, 0⟩) (by decide +kernel) (by decide +kernel) (by decide +kernel), by decide +kernel,
    still_of (l := ⟨7, 0, false, 0⟩) (by decide +kernel) (by decide +kernel) (by decide +kernel), by decide +kernel⟩

/-- A product descriptor: BF16 operands of K positions from two places of the tile store, tile 63. -/
def productWord (k op : Nat) : BitVec 256 :=
  BitVec.ofNat 256 (2 * 2 ^ 224 + 2 * 2 ^ 192 + 4 * 2 ^ 163 + 0x4000 * 2 ^ 125 + 4 * 2 ^ 113 + (k / 32 - 1) * 2 ^ 84 + 63 * 2 ^ 78 + op * 2 ^ 68)

/-- A core with a product operation, a statistics product and an alternating pair in its product file. -/
def productCore : Core := { aCore with productFile := [(0, productWord 32 0), (1, productWord 32 1), (14, productWord 64 2), (15, productWord 32 0)] }

/-- A core with two recipes of no streams: one row of one vector, and 4,095 rows of 256 vectors. -/
def passCore : Core := { aCore with recipeFile := [(0, BitVec.ofNat 2048 (1 * 2 ^ 820 + 63 * 2 ^ 806)), (15, BitVec.ofNat 2048 (4095 * 2 ^ 820 + 255 * 2 ^ 812 + 63 * 2 ^ 806))] }

theorem witness_ProductsIssue : let s := with0 productCore
    let B := fun e => matBundle 0 ⟨1, e, 0, 0, 0, 0⟩
    (∀ e ∈ [0, 1, 14], StillAt s 0 (B e) ∧ issues s 0 (B e)) ∧ slotOp s 0 (B 0) = 0 ∧ slotOp s 0 (B 1) = 1 ∧ slotOp s 0 (B 14) = 2 ∧
    ((effective (getCore s 0) ⟨1, 14, 0, 0, 0, 0⟩ (sreg (getCore s 0))).1.second).isSome = true := by
  refine ⟨fun e he => ⟨still_of (l := ⟨7, 0, false, 0⟩) (by decide +kernel) (by decide +kernel) (by decide +kernel), ?_⟩, by decide +kernel, by decide +kernel,
    by decide +kernel, by decide +kernel⟩
  revert e; unfold issues; decide +kernel

theorem witness_PassIssues : let s := with0 passCore
    let B := fun r => vecBundle 0 ⟨1, r, 0, 0⟩
    ∀ r ∈ [0, 15], StillAt s 0 (B r) ∧ issues s 0 (B r) := by
  refine fun r hr => ⟨still_of (l := ⟨7, 0, false, 0⟩) (by decide +kernel) (by decide +kernel) (by decide +kernel), ?_⟩
  revert r; unfold issues; decide +kernel

/-- A core with scattered writes queued for bank 31, the first to the last lane of its accumulator's last line. -/
def queueCore : Core := { aCore with queues := [(31, ⟨4095, [(31, 0x3F800000)]⟩), (31, ⟨31, [(0, 0)]⟩)] }

theorem witness_ScatterApplies : ∀ q ∈ [{ queueCore with run := .halted }, { queueCore with ended := true }], let s := with0 q
    let c := getCore s 0
    s.cores.length = 128 ∧ (c.run = .halted ∨ (c.run = .running ∧ c.ended = true ∧ c.events = [] ∧ c.passes = [] ∧ c.nextLoaded = [] ∧ c.mover0.moves = [] ∧ c.mover1.moves = [] ∧
      c.mover0.lines = [] ∧ c.mover1.lines = [])) ∧ 4095 < 4096 ∧ c.waiting = [] ∧ c.queues = (31, ⟨4095, [(31, 0x3F800000)]⟩) :: [(31, ⟨31, [(0, 0)]⟩)] ∧ twf 0 s.mem = true ∧
    twf 0 s.guard = true ∧ tget 0 s.guard ((accBase 0 + 128 * 4095 + 4 * 31) / 32) = 0 := by decide +kernel

/-- A move of one line, with `more` added to its descriptor: from another module's rank 5 to the start of the tile store where `more` is 2 * 2 ^ 162. -/
def aMove (gather : Bool) (more : Nat) (entries : List (Nat × Bool)) : Move :=
  { id := 3, pc := 0, gather := gather, issued := 0, desc := 2 ^ 192 + 2 ^ 180 + 16 * 2 ^ 168 + more, ext := 5 * 2 ^ 52, coreOff := 0, lines := 1, entries := entries }

/-- A core with that move and its only line outstanding; `l` says how. -/
def movingCore (v : Move) (l : MoverLine) : Core := { aCore with mover1 := { moves := [v], lines := [l] } }

/-- What every line that MOVER_LINE_DONE ends here meets. -/
def lineState (v : Move) (l : MoverLine) : Bool :=
  let s := with0 (movingCore v l)
  let x := getMover (getCore s 0) 1
  s.cores.length == 128 && x.lines[0]? == some l && x.moves.find? (fun v => v.id == l.move) == some v && !l.held && l.remoteTag == none && !l.discard &&
    !lineWaits s 0 1 0 v l && !bankTaken s 0 (lineBanks v l) && v.coreAddr 0 l.line % 64 == 0 && twf 0 s.mem && s.guard == [] && s.hopErrors == [] && s.posted == [] && s.dispatches == []

theorem witness_MoverLineDone : let l : MoverLine := { move := 3, line := 0, due := 16, addr := some (tileBase 1 + 0x3FFFC0) }
    (lineState (aMove false 0 []) l = true ∧ (moveDesc (aMove false 0 []).desc).outbound = false ∧ l.addr = some (tileBase (1 : Fin 128).val + 0x3FFFC0) ∧ 0x3FFFC0 % 32 = 0 ∧
      0x3FFFC0 + 64 ≤ 0x400000) ∧
    (let v := aMove false (2 ^ 161) []
     lineState v l = true ∧ (moveDesc v.desc).outbound = true ∧ v.coreOff + (moveDesc v.desc).coreAt 0 + 64 ≤ spaceSize (moveDesc v.desc).space) ∧
    (let v := aMove true 0 [(0, false)]
     lineState v l = true ∧ v.gather = true ∧ v.entries[0 / (moveDesc v.desc).rowLines]? = some (0, false)) ∧
    (let r : MoverLine := { move := 3, line := 0, due := 16 }
     lineState (aMove false 0 []) r = true ∧ r.addr = none) := by decide +kernel

/-- FABRIC is enabled, its DIRECT port 0 has lane 0 UP, this rank is 1, and the rank map in core 0's tile store names rank 5 by that port. -/
def fabricState (s : State) : State :=
  let s := setBlk s FABRIC { enabled := true }
  let s := setReg (setReg (setReg s FABRIC 0x100 (2 ^ 12 + 1)) FABRIC 0x018 (2 ^ 16)) FABRIC 0x020 (tileBase 0)
  { s with lanes := s.lanes.set 0 { status := 2, major := 2, minor := 1 }, mem := tsetList 0 [] (tileBase 0 + 20) (bytesOf (2 ^ 31 + 2 ^ 24 + 9) 4) }

theorem witness_RankCacheFill : let v := aMove false (2 * 2 ^ 162) []
    let l : MoverLine := { move := 3, line := 0, due := 16, held := true, rank := 5 }
    let s := fabricState (with0 (movingCore v l))
    let x := getMover (getCore s 0) 1
    let u := (loadRank s 5).2
    let e := (loadRank s 5).1
    s.cores.length = 128 ∧ x.lines = [l] ∧ (l.held && l.rank == 5) = true ∧ x.moves.find? (fun v => v.id == l.move) = some v ∧
    (∀ (k : Fin 128) (j : Fin 2), (k, j) ≠ (0, 1) → (getMover (getCore s k.val) j.val).lines.filter (fun l => l.held && l.rank == 5) = []) ∧
    v.gather = false ∧ (moveDesc v.desc).outbound = false ∧ (moveDesc v.desc).kind = 2 ∧ fld (v.extAddr l.line) 63 52 = 5 ∧ 5 ≠ ownRank u ∧ isEnabled u FABRIC = true ∧
    bit e.toNat 31 = true ∧ choosePort u (streamOf (.coreMover 0 1)) (fld e.toNat 11 0) (fld e.toNat 30 24) = some 0 ∧ portLane u 0 = some 0 ∧
    portsMoved u (streamOf (.coreMover 0 1)) (fld e.toNat 11 0) = false := by decide +kernel

/-! ### Breaks and debugging -/

/-- Core 0 matches on count only, on tag only, or on neither, by its break control. -/
def breakState (ctl : Nat) : State := setReg (setReg (with0 aCore) (CORE 0) 0x0D0 ctl) (CORE 0) 0x0F0 0xFFFF

theorem witness_Breaks : (∀ ctl ∈ [1, 2], (breakState ctl).cores.length = 128 ∧ Still (getCore (breakState ctl) 0) ∧ (getCore (breakState ctl) 0).breakExempt = false) ∧
    ((breakMatch (breakState 1) 0 blank).1 = true ∧ breakMatch (breakState 2) 0 blank = (false, true)) ∧
    (∀ k ∈ [(⟨true, false, 0, 0, 3, 9⟩ : BreakInfo), ⟨true, true, 0, 0, 3, 9⟩, ⟨false, false, 2, 0, 3, 9⟩], ∀ r ∈ [RunState.running, .atBarrier],
      let s := with0 { aCore with brk := some k, run := r }
      s.cores.length = 128 ∧ (getCore s 0).run = r ∧ (getCore s 0).brk = some k ∧ quiescent (getCore s 0) = true) ∧
    (let s := { breakState 16 with broadcasts := [(5, 0)] }
     s.cores.length = 128 ∧ (5, 0) ∈ s.broadcasts ∧ bit (getReg s (CORE 0) 0x0D0) 4 = true ∧ isCsf1 (getCore s 0) = false ∧ (getCore s 0).run = .running ∧
     (getCore s 0).brk = none ∧ (getCore s 0).breakRequest = none ∧ running s = true ∧ bit (1 : Word64).toNat 0 = true ∧ ∀ n : Fin 128, (getCore s n.val).run ≠ .atBarrier) := by
  unfold Still; decide +kernel

/-- A core halted by a break. -/
def haltedCore : Core := { aCore with run := .halted, halt := ⟨0x60, 4, 0, 0⟩ }

theorem witness_Debugging : (with0 haltedCore).cores.length = 128 ∧ running (with0 haltedCore) = true ∧ mayResume (getCore (with0 haltedCore) 0) = true ∧
    isHalted (getCore (with0 haltedCore) 0) = true ∧ (getCore (with0 haltedCore) 0).resumeAtBarrier = false ∧ (31 : Fin 32) ≠ 0 ∧
    (getCore (with0 { haltedCore with resumeAtBarrier := true }) 0).resumeAtBarrier = true ∧ mayResume (getCore (with0 { haltedCore with resumeAtBarrier := true }) 0) = true ∧
    mayResume (getCore (with0 aCore) 0) = false ∧ isHalted (getCore (with0 aCore) 0) = false ∧
    (let c := getCore (with0 { haltedCore with recordPending := true }) 0
     c.run = .halted ∧ c.recordPending = true ∧ c.mover0.lines = [] ∧ c.mover1.lines = [] ∧ c.queues = [] ∧ c.waiting = []) := by decide +kernel

theorem witness_BankCommands : State.reset.cores.length = 128 ∧ running State.reset = true ∧ Master.keeper 0 ≠ .host ∧ (bytesOf 7 8).length = 8 ∧
    fld (ofBytes (bytesOf 0 8)) 2 1 = 0 ∧ fld (ofBytes (bytesOf 7 8)) 2 1 = 3 := by decide +kernel

/-! ### Launches, hive barriers, forage lists -/

theorem witness_LaunchAppends : let old : State := { State.reset with host := { State.reset.host with queues := [(1, 0), (2, 0), (7, 0)], arrivedAt := 0, arrivedNow := 2 } }
    (ownsQueue (.keeper 3) 3 = true ∧ lqFree { old with cycles := 1 } 3 ≠ 0 ∧ { old with cycles := 1 }.host.arrivedAt ≠ 1 ∧ running old = true) ∧
    (ownsQueue (.keeper 3) 3 = true ∧ lqFree old 3 ≠ 0 ∧ old.host.arrivedAt = old.cycles ∧ old.host.queues = [(1, 0)] ++ [(2, 0), (7, 0)] ∧
      old.host.arrivedNow = ([(2, 0), (7, 0)] : List (Nat × BitVec 512)).length) ∧
    ownsQueue .host 3 = false ∧ twf 0 old.regs = true := by decide +kernel

/-- A CSF-2 launch record for cores 0 and 127. -/
def aRecord : BitVec 512 := BitVec.ofNat 512 ((1 + 2 ^ 127) * 2 ^ 384 + 0x10 * 2 ^ 59 + 0x12)

/-- The module is READY, and a launch waits at the head of queue 7. -/
def launchState (r : BitVec 512) (c : Core) : State :=
  let s := with0 c
  { s with boot := { s.boot with state := 5 }, host := { s.host with queues := [(7, r)] } }

theorem witness_LaunchDelivers : (∀ c ∈ [({} : Core), { deliveries := List.replicate 8 (0, 0) }], let s := launchState aRecord c
      s.cores.length = 128 ∧ isReady s = true ∧ (blk s HOSTIF).errorStopped = false ∧ s.host.copying = [] ∧ s.host.queues = (7, aRecord) :: [] ∧ recordCores aRecord ≠ [] ∧
      (recordCores aRecord).filter (fun n => decide (8 ≤ (getCore s n).deliveries.length)) ≠ recordCores aRecord) ∧
    (let s := launchState 0 {}
     recordCores 0 = [] ∧ s.host.queues = (7, 0) :: [] ∧ ∀ l ∈ s.launches, l.id ≠ s.nextLaunch) := by decide +kernel

theorem witness_LaunchesRun : (let s := with0 { deliveries := [(7, aRecord)] };
      s.cores.length = 128 ∧ (getCore s 0).run = .idle ∧ (getCore s 0).deliveries = (7, aRecord) :: []) ∧ recordGood aRecord = true ∧
    (let s := with0 { deliveries := [(7, 0)] };
      s.cores.length = 128 ∧ (getCore s 0).run = .idle ∧ (getCore s 0).deliveries = (7, 0) :: []) ∧ recordGood 0 = false ∧
    (let c := getCore (with0 { aCore with ended := true }) 0
     c.run = .running ∧ c.launch = some ⟨7, 0, false, 0⟩ ∧ c.ended = true ∧ quiescent c = true) := by decide +kernel

/-- Core 0 waits at the first barrier of its launch, whose group is `g` and whose mask names list 3, in the state given; `now` is the time. -/
def barrierState (g : List Nat) (f : ForageList) (now : Nat) : State :=
  let s := setReg (with0 { aCore with run := .atBarrier, barrierCount := 1 }) FORAGE 0x008 1
  { s with time := now, forage := [{}, {}, {}, f], barriers := [{ launch := 7, number := 0, group := g, arrived := [0], mask := 8, firstArrival := 0 }] }

theorem witness_Barriers : (∀ f ∈ [({ state := 2 } : ForageList), { state := 1, descs := [5] }], let s := barrierState [0] f 2
      let b : Barrier := { launch := 7, number := 0, group := [0], arrived := [0], mask := 8, firstArrival := 0 }
      s.cores.length = 128 ∧ s.forage.length = 4 ∧ barrierOf s 0 = some b ∧ barrierReady s b = true ∧ b.group.Nodup ∧ (∀ m ∈ b.group, twf .empty (getCore s m).mailboxes = true) ∧
      waitsAt (getCore s 0) b = true) ∧
    (let s := barrierState [0] { state := 2 } 2
     (bitList 8 4).filter (undrained s [0]) = []) ∧ (let s := barrierState [0] { state := 1, descs := [5] } 2; (bitList 8 4).filter (undrained s [0]) = [3]) ∧
    (let s := barrierState [0, 127] {} 6
     let b : Barrier := { launch := 7, number := 0, group := [0, 127], arrived := [0], mask := 8, firstArrival := 0 }
     s.cores.length = 128 ∧ barrierOf s 0 = some b ∧ (∃ m ∈ b.group, m ∉ b.arrived) ∧ b.arrived.Nodup ∧ getReg s FORAGE 0x008 ≠ 0 ∧
     getReg s FORAGE 0x008 + 4 < s.time - b.firstArrival - b.pausedFor ∧ waitsAt (getCore s 0) b = true) ∧
    (let s := barrierState [0, 127] {} 1
     max (tget 0 s.readings FORAGE) s.time - 0 - 0 ≤ getReg s FORAGE 0x008) := by decide +kernel

/-- List 3 in the state given. -/
def forageState (f : ForageList) : State := { State.reset with forage := [{}, {}, {}, f] }

theorem witness_ForageAnswers : (∀ f ∈ [({ state := 2, descs := [5, 6], requests := [3, 0] } : ForageList), { state := 1, descs := [5], waiting := [7], requests := [0] },
      { state := 2, requests := [0] }, { requests := [0] }],
      (forageState f).cores.length = 128 ∧ (forageState f).forage.length = 4 ∧ getList (forageState f) 3 = f ∧ 0 ∈ f.requests ∧ f.held = []) ∧
    ([] : List (BitVec 256)).length < 16384 ∧ ({ state := 1, descs := [5], waiting := [7], requests := [0] } : ForageList).totalKnown = false ∧
    (getList (forageState { answers := [(0, 5)] }) 3).answers = (0, 5) :: [] ∧ twf .empty (getCore (forageState {}) 0).mailboxes = true := by decide +kernel

theorem witness_CoreResets : State.reset.cores.length = 128 ∧ running State.reset = true := by decide +kernel

/-! ### Local memory, the steward, the sentry, enables -/

/-- Core 0 uses the bank of the first line of its tile store in this cycle. -/
def busyState : State := with0 { aCore with ports := [(0, 0, 0)], portsAt := 0 }

theorem witness_LocalMemory : (∀ m ∈ [Master.keeper 0, .host], let s := { storedState with host := { State.reset.host with inReset := false, linkUp := true } }
      let s := { setReg s HOSTIF 0x008 (tileBase 0 / 2 ^ 32) with boot := { s.boot with configured := true } }
      let a := tileBase 0 + 0x3FFFC0
      running s = true ∧ (m = .host → hostUp s = true ∧ inBar2 s a = true ∧ s.boot.configured = true) ∧ 0 < 64 ∧ 0x3FFFC0 + 64 ≤ 0x400000 ∧
      s.guard = [] ∧ s.hopErrors = [] ∧ s.stateErrors = [] ∧ s.dispatches = [] ∧ s.posted = [] ∧ twf 0 s.mem = true ∧
      accessWaits s { master := m, addr := a, len := 64 } s.waitingAccesses = false ∧
      accessWaits s { master := m, addr := a + 63, len := 1, write := some ([1], allGranules (a + 63) 1) } s.waitingAccesses = false) ∧
    (let s := busyState
     accessWaits s { master := .keeper 0, addr := tileBase 0, len := 1 } s.waitingAccesses = true ∧
     accessWaits s { master := .keeper 0, addr := tileBase 0, len := 1, write := some ([1], []) } s.waitingAccesses = true) := by decide +kernel

theorem witness_ScrubAndPoison : let s := { storedState with guard := [(3, 1)], scrubs := [(3, false), (4, true)] }
    twf 0 s.mem = true ∧ twf 0 s.guard = true ∧ (3, false) ∈ s.scrubs ∧ (4, true) ∈ s.scrubs ∧ (4, false) ∉ s.scrubs ∧ (3, true) ∉ s.scrubs := by decide +kernel

theorem witness_RecordsWrite : storedState.guard = [] ∧ storedState.hopErrors = [] ∧ twf 0 storedState.mem = true := by decide +kernel

/-- Slots 5 and 4095: one enabled, with a writer, and one enabled without. -/
def stewardState : State := { State.reset with steward := [(5, BitVec.ofNat 128 (2 ^ 32 + 2 ^ 9 + 3 * 2 ^ 13)), (4095, BitVec.ofNat 128 (2 ^ 9 + 8 * 2 ^ 13))] }

theorem witness_Steward : let s := stewardState
    twf 0 s.steward = true ∧ running s = true ∧ slotWriters (slotBits s 5) = 1 ∧ slotPending (slotBits s 5) = false ∧ 5 ∉ s.disables ∧ slotEnabled (slotBits s 5) = true ∧
    slotEnabled (slotBits s 4095) = true ∧ slotWriters (slotBits s 4095) = 0 ∧ fld (0x1FFF : Word64).toNat 11 0 = 4095 ∧ fld (0x1FFF : Word64).toNat 24 12 = 1 ∧
    fld (0x1005 : Word64).toNat 11 0 = 5 ∧ fld (0x1005 : Word64).toNat 24 12 = 1 ∧ fld (0x005 : Word64).toNat 24 12 = 0 ∧ 4096 < fld (0x1001005 : Word64).toNat 24 12 := by
  decide +kernel

/-- The steward's slots with STEWARD_INDEX at slot k. -/
def slotState (k : Nat) : State := setReg stewardState NUMERIC 0x020 k

theorem witness_StewardSlotWrites : (let s := slotState 0
      running s = true ∧ twf 0 s.steward = true ∧ twf 0 s.regs = true ∧ slotEnabled (slotBits s (getReg s NUMERIC 0x020)) = false ∧ s.slotRejected = none ∧
      bit (0x6200 : Word64).toNat 9 = true ∧ fld (0x6200 : Word64).toNat 16 13 = 3 ∧ bit (0x10200 : Word64).toNat 9 = true ∧ fld (0x10200 : Word64).toNat 16 13 = 8) ∧
    ∀ k ∈ [5, 4095], let s := slotState k
      let v := slotBits s (getReg s NUMERIC 0x020)
      slotEnabled v = true ∧ Nat.land (Nat.xor v (v % 2 ^ 32)) guardedMask = 0 ∧ bit (v % 2 ^ 32) 9 = true ∧ Nat.land (Nat.xor v (2 ^ 13 * 4 + 2 ^ 9)) guardedMask ≠ 0 ∧
      Nat.land (Nat.xor v (v % 2 ^ 32 - 2 ^ 9)) guardedMask = 0 ∧ bit (v % 2 ^ 32 - 2 ^ 9) 9 = false ∧ (slotWriters v = 0 ↔ k = 4095) := by decide +kernel

/-- A capture of an operation with one product of exact or inexact operands. -/
def aCapture (a : F32) : Capture := { bytes := 0, core := 0, ordinal := 0, op := 0, a := [[some a]], b := [[0x3F800000]], before := [0], after := [a] }

theorem witness_SentryCompares : let s := with0 { aCore with captures := [aCapture 0x3F800000, aCapture 0x3F800001] }
    s.cores.length = 128 ∧ twf 0 s.regs = true ∧ (getCore s 0).captures = aCapture 0x3F800000 :: [aCapture 0x3F800001] := by decide +kernel

/-- The state with a block enabled. -/
def enabledState (b : Nat) (s : State) : State := setBlk s b { enabled := true }

theorem witness_Enables : let s := State.reset
    let w := fun (s : State) (b v : Nat) => writeField s b 0x008 (regAt b 0x008) v
    running s = true ∧ twf {} s.blocks = true ∧ twf 0 s.regs = true ∧ bit (1 : Word64).toNat 0 = true ∧ bit (0 : Word64).toNat 0 = false ∧
    (∀ b ∈ [NUMERIC, EXCH, SOLVER, COLL, SCACHE, POOL, FABRIC, MEMC 11, LINK 7], (blk s b).errorStopped = false ∧ configIllegal (w s b 1) b = false ∧ mayDisable (w s b 0) b = true) ∧
    configIllegal (w (setReg s EXCH 0x018 13) EXCH 1) EXCH = true ∧ (blk (setBlk s EXCH { errorStopped := true }) EXCH).errorStopped = true ∧
    (let r := { enabledState SCACHE s with cacheLines := [(0, true)] }
     isEnabled r SCACHE = true ∧ mayDisable (w r SCACHE 0) SCACHE = false) := by decide +kernel

/-! ### DMA -/

/-- Bytes of a word stored at an address. -/
def stored (a v n : Nat) (s : State) : State := { s with mem := tsetList 0 s.mem a (bytesOf v n) }

/-- A DMA descriptor: one row of 64 BF16 values, or as many as `more` adds, from one place of core 0's tile store to another. -/
def dmaWord (more : Nat) : Nat :=
  (tileBase 0 + 0x1000) * 2 ^ 448 + (tileBase 0 + 0x3FFF80) * 2 ^ 384 + 2 * 2 ^ 288 + 2 * 2 ^ 256 + 2 ^ 236 + 64 * 2 ^ 216 + 4 * 2 ^ 192 + 64 * 2 ^ 168 +
    (tileBase 0 + 0x200000) * 2 ^ 53 + more

/-- Channel 31 may take the descriptor at the tail of its ring of two. -/
def dmaState (more : Nat) : State :=
  let s := setReg (setReg (setReg State.reset DMA (0x100 + 32 * 31) (tileBase 0)) DMA (0x108 + 32 * 31) 1) DMA (0x110 + 32 * 31) 1
  stored (tileBase 0) (dmaWord more) 64 { s with dmaOn := 0x80000000 }

/-- The descriptor as channel 31 reads it. -/
def dmaRead (more : Nat) : Rd × State := readSpan (.dma 31) (dmaState more) (ringSlot (dmaState more) 31) 64

theorem witness_DmaChannels : ∀ x ∈ [(0, 0, false), (1, 2 ^ 126, false), (2, 2 ^ 117 + 2 ^ 126, false), (0, 1, true), (1, 2 ^ 126 + 1, true), (2, 2 ^ 117 + 2 ^ 126 + 1, true)],
    let s := dmaState x.2.1
    let u := (dmaRead x.2.1).2
    let d := dmaDesc (ofBytes (dmaRead x.2.1).1.data)
    s.dma.length = 32 ∧ twf 0 u.regs = true ∧ mayTake s 31 = true ∧ d.mode = x.1 ∧ (dmaRead x.2.1).1.poison = [] ∧
    descriptorBad u d = x.2.2 ∧ d.tensorDst = false ∧ d.srcKind = 0 ∧ d.dstKind = 0 ∧ d.dst2Kind = 0 ∧ ∀ r ∈ u.remote, r.master ≠ .dma 31 := by decide +kernel

theorem witness_DmaCarries : let d := dmaDesc (ofBytes (dmaRead 0).1.data)
    let u := (dmaRead 0).2
    d.carries = true ∧ d.rows = 1 ∧ u.guard = [] ∧ u.hopErrors = [] ∧ twf 0 u.mem = true ∧ d.src = tileBase 0 + 0x1000 ∧ (d.rowRange 0).2 = 0x80 ∧
    d.dst = tileBase 0 + 0x3FFF80 := by decide +kernel

theorem witness_DmaFinishes : ∀ x ∈ [(0, 0), (1, 2 ^ 126), (2, 2 ^ 117 + 2 ^ 126)], ∀ f ∈ [false, true],
    let j : DmaJob := { desc := BitVec.ofNat 512 (dmaWord x.2), started := 0, done := 1, total := 1, finished := f }
    let s := setJob State.reset 31 (some j)
    s.dma.length = 32 ∧ getJob s 31 = some j ∧ (dmaDesc j.desc.toNat).mode = x.1 ∧ dmaWaits s 31 true = false ∧ dmaWaits s 31 false = false ∧ j.out = false ∧ j.fault = 0 ∧
    j.finished = f ∧ j.done = j.total := by decide +kernel


/-! ### Dispatches -/

/-- The module READY. -/
def readyState (s : State) : State := { s with boot := { s.boot with state := 5 } }

/-- Lane 95 is up at major version 2. -/
def laned (s : State) : State := setLane s 95 { status := 2, major := 2 }

/-- One frame of a message on lane 95, in order and whole. -/
def oneFrame : Via := [(95, { header0 with type := 6 })]

/-- A dispatch descriptor of one rank, with one slot, one choice a token, rows of 32 bytes, for list 3; `back` for a replay. -/
def dispWord (back : Nat) : Nat :=
  (tileBase 0 + 0x10000) * 2 ^ 982 + (tileBase 0 + 0x20000) * 2 ^ 940 + (tileBase 0 + 0x30000) * 2 ^ 898 + (tileBase 0 + 0x40000) * 2 ^ 856 +
    (tileBase 0 + 0x50000) * 2 ^ 814 + (tileBase 0 + 0x60000) * 2 ^ 772 + (tileBase 0 + 0x70000) * 2 ^ 730 + (tileBase 0 + 0x80000) * 2 ^ 688 +
    (tileBase 0 + 0x90000) * 2 ^ 646 + 0x10000000000 * 2 ^ 604 + (tileBase 0 + 0xA0000) * 2 ^ 562 + 2 ^ 538 + 2 ^ 514 + 2 ^ 490 + 5 * 2 ^ 426 + 3 * 2 ^ 378 + 2 ^ 341 +
    2 ^ 327 + 2 ^ 302 + 2 ^ 293 + 2 ^ 282 + 3 * 2 ^ 277 + back * 2 ^ 276 + 0x11

/-- EXCH may take the descriptor `v` at the tail of its ring. -/
def exchState (v : Nat) : State :=
  let s := setReg (setReg (setReg State.reset EXCH 0x010 (tileBase 0)) EXCH 0x018 1) EXCH 0x020 1
  readyState (stored (tileBase 0) v 128 (enabledState EXCH s))

theorem witness_ExchangeTakes : ∀ x ∈ [(dispWord 0, false), (dispWord 1, false), (dispWord 0 + 1, true)], let s := exchState x.1
    let r := readSpan (.dispatch 0) s (ringAddr (getReg s EXCH 0x010) (getReg s EXCH 0x018) (getReg s EXCH 0x028) 128) 128
    let d := dispDesc (ofBytes r.1.data)
    isReady s = true ∧ twf 0 r.2.regs = true ∧ s.forage.length = 4 ∧ takesWork s EXCH = true ∧ (blk s EXCH).disabling = false ∧
    getReg s EXCH 0x028 ≠ getReg s EXCH 0x020 ∧ getReg s EXCH 0x018 ≠ 0 ∧ getReg s EXCH 0x018 ≤ 12 ∧ r.1.poison = [] ∧
    (getList s d.list).state = 0 ∧ byList s d.list = none ∧ byId s d.id = none ∧ dispatchBad r.2 d = x.2 ∧ d.arm = false := by decide +kernel

/-- A dispatch of that descriptor. -/
def aDispatch (back : Nat) : Dispatch := { list := 3, desc := BitVec.ofNat 1024 (dispWord back), taken := 0 }

/-- The state in which it is the one active dispatch, with scratch memory and a lane. -/
def dispState (x : Dispatch) : State :=
  laned { enabledState SCACHE (setReg State.reset SCACHE 0x008 2) with dispatches := [x] }

/-- The slot table has its one slot valid, the expert its replica in it, and the token its choice of the expert. -/
def tableState : State :=
  stored (tileBase 0 + 0x10000) (0x3F800000) 64 (stored (tileBase 0 + 0x40000) (2 ^ 160) 32 (stored (tileBase 0 + 0x50000) (2 ^ 63 + 32 * 2 ^ 42) 8 (dispState (aDispatch 0))))

theorem witness_ForwardStarts : let x := aDispatch 0
    let s := tableState
    let d := x.d
    let slots := slotSnaps ((chunks 8 d.nslots (memBytes s d.slotTable (8 * d.nslots))).map ofBytes)
    let ept := (chunks 32 d.experts (memBytes s d.ept (32 * d.experts))).map ofBytes
    byList s 3 = some x ∧ d.back = false ∧ x.waits = none ∧ x.started = none ∧ x.fault = 0 ∧ x.armFail = false ∧ s.heldMessages = [] ∧ s.guard = [] ∧ s.hopErrors = [] ∧
    (∀ r ∈ [(d.slotTable, 8 * d.nslots), (d.ept, 32 * d.experts), (d.choices, 64 * d.tokens)], tileBase 0 ≤ r.1 ∧ r.1 + r.2 ≤ tileBase 0 + 0x400000) ∧
    slots = [{ valid := true, capacity := 32, expert := 0, base := 0 }] ∧ doneBad s 3 d.done (maxTiles slots) = false ∧ placementBad d (ownRank s) ept slots = false ∧ d.tokens = 1 ∧
    (match recordChoices d (ownRank s) 0 ept (ofBytes (memBytes s (d.choices + 64 * 0) 64)) with | .inl cs => cs.length | .inr _ => 0) = 1 := by decide +kernel

/-- The summary of the forward dispatch has one tile in its one slot. -/
def summaryState : State :=
  stored (tileBase 0 + 0x60000) (3 * 2 ^ 160 + 2 ^ 136 + 2 ^ 127) 32 (dispState (aDispatch 1))

theorem witness_ReplayStarts : let x := aDispatch 1
    let s := summaryState
    let d := x.d
    let h := ofBytes (memBytes s d.summary 32)
    byList s 3 = some x ∧ d.back = true ∧ x.waits = none ∧ x.started = none ∧ x.fault = 0 ∧ x.armFail = false ∧ s.heldMessages = [] ∧ s.guard = [] ∧ s.hopErrors = [] ∧
    (∀ r ∈ [(d.summary, 32 + 16 * d.nslots), (d.waggle, 16 * (d.tokens * d.kc))], tileBase 0 ≤ r.1 ∧ r.1 + r.2 ≤ tileBase 0 + 0x400000) ∧
    fld h 191 176 = d.fwdId ∧ fld h 175 160 = d.gen ∧ fld h 135 127 = d.nslots ∧ fld h 159 136 = 1 ∧ doneBad s 3 d.done (fld h 159 136) = false := by decide +kernel

theorem witness_StartsFail : ∀ b ∈ [0, 1], let x := { aDispatch b with armFail := true }
    byList (dispState x) 3 = some x ∧ x.d.back = (b == 1) ∧ x.waits = none ∧ x.started = none ∧ x.fault = 0 ∧ x.armFail = true := by decide +kernel

/-- A started dispatch of two ranks with its slot valid and two choices of it undecided. -/
def liveDispatch : Dispatch :=
  { aDispatch 0 with desc := BitVec.ofNat 1024 (dispWord 0 + 2 ^ 302), started := some 0, phase := 1, slots := [{ valid := true, capacity := 32, expert := 0 }],
                     choices := [{ token := 0, rank := 0, expert := 0, raw := 0, owner := 1 }, { token := 1, rank := 0, expert := 0, raw := 0, owner := 1 }] }

/-- A message header of rank 1 for it. -/
def aHeader : DispatchHeader := ⟨0, 5, 3, 1, 0⟩

theorem witness_ExchangeCounts : let s := dispState liveDispatch
    let x := liveDispatch
    let u := arrivalOf s oneFrame 1 aHeader.dispatchId.toNat aHeader.srcRank.toNat
    (acceptFrames s oneFrame).1 = true ∧ byId u aHeader.dispatchId.toNat = some x ∧ byList u x.list = some x ∧ x.live = true ∧ u.awaited = [] ∧ aHeader.gen.toNat = x.d.gen ∧
    x.d.back = false ∧ x.d.base ≤ aHeader.srcRank.toNat ∧ aHeader.srcRank.toNat < x.d.base + x.d.size ∧ (x.counts.any (fun c => c.1 == aHeader.srcRank.toNat)) = false ∧
    aHeader.digest = x.digest ∧ (x.slots[(⟨0, 0, 1⟩ : ScoutEntry).slot.toNat]?).map (·.valid) = some true ∧ x.counts.length + 1 ≠ x.d.size ∧
    x.grantsFrom.contains aHeader.srcRank.toNat = false ∧ x.grantsFrom.length + 1 ≠ x.d.size := by decide +kernel

theorem witness_GrantsFill : allGrants { liveDispatch with counts := [(0, [(0, 0, 20)]), (1, [(0, 0, 20)])] } = [⟨0, 0, 0, 20, 20, 0⟩] ++ ⟨1, 0, 0, 20, 12, 20⟩ :: [] := by
  decide +kernel

/-- Its first tile waits with a granted request of two cells. -/
def tileDispatch : Dispatch :=
  { liveDispatch with grantsDone := true, granted := [32], tiles := [{ index := 0, slot := 0, j := 0, rows := 32, request := some 9 }] }

/-- The pool holds that grant. -/
def tileState (x : Dispatch) : State := { dispState x with reservations := [⟨9, 0, 3, 33, false⟩] }

theorem witness_TilesReserve : let s := tileState tileDispatch
    byList s 3 = some tileDispatch ∧ tileDispatch.live = true ∧ tileDispatch.tiles.find? (fun t => t.rowList.isNone) = some { index := 0, slot := 0, j := 0, rows := 32, request := some 9 } ∧
    (granted s 9).map (·.cells) = some 33 := by decide +kernel

/-- The tile with its row-list cell, appended as the first of its list. -/
def openTile : TileState := { index := 0, slot := 0, j := 0, rows := 32, request := some 9, rowList := some 0x11000000000, seq := some 0 }

theorem witness_RowsLand : let x := { tileDispatch with tiles := [openTile] }
    let s := tileState x
    ∀ p ∈ [0, 31], let tag : RowTag := ⟨5, 3, 1, 0, [(0, 0, p)]⟩
      let u := arrivalOf s oneFrame 1 tag.dispatchId.toNat tag.srcRank.toNat
      (acceptFrames s oneFrame).1 = true ∧ byId u tag.dispatchId.toNat = some x ∧ byList u x.list = some x ∧ x.live = true ∧ tag.gen.toNat = x.d.gen ∧ x.grantsDone = true ∧
      rowFault x tag.targets = none ∧ tileOf x 0 p = some openTile ∧ openTile.rowList.isSome = true ∧ openTile.request = some 9 ∧ (granted u 9).map (·.cells) = some 33 ∧
      x.d.rowCells ≠ 0 ∧ x.d.rowCells ≤ 33 := by decide +kernel

theorem witness_RowsArePosted : let x := { tileDispatch with tiles := [openTile] }
    let s := dispState x
    let a := (0x10000000000 : BitVec 42).toNat
    running s = true ∧ byList s x.list = some x ∧ s.dispatches.find? (fun x => x.live && decide (x.doneRange.1 ≤ a ∧ a < x.doneRange.1 + x.doneRange.2)) = some x ∧
    (List.replicate 64 (0 : Byte)).length = 64 ∧ a % 64 = 0 ∧ x.tiles.find? (fun t => t.seq == some ((a - x.d.done) / 64)) = some openTile ∧ openTile.posted = false := by decide +kernel

theorem witness_RowsReturn : let x := { tileDispatch with tiles := [openTile] }
    let s := dispState x
    let tag : RowTag := ⟨5, 3, 0, 0, [(0, 0, 31)]⟩
    let u := arrivalOf s oneFrame 1 tag.dispatchId.toNat (returnSource s tag)
    let a := x.d.ret + 32 * x.d.retPitch * (tag.token.toNat * x.d.kc + 0)
    (acceptFrames s oneFrame).1 = true ∧ byId u tag.dispatchId.toNat = some x ∧ byList u x.list = some x ∧ x.live = true ∧ tag.gen.toNat = x.d.gen ∧
    x.d.rowBytes ≤ (List.replicate 32 (0 : Byte)).length ∧ tileBase 0 ≤ a ∧ a + x.d.rowBytes ≤ tileBase 0 + 0x400000 ∧ u.guard = [] ∧ u.hopErrors = [] ∧ twf 0 u.mem = true := by
  decide +kernel

theorem witness_ExchangeEnds : let s := fun (t : Nat) => { setReg (dispState liveDispatch) EXCH 0x030 1 with time := t }
    let u := arrivalOf (s 6) oneFrame 1 aHeader.dispatchId.toNat aHeader.srcRank.toNat
    let e := { liveDispatch with grantsDone := true, carrySent := true, choices := [{ token := 0, rank := 0, expert := 0, raw := 0, status := 2 }] }
    (acceptFrames (s 6) oneFrame).1 = true ∧ byId u aHeader.dispatchId.toNat = some liveDispatch ∧ byList u 3 = some liveDispatch ∧ liveDispatch.live = true ∧ u.awaited = [] ∧
    aHeader.gen.toNat = liveDispatch.d.gen ∧ byList (s 6) 3 = some liveDispatch ∧ liveDispatch.started = some 0 ∧ getReg (s 6) EXCH 0x030 ≠ 0 ∧
    getReg (s 6) EXCH 0x030 + 4 < (s 6).time - 0 ∧ getReg (dispState liveDispatch) EXCH 0x030 = 0 ∧ max (tget 0 (s 1).readings EXCH) (s 1).time - 0 ≤ getReg (s 1) EXCH 0x030 ∧
    (∀ f ∈ [0, 7], let x := { e with fault := f }; byList (dispState x) 3 = some x ∧ dispatchOver (dispState x) x = true) ∧
    (∀ c ∈ e.choices, let a := e.d.ret + 32 * e.d.retPitch * (c.token * e.d.kc + c.rank); tileBase 0 ≤ a ∧ a + e.d.rowBytes ≤ tileBase 0 + 0x400000) := by decide +kernel

/-! ### The solver -/

/-- A solver descriptor of one block for the algorithm `alg`, with `more` added, delivered to core 0's tile store by the deadline 100. -/
def solverWord (alg more : Nat) : Nat :=
  100 * 2 ^ 960 + tileBase 0 * 2 ^ 876 + tileBase 0 * 2 ^ 834 + (tileBase 0 + 0x100000) * 2 ^ 792 + (tileBase 0 + 0x200000) * 2 ^ 708 + 256 * 2 ^ 484 + alg * 2 ^ 477 +
    4 * 2 ^ 449 + 0x11 + more

/-- The head job of a descriptor on channel 15, which only unit 3 serves. -/
def headState (v : Nat) : State :=
  setHead (setReg (enabledState SOLVER State.reset) SOLVER (0x108 + 32 * 15) (2 ^ 11 + 1)) 15 (some { desc := BitVec.ofNat 1024 v, arrived := 0 })

/-- Channel 15 may read the descriptor `v` at the tail of its ring. -/
def ringState (v : Nat) : State :=
  readyState (stored (tileBase 0) v 128
    (setReg (setReg (setReg (enabledState SOLVER State.reset) SOLVER (0x100 + 32 * 15) (tileBase 0)) SOLVER (0x108 + 32 * 15) 1) SOLVER (0x110 + 32 * 15) 1))

theorem witness_SolverHeads : ∀ a ∈ [1, 2, 3, 0], let s := ringState (solverWord a 0)
    let r := readSpan .solverRecord s (ringAddr (getReg s SOLVER (0x100 + 32 * 15)) (fld (getReg s SOLVER (0x108 + 32 * 15)) 4 0) (getReg s SOLVER (0x118 + 32 * 15)) 128) 128
    let d := solvDesc (ofBytes r.1.data)
    s.heads.length = 16 ∧ channelReady s 15 = true ∧ r.1.poison = [] ∧ solverBad d = (a == 0) ∧ d.arm = false ∧ twf 0 r.2.regs = true := by decide +kernel

theorem witness_HeadDeadlines : ∀ t ∈ [100, 105], let s := { headState (solverWord 1 0) with time := t }
    let h : HeadJob := { desc := BitVec.ofNat 1024 (solverWord 1 0), arrived := 0 }
    s.heads.length = 16 ∧ getHead s 15 = some h ∧ headDeadline h = some 100 ∧ (if t = 105 then 100 + 4 < s.time else max (tget 0 s.readings SOLVER) s.time ≤ 100) := by decide +kernel

/-- What makes a job assemble a statistic at 0x300000 of core 0's tile store, with an ALPHA of 0.5, into another factor. -/
def assembling : Nat := (tileBase 0 + 0x300000) * 2 ^ 918 + 0x8000 * 2 ^ 834 + 0x3F000000 * 2 ^ 628 + 2 ^ 475

/-- The state of that head job, with the statistic's header. -/
def statState (a : Nat) : State := stored (tileBase 0 + 0x300000) (8 * 2 ^ 32 + 1) 64 (headState (solverWord a assembling))

theorem witness_SolverTakesJobs : ∀ a ∈ [1, 2, 3], ∀ m ∈ [0, 2 ^ 475, assembling], let s := if m = assembling then statState a else headState (solverWord a m)
    let h : HeadJob := { desc := BitVec.ofNat 1024 (solverWord a m), arrived := 0 }
    let d := solvDesc h.desc.toNat
    s.heads.length = 16 ∧ s.units.length = 4 ∧ twf 0 s.regs = true ∧ getUnit s 3 = none ∧ (blk s SOLVER).enabled = true ∧ (blk s SOLVER).disabling = false ∧
    (blk s SOLVER).errorStopped = false ∧ chooseHead s 3 = some (15, h) ∧ d.alg = a ∧
    (if m = 0 then d.assemble = false else d.assemble = true ∧ d.visited = false ∧ d.init = false ∧
      (if m = assembling then fmag d.alpha ≠ 0 ∧ s.guard = [] ∧ s.hopErrors = [] ∧ tileBase 0 ≤ d.stat ∧ d.stat + 64 ≤ tileBase 0 + 0x400000 ∧
        (match statHeader d (ofBytes (memBytes s d.stat 64)) with | .inr p => p.1 | .inl _ => 0) = 8 else fmag d.alpha = 0)) := by decide +kernel

/-- A job on unit 3 with one step to run. -/
def aJob (k : Nat × Nat) : SolverJob :=
  { channel := 15, desc := BitVec.ofNat 1024 (solverWord 2 0), headAt := 0, deadline := 1000, plan := [k], total := 1,
    slot := if k.1 = 12 then some (BitVec.ofNat 512 ((tileBase 0 / 32 + 1) * 2 ^ 470)) else none }

/-- The state with that job; its slot names two buffers in core 0's tile store. -/
def jobState (k : Nat × Nat) (t : Nat) : State :=
  stored (tileBase 0 + 0x100000) (tileBase 0 * 2 ^ 470 + (tileBase 0 + 0x10000) * 2 ^ 428) 64 { setUnit State.reset 3 (some (aJob k)) with time := t }

theorem witness_SolverSteps : ∀ k ∈ [(0, 0), (1, 0), (2, 0), (3, 0), (4, 0), (5, 0), (6, 0), (6, 1), (7, 0), (7, 1), (8, 0), (9, 0), (10, 0), (10, 1), (11, 0)], let s := jobState k 100
    s.units.length = 4 ∧ getUnit s 3 = some (aJob k) ∧ (aJob k).plan = k :: [] ∧ max (tget 0 s.readings SOLVER) s.time ≤ (aJob k).deadline ∧ s.guard = [] ∧ s.hopErrors = [] := by
  decide +kernel

theorem witness_SolverReads : let s := setUnit State.reset 3 (some (aJob (0, 0)))
    let d := solvDesc (aJob (0, 0)).desc.toNat
    s.units.length = 4 ∧ getUnit s 3 = some (aJob (0, 0)) ∧ max (tget 0 s.readings SOLVER) s.time ≤ (aJob (0, 0)).deadline ∧ s.guard = [] ∧ s.hopErrors = [] ∧
    d.assemble = false ∧ d.init = false ∧ tileBase 0 ≤ d.factorIn ∧ d.factorIn + d.bytes ≤ tileBase 0 + 0x400000 ∧
    ((((blockList d.m).drop (32 * 0)).take 32).flatMap (fun b => words4 (memBytes s (d.factorIn + 16384 * blockIndex d.m b.1 b.2) 16384))).all isFinite = true := by decide +kernel

theorem witness_SolverWrites : let s := jobState (11, 0) 100
    let j := aJob (11, 0)
    let d := solvDesc j.desc.toNat
    let v := ofBytes (memBytes s d.slot 64)
    j.slot = none ∧ max (tget 0 s.readings SOLVER) s.time + writebackTime d ≤ j.deadline ∧ tileBase 0 ≤ d.slot ∧ d.slot + 64 ≤ tileBase 0 + 0x400000 ∧ slotBad v = false ∧ bit v 0 = false ∧
    tileBase 0 ≤ fld v 511 470 ∧ fld v 511 470 + 32 * d.pitch * d.n ≤ tileBase 0 + 0x400000 ∧ d.n * d.width ≤ 32 * d.pitch := by decide +kernel

theorem witness_SolverEnds : let j := { aJob (12, 0) with deadline := 100 }
    let d := solvDesc j.desc.toNat
    ∀ t ∈ [100, 105], let s := { setUnit State.reset 3 (some j) with time := t }
      s.units.length = 4 ∧ getUnit s 3 = some j ∧ (if t = 105 then j.deadline + 4 < s.time else max (tget 0 s.readings SOLVER) s.time ≤ j.deadline) ∧
      j.slot.isSome = true ∧ d.slot = tileBase (0 : Fin 128).val + 64 * 0x4000 ∧ d.record = tileBase (0 : Fin 128).val + 64 * 0x8000 ∧ s.guard = [] ∧ s.hopErrors = [] ∧
      twf 0 s.mem = true := by decide +kernel

/-! ### Collectives -/

/-- A table entry for two ranks, two units of 32 bytes in core 0's tile store, FP32 elements, with `more` added. -/
def entryWord (op more : Nat) : Nat :=
  tileBase 0 * 2 ^ 982 + (tileBase 0 + 0x3FFFC0) * 2 ^ 940 + 2 * 2 ^ 832 + 2 ^ 812 + 2 * 2 ^ 755 + 2 ^ 743 + 5 * 2 ^ 662 + op * 2 ^ 658 + 2 ^ 654 +
    (if op = 1 ∨ op = 2 ∨ op = 4 then 2 ^ 652 + 2 ^ 650 else 0) + 2 ^ 649 + 0x11 + more

/-- An invocation record of INDEX 1023 and EPOCH 1. -/
def invocationWord : Nat := (tileBase 0 + 0x200000) * 2 ^ 214 + 2 ^ 134 + 1023 * 2 ^ 108 + 0x11

/-- A collective of an entry as this rank, the first of two, holds it. -/
def aCollective (op more : Nat) : Collective :=
  { id := ⟨1023, 1⟩, record := BitVec.ofNat 256 invocationWord, entry := BitVec.ofNat 1024 (entryWord op more), members := [0, 1], self := 0, posted := 0 }

/-- The state that holds it. -/
def collState (c : Collective) : State := laned { enabledState COLL State.reset with collectives := [c], collTable := [(1023, c.entry)] }

/-- The state in which an OPEN, a piece or an abort of rank 1 has come to it. -/
def collArrival (c : Collective) : State := arrivalOf (collState c) oneFrame 2 c.id.index.toNat (1 : BitVec 12).toNat

theorem witness_TableLoads : let s := setReg State.reset COLL 0x028 (tileBase 0)
    let c := collState (aCollective 1 0)
    running s = true ∧ running c = true ∧ (Master.keeper 0 ≠ .host) ∧ (fld (0 : Word64).toNat 20 10 = 0) ∧ 1024 < fld (0x7FF : Word64).toNat 9 0 + fld (0xBFF : Word64).toNat 20 10 ∧
    (∃ x ∈ c.collectives, fld (0x7FF : Word64).toNat 9 0 ≤ x.id.index.toNat ∧ x.id.index.toNat < fld (0x7FF : Word64).toNat 9 0 + fld (0x7FF : Word64).toNat 20 10) ∧
    s.collectives = [] ∧ twf 0 s.collTable = true ∧
    ∀ w ∈ [0x400, 0x7FF], let v : Word64 := BitVec.ofNat 64 w
      let first := fld v.toNat 9 0
      let n := fld v.toNat 20 10
      let r := readSpan .collRecord s (getReg s COLL 0x028) (128 * n)
      let b := readSpan .collRecord { s with guard := [(tileBase 0 / 32, poisonDev)] } (getReg s COLL 0x028) (128 * n)
      n ≠ 0 ∧ first + n ≤ 1024 ∧ r.1.poison = [] ∧ r.1.data.length = 128 * n ∧ b.1.poison ≠ [] := by decide +kernel

/-- The table holds the entry, and the ring whose registers start at `base` one record of it. -/
def recordState (base : Nat) : State :=
  readyState (stored (tileBase 0) invocationWord 32
    { setReg (setReg (setReg (collState (aCollective 1 0)) COLL base (tileBase 0)) COLL (base + 8) 12) COLL (base + 0x10) 1 with collectives := [] })

theorem witness_RecordsPost : (∀ base ∈ [0x040, 0x060], let s := recordState base
      let r := readSpan .collRecord s (ringAddr (getReg s COLL base) (getReg s COLL (base + 8)) (getReg s COLL (base + 0x18)) 32) 32
      let v := ofBytes r.1.data
      let e := collEntry (tget 0 s.collTable (fld v 117 108)).toNat
      running s = true ∧ isReady s = true ∧ twf 0 s.regs = true ∧ collRingReady s base = true ∧ r.2.regs = s.regs ∧ r.1.poison = [] ∧ fld v 3 0 = 1 ∧ fld v 7 4 = 1 ∧
      fld v 106 8 = 0 ∧ bit v 107 = false ∧ entryBad s e = false ∧ e.list = 0 ∧
      ((List.range e.size).map (fun i => e.base + i * e.stride)).idxOf? (ownRank s) = some 0 ∧ s.collectives = [] ∧
      (bytesOf invocationWord 32).length = 32 ∧ ofBytes (bytesOf invocationWord 32) = v ∧ s.collectives.length < 64 ∧ (blk s COLL).errorStopped = false) ∧
    (let s := State.reset
     running s = true ∧ isReady s = false ∧ (bytesOf 0 31).length ≠ 32) := by decide +kernel

theorem witness_CollectivesOpen : let c := aCollective 1 0
    let s := collState c
    let x := { c with state := 1 }
    collOf s c.id = some c ∧ (∀ x ∈ s.collectives, x.armFail = false) ∧ nextToOpen s = some c ∧ s.heldMessages = [] ∧ (acceptFrames (collState x) oneFrame).1 = true ∧
    collOf (collArrival x) x.id = some x ∧ x.state ≠ 0 ∧ x.members.idxOf? (1 : BitVec 12).toNat = some 1 ∧ 1 ∉ x.heard := by decide +kernel

theorem witness_CollectivesStart : ∀ op ∈ [1, 2, 3, 4, 5, 6], let c := { aCollective op 0 with state := 1, heard := [0, 1] }
    collOf (collState c) c.id = some c ∧ c.state = 1 ∧ c.e.op = op ∧ c.heard.length = c.members.length ∧ c.writes = false ∧ c.e.bitmap = 0 ∧ c.e.hdr = false ∧
    (c.e.reduces = false → c.e.scaled = false) ∧ c.dataPhase = false ∧ c.contributions = [] ∧ c.sourceDone = [] ∧
    tileBase (0 : Fin 128).val ≤ c.e.dst ∧ c.e.dst + c.e.unitBytes * c.e.units ≤ tileBase (0 : Fin 128).val + 0x400000 ∧ c.e.reduces = (op == 1 || op == 2 || op == 4) := by decide +kernel

/-- An ALL_REDUCE whose result is tensor-scaled by slot 5. -/
def scaledCollective : Collective := { aCollective 1 ((5 * 2 ^ 12 + 2 * 2 ^ 4 + 3) * 2 ^ 780) with state := 1, heard := [0, 1] }

theorem witness_ScaledStarts : let c := scaledCollective
    let s := { collState c with steward := stewardState.steward }
    collOf s c.id = some c ∧ c.writes = true ∧ (numericOf c.e.num).slot = 5 ∧ stewardOn s 5 = true ∧ slotPending (slotBits s 5) = false ∧ c.e.op = 1 := by decide +kernel

theorem witness_Presence : let c := { aCollective 1 (tileBase 0 * 2 ^ 898) with state := 1 }
    (acceptFrames (collState c) oneFrame).1 = true ∧ collOf (collArrival c) c.id = some c ∧ c.state = 1 ∧ c.e.bitmap ≠ 0 ∧ c.dataPhase = false ∧
    c.members.idxOf? (1 : BitVec 12).toNat = some 1 ∧ 1 ≠ c.self ∧ 1 + [true].length ≤ c.e.units ∧ 1 = c.e.owner 1 ∧ 1 ≠ c.e.owner 0 := by decide +kernel

/-- The collective is open, and the pool has room. -/
def poolState : State := enabledState POOL (collState { aCollective 1 0 with state := 1 })

theorem witness_Contributions : let c := { aCollective 1 0 with state := 1 }
    let u := arrivalOf poolState oneFrame 2 c.id.index.toNat (1 : BitVec 12).toNat
    let r := requestCells u 2 (1 : BitVec 12).toNat (ceilDiv (32 : Nat) 256)
    (acceptFrames poolState oneFrame).1 = true ∧ collOf u c.id = some c ∧ c.state ≠ 0 ∧ c.e.reduces = true ∧ c.members.idxOf? (1 : BitVec 12).toNat = some 1 ∧ 1 ≠ c.self ∧ 0 < c.e.units ∧
    (c.e.terms c.self 0).flatten.find? (fun t => t.1 == 1 && 1 != c.self) = some (1, false) ∧ 0 + 1 ≤ c.e.travel false ∧
    (List.range 1).any (fun k => (c.pieceOf 1 0 (0 + k)).isSome) = false ∧ u.awaited = [] ∧ (granted r.2 r.1).map (·.cells) = some 1 ∧ ceilDiv (32 : Nat) 256 = 1 := by decide +kernel

/-- Rank 0 of a ring of three has both terms of unit 1, of two batches. -/
def ringCollective : Collective :=
  { aCollective 1 (63 * 2 ^ 812 + 2 ^ 832 + 2 ^ 755 + 2 ^ 654) with
    members := [0, 1, 2], state := 2, dataPhase := true, contributions := [{ src := 2, unit := 1, off := 0, granules := 64 }, { src := 0, unit := 1, off := 0, granules := 64 }] }

theorem witness_Batches : let c := ringCollective
    collOf (collState c) c.id = some c ∧ nextTurn (collState c) = some c.id ∧ batchReady c 1 1 = true ∧ 0 < c.e.batches ∧ 0 ≠ 1 ∧ (1, 0) ∉ c.batches ∧ c.self ≠ c.e.owner 1 := by
  decide +kernel

theorem witness_ResultsLand : let c := { aCollective 1 0 with state := 2 }
    let u := collArrival c
    (acceptFrames (collState c) oneFrame).1 = true ∧ collOf u c.id = some c ∧ c.state = 2 ∧ c.e.op = 1 ∧ c.e.reduces = true ∧ c.e.scaled = false ∧ c.e.hdr = false ∧
    (1 : BitVec 12).toNat ∈ c.members ∧ 1 < c.e.units ∧ c.e.owner 1 ≠ c.self ∧ c.e.spreadsTo c.self 1 = [] ∧ (List.replicate 32 (1 : Byte)).length = c.e.unitBytes ∧ 0 < c.e.len ∧
    1 ∉ c.results ∧ c.landed = [] ∧ c.e.dst + c.e.unitBytes * 1 = tileBase (0 : Fin 128).val + 0x3FFFE0 ∧ 0x3FFFE0 + c.e.unitBytes ≤ 0x400000 ∧ u.guard = [] ∧ u.hopErrors = [] ∧
    twf 0 u.mem = true := by decide +kernel

/-- Every time-out of COLL is 1 unit, and 6 units have passed. -/
def lateState (cs : List Collective) : State :=
  laned { setReg (setReg (setReg State.reset COLL 0x010 1) COLL 0x018 1) COLL 0x020 1 with time := 6, collectives := cs }

theorem witness_CollectivesEnd : let c := aCollective 1 0
    let b := { c with id := ⟨1023, 0⟩ }
    let s := lateState [c, b]
    (acceptFrames s oneFrame).1 = true ∧ collOf (arrivalOf s oneFrame 2 c.id.index.toNat (1 : BitVec 12).toNat) c.id = some c ∧ collOf s c.id = some c ∧
    (1 : BitVec 12).toNat ∈ c.members ∧ (3 : BitVec 8) ≠ 0 ∧ c.state = 0 ∧ c.waits = none ∧ c.armFail = false ∧ predecessors s c ≠ [] ∧
    getReg s COLL 0x010 ≠ 0 ∧ getReg s COLL 0x010 + 4 ≤ s.time - c.armedAt ∧ getReg s COLL 0x018 ≠ 0 ∧ getReg s COLL 0x018 + 4 < s.time - 0 ∧ getReg s COLL 0x020 ≠ 0 ∧
    getReg s COLL 0x020 + 4 < s.time - 0 ∧ (∀ st ∈ [1, 2], let x := { c with state := st }; collOf (lateState [x]) x.id = some x ∧ x.opened = 0 ∧ x.startedAt = 0) ∧
    ∀ p ∈ [false, true], let x := { c with state := 2, dataPhase := true, sourceDone := [0, 1], results := [0, 1], poisoned := p }
      collOf (collState x) x.id = some x ∧ collDone (collState x) x = true ∧ x.poisoned = p := by decide +kernel

/-! ### The shared cache, the pool, the controllers -/

/-- The cache and the controller of the first HBM granules are enabled; requests of the package's module 0 on lane 11 may read, write and act on local addresses. -/
def atomicState : State :=
  let s := setReg (enabledState FABRIC (enabledState (MEMC ((hbmMap State.reset 0x40).1 / 32)) (enabledState SCACHE State.reset))) FABRIC 0x028 7
  { s with lanes := s.lanes.set 11 { status := 2, major := 2 }, host := { s.host with linkUp := true, inReset := false } }

/-- A request of module 0 for a local address. -/
def aRequest (type : BitVec 5) (len : BitVec 3) (a : Nat) : FrameHeader := { header0 with off := BitVec.ofNat 52 a, type := type, len := len, tag := 7, kind := 1 }

theorem witness_AtomicsStore : let s := atomicState
    running s = true ∧ s.guard = [] ∧ s.hopErrors = [] ∧ twf 0 s.mem = true ∧ atomicRefused s 1 8 0x40 = false ∧ atomicRefused s 1 4 0x44 = false ∧ atomicRefused s 1 4 0x5C = false ∧
    (∀ a ∈ [0x40, 0x44, 0x5C], atomicOff s a = false) ∧ atomicRefused s 0xB 4 0x5C = false ∧ atomicRefused s 0xE 32 0x40 = false ∧ (List.replicate 8 (0 : F32)).length = 8 ∧
    atomicRefused s 1 8 0x44 = true ∧ regionOf s 0x44 ≠ .unmapped ∧ s.host.linkUp = true ∧ s.host.inReset = false := by decide +kernel

theorem witness_AtomicFrames : ∀ x ∈ [(1, 8, 0x40), (0xA, 4, 0x44), (0xB, 4, 0x5C), (0xD, 4, 0x5C)], let s := atomicState
    let h := { aRequest 4 0 x.2.2 with op := BitVec.ofNat 4 x.1 }
    let u := (acceptFrame s 11 h).2
    (acceptFrame s 11 h).1 = true ∧ checkInbound u 11 (.atomic x.1 x.2.1) h = .inr x.2.2 ∧ atomicRefused u x.1 x.2.1 x.2.2 = false ∧ atomicOff u x.2.2 = false := by decide +kernel

theorem witness_ReservationsHold : let s := atomicState
    let r := { s with reserved := [(3, 1)] }
    running s = true ∧ s.guard = [] ∧ s.hopErrors = [] ∧ twf 0 s.mem = true ∧ twf 0 r.reserved = true ∧ atomicRefused s 1 8 0x40 = false ∧ atomicOff s 0x40 = false ∧
    tget 0 r.reserved (3 : Fin 4).val = 0x40 / 128 + 1 ∧ tget 0 s.reserved (3 : Fin 4).val ≠ 0x40 / 128 + 1 := by decide +kernel

/-- One write-combining entry of channel 0, of `mask`, allocated at time 0. -/
def bufferState (mask time : Nat) : State := { State.reset with wcb := [⟨0, 0, 0, mask, 0⟩], time := time }

theorem witness_BuffersDrain : (let s := bufferState 1 1000; ∃ e ∈ channelEntries s 0 0, e.since + 1000 ≤ s.time) ∧
    (let s := { State.reset with wcb := List.replicate 4 ⟨0, 0, 0, 1, 0⟩ }; 4 ≤ (channelEntries s 0 0).length) ∧
    (let s := { State.reset with wcb := List.replicate 48 ⟨0, 1, 0, 1, 0⟩ }; 48 ≤ (s.wcb.filter (fun e => e.channel / 32 == 0)).length) ∧
    (let s := { bufferState 1 999 with wcb := List.replicate 3 ⟨0, 0, 0, 1, 0⟩ }
     ¬(4 ≤ (channelEntries s 0 0).length ∨ 48 ≤ (s.wcb.filter (fun e => e.channel / 32 == 0)).length ∨ ∃ e ∈ channelEntries s 0 0, e.since + 1000 ≤ s.time)) ∧
    (let s := setBlk { State.reset with cacheLines := [(3, false)] } SCACHE { enabled := true, disabling := true }
     twf {} s.blocks = true ∧ (blk s SCACHE).enabled = true ∧ (blk s SCACHE).disabling = true) := by decide +kernel

theorem witness_PoolAndMargins : (∀ k ∈ [1, 2], let c : Chain := ⟨[5], k, 0, 0, false⟩
      let s := { State.reset with chains := [c] }
      chainAt s (0x11000000500 : BitVec 42).toNat = some c ∧ chainAt s 0 = none) ∧ twf 0 State.reset.regs = true ∧ bit (0x400000 : Word64).toNat 22 = true ∧
    isEnabled State.reset (MEMC 11) = false ∧ running State.reset = true ∧ ((State.reset.margins[(11 : Fin 12).val]?).getD {}).busy = false ∧
    (({ State.reset with margins := State.reset.margins.set 11 { busy := true } }.margins[(11 : Fin 12).val]?).getD {}).busy = true := by decide +kernel

/-- Controller 11 sweeps its pseudo-channel 63. -/
def sweepState : State := { setReg State.reset (MEMC 11) 0x058 (2 ^ 22 + 63 * 2 ^ 16) with margins := State.reset.margins.set 11 { busy := true } }

theorem witness_MarginSweepEnds : ((sweepState.margins[(11 : Fin 12).val]?).getD {}).busy = true ∧ twf 0 sweepState.regs = true ∧
    (sweepAddr sweepState 11 (fld (getReg sweepState (MEMC 11) 0x058) 21 16) 0).isSome = true := by
  refine ⟨by decide +kernel, by decide +kernel, ?_⟩
  have h : (List.range (activeCount sweepState)).find? (fun i => activeChannel sweepState i == 32 * 11 + fld (getReg sweepState (MEMC 11) 0x058) 21 16 / 2) = some 383 := by decide +kernel
  unfold sweepAddr hbmAddr; simp only [h, Option.isSome_some]

/-! ### Lanes, frames, time -/

/-- FABRIC and LINK0 are enabled, and lane 11 is in the DIRECT port 0; `x` is the lane. -/
def laneState (x : Lane) (time : Nat) : State :=
  let s := enabledState (LINK 0) (enabledState FABRIC State.reset)
  { setReg s FABRIC 0x100 (2 ^ 12 + 11 * 2 ^ 5 + 1) with lanes := s.lanes.set 11 x, time := time }

theorem witness_LanesTrain : (laneState {} 0).lanes.length = 96 ∧ laneEnabled (laneState {} 0) 11 = true ∧
    (∀ st ∈ [0, 3, 5], (getLane (laneState { status := st } 0) 11).status = st) ∧ (getLane (laneState { status := 4 } 0) 11).failedAt + 100000000 ≤ 100000000 ∧
    (laneState { status := 4 } 99999999).time < (getLane (laneState { status := 4 } 99999999) 11).failedAt + 100000000 ∧
    (let s := laneState { status := 1 } 19999999
     (getLane s 11).status = 1 ∧ (getLane s 11).peerKnown = false ∧ planUnused s 11 = false ∧ planPeer s 11 = at_ (0 : BitVec 32).toNat 16 + (0 : BitVec 16).toNat ∧
       laneDirect s 11 = true ∧ s.time < (getLane s 11).trainStart + 20000000) ∧
    (let s := laneState { status := 1, peerKnown := true } 20000000
     (getLane s 11).peerKnown = true ∧ joinsPort s 11 = true ∧ (getLane s 11).trainStart + 20000000 ≤ s.time) := by decide +kernel

/-- A frame sent and not acknowledged. -/
def aFrame : Frame := { seq := 0, header := header0, data := [], replays := 3 }

theorem witness_LanesKeepUp : (let s := laneState { status := 2, unacked := [aFrame] } 3000000
     (getLane s 11).status = 2 ∧ (getLane s 11).lastSent + 1000000 ≤ s.time ∧ laneEnabled s 11 = true ∧ (getLane s 11).lastHeard + 3000000 ≤ s.time ∧
       (getLane s 11).unacked = aFrame :: [] ∧ aFrame.replays < 4 ∧ 4 ≤ { aFrame with replays := 4 }.replays ∧ twf 0 s.regs = true) ∧
    (let s := laneState { status := 2 } 2999999; s.time < (getLane s 11).lastHeard + 3000000) := by decide +kernel

/-- Requests of the package's module 0 may read, write and act on local addresses. -/
def inboundState : State := setReg (laneState { status := 2, major := 2 } 0) FABRIC 0x028 7

theorem witness_RequestsServed : let s := inboundState
    let free := fun (h : FrameHeader) (a n : Nat) (w : Option (List Byte × List Nat)) => let u := (acceptFrame s 11 h).2
      (acceptFrame s 11 h).1 = true ∧ accessWaits u { master := .link 11, addr := a, len := n, write := w, frame := some (11, h) } u.waitingAccesses = false
    let r := aRequest 1 7 (tileBase 0 + 0x3FFF00)
    let w := aRequest 2 0 (tileBase 0 + 0x3FFFE0)
    let b := aRequest 3 0 (tileBase 0 + 0x3FFFFF)
    s.guard = [] ∧ s.hopErrors = [] ∧ twf 0 s.mem = true ∧ s.dispatches = [] ∧ s.posted = [] ∧
    checkInbound (acceptFrame s 11 r).2 11 .read r = .inr (tileBase 0 + 0x3FFF00) ∧ 0x3FFF00 + 32 * (r.len.toNat + 1) ≤ 0x400000 ∧ free r (tileBase 0 + 0x3FFF00) 256 none ∧
    checkInbound (acceptFrame s 11 w).2 11 .write w = .inr (tileBase 0 + 0x3FFFE0) ∧ 0x3FFFE0 % 32 = 0 ∧ 0x3FFFE0 + 32 * (w.len.toNat + 1) ≤ 0x400000 ∧
    (List.replicate 32 (1 : Byte)).length = 32 * (w.len.toNat + 1) ∧ framePoison w = 0 ∧ free w (tileBase 0 + 0x3FFFE0) 32 (some (List.replicate 32 1, [])) ∧
    checkInbound (acceptFrame s 11 b).2 11 .masked b = .inr (tileBase 0 + 0x3FFFFF) ∧ 0x3FFFFF % 32 + 2 ^ b.op.toNat ≤ 32 ∧ framePoison b = 0 ∧
    free b (tileBase 0 + 0x3FFFFF) 1 (some (((List.replicate 32 (1 : Byte)).drop (0x3FFFFF % 32)).take 1, [])) := by decide +kernel

/-- DMA channel 31 waits for two granules under tag 7. -/
def waitingState (time : Nat) : State :=
  setJob { laneState { status := 2, major := 2 } time with remote := [{ tag := 7, master := .dma 31, addr := 0x40, granules := 2, isWrite := false, sentAt := 0 }] } 31 (some { desc := 0, started := 0 })

theorem witness_ResponsesArrive : let r : RemoteRequest := { tag := 7, master := .dma 31, addr := 0x40, granules := 2, isWrite := false, sentAt := 0 }
    let h := { aRequest 5 1 0 with tag := 7 }
    (waitingState 0).dma.length = 32 ∧ r.isWrite = false ∧ (getJob (waitingState 0) 31).isSome = true ∧ (acceptFrame (waitingState 0) 11 h).1 = true ∧ (∀ x ∈ (waitingState 0).remote, x.held = none) ∧ r.master = .dma 31 ∧ twf 0 (waitingState 0).regs = true ∧
    (waitingState 0).remote.find? (fun r => r.tag == h.tag.toNat) = some r ∧ h.op = 0 ∧ framePoison h = 0 ∧
    (waitingState 4000000).remote.find? (fun x => x.tag == (7 : BitVec 12).toNat && x.held.isNone && decide (x.sentAt + 4000000 ≤ (waitingState 4000000).time)) = some r ∧
    ∀ x ∈ (waitingState 3999999).remote, x.tag = (7 : BitVec 12).toNat → (waitingState 3999999).time < x.sentAt + 4000000 := by decide +kernel

/-- A message of flow 5 to rank 1, whose fabric id is 9. -/
def flowState (stopped : Bool) : State :=
  let s := stored (tileBase 0 + 4) (2 ^ 31 + 9) 4 (setReg (laneState { status := 2, major := 2 } 0) FABRIC 0x020 (tileBase 0))
  { s with messages := [{ kind := 1, flow := 5, dst := 1, msg := 2, sent := !stopped, what := .scout ⟨0, 5, 3, 0, 0⟩ [] }], deferred := if stopped then [⟨1, 5, 1, 2⟩] else [] }

theorem witness_Flows : let h : FrameHeader := { header0 with srcId := 9, off := BitVec.ofNat 52 (5 * 2 ^ 36 + 2 * 2 ^ 12), op := 1 }
    ∀ b ∈ [false, true], let s := flowState b
      let f := { h with type := if b then 9 else 8 }
      let u := (acceptFrame s 11 f).2
      (acceptFrame s 11 f).1 = true ∧ flowRank u f = some 1 ∧ flowStopped u h.op.toNat (flowOf h) 1 = b ∧
      ∃ m ∈ u.messages, (m.kind == h.op.toNat && m.flow == flowOf h && m.dst == 1) = true ∧ m.msg = msgOf h := by decide +kernel

/-- Window entry 0, VALID or with its upper half alone. -/
def windowState (valid : Bool) : State :=
  { State.reset with windows := [(0, BitVec.ofNat 128 ((if valid then 2 ^ 127 else 0) + 2 ^ 66))] }

theorem witness_Windows : running (windowState true) = true ∧ twf 0 (windowState true).windows = true ∧ twf 0 (windowState true).regs = true ∧
    (let old := (tget 0 (windowState false).windows (getReg (windowState false) FABRIC 0x030)).toNat
     bit old 127 = false ∧ windowIllegal (setFld old 127 64 (2 ^ 63 + 4)) = false ∧ windowIllegal (setFld old 127 64 (2 ^ 63)) = true) ∧
    (let old := (tget 0 (windowState true).windows (getReg (windowState true) FABRIC 0x030)).toNat
     bit old 127 = true ∧ setFld old 127 64 4 = old - 2 ^ 127 ∧ setFld old 127 64 (2 ^ 63 + 8) ≠ old - 2 ^ 127) := by decide +kernel

/-- FABRIC is enabled, and its one port, not DIRECT, has the one lane that is UP. -/
def syncState (time : Nat) (y : TimeSync) : State :=
  { setReg (enabledState FABRIC State.reset) FABRIC 0x100 1 with lanes := State.reset.lanes.set 0 { status := 2, major := 2 }, time := time, sync := y }

theorem witness_SyncExchange : (syncState 65536 {}).lanes.length = 96 ∧ syncDue (syncState 65536 {}) = true ∧
    choosePort (syncState 65536 {}) (streamOf (.keeper 0)) (fld (getReg (syncState 65536 {}) FABRIC 0x058) 45 34) 0 = some 0 ∧ portLane (syncState 65536 {}) 0 = some 0 := by
  refine ⟨by decide +kernel, by decide +kernel, ?_, by decide +kernel⟩
  have h : upFabric (syncState 65536 {}) = [0] := by decide +kernel
  unfold choosePort; rw [if_pos rfl, h]; simp [Nat.mod_one]

theorem witness_TimeSyncs : (∀ y ∈ [(⟨0, 1, false, 15, 3, 0, some 10, 10, 0, 0⟩ : TimeSync), ⟨0, 2, true, 15, 3, 0, some 10, 10, 0, 0⟩],
      let s := syncState 1000000 y
      timeMaster s = false ∧ twf 0 s.regs = true ∧ s.sync.sentAt = some 10 ∧ s.sync.lock ≠ 0 ∧ s.sync.lastExchange + 1000000 ≤ s.time ∧ s.sync.bad = 3 ∧ s.sync.good = 15 ∧
        (acceptFrame s 0 { header0 with type := 0xA }).1 = true) ∧
    (∀ d ∈ [(1001 : Int), 1000, 21, 20, 10], (((2000 : Int) + d - 10 - 0) - ((1000000 : Int) - (1000000 - 1990 + d) - 0)) = 2 * d) ∧
    (syncState 999999 {}).time < (syncState 999999 {}).sync.lastExchange + 1000000 ∧
    (let s := setReg (syncState 7 {}) FABRIC 0x058 (3 + 10 * 2 ^ 2)
     (acceptFrame s 0 { header0 with type := 0xA }).1 = true ∧ timeMaster s = true ∧ running s = true ∧ s.power.scanPins = false ∧ bit (getReg s FABRIC 0x058) 1 = true ∧
       0 < fld (getReg s FABRIC 0x058) 33 2) ∧
    (let s := setReg (syncState 7 {}) FABRIC 0x058 (1 + 10 * 2 ^ 2); timeMaster s = true ∧ bit (getReg s FABRIC 0x058) 1 = false) := by decide +kernel

/-! ### Start-up, the host, the Keeper -/

/-- The state at a code of BOOT_STATE with the Keeper running. -/
def bootState (code : Nat) : State :=
  { State.reset with boot := { State.reset.boot with state := code }, keeper := { State.reset.keeper with inReset := false } }

theorem witness_ModuleResets : State.reset.power.tripped = false ∧ { State.reset with power := { State.reset.power with tripped := true } }.power.tripped = true ∧
    (0x5A01 : Word64).toNat % 2 ^ 16 = 0x5A01 ∧ (0x5A00 : Word64).toNat % 2 ^ 16 ≠ 0x5A01 ∧ running State.reset = true := by decide +kernel

theorem witness_StartPhases : (∀ c ∈ [0, 7], running (bootState c) = true ∧ (bootState c).boot.state = c) ∧
    (bootState 1).boot.state = 1 ∧ (bootState 1).keeper.inReset = false ∧ (bootState 2).boot.state = 2 ∧ (bootState 3).boot.state = 3 ∧ 2 ^ 40 ≤ getReg (setReg (bootState 3) KEEPER 0x020 (2 ^ 40)) KEEPER 0x020 ∧
    383 ∉ (bootState 3).boot.mappedOut ∧ 383 ∈ { bootState 3 with boot := { (bootState 3).boot with mappedOut := [383] } }.boot.mappedOut ∧
    mayBeReady { bootState 4 with boot := { (bootState 4).boot with hbmDone := true }, lanes := List.replicate 96 { everSettled := true } } = true := by decide +kernel

/-- The module is READY, its link is up. -/
def hostState : State := { bootState 5 with host := { State.reset.host with inReset := false, linkUp := true, pendingBits := 2 ^ 63, msix := [(63, { ctrl := 0 })] } }

theorem witness_HostInterface : hostState.host.inReset = false ∧ hostState.power.scanPins = false ∧ running hostState = true ∧ hostUp hostState = true ∧
    hostState.host.inReset = false ∧ bit hostState.host.pendingBits.toNat 63 = true ∧ vectorMasked hostState 63 = false ∧ (∀ o ∈ [1008, 1012, 1016, 1020], o % 4 = 0 ∧ o < 1024) ∧ twf {} hostState.host.msix = true := by
  decide +kernel

/-- The host's heartbeat has not been echoed in time, and its source is enabled for vector 5; MSI-X is off. -/
def lateHeartbeat : State := { setReg (setReg hostState HOSTIF 0x010 1) HOSTIF 0x208 (2 ^ 6 + 5) with time := 2 ^ 40 }

theorem witness_KeeperWatches : keeperLate lateHeartbeat = true ∧ 1 ∈ highSources lateHeartbeat ∧ 1 ∉ lateHeartbeat.host.lastLevels ∧
    bit (getReg lateHeartbeat HOSTIF 0x208) 6 = true ∧ msiOn lateHeartbeat = false ∧ hostUp hostState = true ∧
    (let s := { bootState 5 with time := 50000000 }; twf 0 s.regs = true ∧ keeperRuns s = true ∧ s.keeper.watchdogAt + 50000000 ≤ s.time) ∧
    (let s := { bootState 5 with time := 49999999 }; s.time < s.keeper.watchdogAt + 50000000 ∧ isReady s = true ∧
      s.keeper.telemetryAt + 1000 * s.keeper.telemetryPeriod ≤ s.time) ∧
    (let s := { bootState 5 with time := 9999999 }; s.keeper.telemetryAt + 1000 * s.keeper.telemetryPeriod ≤ s.time ∧ s.time < s.keeper.loadAt + 10000000) ∧
    (let s := { bootState 5 with time := 10000000 }; s.keeper.loadAt + 10000000 ≤ s.time ∧ s.time < s.keeper.loadAt + 20000000) := by decide +kernel

/-- The ring holds one command of a code. -/
def commandState (code : Nat) : State := stored (sramBase + 0x1000) code 64 (setReg (setReg (setReg (bootState 5) KEEPER 0x058 (sramBase + 0x1000)) KEEPER 0x060 1) KEEPER 0x068 1)

theorem witness_KeeperCommands : (∀ c ∈ [1, 2, 3, 4, 5, 6, 7, 8], let s := commandState c
      twf 0 s.regs = true ∧ twf 0xFF s.nvm = true ∧ cmdWaits s = true ∧ cmdCode s = c ∧ s.keeper.job = none ∧ s.dispatches = [] ∧ s.collectives = [] ∧ s.driver.mode ≠ 1 ∧
      s.boot.identityOk = false) ∧
    (∀ c ∈ [1, 2, 3, 5], let s := commandState c
      let s := { s with keeper := { s.keeper with job := some ⟨1, 0, 0, [], [3], 0⟩ }, dispatches := [aDispatch 0], driver := { mode := 1 }, boot := { s.boot with identityOk := true } }
      cmdWaits s = true ∧ cmdCode s = c ∧ s.keeper.job ≠ none ∧ s.dispatches ≠ [] ∧ s.driver.mode = 1 ∧ s.boot.identityOk = true) := by decide +kernel

theorem witness_Attests : let s := setReg (commandState 5) KEEPER 0x078 (tileBase 0 + 0x200)
    let s := { s with boot := { s.boot with identityOk := true } }
    let reply := getReg s KEEPER 0x078 + 64 * (getReg s KEEPER 0x080 % 2 ^ getReg s KEEPER 0x060)
    twf 0 s.regs = true ∧ twf 0xFF s.nvm = true ∧ cmdWaits s = true ∧ cmdCode s = 5 ∧ s.guard = [] ∧ s.hopErrors = [] ∧ twf 0 s.mem = true ∧ tileBase 0 ≤ reply ∧
    reply + 64 ≤ tileBase 0 + 0x400000 ∧ tileBase 0 + 512 ≤ reply := by decide +kernel

theorem witness_NvmWrites : let s := commandState 6
    let u := (takeCmd s).2
    let r := readSpan (.keeper 0) u (tileBase 0) 64
    r.1.poison = [] ∧ r.1.data.length = 64 ∧ nvmPlace 7 0 = none ∧
    ∀ x ∈ [(1, 0x200000, 0x800000), (2, 0x1000, 0x1000), (3, 0xD0000, 0x40000), (4, 0x140000, 0x10000), (5, 0x3000, 0x1000), (6, 0x2000, 0x1000)],
      nvmPlace x.1 (if x.1 = 1 then 0 else writeIndex s x.1 3) = some (x.2.1, x.2.2) ∧ 64 ≤ x.2.2 := by decide +kernel

/-- The step driver runs a plan of one entry of a stage: a launch record for Keeper queue 3. -/
def driverState (stage entryStage : Nat) : State :=
  let a : StepStartArgs := ⟨BitVec.ofNat 42 (tileBase 0), 1, 1, 1, 0, 0⟩
  let s := stored (tileBase 0) ((tileBase 0 + 0x1000) * 2 ^ 214 + (2 ^ 32 - 1) * 2 ^ 182 + 2 ^ 162 + 3 * 2 ^ 156 + entryStage * 2 ^ 152) 32 (bootState 5)
  { s with driver := { mode := 1, args := some a, step := 1, stage := stage } }

theorem witness_DriverSteps : let a : StepStartArgs := ⟨BitVec.ofNat 42 (tileBase 0), 1, 1, 1, 0, 0⟩
    (∀ st ∈ [0, 1, 2, 3, 4, 5, 6, 7], let s := driverState st (if st = 1 then 2 else 1)
      keeperRuns s = true ∧ isReady s = true ∧ s.driver.mode = 1 ∧ s.driver.args = some a ∧ s.driver.issued = [] ∧ s.driver.abandoned = false ∧ s.driver.stage = st ∧
      s.driver.copies = [] ∧ s.driver.beside = [] ∧ pushCopies (driverLook s) = s ∧ toIssue s a = [] ∧ stageEnded s a st = true ∧ lossEnded s a = true ∧
      (List.range 8).all (stageEnded s a) = true ∧ s.driver.stopAsked = false ∧ s.keeper.checkpointInterval = 0 ∧ s.driver.micro = 0 ∧ twf 0 s.steward = true ∧ s.driver.written = []) ∧
    (let s := driverState 1 1
     let p := readSpan (.keeper 0) s (a.plan.toNat + 32 * 0) 32
     let r := planEntryOf (ofBytes p.1.data)
     let q := readSpan (.keeper 0) p.2 r.addr (recordBytes r.kind)
     let e := planAt s a 0
     pushCopies (driverLook s) = s ∧ toIssue s a = (0, 0) :: [] ∧ afterEnded s a e 0 e.after1 = true ∧ afterEnded s a e 0 e.after2 = true ∧ rangeWritten s a e = true ∧
       reducesHealth s a 0 = false ∧ p.1.poison = [] ∧ q.1.poison = [] ∧ (pushRecord (clearTypes q.2 (recordTargets r.kind (ofBytes q.1.data))) r.kind r.target q.1.data).isSome = true) := by
  decide +kernel

theorem witness_DriverWaits : let a : StepStartArgs := ⟨BitVec.ofNat 42 (tileBase 0), 1, 1, 1, 0, 0⟩
    let c : DriverCopy := ⟨BitVec.ofNat 512 (dmaWord 0), 1, false, true⟩
    (let s := driverState 0 1
     let s := { s with driver := { s.driver with copies := [c] } }
     keeperRuns s = true ∧ isReady s = true ∧ s.driver.mode = 1 ∧ s.driver.args = some a ∧ s.driver.abandoned = false ∧ s.driver.stage = 0 ∧ s.driver.issued = [] ∧
       s.driver.beside = [] ∧ s.driver.copies = [c] ∧ c.issued = true ∧ c.checkpoint = false ∧ c.step = s.driver.step ∧ recordWritten s (dmaDesc c.desc.toNat).record = false) ∧
    (let s := driverState 3 1
     let b := { a with microBatches := 2 }
     let s := { s with driver := { s.driver with args := some b } }
     pushCopies (driverLook s) = s ∧ toIssue s b = [] ∧ s.driver.micro + 1 < b.microBatches ∧ stageEnded s b 3 = true) ∧
    { (driverState 7 1).driver with stopAsked := true }.stopAsked = true := by decide +kernel

/-- The plan's entry posts the collective of stage 5 whose source is the health vector. -/
def healthState : State :=
  let s := stored (tileBase 0 + 0x1000) (1023 * 2 ^ 108) 32 (stored (tileBase 0) ((tileBase 0 + 0x1000) * 2 ^ 214 + (2 ^ 32 - 1) * 2 ^ 182 + 2 * 2 ^ 162 + 5 * 2 ^ 152) 32 (bootState 5))
  let a : StepStartArgs := ⟨BitVec.ofNat 42 (tileBase 0), 1, 1, 1, 0, BitVec.ofNat 42 (tileBase 0 + 0x2000)⟩
  { s with driver := { mode := 1, args := some a, step := 1, stage := 5, issued := [(0, 0)], ended := [(0, 0)] }, collTable := [(1023, BitVec.ofNat 1024 ((tileBase 0 + 0x2000) * 2 ^ 982))] }

theorem witness_HealthReads : let s := healthState
    let a : StepStartArgs := ⟨BitVec.ofNat 42 (tileBase 0), 1, 1, 1, 0, BitVec.ofNat 42 (tileBase 0 + 0x2000)⟩
    pushCopies (driverLook s) = s ∧ toIssue s a = [] ∧ stageEnded s a 5 = true ∧ (∀ c ∈ s.driver.copies, c.checkpoint = false) ∧ reducesHealth s a 0 = true := by decide +kernel

theorem witness_DirectCommands : let s := bootState 6
    twf 0xFF s.nvm = true ∧ twf 0 s.regs = true ∧ running s = true ∧ nvmDirect s = true ∧ s.nvmBusy = none ∧ nvmDirect (bootState 5) = false ∧
    ∀ k ∈ [1, 2, 3], { s with nvmBusy := some k }.nvmBusy = some k := by decide +kernel

theorem witness_RegistersWrite : let s := enabledState NUMERIC State.reset
    let h := { hostState with boot := { hostState.boot with configured := true } }
    running s = true ∧ running h = true ∧ hostUp h = true ∧ h.boot.configured = true ∧
    twf 0 s.regs = true ∧ twf {} s.blocks = true ∧ (Master.keeper 0 ≠ .host) ∧ (bytesOf (2 ^ 64 - 1) 8).length = 8 ∧ blockEnabled s NUMERIC = true ∧
    blockEnabled State.reset NUMERIC = false ∧ (getReg s NUMERIC 0x010 ^^^ ofBytes (bytesOf (2 ^ 64 - 1) 8)) &&& (2 ^ 47 - 1) ≠ 0 := by decide +kernel

/-! ### Power, inputs, SMBus, the test access port -/

/-- READY, with the power controller as given. -/
def powerState (p : Power) : State := { bootState 5 with power := p }

theorem witness_Throttles : let s := powerState { powerStep := 5, overFor := 6, calm := 8 }
    twf 0 s.regs = true ∧ running s = true ∧ powerLimit s < 1401 ∧ s.power.overFor < 7 ∧ 1400 ≤ powerLimit s ∧ s.power.calm < 9 ∧ proposedStep s ≠ s.power.applied ∧
    proposedStep (powerState {}) = (powerState {}).power.applied := by decide +kernel

theorem witness_StepsFollow : (∀ o ∈ [6, 7], running (powerState { overFor := o }) = true ∧ powerLimit (powerState { overFor := o }) < 1401) ∧
    (∀ c ∈ [8, 9], (powerState { calm := c, coolReadings := c }).power.calm = c ∧ 1350 + 50 ≤ powerLimit (powerState { calm := c })) ∧
    1400 ≤ powerLimit (powerState {}) ∧ powerLimit (powerState {}) < 1351 + 50 ∧ throttleTemp (powerState {}) ≤ max (hottest [100]) (max (hottest [0]) (hottest [0])) ∧
    max (hottest [94]) (max (hottest [0]) (hottest [0])) + 5 < throttleTemp (powerState { coolReadings := 9 }) ∧
    throttleTemp (powerState {}) ≤ max (hottest [95]) (max (hottest [0]) (hottest [0])) + 5 := by decide +kernel

theorem witness_InputsAct : let s := powerState {}
    s.power.inputPresent = true ∧ s.power.tripped = false ∧ running s = true ∧ running (powerState { modReset := true }) = false ∧ isReady s = true ∧
    (bootState 4).boot.state ≠ 5 ∧ (bootState 4).boot.state ≠ 6 ∧ running (bootState 4) = true ∧ s.power.scanPins = false := by decide +kernel

theorem witness_SmbusAnswers : smbAnswers (powerState { highLast := true }) = true ∧ smbAnswers (bootState 0) = false ∧ alertBits (powerState { highLast := true }) ≠ 0 ∧
    alertBits (powerState {}) = 0 := by decide +kernel

theorem witness_ScanLoads : State.reset.power.regulators = true := by decide +kernel

theorem witness_CanonicalKept : ∃ t, Memory.wf State.reset = true ∧ step State.reset = .next t := ⟨_, by decide +kernel, rfl⟩

end Sys2Proof.Machine
end

section
/-! SUPPORT. What a core's store to one granule with a clean code does to local memory, and the statement on SST (O8). -/

namespace Sys2Proof.Machine

/-! ### A slice written back with new values in its middle -/

/-- Writing a slice back with its values from `off` on replaced by `vs` is writing `vs` alone. -/
theorem tsetList_splice {α : Type} [DecidableEq α] {d : α} {t : Table α} (h : twf d t = true) {k off n : Nat} {vs : List α} (hn : off + vs.length ≤ n) :
    tsetList d t k ((tgetList d t k n).take off ++ vs ++ (tgetList d t k n).drop (off + vs.length)) = tsetList d t (k + off) vs := by
  have hlen : ((tgetList d t k n).take off ++ vs ++ (tgetList d t k n).drop (off + vs.length)).length = n := by
    simp only [List.length_append, List.length_take, List.length_drop, tgetList_length]; omega
  refine table_ext (twf_tsetList h _ _) (twf_tsetList h _ _) fun j => ?_
  by_cases hj : j < k ∨ k + n ≤ j
  · rw [tget_tsetList_out h _ _ _ (by rwa [hlen]), tget_tsetList_out h _ _ _ (by omega)]
  obtain ⟨i, rfl⟩ := Nat.exists_eq_add_of_le (show k ≤ j by omega)
  rw [tget_tsetList_in h _ _ _ (by rw [hlen]; omega)]
  rcases Nat.lt_or_ge i off with hlo | hlo
  · rw [tget_tsetList_out h _ _ _ (by omega)]
    simp [tgetList_length, tgetList_getElem, hlo, show i < n by omega]
  have hoff : min off n = off := by omega
  rcases Nat.lt_or_ge i (off + vs.length) with hhi | hhi
  · rw [show k + i = k + off + (i - off) by omega, tget_tsetList_in h _ _ _ (by omega)]
    simp [List.getElem_append, tgetList_length, hoff, show ¬ i < off by omega, show i - off < vs.length by omega]
  · rw [tget_tsetList_out h _ _ _ (by omega)]
    simp [List.getElem_append, tgetList_length, tgetList_getElem, hoff, show ¬ i < off by omega, show ¬ i - off < vs.length by omega,
      show off + vs.length + (i - off - vs.length) = i by omega, show i < n by omega]

/-! ### Stores to a granule with a clean code -/

variable {s : State}

@[simp] theorem storeGranule_mem (g : Nat) (bs : List Byte) (p : Bool) : (storeGranule s g bs p).mem = (putBytes s (32 * g) bs).mem := rfl

/-- The check of a clean code hands the reader the data as they are stored. -/
theorem peekGranule_of_clean {g : Nat} (hg : tget 0 s.guard g = 0) : peekGranule s g = (memBytes s (32 * g) 32, .clean) := by
  have hclean : checkGuard (tget 0 s.guard g) = .clean := by rw [hg]; rfl
  simp only [peekGranule, hclean]

/-- The merge of R539 changes the bytes that arrive and no other byte of the granule. -/
theorem storePart_mem_of_clean (h : twf 0 s.mem = true) {g off : Nat} {bs : List Byte} (hg : tget 0 s.guard g = 0) (hoff : off + bs.length ≤ 32) :
    (storePart s g off bs).mem = (putBytes s (32 * g + off) bs).mem := by
  simp only [storePart, peekGranule_of_clean hg, storeGranule_mem, putBytes, memBytes]
  exact tsetList_splice h hoff

theorem storeBytes_mem_of_clean (h : twf 0 s.mem = true) {g off : Nat} {bs : List Byte} (hg : tget 0 s.guard g = 0) (hoff : off + bs.length ≤ 32) :
    (storeBytes s g off bs false).mem = (putBytes s (32 * g + off) bs).mem := by
  by_cases hl : bs.length = 32
  · obtain rfl : off = 0 := by omega
    simp [storeBytes, hl]
  · simpa [storeBytes, hl] using storePart_mem_of_clean h hg hoff

/-- A byte range inside one granule is one piece. -/
theorem pieces_of_within {a n : Nat} (hn : 0 < n) (ha : a % 32 + n ≤ 32) : pieces a n = [(a / 32, a % 32, n)] := by
  have hone : (a + n - 1) / 32 - a / 32 + 1 = 1 := by omega
  simp only [pieces, hone, List.range_one, List.map_cons, List.map_nil, Nat.add_zero, show n ≠ 0 by omega, if_false]
  rw [show max a (32 * (a / 32)) = a by omega, show a - 32 * (a / 32) = a % 32 by omega, show min (a + n) (32 * (a / 32) + 32) - a = n by omega]

/-- A core's store inside one granule with a clean code is the plain store of its bytes. -/
theorem coreStore_mem_of_clean (h : twf 0 s.mem = true) {a : Nat} {bs : List Byte} (hg : tget 0 s.guard (a / 32) = 0) (hn : 0 < bs.length)
    (ha : a % 32 + bs.length ≤ 32) : (coreStore s a bs).mem = (putBytes s a bs).mem := by
  simp only [coreStore, pieces_of_within hn ha, List.foldl_cons, List.foldl_nil, List.take_length]
  rw [storeBytes_mem_of_clean h hg ha, Nat.div_add_mod]

@[simp] theorem bytesOf_length (x n : Nat) : (bytesOf x n).length = n := by
  induction n generalizing x with
  | zero => rfl
  | succ n ih => simp [bytesOf, ih]

theorem memBytes_putBytes (h : twf 0 s.mem = true) (a : Nat) (bs : List Byte) : memBytes (putBytes s a bs) a bs.length = bs := tgetList_tsetList h a bs

theorem tget_putBytes_out (h : twf 0 s.mem = true) {a b : Nat} {bs : List Byte} (hb : ¬(a ≤ b ∧ b < a + bs.length)) :
    tget 0 (putBytes s a bs).mem b = tget 0 s.mem b := tget_tsetList_out h a b bs (by omega)

/-- An aligned SST lies inside one granule, since a tile store begins at a granule. -/
theorem doWrite_writeSst_mem (h : twf 0 s.mem = true) (n off : Nat) (v : Word64) (pc : Nat) (aud : Bool) (ws : List ScatterWrite) (ha : off % 8 = 0)
    (hg : tget 0 s.guard ((tileBase n + off) / 32) = 0) :
    (doWrite n (.writeSst off v pc aud) (ws, s)).2.mem = (putBytes s (tileBase n + off) (bytesOf v.toNat 8)).mem := by
  have hin : (tileBase n + off) % 32 + 8 ≤ 32 := by unfold tileBase; omega
  exact coreStore_mem_of_clean h hg (by simp) (by simpa using hin)

/-- Settles O8: inside one granule with a clean code the store of an SST is a plain store of its eight bytes. -/
theorem sstStores : Obligations.SstStores := by
  intro s n off v pc ws ha _ hmem _ hg t
  have ht : t.mem = (putBytes s (tileBase n.val + off) (bytesOf v.toNat 8)).mem := doWrite_writeSst_mem hmem _ _ v pc false ws ha hg
  constructor
  · have hread := memBytes_putBytes hmem (tileBase n.val + off) (bytesOf v.toNat 8)
    rw [bytesOf_length] at hread
    rwa [memBytes, ht]
  · intro a hout
    rw [ht, tget_putBytes_out hmem (by rwa [bytesOf_length])]

end Sys2Proof.Machine
end

section
/-! SUPPORT. Sequencer operations that read no memory, on a still core, and the statement on NOP, END, LIDX and TBR (O3). -/

namespace Sys2Proof.Machine

/-! ### A sequencer operation that reads no memory, on a still core -/

variable {s : State}

/-- A still core issues an operation whose slot effect is some events to come, an END mark and changes outside the cores: the core moves on with them. -/
theorem issueRow_effect {n : Fin 128} {tag : BitVec 16} {op : BitVec 6} {d a b : BitVec 5} {imm : BitVec 32} {u : State} {es : List (Nat × CoreEvent)} {e : Bool}
    (h : StillAt s n (seqBundle tag op d a b imm)) (hop : op ≠ 1 ∧ op ≠ 3 ∧ op ≠ 4) (hu : slotUndefined (seqBundle tag op d a b imm) false 0 = false)
    (hr : slotReserved (seqBundle tag op d a b imm) false 0 = false)
    (hk : seqChecks (getCore (clearPorts s n.val) n.val) n.val (getCore s n.val).pc ⟨op, d, a, b, 0, imm⟩ = none)
    (hcores : u.cores = s.cores) (hcycles : u.cycles = s.cycles) (hes : ∀ x ∈ es, (getCore s n.val).cycle < x.1)
    (he : seqEffect (clearPorts s n.val) n.val (getCore s n.val).pc ⟨op, d, a, b, 0, imm⟩ false =
      modCore (clearPorts u n.val) n.val (fun c => { addEvents c es with ended := e })) :
    issueRow s n (seqBundle tag op d a b imm) = .next (modCore (issued u n es) n.val (fun c => { c with ended := e })) := by
  have hn := stillAt_len h
  have hnu : n.val < u.cores.length := by rwa [hcores]
  have hnc : n.val < (clearPorts u n.val).cores.length := by rwa [clearPorts, modCore_cores_length]
  have ec := getCore_clear hn
  have hsame : getCore u n.val = getCore s n.val := by simp only [getCore, hcores]
  have ecu : getCore (clearPorts u n.val) n.val = { getCore s n.val with ports := [], portsAt := s.cycles } := by rw [getCore_clear hnu, hsame, hcycles]
  have epc : (getCore (clearPorts s n.val) n.val).pc = (getCore s n.val).pc := by rw [ec]
  have hi := seq_issue (stillAt_clear h) hop.2 hu hr (by rw [epc]; exact hk)
  have hf := still_fields h.2.1
  rw [epc, he, modCore_modCore _ _ _ hnc] at hi
  refine (issueRow_still h hi ?_ ?_ ?_ ?_ ?_ ?_).trans ?_
  · rwa [modCore_cores_length]
  · simpa [getCore_modCore _ _ _ hnc, ecu, addEvents, hf, Later] using hes
  iterate 4 · simp [getCore_modCore _ _ _ hnc, ecu, addEvents, hf]
  rw [modCore_modCore _ _ _ hnc, clearPorts, modCore_modCore _ _ _ hnu]
  have e1 : ¬ op = 1#6 := hop.1
  simp only [modCore, issued, hsame, hcycles, setCore_setCore, getCore_setCore _ _ _ hnu, if_true]
  congr 2
  rw [dropMoves_calm (by simp [addEvents, hf]) (by simp [addEvents, hf])]
  simp [nextBundle, e1, addEvents, hf, portsNow, ec, hcycles]

/-- A still core issues an operation that only writes a scalar register in the next core cycle and changes nothing else of the cores. -/
theorem issueRow_writes {n : Fin 128} {tag : BitVec 16} {op : BitVec 6} {d a b : BitVec 5} {imm : BitVec 32} {u : State} {v : Word64}
    (h : StillAt s n (seqBundle tag op d a b imm)) (hop : op ≠ 1 ∧ op ≠ 3 ∧ op ≠ 4) (hu : slotUndefined (seqBundle tag op d a b imm) false 0 = false)
    (hr : slotReserved (seqBundle tag op d a b imm) false 0 = false)
    (hk : seqChecks (getCore (clearPorts s n.val) n.val) n.val (getCore s n.val).pc ⟨op, d, a, b, 0, imm⟩ = none)
    (hcores : u.cores = s.cores) (hcycles : u.cycles = s.cycles)
    (he : seqEffect (clearPorts s n.val) n.val (getCore s n.val).pc ⟨op, d, a, b, 0, imm⟩ false =
      modCore (clearPorts u n.val) n.val (fun c => addEvents c [((getCore s n.val).cycle + 1, .writeSreg d.toNat v)])) :
    issueRow s n (seqBundle tag op d a b imm) = .next (writes u n d v) := by
  have hsame : getCore u n.val = getCore s n.val := by simp only [getCore, hcores]
  have hnu : n.val < u.cores.length := by rw [hcores]; exact stillAt_len h
  have hend := (still_fields h.2.1).2.1
  rw [issueRow_effect (u := u) (es := [((getCore s n.val).cycle + 1, .writeSreg d.toNat v)]) (e := false) h hop hu hr hk hcores hcycles (by simp)]
  · rw [writes, hsame]
    congr 1
    refine modCore_id _ _ ?_
    simp [issued, getCore_setCore _ _ _ hnu, hsame, hend]
  · rw [he]
    simp only [modCore, getCore_clear hnu, hsame, addEvents, hend]

theorem clear_cycle {n : Fin 128} (hn : n.val < s.cores.length) : (getCore (clearPorts s n.val) n.val).cycle = (getCore s n.val).cycle := by rw [getCore_clear hn]

/-- The four operations read no memory, so that the sequencer checks pass. -/
theorem seqChecks_plain {n : Fin 128} {pc : Nat} {x : SeqSlot} (h : Still (getCore s n.val)) (hn : n.val < s.cores.length)
    (hop : x.sop = 0 ∨ x.sop = 2 ∨ x.sop = 7 ∨ x.sop = 0x1C) : seqChecks (getCore (clearPorts s n.val) n.val) n.val pc x = none := by
  have hev : (getCore (clearPorts s n.val) n.val).events = [] := by rw [getCore_clear hn]; exact (still_fields h).2.2.2.2.1
  apply seqChecks_alu hev <;> rcases hop with h | h | h | h <;> simp [h, seqAccess]

/-- A reading of the timebase is at most 4 units old and never below the unit's last one (R41). -/
theorem readTime_bounds (s : State) (unit : Nat) :
    tget 0 s.readings unit ≤ (readTime s unit).1 ∧ s.time ≤ (readTime s unit).1 + 4 ∧ (readTime s unit).1 ≤ max (tget 0 s.readings unit) s.time := by
  simp only [readTime]
  have := Nat.mod_lt (Config.freeBits s.freeCtr).toNat (show 0 < 5 by decide)
  omega

/-! ### Each of the four -/

variable {n : Fin 128} {tag : BitVec 16}

theorem exec_nop_still (h : StillAt s n (seqBundle tag 0x00 0 0 0 0)) : exec (.nop n (seqBundle tag 0x00 0 0 0 0)) s = .next (issued s n []) := by
  have hn := stillAt_len h
  have hend := (still_fields h.2.1).2.1
  refine (issueRow_effect (u := s) (es := []) (e := false) h (by decide) ?_ ?_ (seqChecks_plain h.2.1 hn (by simp)) rfl rfl (by simp) ?_).trans ?_
  · simp [slotUndefined, seqBundle, predBit, bit]
  · simp [slotReserved, seqBundle, seqUses]
  · have heff : seqEffect (clearPorts s n.val) n.val (getCore s n.val).pc ⟨0x00, 0, 0, 0, 0, 0⟩ false = clearPorts s n.val := rfl
    exact heff.trans (modCore_id _ _ (by simp [getCore_clear hn, addEvents, hend])).symm
  · congr 1
    exact modCore_id _ _ (by simp [issued, getCore_setCore _ _ _ hn, hend])

theorem exec_endLaunch_still (h : StillAt s n (seqBundle tag 0x02 0 0 0 0)) :
    exec (.endLaunch n (seqBundle tag 0x02 0 0 0 0)) s = .next (modCore (issued s n []) n.val (fun c => { c with ended := true })) := by
  refine issueRow_effect (u := s) (es := []) (e := true) h (by decide) ?_ ?_ (seqChecks_plain h.2.1 (stillAt_len h) (by simp)) rfl rfl (by simp) ?_
  · simp [slotUndefined, seqBundle, predBit, bit]
  · simp [slotReserved, seqBundle, seqUses]
  · simp [seqEffect, addEvents]

theorem exec_lidx_still {d : BitVec 5} {l : BitVec 2} (h : StillAt s n (seqBundle tag 0x07 d 0 0 (l.zeroExtend 32))) :
    exec (.lidx n (seqBundle tag 0x07 d 0 0 (l.zeroExtend 32))) s =
      .next (writes s n d (BitVec.ofNat 64 (((getCore s n.val).loops.reverse[l.toNat]?).elim 0 (·.index)))) := by
  have hn := stillAt_len h
  have hl : (l.zeroExtend 32).toNat = l.toNat := by simpa using Nat.mod_eq_of_lt (show l.toNat < 4294967296 by omega)
  have helim : ∀ x : Option LoopFrame, (match x with | some f => f.index | none => 0) = x.elim 0 (·.index) := fun x => by cases x <;> rfl
  refine issueRow_writes (u := s) h (by decide) ?_ ?_ (seqChecks_plain h.2.1 hn (by simp)) rfl rfl ?_
  · simp [slotUndefined, seqBundle, predBit, bit]
  · simpa [slotReserved, seqBundle, seqUses] using Nat.mod_le l.toNat 4294967296 |>.trans_lt l.isLt
  · have hval : (aluResult (clearPorts s n.val) n.val (getCore (clearPorts s n.val) n.val) ⟨0x07, d, 0, 0, 0, l.zeroExtend 32⟩).1 =
        ((getCore s n.val).loops.reverse[l.toNat]?).elim 0 (·.index) := by
      simp only [aluResult, getCore_clear hn, hl, Nat.mod_eq_of_lt l.isLt, ← helim]
      rfl
    rw [← hval, ← clear_cycle hn]
    rfl

theorem exec_tbr_still {d : BitVec 5} (h : StillAt s n (seqBundle tag 0x1C d 0 0 0)) :
    exec (.tbr n (seqBundle tag 0x1C d 0 0 0)) s = .next (writes (readTime s (CORE n.val)).2 n d (BitVec.ofNat 64 (readTime s (CORE n.val)).1)) := by
  have hn := stillAt_len h
  refine issueRow_writes (u := (readTime s (CORE n.val)).2) h (by decide) ?_ ?_ (seqChecks_plain h.2.1 hn (by simp)) rfl rfl ?_
  · simp [slotUndefined, seqBundle, predBit, bit]
  · simp [slotReserved, seqBundle, seqUses]
  · rw [← clear_cycle hn]
    rfl

/-- Settles O3: a still core issues each of the four with its slot's effect alone; the reading of TBR has the bounds of R41. -/
theorem seqPlain : Obligations.SeqPlain := fun s n _ _ _ =>
  ⟨exec_nop_still, exec_endLaunch_still, exec_lidx_still, fun h =>
    have ⟨hlast, hold, hnew⟩ := readTime_bounds s (CORE n.val)
    ⟨_, hlast, hold, hnew, exec_tbr_still h⟩⟩

end Sys2Proof.Machine
end

section
/-! SUPPORT. Reads and writes of the tile stores and accumulators where every code is clean: what they return, store and leave alone. -/

namespace Sys2Proof.Machine

/-! ### Consecutive entries of a table -/

section
variable {α : Type} {d : α}

theorem tgetList_add (t : Table α) (k m n : Nat) : tgetList d t k (m + n) = tgetList d t k m ++ tgetList d t (k + m) n := by
  induction m generalizing k with
  | zero => simp [tgetList]
  | succ m ih => rw [Nat.succ_add]; simp [tgetList, ih, Nat.add_assoc, Nat.add_comm 1]

variable [DecidableEq α]

theorem tsetList_append (t : Table α) (k : Nat) (xs ys : List α) : tsetList d t k (xs ++ ys) = tsetList d (tsetList d t k xs) (k + xs.length) ys := by
  induction xs generalizing t k with
  | nil => rfl
  | cons x xs ih => simp only [List.cons_append, tsetList, ih, List.length_cons]; congr 1; omega

/-- A slice of consecutive entries. -/
theorem tgetList_slice (t : Table α) (k : Nat) {m off n : Nat} (h : off + n ≤ m) : ((tgetList d t k m).drop off).take n = tgetList d t (k + off) n := by
  obtain ⟨r, rfl⟩ := Nat.exists_eq_add_of_le h
  rw [tgetList_add, tgetList_add, List.append_assoc, List.drop_left' (tgetList_length _ _), List.take_left' (tgetList_length _ _)]

/-- Writing back what a table holds changes nothing. -/
theorem tsetList_tgetList {t : Table α} (h : twf d t = true) (k n : Nat) : tsetList d t k (tgetList d t k n) = t := by
  simpa [tsetList] using tsetList_splice (vs := []) h (off := 0) (k := k) (n := n) (by simp)

/-- What a table holds after consecutive writes. -/
theorem tget_tsetList {t : Table α} (h : twf d t = true) (k j : Nat) (vs : List α) :
    tget d (tsetList d t k vs) j = if k ≤ j ∧ j < k + vs.length then vs.getD (j - k) d else tget d t j := by
  split
  · rename_i hj
    obtain ⟨i, rfl⟩ := Nat.exists_eq_add_of_le hj.1
    have hi : i < vs.length := by omega
    rw [tget_tsetList_in h k i vs hi, Nat.add_sub_cancel_left, List.getD_eq_getElem _ _ hi]
  · exact tget_tsetList_out h k j vs (by omega)

end

/-! ### The granules of a byte range -/

/-- A byte range is the part of its first granule, then the rest. -/
theorem pieces_cons {a n : Nat} (hn : 0 < n) :
    pieces a n = (a / 32, a % 32, min n (32 - a % 32)) :: pieces (a + min n (32 - a % 32)) (n - min n (32 - a % 32)) := by
  by_cases h : n ≤ 32 - a % 32
  · rw [pieces_of_within hn (by omega), Nat.min_eq_left h, Nat.sub_self]
    rfl
  obtain ⟨g, r, hr, rfl⟩ : ∃ g r, r < 32 ∧ a = 32 * g + r := ⟨a / 32, a % 32, Nat.mod_lt _ (by decide), (Nat.div_add_mod a 32).symm⟩
  have hdiv : (32 * g + r) / 32 = g := by omega
  have hmod : (32 * g + r) % 32 = r := by omega
  rw [hmod] at h ⊢
  have hnext : 32 * g + r + (32 - r) = 32 * (g + 1) := by omega
  have hdiv' : 32 * (g + 1) / 32 = g + 1 := by omega
  have hend : 32 * (g + 1) + (n - (32 - r)) = 32 * g + r + n := by omega
  have hcount : (32 * g + r + n - 1) / 32 - g + 1 = (32 * g + r + n - 1) / 32 - (g + 1) + 1 + 1 := by omega
  rw [Nat.min_eq_right (by omega), hnext, pieces, pieces, if_neg (by omega), if_neg (by omega), hdiv, hdiv', hend, hcount, List.range_succ_eq_map, List.map_cons,
    List.map_map]
  congr 1
  · simp only [Nat.add_zero, Nat.max_eq_left (Nat.le_add_right (32 * g) r), Nat.add_sub_cancel_left]
    congr 2
    omega
  · refine List.map_congr_left fun i _ => ?_
    simp only [Function.comp, Nat.succ_eq_add_one, ← Nat.add_assoc, Nat.add_right_comm g i 1]
    rw [Nat.max_eq_right (by omega), Nat.max_eq_right (by omega)]

/-- Every piece of a range lies in it and inside its granule. -/
theorem mem_pieces {a n : Nat} {p : Nat × Nat × Nat} (hp : p ∈ pieces a n) :
    a ≤ 32 * p.1 + p.2.1 ∧ 32 * p.1 + p.2.1 < a + n ∧ a / 32 ≤ p.1 ∧ p.1 ≤ (a + n - 1) / 32 := by
  unfold pieces at hp
  split at hp
  · simp at hp
  · obtain ⟨i, hi, rfl⟩ := List.mem_map.mp hp
    have := List.mem_range.mp hi
    dsimp only
    omega

/-- Induction along the pieces of a range that a fold goes through. -/
theorem foldl_pieces {β : Type} {f : β → Nat × Nat × Nat → β} {motive : Nat → Nat → β → β → Prop} (zero : ∀ a b, motive a 0 b b)
    (step : ∀ a n b r, 0 < n → motive (a + min n (32 - a % 32)) (n - min n (32 - a % 32)) (f b (a / 32, a % 32, min n (32 - a % 32))) r → motive a n b r)
    {a n : Nat} {b : β} : motive a n b ((pieces a n).foldl f b) := by
  induction n using Nat.strongRecOn generalizing a b with
  | ind n ih =>
    rcases Nat.eq_zero_or_pos n with rfl | hn
    · exact zero a b
    · rw [pieces_cons hn, List.foldl_cons]
      exact step a n b _ hn (ih _ (by omega))

/-! ### The stores of the cores -/

/-- An address lies in a tile store or in an accumulator. -/
def InCore (x : Nat) : Prop := ∃ n, n < 128 ∧ ((tileBase n ≤ x ∧ x < tileBase n + 0x400000) ∨ (accBase n ≤ x ∧ x < accBase n + 0x80000))

/-- The region of such an address. -/
theorem regionOf_inCore (s : State) {x : Nat} (h : InCore x) : (∃ n off, regionOf s x = .tile n off) ∨ (∃ n off, regionOf s x = .acc n off) := by
  obtain ⟨n, hn, h | h⟩ := h
  · refine .inl ⟨(x - 0x20000000000) / 0x400000, (x - 0x20000000000) % 0x400000, ?_⟩
    simp only [tileBase] at h
    unfold regionOf poolBase
    rw [if_neg (by omega), if_neg (by omega), if_neg (by omega), if_neg (by omega), if_pos (by omega), if_pos (by omega)]
  · refine .inr ⟨(x - 0x28000000000) / 0x80000, (x - 0x28000000000) % 0x80000, ?_⟩
    simp only [accBase] at h
    unfold regionOf poolBase
    rw [if_neg (by omega), if_neg (by omega), if_neg (by omega), if_neg (by omega), if_neg (by omega), if_pos (by omega), if_pos (by omega)]

/-- Every byte of a range, and of the granule in which it begins, lies in the stores of the cores. -/
def CoreSpan (a n : Nat) : Prop := ∀ x, 32 * (a / 32) ≤ x → x < a + n → InCore x

theorem coreSpan_tile {n off len : Nat} (hn : n < 128) (h : off + len ≤ 0x400000) : CoreSpan (tileBase n + off) len := fun x hx hx' =>
  ⟨n, hn, .inl (by simp only [tileBase] at *; omega)⟩

theorem coreSpan_acc {n off len : Nat} (hn : n < 128) (h : off + len ≤ 0x80000) : CoreSpan (accBase n + off) len := fun x hx hx' =>
  ⟨n, hn, .inr (by simp only [accBase] at *; omega)⟩

theorem CoreSpan.rest {a n k : Nat} (h : CoreSpan a n) (hk : k ≤ n) : CoreSpan (a + k) (n - k) := fun x hx hx' => h x (by omega) (by omega)

/-! ### Reads -/

section
variable {s : State}

/-- A granule of the cores' stores with a clean code is read as it is stored, without further effect. -/
theorem readGranule_clean {g : Nat} (first : Bool) (hx : InCore (32 * g)) (hg : tget 0 s.guard g = 0) :
    readGranule s g first = (memBytes s (32 * g) 32, .clean, s) := by
  rcases regionOf_inCore s hx with ⟨n, off, hr⟩ | ⟨n, off, hr⟩ <;> simp only [readGranule, hr, peekGranule_of_clean hg, noteCheck]

/-- A read of clean codes returns the bytes as they are stored, and changes nothing. -/
theorem readSpan_clean (m : Master) {a n : Nat} (ha : CoreSpan a n) (hg : ∀ g, tget 0 s.guard g = 0) (hh : s.hopErrors = []) :
    readSpan m s a n = ({ data := memBytes s a n }, s) := by
  refine foldl_pieces (motive := fun a n (b r : Rd × State) => CoreSpan a n → b.2 = s → r = ({ b.1 with data := b.1.data ++ memBytes s a n }, s)) ?_ ?_ ha rfl
  · rintro a ⟨rd, u⟩ - rfl
    simp [memBytes, tgetList]
  · rintro a n ⟨rd, u⟩ r hn ih ha rfl
    have hx : InCore (32 * (a / 32) + a % 32) := ha _ (by omega) (by omega)
    have hgran (first : Bool) := readGranule_clean (s := u) first (ha (32 * (a / 32)) (by omega) (by omega)) (hg _)
    have hbytes : ((memBytes u (32 * (a / 32)) 32).drop (a % 32)).take (min n (32 - a % 32)) = memBytes u a (min n (32 - a % 32)) := by
      rw [memBytes, tgetList_slice _ _ (by omega), Nat.div_add_mod, memBytes]
    have hall : memBytes u a n = memBytes u a (min n (32 - a % 32)) ++ memBytes u (a + min n (32 - a % 32)) (n - min n (32 - a % 32)) := by
      rw [memBytes, memBytes, memBytes, ← tgetList_add, Nat.add_sub_cancel' (Nat.min_le_left _ _)]
    rw [hall, ← List.append_assoc]
    rcases regionOf_inCore u hx with ⟨_, _, hr⟩ | ⟨_, _, hr⟩ <;>
      · simp only [hr, hgran, crossHops_none _ _ hh, hbytes] at ih
        exact ih (ha.rest (Nat.min_le_left _ _)) trivial

end

/-! ### Stores -/

/-- The state without what a store of bytes may change. -/
def storeAside (s : State) : State := { s with mem := [], guard := [], scrubs := [], reserved := [], rankCache := [] }

/-- A step from s to t that only stores bytes and makes codes. -/
def StoresOnly (s t : State) : Prop := storeAside t = storeAside s

namespace StoresOnly
variable {s t u : State}

theorem refl (s : State) : StoresOnly s s := rfl
theorem trans (h : StoresOnly s t) (g : StoresOnly t u) : StoresOnly s u := Eq.trans g h
theorem cores (h : StoresOnly s t) : t.cores = s.cores := (congrArg State.cores h :)
theorem nvm (h : StoresOnly s t) : t.nvm = s.nvm := (congrArg State.nvm h :)
theorem posted (h : StoresOnly s t) : t.posted = s.posted := (congrArg State.posted h :)
theorem dispatches (h : StoresOnly s t) : t.dispatches = s.dispatches := (congrArg State.dispatches h :)
theorem hopErrors (h : StoresOnly s t) : t.hopErrors = s.hopErrors := (congrArg State.hopErrors h :)

theorem unitsKept (h : StoresOnly s t) : unitsKept s t :=
  ⟨(congrArg State.regs h :), (congrArg State.blocks h :), (congrArg State.steward h :), (congrArg State.dma h :), (congrArg State.chains h :),
    (congrArg State.lanes h :), (congrArg State.units h :), (congrArg State.cacheLines h :), (congrArg State.wcb h :), (congrArg State.host h :),
    (congrArg State.boot h :), (congrArg State.keeper h :), (congrArg State.power h :)⟩

end StoresOnly

theorem storeGranule_only (s : State) (g : Nat) (bs : List Byte) (p : Bool) : StoresOnly s (storeGranule s g bs p) := rfl

theorem storePart_only (s : State) (g off : Nat) (bs : List Byte) : StoresOnly s (storePart s g off bs) := by
  unfold storePart; split <;> rfl

theorem storeBytes_only (s : State) (g off : Nat) (bs : List Byte) (p : Bool) : StoresOnly s (storeBytes s g off bs p) := by
  unfold storeBytes
  split
  · exact storeGranule_only ..
  · split
    · exact (storePart_only ..).trans (storeGranule_only ..)
    · exact storePart_only ..

/-- The code with which data are stored. -/
def codeOf (poisoned : Bool) : BitVec 32 := if poisoned then poisonDev else 0

/-- A step that stores the bytes bs from a on and gives the granules of a range the code of p, where both memories are in canonical form. -/
structure Stores (s : State) (a : Nat) (bs : List Byte) (p : Bool) (t : State) : Prop where
  only : StoresOnly s t
  mem : t.mem = tsetList 0 s.mem a bs
  guardWf : twf 0 t.guard = true
  guard : ∀ g, tget 0 t.guard g = if bs ≠ [] ∧ a / 32 ≤ g ∧ g ≤ (a + bs.length - 1) / 32 then codeOf p else tget 0 s.guard g

section
variable {s : State}

theorem storeGranule_guard (g : Nat) (bs : List Byte) (p : Bool) : (storeGranule s g bs p).guard = tset 0 s.guard g (codeOf p) := rfl

theorem storePart_guard_of_clean {g off : Nat} {bs : List Byte} (hg : tget 0 s.guard g = 0) : (storePart s g off bs).guard = tset 0 s.guard g 0 := by
  simp only [storePart, peekGranule_of_clean hg]
  rfl

/-- Part of a granule with a clean code stored: the bytes that arrive, and the code of the data that arrive. -/
theorem storeBytes_clean (hm : twf 0 s.mem = true) (hw : twf 0 s.guard = true) {g off : Nat} {bs : List Byte} (p : Bool) (hg : tget 0 s.guard g = 0)
    (hoff : off + bs.length ≤ 32) :
    (storeBytes s g off bs p).mem = tsetList 0 s.mem (32 * g + off) bs ∧ twf 0 (storeBytes s g off bs p).guard = true ∧
      ∀ j, tget 0 (storeBytes s g off bs p).guard j = if j = g then codeOf p else tget 0 s.guard j := by
  have hpart : (storePart s g off bs).mem = tsetList 0 s.mem (32 * g + off) bs := storePart_mem_of_clean hm hg hoff
  have hpartg := storePart_guard_of_clean (off := off) (bs := bs) hg
  unfold storeBytes
  split
  · rename_i hl
    obtain rfl : off = 0 := by omega
    rw [storeGranule_guard, storeGranule_mem, Nat.add_zero]
    exact ⟨rfl, twf_tset hw _ _, fun j => tget_tset hw _ _ _⟩
  · cases p
    · rw [if_neg (by simp), hpart, hpartg]
      exact ⟨rfl, twf_tset hw _ _, fun j => tget_tset hw _ _ _⟩
    · rw [if_pos rfl, storeGranule_guard, storeGranule_mem, hpartg]
      refine ⟨?_, twf_tset (twf_tset hw _ _) _ _, fun j => ?_⟩
      · simp only [putBytes, memBytes]
        rw [tsetList_tgetList (by rw [hpart]; exact twf_tsetList hm _ _), hpart]
      · rw [tget_tset (twf_tset hw _ _), tget_tset hw]
        by_cases hj : j = g <;> simp [hj]

theorem storeBytes_stores (hm : twf 0 s.mem = true) (hw : twf 0 s.guard = true) {a : Nat} {bs : List Byte} (p : Bool) (hne : bs ≠ [])
    (hg : tget 0 s.guard (a / 32) = 0) (hoff : a % 32 + bs.length ≤ 32) : Stores s a bs p (storeBytes s (a / 32) (a % 32) bs p) := by
  obtain ⟨hmem, hguardWf, hguard⟩ := storeBytes_clean hm hw p hg hoff
  rw [Nat.div_add_mod] at hmem
  have hlen := List.length_pos_iff.mpr hne
  refine ⟨storeBytes_only .., hmem, hguardWf, fun g => ?_⟩
  rw [hguard]
  exact if_congr (by simp only [ne_eq, hne, not_false_eq_true, true_and]; omega) rfl rfl

/-- Two stores one behind the other are one. -/
theorem Stores.append {t u : State} {a : Nat} {bs cs : List Byte} {p : Bool} (h : Stores s a bs p t) (g : Stores t (a + bs.length) cs p u) (hbs : bs ≠ []) :
    Stores s a (bs ++ cs) p u := by
  refine ⟨h.only.trans g.only, by rw [g.mem, h.mem, tsetList_append], g.guardWf, fun j => ?_⟩
  have hl := List.length_pos_iff.mpr hbs
  have hl' : cs ≠ [] ↔ 0 < cs.length := List.length_pos_iff.symm
  have hboth : bs ++ cs ≠ [] := by simp [hbs]
  rw [g.guard, h.guard, List.length_append, ← ite_or]
  refine if_congr ?_ rfl rfl
  rw [hl']
  simp only [hboth, hbs, ne_eq, not_false_eq_true, true_and]
  omega

theorem writePiece_inCore (m : Master) {g off : Nat} (bs : List Byte) (p first : Bool) (hx : InCore (32 * g + off)) :
    writePiece m s g off bs p first = storeBytes s g off bs p := by
  rcases regionOf_inCore s hx with ⟨_, _, hr⟩ | ⟨_, _, hr⟩ <;> simp only [writePiece, hr]

theorem pieces_mapped {a n : Nat} (ha : CoreSpan a n) : (pieces a n).find? (fun p => regionOf s (32 * p.1 + p.2.1) == .unmapped) = none := by
  rw [List.find?_eq_none]
  intro p hp
  have hin := mem_pieces hp
  rcases regionOf_inCore s (ha (32 * p.1 + p.2.1) (by omega) (by omega)) with ⟨_, _, hr⟩ | ⟨_, _, hr⟩ <;> simp [hr]

/-- A write of the cores' stores over clean codes stores its bytes, poisons what arrives poisoned, and changes nothing else. -/
theorem writeSpan_clean (m : Master) {a : Nat} {bs : List Byte} {poison : List Nat} {p : Bool} (ha : CoreSpan a bs.length) (hm : twf 0 s.mem = true)
    (hw : twf 0 s.guard = true) (hg : ∀ g, tget 0 s.guard g = 0) (hh : s.hopErrors = [])
    (hp : ∀ g, a / 32 ≤ g → g ≤ (a + bs.length - 1) / 32 → poison.contains g = p) :
    (writeSpan m s a bs poison).1 = false ∧ Stores s a bs p (writeSpan m s a bs poison).2 := by
  unfold writeSpan
  simp only [pieces_mapped ha, Option.isSome_none, true_and]
  refine foldl_pieces (b := (s, bs, none)) (motive := fun a n (b r : State × List Byte × Option Nat) => CoreSpan a n → b.2.1.length = n → twf 0 b.1.mem = true →
    twf 0 b.1.guard = true → (0 < n → ∀ g, a / 32 ≤ g → tget 0 b.1.guard g = 0) → b.1.hopErrors = [] →
    (∀ g, a / 32 ≤ g → g ≤ (a + n - 1) / 32 → poison.contains g = p) → Stores b.1 a b.2.1 p r.1) ?_ ?_ ha rfl hm hw (fun _ g _ => hg g) hh hp
  · rintro a ⟨u, bs, key⟩ - hl - hw - - -
    obtain rfl : bs = [] := List.length_eq_zero_iff.mp hl
    exact ⟨.refl u, rfl, hw, by simp⟩
  · rintro a n ⟨u, bs, key⟩ ⟨r, rest⟩ hn ih ha hl hm hw hg hh hp
    have hk : min n (32 - a % 32) ≤ n := Nat.min_le_left _ _
    have hlen : (bs.take (min n (32 - a % 32))).length = min n (32 - a % 32) := by rw [List.length_take]; dsimp only at hl; omega
    have hpoison : poison.contains (a / 32) = p := hp _ le_rfl (by omega)
    have hx : InCore (32 * (a / 32) + a % 32) := ha _ (by omega) (by omega)
    have hfirst : Stores u a (bs.take (min n (32 - a % 32))) p (storeBytes u (a / 32) (a % 32) (bs.take (min n (32 - a % 32))) p) :=
      storeBytes_stores hm hw p (by rw [← List.length_pos_iff]; omega) (hg hn _ le_rfl) (by omega)
    have hmemWf : twf 0 (storeBytes u (a / 32) (a % 32) (bs.take (min n (32 - a % 32))) p).mem = true := by rw [hfirst.mem]; exact twf_tsetList hm _ _
    have hclean : 0 < n - min n (32 - a % 32) → ∀ g, (a + min n (32 - a % 32)) / 32 ≤ g →
        tget 0 (storeBytes u (a / 32) (a % 32) (bs.take (min n (32 - a % 32))) p).guard g = 0 := fun hrest g hle => by
      rw [hfirst.guard, hlen, if_neg (by omega)]
      exact hg hn g (by omega)
    simp only [crossHops_none _ _ hh, hpoison, writePiece_inCore _ _ _ _ hx] at ih
    rw [← List.take_append_drop (min n (32 - a % 32)) bs]
    refine hfirst.append ?_ (by rw [← List.length_pos_iff]; omega)
    rw [hlen]
    cases p <;>
      exact ih (ha.rest hk) (by simp [hl]) hmemWf hfirst.guardWf hclean (hfirst.only.hopErrors.trans hh) (fun g h1 h2 => hp g (by omega) (by omega))

end

end Sys2Proof.Machine
end

section
/-! SUPPORT. Accesses of a tile store by a master from outside the core, and the statement on LOCAL_READ and LOCAL_WRITE (O23). -/

namespace Sys2Proof.Machine

variable {s : State} {m : Master}

theorem maskPoison_nil (a : Nat) (data : List Byte) : maskPoison a data [] = data := by
  simp [maskPoison]

/-- No block meets an error in its state where none is damaged. -/
theorem meetStateErrors_none (h : s.stateErrors = []) : meetStateErrors s = s := by
  obtain ⟨⟩ := s
  simp only at h
  subst h
  rfl

/-- The host reaches local memory through BAR2 (R494, R510); every other master reaches it at once. -/
def reaches (s : State) (m : Master) (a : Nat) : Prop := m = .host → hostUp s = true ∧ inBar2 s a = true ∧ s.boot.configured = true

/-- A read of clean codes of the cores' stores answers its master with the stored bytes (R43). -/
theorem localRead_clean {a len : Nat} (hr : reaches s m a) (hlen : 0 < len) (ha : CoreSpan a len) (hg : s.guard = []) (hh : s.hopErrors = []) :
    localRead m s a len = emit s (.readData m a (memBytes s a len) []) := by
  have hread (m : Master) := readSpan_clean (s := s) m ha (fun g => by rw [hg]; rfl) hh
  rcases regionOf_inCore s (ha a (by omega) (by omega)) with ⟨_, _, hreg⟩ | ⟨_, _, hreg⟩ <;> simp only [localRead, hreg] <;>
  · cases m with
    | host =>
      obtain ⟨hup, hbar, hcfg⟩ := hr rfl
      simp [hup, hbar, hostMemRead, hcfg, hread, maskPoison_nil]
    | keeper c => simp [keeperRead, hread]
    | _ => simp [unitRead, hread]

/-- What follows a write when no dispatch is active and no write is on its way: nothing. -/
theorem drainPosted_notePosts_none (hd : s.dispatches = []) (hp : s.posted = []) (a n : Nat) : drainPosted (notePosts s a n) = s := by
  simp [notePosts, hd, drainPosted, drainLoop, hp, nextPosted]

/-- A write to clean codes of the cores' stores stores what arrives, and nothing follows (R43, R536, R541). -/
theorem memWrite_clean (m : Master) {a : Nat} {data : List Byte} {poison : List Nat} {p : Bool} (ha : CoreSpan a data.length) (hg : s.guard = [])
    (hh : s.hopErrors = []) (hd : s.dispatches = []) (hpo : s.posted = []) (hm : twf 0 s.mem = true)
    (hp : ∀ g, a / 32 ≤ g → g ≤ (a + data.length - 1) / 32 → poison.contains g = p) : Stores s a data p (memWrite m s a data poison) := by
  obtain ⟨hmapped, hst⟩ := writeSpan_clean m ha hm (by rw [hg]; rfl) (fun g => by rw [hg]; rfl) hh hp
  have hnone := drainPosted_notePosts_none (hst.only.dispatches.trans hd) (hst.only.posted.trans hpo) a data.length
  cases m <;> simpa only [memWrite, hmapped, hnone, Bool.false_eq_true, if_false] using hst

theorem localWrite_clean {a : Nat} {data : List Byte} {poison : List Nat} {p : Bool} (hr : reaches s m a) (hne : data ≠ []) (ha : CoreSpan a data.length)
    (hg : s.guard = []) (hh : s.hopErrors = []) (hd : s.dispatches = []) (hpo : s.posted = []) (hm : twf 0 s.mem = true)
    (hp : ∀ g, a / 32 ≤ g → g ≤ (a + data.length - 1) / 32 → poison.contains g = p) : Stores s a data p (localWrite m s a data poison) := by
  have hlen := List.length_pos_iff.mpr hne
  have hwrite (m : Master) := memWrite_clean m ha hg hh hd hpo hm hp
  rcases regionOf_inCore s (ha a (by omega) (by omega)) with ⟨_, _, hreg⟩ | ⟨_, _, hreg⟩ <;> simp only [localWrite, hreg] <;>
  · cases m with
    | host =>
      obtain ⟨hup, hbar, hcfg⟩ := hr rfl
      simpa [hup, hbar, hcfg] using hwrite .host
    | _ => exact hwrite _

theorem contains_allGranules {a n g : Nat} (hn : 0 < n) (h1 : a / 32 ≤ g) (h2 : g ≤ (a + n - 1) / 32) : (allGranules a n).contains g = true := by
  rw [List.contains_iff_mem, allGranules, pieces, if_neg (by omega), List.map_map, List.mem_map]
  exact ⟨g - a / 32, List.mem_range.mpr (by omega), by simp only [Function.comp]; omega⟩

/-- An address of a tile store is a 42-bit one. -/
theorem toNat_tileAddr (n : Fin 128) {off : Nat} (h : off < 0x400000) : (BitVec.ofNat 42 (tileBase n.val + off)).toNat = tileBase n.val + off := by
  rw [BitVec.toNat_ofNat, Nat.mod_eq_of_lt]
  unfold tileBase
  omega

/-- A LOCAL_READ on a powered module is served, or waits where it must (R45). -/
theorem exec_localRead {addr : BitVec 42} {a len : Nat} (hr : running s = true) (ha : addr.toNat = a) :
    exec (.localRead m addr len) s = .next (if accessWaits s { master := m, addr := a, len := len } s.waitingAccesses = true then
      { s with waitingAccesses := s.waitingAccesses ++ [{ master := m, addr := a, len := len }] } else localRead m (meetStateErrors s) a len) := by
  subst ha
  exact congrArg _ (powered_running hr _)

/-- A LOCAL_WRITE on a powered module is served, or waits where it must (R45). -/
theorem exec_localWrite {addr : BitVec 42} {a : Nat} {data : List Byte} {poisoned : Bool} (hr : running s = true) (ha : addr.toNat = a) :
    let bad := if poisoned then allGranules a data.length else []
    let w : WaitingAccess := { master := m, addr := a, len := data.length, write := some (data, bad) }
    exec (.localWrite m addr data poisoned) s = .next (if accessWaits s w s.waitingAccesses = true then
      { s with waitingAccesses := s.waitingAccesses ++ [w] } else localWrite m s a data bad) := by
  subst ha
  exact congrArg _ (powered_running hr _)

/-- The bytes, codes and units of a module after a store over clean codes. -/
theorem Stores.outcome {t : State} {a : Nat} {data : List Byte} {p : Bool} (h : Stores s a data p t) (hm : twf 0 s.mem = true) (hg : s.guard = [])
    (hne : data ≠ []) :
    (∀ b, tget 0 t.mem b = if a ≤ b ∧ b < a + data.length then data.getD (b - a) 0 else tget 0 s.mem b) ∧
      (∀ g, tget 0 t.guard g = if p = true ∧ a / 32 ≤ g ∧ g ≤ (a + data.length - 1) / 32 then poisonDev else 0) ∧
      t.nvm = s.nvm ∧ t.cores = s.cores ∧ unitsKept s t := by
  refine ⟨fun b => by rw [h.mem, tget_tsetList hm], fun g => ?_, h.only.nvm, h.only.cores, h.only.unitsKept⟩
  have hnone : tget 0 s.guard g = 0 := by rw [hg]; rfl
  rw [h.guard, hnone]
  cases p <;> simp [hne, codeOf]

/-- Settles O23: an access of clean codes is a plain read or store of its bytes, and one that must wait is appended to those that wait. -/
theorem localMemory : Obligations.LocalMemory := by
  constructor
  · intro s m n off len a hr hhost hlen hoff hg hh he w
    rw [exec_localRead hr (toNat_tileAddr n (by omega)), meetStateErrors_none he]
    refine ⟨fun hw => ?_, fun hw => by rw [if_pos hw]⟩
    rw [if_neg (Bool.eq_false_iff.mp hw), localRead_clean hhost hlen (coreSpan_tile n.isLt hoff) hg hh]
  · intro s m n off data poisoned a w hr hhost hne hoff hg hh hd hpo hm
    have hlen := List.length_pos_iff.mpr hne
    rw [exec_localWrite hr (toNat_tileAddr n (by omega))]
    refine ⟨fun hw => ⟨_, by rw [if_neg (Bool.eq_false_iff.mp hw)], ?_⟩, fun hw => by rw [if_pos hw]⟩
    refine (localWrite_clean hhost hne (coreSpan_tile n.isLt hoff) hg hh hd hpo hm fun g h1 h2 => ?_).outcome hm hg hne
    cases poisoned
    · rfl
    · exact contains_allGranules hlen h1 h2

end Sys2Proof.Machine
end

section
/-! SUPPORT. Launch queues: what a staging write appends or drops and what the delivery of a queue's head does, and the statement on LAUNCH_APPEND and LAUNCH_DELIVERY (O18). -/

namespace Sys2Proof.Machine

/-! ### Cleared ranges of a table -/

theorem tget_tclear {α : Type} {d : α} (t : Table α) {lo n k : Nat} (h : lo ≤ k ∧ k < lo + n) : tget d (tclear t lo n) k = d := by
  induction t with
  | nil => rfl
  | cons p t ih =>
    have e : tclear (p :: t) lo n = if (p.1 < lo || lo + n ≤ p.1) = true then p :: tclear t lo n else tclear t lo n := by rw [tclear, List.filter_cons]; rfl
    rw [e]
    split
    · rename_i hp
      have hk : p.1 ≠ k := by simp only [Bool.or_eq_true, decide_eq_true_eq] at hp; omega
      simpa only [tget, hk, if_false] using ih
    · exact ih

theorem tgetList_tclear {α : Type} [DecidableEq α] {d : α} (t : Table α) (lo n : Nat) : tgetList d (tclear t lo n) lo n = List.replicate n d := by
  apply List.ext_getElem
  · rw [tgetList_length, List.length_replicate]
  · intro i h1 _
    have hi : i < n := by rwa [tgetList_length] at h1
    rw [tgetList_getElem _ _ _ hi, tget_tclear t (by omega), List.getElem_replicate]

/-! ### Counters -/

section
variable {s : State}

@[simp] theorem storeGranule_regs (g : Nat) (bs : List Byte) (p : Bool) : (storeGranule s g bs p).regs = s.regs := rfl

/-- What a counter reads once it has counted (R575). -/
theorem getReg_count (h : twf 0 s.regs = true) (b off : Nat) {w : Nat} (hw : w ≤ 63) : getReg (count s b off w) b off = satAdd w (getReg s b off) 1 := by
  have hlt : satAdd w (getReg s b off) 1 < 2 ^ 64 := by
    have := Nat.pow_lt_pow_right (show 1 < 2 by decide) (show w < 64 by omega)
    unfold satAdd; omega
  rw [count, countN, if_neg (by decide), getReg_setReg h _ _ _ _ _ hlt, if_pos rfl]

/-- A log entry changes no register but the Keeper's. -/
theorem getReg_logEntry (h : twf 0 s.regs = true) {b off : Nat} (hb : b ≠ KEEPER) (hoff : off < 4096) (b' cls code d : Nat) :
    getReg (logEntry s b' cls code d) b off = getReg s b off := by
  have hne (o : Nat) (ho : o < 4096) : ¬ regKey b off = regKey KEEPER o := by rw [regKey_inj hoff ho]; simp [hb]
  unfold logEntry
  dsimp only
  split
  · have hlt : satAdd 32 (getReg s KEEPER 0x038) 1 < 2 ^ 64 := by unfold satAdd; omega
    rw [count, countN, if_neg (by decide), getReg_setReg h _ _ _ _ _ hlt, if_neg (hne _ (by decide))]
  · rw [getReg_setReg (s := storeGranule (readTime s KEEPER).2 _ _ _) h _ _ _ _ _ (Nat.lt_of_lt_of_le (Nat.mod_lt _ (by decide)) (by decide)), if_neg (hne _ (by decide))]
    simp only [getReg, storeGranule_regs, readTime_regs]

end

/-! ### Appending -/

/-- A record that is the first of its cycle goes behind all others. -/
theorem arriveLaunch_first {h : HostIf} {now : Nat} (q : Nat) (r : BitVec 512) (ha : h.arrivedAt ≠ now) :
    (arriveLaunch h now q r).queues = h.queues ++ [(q, r)] := by
  simp [arriveLaunch, ha]

/-- Among the records of its cycle a record goes behind those of its own and lower-numbered queues (R47). -/
theorem arriveLaunch_same {h : HostIf} {now : Nat} (q : Nat) (r : BitVec 512) {older same : List (Nat × BitVec 512)} (ha : h.arrivedAt = now)
    (hq : h.queues = older ++ same) (hn : h.arrivedNow = same.length) :
    (arriveLaunch h now q r).queues = older ++ same.filter (fun x => decide (x.1 ≤ q)) ++ [(q, r)] ++ same.filter (fun x => decide (q < x.1)) := by
  simp [arriveLaunch, ha, hq, hn]

theorem arriveLaunch_staging (h : HostIf) (now q : Nat) (r : BitVec 512) : (arriveLaunch h now q r).staging = h.staging := rfl

/-- The record that the staging words of a queue hold with a last word (R512). -/
def stagedRecord (s : State) (q : Nat) (v : Word64) : BitVec 512 :=
  BitVec.ofNat 512 (ofBytes ((tgetList 0 (tset 0 s.host.staging (8 * q + 7) v) (8 * q) 8).flatMap (fun x => bytesOf x.toNat 8)))

section
variable {s : State} {m : Master} {q : Nat} {v : Word64}

/-- A write of the last staging word by the owner of a queue with room appends the record and clears the words. -/
theorem writeStaging_appends (ho : ownsQueue m q = true) (hf : lqFree s q ≠ 0) :
    writeStaging s m q 7 v = { s with
      host := arriveLaunch { s.host with staging := tclear (tset 0 s.host.staging (8 * q + 7) v) (8 * q) 8 } s.cycles q (stagedRecord s q v) } := by
  simp [writeStaging, ho, hf, stagedRecord]

/-- A write of another master, or one of a record for which the queue has no room, is dropped. -/
theorem writeStaging_drops (h : ownsQueue m q = false ∨ lqFree s q = 0) : ∃ owner, writeStaging s m q 7 v = dropLaunch s m q owner := by
  cases ho : ownsQueue m q with
  | false => exact ⟨false, by simp [writeStaging, ho]⟩
  | true => exact ⟨true, by simp [writeStaging, ho, h.resolve_left (by simp [ho])]⟩

/-- A dropped record is counted and logged; the host interface and the cores are as before (R513). -/
theorem dropLaunch_counts (hr : twf 0 s.regs = true) (hq : q < 8) (owner : Bool) : (dropLaunch s m q owner).host = s.host ∧ (dropLaunch s m q owner).cores = s.cores ∧
    getReg (dropLaunch s m q owner) HOSTIF (0x108 + 16 * q) = satAdd 32 (getReg s HOSTIF (0x108 + 16 * q)) 1 := by
  have htidy : Tidy s (dropLaunch s m q owner) := (count_tidy ..).trans (logEntry_tidy ..)
  refine ⟨htidy.host, htidy.cores, ?_⟩
  rw [dropLaunch, getReg_logEntry (twf_tset hr _ _) (by decide) (by omega), getReg_count hr _ _ (by decide)]

end

/-! ### Delivery -/

/-- The cores that an update of some of them leaves. -/
theorem getCore_foldl_modCore (f : Core → Core) {l : List Nat} (hl : l.Nodup) (s : State) (hlen : ∀ n ∈ l, n < s.cores.length) (k : Nat) :
    getCore (l.foldl (fun s n => modCore s n f) s) k = if k ∈ l then f (getCore s k) else getCore s k := by
  induction l generalizing s with
  | nil => rfl
  | cons n l ih =>
    obtain ⟨hn, hl⟩ := List.nodup_cons.mp hl
    rw [List.foldl_cons, ih hl _ (fun i hi => by rw [modCore_cores_length]; exact hlen i (List.mem_cons_of_mem _ hi)), getCore_modCore _ _ _ (hlen n List.mem_cons_self)]
    by_cases hk : k = n
    · simp [hk, hn]
    · simp [hk]

/-- Updates of cores change nothing but the cores. -/
theorem foldl_modCore_frame (f : Core → Core) (l : List Nat) (s : State) :
    l.foldl (fun s n => modCore s n f) s = { s with cores := (l.foldl (fun s n => modCore s n f) s).cores } := by
  induction l generalizing s with
  | nil => rfl
  | cons n l ih => rw [List.foldl_cons, ih]; rfl

theorem recordCores_nodup (r : BitVec 512) : (recordCores r).Nodup := List.nodup_range.filter _

theorem lt_of_mem_recordCores {r : BitVec 512} {n : Nat} (h : n ∈ recordCores r) : n < 128 := List.mem_range.mp (List.mem_filter.mp h).1

section
variable {s : State} {q : Nat} {r : BitVec 512} {rest : List (Nat × BitVec 512)}

/-- The cores with room for one more delivery. -/
def withRoom (s : State) (l : List Nat) : List Nat := l.filter (fun n => decide ((getCore s n).deliveries.length < 8))

/-- The cores without room. -/
def withoutRoom (s : State) (l : List Nat) : List Nat := l.filter (fun n => decide (8 ≤ (getCore s n).deliveries.length))

theorem mem_withRoom {l : List Nat} {n : Nat} : n ∈ withRoom s l ↔ n ∈ l ∧ n ∉ withoutRoom s l := by
  simp only [withRoom, withoutRoom, List.mem_filter, decide_eq_true_eq]
  constructor
  · rintro ⟨hl, hn⟩; exact ⟨hl, fun h => by omega⟩
  · rintro ⟨hl, hn⟩; exact ⟨hl, by by_contra h; exact hn ⟨hl, by omega⟩⟩

theorem filter_not_withRoom (l : List Nat) : l.filter (fun n => !(withRoom s l).contains n) = withoutRoom s l := by
  refine List.filter_congr fun n hn => ?_
  have : (withRoom s l).contains n = decide ((getCore s n).deliveries.length < 8) := by
    rw [Bool.eq_iff_iff, List.contains_iff_mem, withRoom, List.mem_filter]
    simp [hn]
  rw [this, ← decide_not, decide_eq_decide]
  omega

theorem withRoom_ne_nil {l : List Nat} (h : withoutRoom s l ≠ l) : withRoom s l ≠ [] := by
  intro hnone
  refine h (List.filter_eq_self.mpr fun n hn => ?_)
  have := List.filter_eq_nil_iff.mp hnone n hn
  simp only [decide_eq_true_eq] at this ⊢
  omega

/-- The launch that the arbiter makes of a record (R613). -/
def launchOf (s : State) (r : BitVec 512) : LaunchRun := ⟨s.nextLaunch, recOrdinal ⟨s.nextLaunch, r, recordCsf1 r, 0⟩, recordCores r⟩

/-- The state in which the arbiter has taken the oldest record, with the cores without room still to be served. -/
def taken (s : State) (q : Nat) (r : BitVec 512) (rest : List (Nat × BitVec 512)) : State :=
  { s with nextLaunch := s.nextLaunch + 1, launches := s.launches ++ [launchOf s r],
           host := if withoutRoom s (recordCores r) = [] then { s.host with queues := rest, copying := [] }
                   else { s.host with copying := [(q, s.nextLaunch, withoutRoom s (recordCores r))] } }

theorem taken_queues : (taken s q r rest).host.queues = if withoutRoom s (recordCores r) = [] then rest else s.host.queues := by
  simp only [taken]; split <;> rfl

theorem taken_copying : (taken s q r rest).host.copying = if withoutRoom s (recordCores r) = [] then [] else [(q, s.nextLaunch, withoutRoom s (recordCores r))] := by
  simp only [taken]; split <;> rfl

/-- The oldest record of all queues is delivered: it is taken, and copied for the named cores with room, or it ends where it names none (R514, R613). -/
theorem deliver_oldest (hready : isReady s = true) (hstop : (blk s HOSTIF).errorStopped = false) (hcopy : s.host.copying = []) (hqs : s.host.queues = (q, r) :: rest)
    (hroom : recordCores r = [] ∨ withRoom s (recordCores r) ≠ []) :
    deliver s q = if recordCores r = [] then endLaunch (taken s q r rest) s.nextLaunch false
      else (withRoom s (recordCores r)).foldl (fun s' n => modCore s' n (fun c => { c with deliveries := c.deliveries ++ [(s.nextLaunch, r)] })) (taken s q r rest) := by
  have hall : uncopied s.host q = recordCores r := by simp [uncopied, hcopy, hqs]
  have hmay : (fun n => mayCopy s q n) = fun n => decide ((getCore s n).deliveries.length < 8) := by
    funext n; simp [mayCopy, earlierHeads, hqs]
  have hnow : (recordCores r).filter (mayCopy s q) = withRoom s (recordCores r) := congrArg (fun p => (recordCores r).filter p) hmay
  have hgo : ((recordCores r).isEmpty || !(withRoom s (recordCores r)).isEmpty) = true := by
    rcases hroom with h | h <;> simp [h]
  unfold deliver
  simp only [hqs, List.find?_cons, beq_self_eq_true, hall, hnow, hready, hstop, hgo, takeLaunch, hcopy, List.find?_nil, filter_not_withRoom]
  simp [taken, launchOf, List.isEmpty_iff, hqs]

/-- The end of the last launch leaves the others and is remembered last (R613). -/
theorem endLaunch_last {u : State} {ls : List LaunchRun} {l : LaunchRun} (hl : u.launches = ls ++ [l]) (hnew : ∀ x ∈ ls, x.id ≠ l.id) (halted : Bool) :
    (endLaunch u l.id halted).launches = ls ∧ (endLaunch u l.id halted).ended.getLast? = some (l.ordinal, halted) ∧
      (endLaunch u l.id halted).host = u.host ∧ (endLaunch u l.id halted).cores = u.cores ∧ memoryKept u (endLaunch u l.id halted) := by
  have hfind : u.launches.find? (fun x => x.id == l.id) = some l := by
    rw [hl, List.find?_append, List.find?_eq_none.mpr (by simpa using hnew)]
    simp
  simp only [endLaunch, hfind]
  refine ⟨?_, ?_, rfl, rfl, rfl, rfl, rfl⟩
  · simp only [armWaiters, rememberEnd, hl, List.filter_append]
    rw [List.filter_eq_self.mpr (by simpa using hnew)]
    simp
  · simp only [armWaiters, rememberEnd]
    rw [List.getLast?_drop]
    simp

end

/-! ### The statement -/

theorem exec_launchAppend {s : State} (hr : running s = true) (m : Master) (q : Fin 8) (v : Word64) :
    exec (.launchAppend m q v) s = .next (writeStaging s m q.val 7 v) := congrArg Host.Outcome.next (powered_running hr _)

theorem exec_launchDelivery (s : State) (q : Fin 8) : exec (.launchDelivery q) s = .next (deliver s q.val) := rfl

/-- What an appended record leaves, once the queues it makes are known. -/
theorem exec_launchAppend_appends {s : State} {m : Master} {q : Fin 8} {v : Word64} {qs : List (Nat × BitVec 512)} (hr : running s = true)
    (ho : ownsQueue m q.val = true) (hf : lqFree s q.val ≠ 0)
    (hqs : (arriveLaunch { s.host with staging := tclear (tset 0 s.host.staging (8 * q.val + 7) v) (8 * q.val) 8 } s.cycles q.val
      (stagedRecord s q.val v)).queues = qs) :
    ∃ t, exec (.launchAppend m q v) s = .next t ∧ t.host.queues = qs ∧ tgetList 0 t.host.staging (8 * q.val) 8 = List.replicate 8 0 ∧ t.cores = s.cores ∧
      memoryKept s t ∧ t.regs = s.regs := by
  rw [exec_launchAppend hr, writeStaging_appends ho hf]
  refine ⟨_, rfl, hqs, ?_, rfl, ⟨rfl, rfl, rfl⟩, rfl⟩
  rw [arriveLaunch_staging]
  exact tgetList_tclear _ _ _

/-- Settles O18: an owner's record goes to its place among those of its cycle, another write only counts, and the oldest record is copied for the cores with room. -/
theorem launchQueues : Obligations.LaunchQueues := by
  constructor
  · intro s m q v hr words r appended
    refine ⟨fun ho hf ha => ?_, fun older same ho hf ha hq hn => ?_, fun h hw => ?_⟩
    · exact exec_launchAppend_appends hr ho hf (arriveLaunch_first _ _ ha)
    · exact exec_launchAppend_appends hr ho hf (arriveLaunch_same _ _ ha hq hn)
    · obtain ⟨owner, hdrop⟩ := writeStaging_drops (v := v) h
      rw [exec_launchAppend hr, hdrop]
      exact ⟨_, rfl, dropLaunch_counts hw q.isLt owner⟩
  · intro s q r rest cores full hlen hready hstop hcopy hqs
    rw [exec_launchDelivery]
    refine ⟨fun hne hfull => ?_, fun hnone hnew => ?_⟩
    · have hframe := foldl_modCore_frame (fun c => { c with deliveries := c.deliveries ++ [(s.nextLaunch, r)] }) (withRoom s cores) (taken s q.val r rest)
      have hcores := getCore_foldl_modCore (fun c => { c with deliveries := c.deliveries ++ [(s.nextLaunch, r)] }) ((recordCores_nodup r).filter _ : (withRoom s cores).Nodup)
        (taken s q.val r rest) (fun n hn => hlen ▸ lt_of_mem_recordCores (List.mem_filter.mp hn).1)
      have hdel := deliver_oldest hready hstop hcopy hqs (.inr (withRoom_ne_nil hfull))
      rw [if_neg hne, hframe] at hdel
      exact ⟨_, congrArg _ hdel, taken_queues, taken_copying, rfl, ⟨rfl, rfl, rfl⟩, rfl, ⟨launchOf s r, rfl, rfl, rfl⟩,
        fun n _ => (hcores n).trans (if_congr mem_withRoom rfl rfl)⟩
    · have hdel := deliver_oldest hready hstop hcopy hqs (.inl hnone)
      rw [if_pos hnone] at hdel
      obtain ⟨h1, h2, h3, h4, h5⟩ := endLaunch_last (u := taken s q.val r rest) (l := launchOf s r) rfl hnew false
      have hfull : withoutRoom s (recordCores r) = [] := congrArg (withoutRoom s) hnone
      exact ⟨_, _, congrArg _ hdel, (congrArg HostIf.queues h3).trans (taken_queues.trans (if_pos hfull)), h1, h2, h4, h5⟩

end Sys2Proof.Machine
end

section
/-! SUPPORT. Lines of a data mover that this module serves: what each kind of line stores and what of its core it leaves alone. -/

namespace Sys2Proof.Machine

/-! ### The movers of a core -/

@[simp] theorem getMover_setMover (c : Core) (m : Nat) (x : Mover) : getMover (setMover c m x) m = x := by
  unfold getMover setMover
  split <;> rfl

@[simp] theorem setMover_sregs (c : Core) (m : Nat) (x : Mover) : (setMover c m x).sregs = c.sregs := by
  unfold setMover
  split <;> rfl

/-- A step on the way of a line of mover m of core n keeps the mover's credits, the core's scalar registers and every other core. -/
structure LineKeeps (n m : Nat) (s t : State) : Prop where
  len : t.cores.length = s.cores.length
  credits : (getMover (getCore t n) m).credits = (getMover (getCore s n) m).credits
  sregs : (getCore t n).sregs = (getCore s n).sregs
  others : othersKept s t n

section
variable {s t u : State} {n m : Nat}

theorem LineKeeps.trans (h : LineKeeps n m s t) (g : LineKeeps n m t u) : LineKeeps n m s u :=
  ⟨g.len.trans h.len, g.credits.trans h.credits, g.sregs.trans h.sregs, fun k hk => (g.others k hk).trans (h.others k hk)⟩

theorem LineKeeps.of_cores (h : t.cores = s.cores) : LineKeeps n m s t := by
  have e : ∀ k, getCore t k = getCore s k := fun k => by simp only [getCore, h]
  exact ⟨by rw [h], by rw [e], by rw [e], fun k _ => e k⟩

theorem LineKeeps.modCore (hn : n < s.cores.length) {f : Core → Core} (hf : ∀ c, (getMover (f c) m).credits = (getMover c m).credits ∧ (f c).sregs = c.sregs) :
    LineKeeps n m s (modCore s n f) := by
  refine ⟨modCore_cores_length _ _, ?_, ?_, fun k hk => ?_⟩ <;> rw [getCore_modCore _ _ _ hn]
  · rw [if_pos rfl, (hf _).1]
  · rw [if_pos rfl, (hf _).2]
  · rw [if_neg hk]

theorem usePorts_lineKeeps (hn : n < s.cores.length) (xs : List (Nat × Nat × Nat)) : LineKeeps n m s (usePorts s n xs) := .modCore hn fun _ => ⟨rfl, rfl⟩

theorem noteCoreReads_lineKeeps (hn : n < s.cores.length) (rd : Rd) : LineKeeps n m s (noteCoreReads s n rd) := .modCore hn fun _ => ⟨rfl, rfl⟩

/-- The core and the mover of a line that has completed. -/
theorem returnCredit_core (hn : n < s.cores.length) (move line : Nat) :
    (getMover (getCore (returnCredit s n m move line) n) m).credits = (getMover (getCore s n) m).credits + 1 ∧
      (getCore (returnCredit s n m move line) n).sregs = (getCore s n).sregs ∧ othersKept s (returnCredit s n m move line) n := by
  refine ⟨?_, ?_, fun k hk => ?_⟩ <;> rw [returnCredit, modMover, getCore_modCore _ _ _ hn]
  · simp
  · simp
  · rw [if_neg hk]

end

/-! ### What a completed line leaves -/

/-- 64 bytes stand at an address with a code for both granules, every other byte is as before, the mover has its credit back, and every other core is as before. -/
def Landed (s t : State) (n m a : Nat) (bs : List Byte) (code : BitVec 32) : Prop :=
  tget 0 t.guard (a / 32) = code ∧ tget 0 t.guard (a / 32 + 1) = code ∧
    (∀ b, tget 0 t.mem b = if a ≤ b ∧ b < a + 64 then bs.getD (b - a) 0 else tget 0 s.mem b) ∧
    (getMover (getCore t n) m).credits = (getMover (getCore s n) m).credits + 1 ∧ (getCore t n).sregs = (getCore s n).sregs ∧ othersKept s t n

section
variable {s u w : State} {n m a : Nat} {bs : List Byte} {p : Bool}

/-- A line that stores its 64 bytes after steps that keep its core lands when its credit returns. -/
theorem landed_of_stores (hmem : twf 0 s.mem = true) (hn : n < s.cores.length) (hk : LineKeeps n m s u) (hsame : u.mem = s.mem) (hst : Stores u a bs p w)
    (hl : bs.length = 64) (move line : Nat) : Landed s (returnCredit w n m move line) n m a bs (codeOf p) := by
  have hkw : LineKeeps n m s w := hk.trans (.of_cores hst.only.cores)
  obtain ⟨hcredits, hsregs, hothers⟩ := returnCredit_core (s := w) (m := m) (by rwa [hkw.len]) move line
  have hne : bs ≠ [] := by rintro rfl; simp at hl
  have hguard (g : Nat) (hg : a / 32 ≤ g) (hg' : g ≤ (a + 63) / 32) : tget 0 w.guard g = codeOf p := by
    rw [hst.guard, if_pos ⟨hne, hg, by omega⟩]
  refine ⟨hguard _ le_rfl (by omega), hguard _ (by omega) (by omega), fun b => ?_, hcredits.trans (congrArg (· + 1) hkw.credits), hsregs.trans hkw.sregs,
    fun k hk' => (hothers k hk').trans (hkw.others k hk')⟩
  show tget 0 w.mem b = _
  rw [hst.mem, hsame, tget_tsetList hmem, hl]

theorem storeGranule_stores (hw : twf 0 s.guard = true) (g : Nat) (p : Bool) (hl : bs.length = 32) : Stores s (32 * g) bs p (storeGranule s g bs p) := by
  have hne : bs ≠ [] := by rintro rfl; simp at hl
  refine ⟨storeGranule_only .., rfl, twf_tset hw _ _, fun j => ?_⟩
  rw [storeGranule_guard, tget_tset hw]
  exact if_congr (by simp only [ne_eq, hne, not_false_eq_true, true_and, hl]; omega) rfl rfl

/-- The core-side store of a line: both its granules, each with a newly made code or poisoned. -/
theorem storeLine_stores (hw : twf 0 s.guard = true) (ha : a % 64 = 0) (hl : bs.length = 64) :
    Stores s a bs p (storeGranule (storeGranule s (a / 32) (bs.take 32) p) (a / 32 + 1) (bs.drop 32) p) := by
  have hfirst := storeGranule_stores hw (a / 32) p (show (bs.take 32).length = 32 by simp [hl])
  have hsecond := storeGranule_stores hfirst.guardWf (a / 32 + 1) p (show (bs.drop 32).length = 32 by simp [hl])
  rw [show 32 * (a / 32) = a by omega] at hfirst
  rw [show 32 * (a / 32 + 1) = a + (bs.take 32).length by simp [hl]; omega] at hsecond
  have := hfirst.append hsecond (by rw [← List.length_pos_iff]; simp [hl])
  rwa [List.take_append_drop] at this

/-- Inbound data land at the core side of a line. -/
theorem landLine_landed {v : Move} {l : MoverLine} {poison : List Bool} (hmem : twf 0 s.mem = true) (hn : n < s.cores.length) (hk : LineKeeps n m s u)
    (hsame : u.mem = s.mem) (hw : twf 0 u.guard = true) (hd : l.discard = false) (ha : v.coreAddr n l.line % 64 = 0) (hl : bs.length = 64)
    (h0 : poison.getD 0 false = p) (h1 : poison.getD 1 false = p) :
    Landed s (landLine u n m v l bs poison) n m (v.coreAddr n l.line) bs (codeOf p) := by
  simp only [landLine, hd, h0, h1, Bool.false_eq_true, if_false]
  exact landed_of_stores hmem hn hk hsame (storeLine_stores hw ha hl) hl _ _

end

/-! ### The kinds of lines -/

section
variable {s u : State} {n m : Nat} {v : Move} {l : MoverLine}

theorem memBytes_length (s : State) (a n : Nat) : (memBytes s a n).length = n := tgetList_length _ _

theorem noteCoreReads_guard (s : State) (n : Nat) (rd : Rd) : (noteCoreReads s n rd).guard = s.guard := rfl
theorem noteCoreReads_mem (s : State) (n : Nat) (rd : Rd) : (noteCoreReads s n rd).mem = s.mem := rfl

/-- An inbound line from clean codes lands with the bytes of its address (R226). -/
theorem inboundLine_landed {a : Nat} (hmem : twf 0 s.mem = true) (hn : n < s.cores.length) (hk : LineKeeps n m s u) (hsame : u.mem = s.mem) (hg : u.guard = [])
    (hh : u.hopErrors = []) (haddr : l.addr = some a) (hspan : CoreSpan a 64) (hd : l.discard = false) (ha : v.coreAddr n l.line % 64 = 0) :
    Landed s (inboundLine u n m v l) n m (v.coreAddr n l.line) (memBytes s a 64) 0 := by
  have hread := readSpan_clean (s := u) (moverMaster n m) hspan (fun g => by rw [hg]; rfl) hh
  have hbytes : memBytes u a 64 = memBytes s a 64 := by simp only [memBytes, hsame]
  simp only [inboundLine, haddr, hread, hbytes]
  exact landLine_landed (p := false) hmem hn (hk.trans (noteCoreReads_lineKeeps (by rwa [hk.len]) _)) hsame (by rw [noteCoreReads_guard, hg]; rfl)
    hd ha (memBytes_length ..) rfl rfl

/-- An inbound line whose address was refused lands poisoned, with zeros (R53, R226). -/
theorem inboundLine_refused (hmem : twf 0 s.mem = true) (hn : n < s.cores.length) (hk : LineKeeps n m s u) (hsame : u.mem = s.mem) (hw : twf 0 u.guard = true)
    (haddr : l.addr = none) (hd : l.discard = false) (ha : v.coreAddr n l.line % 64 = 0) :
    Landed s (inboundLine u n m v l) n m (v.coreAddr n l.line) (List.replicate 64 0) poisonDev := by
  simp only [inboundLine, haddr]
  exact landLine_landed (p := true) hmem hn hk hsame hw hd ha (List.length_replicate ..) rfl rfl

/-- An outbound line over clean codes stores the core side's bytes at its address (R226). -/
theorem outboundLine_landed {a : Nat} (hmem : twf 0 s.mem = true) (hn : n < s.cores.length) (hk : LineKeeps n m s u) (hsame : u.mem = s.mem) (hg : u.guard = [])
    (hh : u.hopErrors = []) (hpo : u.posted = []) (hdi : u.dispatches = []) (haddr : l.addr = some a) (hspan : CoreSpan a 64) (hsrc : CoreSpan (v.coreAddr n l.line) 64) :
    Landed s (outboundLine u n m v l) n m a (memBytes s (v.coreAddr n l.line) 64) 0 := by
  have hread := readSpan_clean (s := u) (moverMaster n m) hsrc (fun g => by rw [hg]; rfl) hh
  have hbytes : memBytes u (v.coreAddr n l.line) 64 = memBytes s (v.coreAddr n l.line) 64 := by simp only [memBytes, hsame]
  have hkr := hk.trans (noteCoreReads_lineKeeps (m := m) (by rwa [hk.len]) { data := memBytes s (v.coreAddr n l.line) 64 })
  have hst := (writeSpan_clean (s := noteCoreReads u n { data := memBytes s (v.coreAddr n l.line) 64 }) (moverMaster n m) (a := a)
    (bs := memBytes s (v.coreAddr n l.line) 64) (poison := []) (p := false) (by rwa [memBytes_length]) (by rwa [noteCoreReads_mem, hsame])
    (by rw [noteCoreReads_guard, hg]; rfl) (fun g => by rw [noteCoreReads_guard, hg]; rfl) hh (fun _ _ _ => rfl)).2
  simp only [outboundLine, haddr, hread, hbytes, List.isEmpty_nil, if_true, List.map_nil]
  rw [drainPosted_notePosts_none (hst.only.dispatches.trans hdi) (hst.only.posted.trans hpo)]
  exact landed_of_stores hmem hn hkr hsame hst (memBytes_length ..) _ _

/-- A line of an absent row of a GATHER lands as zeros (R225). -/
theorem gatheredLine_absent (hmem : twf 0 s.mem = true) (hn : n < s.cores.length) (hk : LineKeeps n m s u) (hsame : u.mem = s.mem) (hw : twf 0 u.guard = true)
    (he : v.entries[l.line / (moveDesc v.desc).rowLines]? = some (0, false)) (hd : l.discard = false) (ha : v.coreAddr n l.line % 64 = 0) :
    Landed s (gatheredLine u n m v l) n m (v.coreAddr n l.line) (List.replicate 64 0) 0 := by
  have hentry : v.entries.getD (l.line / (moveDesc v.desc).rowLines) (0, false) = (0, false) := by simp [List.getD, he]
  have hzeros : gatherLine u n v l.line = (List.replicate 64 0, [false, false], u) := by
    simp only [gatherLine, hentry, Bool.false_eq_true, if_false, if_true]
  have hrow : ∃ f : Mover → Mover, (∀ x, (f x).credits = x.credits) ∧ noteRow u n m v l.line = modMover u n m f := by
    simp only [noteRow, hentry, bne_self_eq_false, Bool.and_false, Bool.false_and, Bool.false_eq_true, if_false]
    refine ⟨_, ?_, rfl⟩
    exact fun _ => rfl
  obtain ⟨f, hf, hrow⟩ := hrow
  simp only [gatheredLine, hzeros, hrow]
  exact landLine_landed (p := false) hmem hn (hk.trans (.modCore (by rwa [hk.len]) fun c => by simp [hf])) hsame hw hd ha (List.length_replicate ..) rfl rfl

/-- A line that nothing keeps waiting uses its banks and completes by its kind. -/
theorem finishLine_goes {k : Nat} (hheld : l.held = false) (hremote : l.remoteTag = none) (hwaits : lineWaits s n m k v l = false)
    (hbank : bankTaken s n (lineBanks v l) = false) :
    finishLine s n m k v l = if v.gather = true then gatheredLine (usePorts s n ((lineBanks v l).map (fun b => (b.1, b.2, 2 + m)))) n m v l
      else if (moveDesc v.desc).outbound = true then outboundLine (usePorts s n ((lineBanks v l).map (fun b => (b.1, b.2, 2 + m)))) n m v l
      else inboundLine (usePorts s n ((lineBanks v l).map (fun b => (b.1, b.2, 2 + m)))) n m v l := by
  simp only [finishLine, hheld, hremote, hwaits, hbank, Option.isSome_none, Bool.or_self, Bool.false_eq_true, if_false]

end

theorem exec_moverLineDone {s : State} {n : Fin 128} {m : Fin 2} {k : Nat} {l : MoverLine} {v : Move} (hl : (getMover (getCore s n.val) m.val).lines[k]? = some l)
    (hv : (getMover (getCore s n.val) m.val).moves.find? (fun v => v.id == l.move) = some v) :
    exec (.moverLineDone n m k) s = .next (finishLine s n.val m.val k v l) := by
  show execMoverLineDone n m k s = _
  simp only [execMoverLineDone, hl, hv]

/-- The core side of a line lies in the core's stores. -/
theorem coreSpan_coreAddr (n : Fin 128) {v : Move} {i : Nat} (h : v.coreOff + (moveDesc v.desc).coreAt i + 64 ≤ spaceSize (moveDesc v.desc).space) :
    CoreSpan (v.coreAddr n.val i) 64 := by
  simp only [Move.coreAddr, spaceBase, Nat.add_assoc]
  simp only [spaceSize] at h
  split at h <;> rename_i hspace
  · rw [if_pos hspace]; exact coreSpan_tile n.isLt h
  · rw [if_neg hspace]; exact coreSpan_acc n.isLt h

/-- The first half of O14: a line of each kind completes where nothing keeps it waiting. -/
theorem moverLineDone_lands (s : State) (n : Fin 128) (m : Fin 2) (k : Nat) (l : MoverLine) (v : Move) (hlen : s.cores.length = 128)
    (hl : (getMover (getCore s n.val) m.val).lines[k]? = some l) (hv : (getMover (getCore s n.val) m.val).moves.find? (fun v => v.id == l.move) = some v)
    (hheld : l.held = false) (hremote : l.remoteTag = none) (hd : l.discard = false) (hwaits : lineWaits s n.val m.val k v l = false)
    (hbank : bankTaken s n.val (lineBanks v l) = false) (ha : v.coreAddr n.val l.line % 64 = 0) (hmem : twf 0 s.mem = true) :
    let lands := fun (a : Nat) (bs : List Byte) (code : BitVec 32) => ∃ t, exec (.moverLineDone n m k) s = .next t ∧ Landed s t n.val m.val a bs code
    (∀ (q : Fin 128) (off : Nat), l.addr = some (tileBase q.val + off) → off + 64 ≤ 0x400000 → s.guard = [] → s.hopErrors = [] → s.posted = [] →
      s.dispatches = [] → v.gather = false →
      ((moveDesc v.desc).outbound = false → lands (v.coreAddr n.val l.line) (memBytes s (tileBase q.val + off) 64) 0) ∧
      ((moveDesc v.desc).outbound = true → v.coreOff + (moveDesc v.desc).coreAt l.line + 64 ≤ spaceSize (moveDesc v.desc).space →
        lands (tileBase q.val + off) (memBytes s (v.coreAddr n.val l.line) 64) 0)) ∧
    (v.gather = true → v.entries[l.line / (moveDesc v.desc).rowLines]? = some (0, false) → s.guard = [] →
      lands (v.coreAddr n.val l.line) (List.replicate 64 0) 0) ∧
    (l.addr = none → v.gather = false → (moveDesc v.desc).outbound = false → twf 0 s.guard = true →
      lands (v.coreAddr n.val l.line) (List.replicate 64 0) poisonDev) := by
  have hn : n.val < s.cores.length := by rw [hlen]; exact n.isLt
  have hk := usePorts_lineKeeps (m := m.val) hn ((lineBanks v l).map (fun b => (b.1, b.2, 2 + m.val)))
  have hgoes := (exec_moverLineDone hl hv).trans (congrArg Host.Outcome.next (finishLine_goes hheld hremote hwaits hbank))
  refine ⟨fun q off haddr hoff hg hh hpo hdi hgather => ⟨fun hout => ⟨_, hgoes, ?_⟩, fun hout hside => ⟨_, hgoes, ?_⟩⟩, fun hgather he hg => ⟨_, hgoes, ?_⟩,
    fun haddr hgather hout hw => ⟨_, hgoes, ?_⟩⟩
  · rw [if_neg (by simp [hgather]), if_neg (by simp [hout])]
    exact inboundLine_landed hmem hn hk rfl hg hh haddr (coreSpan_tile q.isLt hoff) hd ha
  · rw [if_neg (by simp [hgather]), if_pos hout]
    exact outboundLine_landed hmem hn hk rfl hg hh hpo hdi haddr (coreSpan_tile q.isLt hoff) (coreSpan_coreAddr n hside)
  · rw [if_pos hgather]
    exact gatheredLine_absent hmem hn hk rfl (show twf 0 s.guard = true by rw [hg]; rfl) he hd ha
  · rw [if_neg (by simp [hgather]), if_neg (by simp [hout])]
    exact inboundLine_refused hmem hn hk rfl hw haddr hd ha

end Sys2Proof.Machine
end

section
/-! SUPPORT. A rank map entry that arrives for a line held for it, and the statement on MOVER_LINE_DONE and RANK_CACHE_FILL (O14). -/

namespace Sys2Proof.Machine

/-! ### The rank cache and the address -/

section
variable {s : State}

/-- An entry just used is in the cache. -/
theorem cachedRank_useRank (s : State) (r : Nat) (e : BitVec 32) : cachedRank (useRank s r e) r = some e := by
  simp only [cachedRank, useRank, List.length_append, List.length_singleton]
  rw [List.drop_append_of_le_length (by omega), List.find?_append, List.find?_eq_none.mpr]
  · simp
  · intro x hx
    have := (List.mem_filter.mp (List.mem_of_mem_drop hx)).2
    simpa using this

theorem cachedRank_loadRank (s : State) (r : Nat) : cachedRank (loadRank s r).2 r = some (loadRank s r).1 := cachedRank_useRank _ _ _

/-- A job-virtual address of another rank with a cached VALID entry goes where the entry says (R55, R474). -/
theorem resolve_cached (m : Master) {addr need : Nat} {e : BitVec 32} (hf : isEnabled s FABRIC = true) (hr : fld addr 63 52 ≠ ownRank s)
    (hc : cachedRank s (fld addr 63 52) = some e) (hv : bit e.toNat 31 = true) :
    resolve m s 2 addr need false = (.away (fld e.toNat 11 0) (fld e.toNat 30 24), useRank s (fld addr 63 52) e) := by
  simp [resolve, hf, hr, hc, rankEntry, hv]

/-! ### A request that leaves -/

@[simp] theorem useRank_regs (s : State) (r : Nat) (e : BitVec 32) : (useRank s r e).regs = s.regs := by simp only [useRank]
@[simp] theorem useRank_lanes (s : State) (r : Nat) (e : BitVec 32) : (useRank s r e).lanes = s.lanes := by simp only [useRank]
@[simp] theorem useRank_remote (s : State) (r : Nat) (e : BitVec 32) : (useRank s r e).remote = s.remote := by simp only [useRank]
@[simp] theorem useRank_nextTag (s : State) (r : Nat) (e : BitVec 32) : (useRank s r e).nextTag = s.nextTag := by simp only [useRank]
@[simp] theorem useRank_mem (s : State) (r : Nat) (e : BitVec 32) : (useRank s r e).mem = s.mem := by simp only [useRank]

theorem portDirect_useRank (s : State) (r : Nat) (e : BitVec 32) (p : Nat) : portDirect (useRank s r e) p = portDirect s p := by
  simp only [portDirect, getReg, useRank_regs]

theorem portUp_useRank (s : State) (r : Nat) (e : BitVec 32) (p : Nat) : portUp (useRank s r e) p = portUp s p := by
  simp only [portUp, portLanes, getReg, useRank_regs, useRank_lanes]

theorem upFabric_useRank (s : State) (r : Nat) (e : BitVec 32) : upFabric (useRank s r e) = upFabric s := by
  simp only [upFabric, portDirect_useRank, portUp_useRank]

/-- The use of a rank map entry changes no port. -/
theorem choosePort_useRank (s : State) (r : Nat) (e : BitVec 32) (stream dst route : Nat) :
    choosePort (useRank s r e) stream dst route = choosePort s stream dst route := by
  simp only [choosePort, upFabric_useRank, portDirect_useRank, portUp_useRank]

theorem portsMoved_useRank (s : State) (r : Nat) (e : BitVec 32) (stream dst : Nat) : portsMoved (useRank s r e) stream dst = portsMoved s stream dst := by
  simp only [portsMoved, upFabric_useRank, useRank_remote]

theorem freeTag_useRank (s : State) (r : Nat) (e : BitVec 32) : freeTag (useRank s r e) = freeTag s := by
  simp only [freeTag, useRank_remote, useRank_nextTag]

theorem sendVia_remote (s : State) (p : Nat) (f : Frame) : (sendVia s p f).remote = s.remote := by
  unfold sendVia sendOn
  split
  · split <;> rfl
  · rfl

theorem sendVia_mem (s : State) (p : Nat) (f : Frame) : (sendVia s p f).mem = s.mem := by
  unfold sendVia sendOn
  split
  · split <;> rfl
  · rfl

/-- Between s and t a READ of two granules leaves for a master, under a tag that was free, and awaits its response as q (R467, R476). -/
structure ReadLeaves (s t : State) (m : Master) (addr : Nat) (q : RemoteRequest) : Prop where
  cores : t.cores = s.cores
  mem : t.mem = s.mem
  remote : t.remote = s.remote ++ [q]
  tag : q.tag = freeTag s
  master : q.master = m
  addr : q.addr = addr
  granules : q.granules = 2
  isWrite : q.isWrite = false
  held : q.held = none
  sentAt : q.sentAt = s.time

/-- The READ of a line leaves at once where its stream has a usable port and no response outstanding from other ports (R476). -/
theorem sendRequest_leaves (m : Master) {dst route kind addr p : Nat} {data : List Byte} {poison : Nat}
    (hp : choosePort s (streamOf m) dst route = some p) (hm : portsMoved s (streamOf m) dst = false) :
    ∃ (t : State) (q : RemoteRequest), sendRequest m s dst route kind addr 2 false data poison = .inr (freeTag s, t) ∧ ReadLeaves s t m addr q := by
  have hgo : ¬(route = 0 ∧ portsMoved { s with nextTag := (freeTag s + 1) % 4096 } (streamOf m) dst = true) := fun h =>
    Bool.eq_false_iff.mp hm h.2
  simp only [sendRequest, issueRequest, hp, hgo, if_false]
  exact ⟨_, _, rfl, (sendVia_net ..).cores, sendVia_mem .., sendVia_remote .., rfl, rfl, rfl, rfl, rfl, rfl, rfl⟩

theorem ReadLeaves.of_useRank {t : State} {m : Master} {addr r : Nat} {e : BitVec 32} {q : RemoteRequest} (h : ReadLeaves (useRank s r e) t m addr q) :
    ReadLeaves s t m addr q :=
  { h with cores := h.cores.trans (useRank_tidy ..).cores, mem := h.mem.trans (useRank_mem ..), remote := h.remote.trans (by rw [useRank_remote]),
           tag := h.tag.trans (freeTag_useRank ..), sentAt := h.sentAt.trans (useRank_tidy ..).time }

/-! ### The line -/

theorem moverMaster_eq (n : Fin 128) (m : Fin 2) :
    (if m.val = 0 then Master.coreMover (Fin.ofNat 128 n.val) 0 else Master.coreMover (Fin.ofNat 128 n.val) 1) = .coreMover n m := by
  have hn : Fin.ofNat 128 n.val = n := Fin.ext (Nat.mod_eq_of_lt n.isLt)
  rw [hn]
  rcases (show m = 0 ∨ m = 1 by omega) with rfl | rfl <;> rfl

/-- An inbound line of a MOVE leaves for another module once the entry of its rank is cached (R224, R474 to R476). -/
theorem placeLine_leaves (n : Fin 128) (m : Fin 2) {v : Move} {l : MoverLine} {e : BitVec 32} {p : Nat} (hg : v.gather = false)
    (ho : (moveDesc v.desc).outbound = false) (hk : (moveDesc v.desc).kind = 2) (hf : isEnabled s FABRIC = true) (hr : fld (v.extAddr l.line) 63 52 ≠ ownRank s)
    (hc : cachedRank s (fld (v.extAddr l.line) 63 52) = some e) (hv : bit e.toNat 31 = true)
    (hp : choosePort s (streamOf (.coreMover n m)) (fld e.toNat 11 0) (fld e.toNat 30 24) = some p)
    (hm : portsMoved s (streamOf (.coreMover n m)) (fld e.toNat 11 0) = false) :
    ∃ (t : State) (q : RemoteRequest), placeLine s n.val m.val v l = ({ l with remoteTag := some (freeTag s), held := false }, t) ∧
      ReadLeaves s t (.coreMover n m) (v.extAddr l.line) q := by
  obtain ⟨t, q, hsend, hq⟩ := sendRequest_leaves (s := useRank s (fld (v.extAddr l.line) 63 52) e) (.coreMover n m) (kind := 2) (addr := v.extAddr l.line)
    (data := []) (poison := 0) ((choosePort_useRank ..).trans hp) ((portsMoved_useRank ..).trans hm)
  rw [freeTag_useRank] at hsend
  refine ⟨t, q, ?_, hq.of_useRank⟩
  simp only [placeLine, hg, ho, hk, moverMaster_eq, resolve_cached _ hf hr hc hv, hsend, Bool.false_eq_true, if_false, ne_eq, not_true_eq_false]

end

/-! ### The walk over all movers -/

/-- A fold whose step acts at one element alone. -/
theorem foldl_once {α β : Type} {f : β → α → β} {l : List α} {x : α} {b c : β} (hx : x ∈ l) (hl : l.Nodup) (hstep : f b x = c)
    (hb : ∀ a ∈ l, a ≠ x → f b a = b) (hc : ∀ a ∈ l, a ≠ x → f c a = c) : l.foldl f b = c := by
  obtain ⟨l₁, l₂, rfl⟩ := List.append_of_mem hx
  obtain ⟨-, hl₂, hdis⟩ := List.nodup_append.mp hl
  have hne₁ : ∀ a ∈ l₁, a ≠ x := fun a ha => hdis a ha x List.mem_cons_self
  have hne₂ : ∀ a ∈ l₂, a ≠ x := fun a ha h => (List.nodup_cons.mp hl₂).1 (h ▸ ha)
  rw [List.foldl_append, foldl_fixed f b l₁ (fun a ha => hb a (by simp [ha]) (hne₁ a ha)), List.foldl_cons, hstep]
  exact foldl_fixed f c l₂ (fun a ha => hc a (by simp [ha]) (hne₂ a ha))

theorem getMover_setMover_ne (c : Core) {m j : Nat} (x : Mover) (hm : m < 2) (hj : j < 2) (h : j ≠ m) : getMover (setMover c m x) j = getMover c j := by
  rcases (show (m = 0 ∧ j = 1) ∨ (m = 1 ∧ j = 0) by omega) with ⟨rfl, rfl⟩ | ⟨rfl, rfl⟩ <;> rfl

/-- What an update of one mover leaves of another. -/
theorem getMover_modMover_ne {s : State} {n m k j : Nat} (hn : n < s.cores.length) (f : Mover → Mover) (hm : m < 2) (hj : j < 2) (h : (k, j) ≠ (n, m)) :
    getMover (getCore (modMover s n m f) k) j = getMover (getCore s k) j := by
  rw [modMover, getCore_modCore _ _ _ hn]
  split
  · rename_i hk
    subst hk
    exact getMover_setMover_ne _ _ hm hj (fun e => h (by rw [e]))
  · rfl

/-- A line of a mover that is held for a rank map entry. -/
def heldFor (r : Nat) (l : MoverLine) : Bool := l.held && l.rank == r

/-- RANK_CACHE_FILL where one line of all movers is held for the entry: the entry is loaded, and that line is placed. -/
theorem exec_rankCacheFill_one {s t : State} {n : Fin 128} {m : Fin 2} {r : BitVec 12} {l l' : MoverLine} {v : Move} (hlen : s.cores.length = 128)
    (hlines : (getMover (getCore s n.val) m.val).lines = [l]) (hheld : heldFor r.toNat l = true)
    (hv : (getMover (getCore s n.val) m.val).moves.find? (fun v => v.id == l.move) = some v)
    (hothers : ∀ (k : Fin 128) (j : Fin 2), (k, j) ≠ (n, m) → (getMover (getCore s k.val) j.val).lines.filter (heldFor r.toNat) = [])
    (hplace : placeLine (loadRank s r.toNat).2 n.val m.val v l = (l', t)) (ht : t.cores = s.cores) :
    exec (.rankCacheFill r) s = .next (modMover t n.val m.val (fun x => { x with lines := mapIf (fun y => y.move == l.move && y.line == l.line) (fun _ => l') x.lines })) := by
  have hn : n.val < s.cores.length := by rw [hlen]; exact n.isLt
  have hsame (u : State) (hu : u.cores = s.cores) (k : Nat) : getCore u k = getCore s k := by simp only [getCore, hu]
  have hany : s.cores.any (fun c => (c.mover0.lines ++ c.mover1.lines).any (heldFor r.toNat)) = true := by
    refine List.any_eq_true.mpr ⟨getCore s n.val, by simp [getCore, hn], List.any_eq_true.mpr ⟨l, ?_, hheld⟩⟩
    rw [List.mem_append]
    unfold getMover at hlines
    split at hlines
    · exact .inl (by simp [hlines])
    · exact .inr (by simp [hlines])
  have hu : (loadRank s r.toNat).2.cores = s.cores := (loadRank_tidy ..).cores
  have hindex : (2 * n.val + m.val) / 2 = n.val ∧ (2 * n.val + m.val) % 2 = m.val := by omega
  have hpair (k : Nat) (hne : k ≠ 2 * n.val + m.val) : (k / 2, k % 2) ≠ (n.val, m.val) := fun h => by
    obtain ⟨h1, h2⟩ := Prod.mk.injEq .. ▸ h
    omega
  have hnone (k : Nat) (hlt : k < 256) (hne : k ≠ 2 * n.val + m.val) : (getMover (getCore s (k / 2)) (k % 2)).lines.filter (heldFor r.toNat) = [] :=
    hothers ⟨k / 2, by omega⟩ ⟨k % 2, by omega⟩ (fun h => hpair k hne (by simpa [Fin.ext_iff] using h))
  show execRankCacheFill r s = _
  unfold execRankCacheFill
  rw [show (fun l : MoverLine => l.held && l.rank == r.toNat) = heldFor r.toNat from rfl]
  simp only [hany, if_true]
  refine congrArg Host.Outcome.next ?_
  refine foldl_once (x := 2 * n.val + m.val) (List.mem_range.mpr (by omega)) List.nodup_range ?_ (fun k hk hne => ?_) (fun k hk hne => ?_)
  · simp only [hindex.1, hindex.2, hsame _ hu, hlines, List.filter_cons, hheld, if_true, List.filter_nil, List.foldl_cons, List.foldl_nil, hv, hplace]
  · rw [hsame _ hu, hnone k (List.mem_range.mp hk) hne, List.foldl_nil]
  · rw [getMover_modMover_ne (by rwa [ht]) _ m.isLt (Nat.mod_lt _ (by decide)) (hpair k hne), hsame _ ht, hnone k (List.mem_range.mp hk) hne, List.foldl_nil]

/-- The second half of O14: the request of a held line leaves once its entry is there. -/
theorem rankCacheFill_sends (s : State) (n : Fin 128) (m : Fin 2) (r : BitVec 12) (l : MoverLine) (v : Move) (p : Nat) (hlen : s.cores.length = 128)
    (hlines : (getMover (getCore s n.val) m.val).lines = [l]) (hheld : heldFor r.toNat l = true)
    (hv : (getMover (getCore s n.val) m.val).moves.find? (fun v => v.id == l.move) = some v)
    (hothers : ∀ (k : Fin 128) (j : Fin 2), (k, j) ≠ (n, m) → (getMover (getCore s k.val) j.val).lines.filter (heldFor r.toNat) = [])
    (hg : v.gather = false) (ho : (moveDesc v.desc).outbound = false) (hk : (moveDesc v.desc).kind = 2) (hr : fld (v.extAddr l.line) 63 52 = r.toNat) :
    let e := (loadRank s r.toNat).1
    let u := (loadRank s r.toNat).2
    r.toNat ≠ ownRank u → isEnabled u FABRIC = true → bit e.toNat 31 = true →
    choosePort u (streamOf (.coreMover n m)) (fld e.toNat 11 0) (fld e.toNat 30 24) = some p → portsMoved u (streamOf (.coreMover n m)) (fld e.toNat 11 0) = false →
    ∃ (t : State) (l' : MoverLine) (q : RemoteRequest), exec (.rankCacheFill r) s = .next t ∧ (getMover (getCore t n.val) m.val).lines = [l'] ∧ l'.held = false ∧
      l'.remoteTag = some (freeTag u) ∧ t.remote = u.remote ++ [q] ∧ q.tag = freeTag u ∧ q.master = .coreMover n m ∧ q.addr = v.extAddr l.line ∧ q.granules = 2 ∧
      q.isWrite = false ∧ q.held = none ∧ q.sentAt = u.time ∧ othersKept u t n.val ∧ t.mem = u.mem := by
  intro e u hown hf hvalid hp hm
  have hu : u.cores = s.cores := (loadRank_tidy ..).cores
  obtain ⟨t, q, hplace, hq⟩ :=
    placeLine_leaves n m (s := u) (l := l) (e := e) hg ho hk hf (by rwa [hr]) (by rw [hr]; exact cachedRank_loadRank ..) hvalid hp hm
  have hn : n.val < t.cores.length := by rw [hq.cores, hu, hlen]; exact n.isLt
  have hlines' : (getMover (getCore t n.val) m.val).lines = [l] := by rw [← hlines]; simp only [getCore, hq.cores, hu]
  refine ⟨_, { l with remoteTag := some (freeTag u), held := false }, q, exec_rankCacheFill_one hlen hlines hheld hv hothers hplace (hq.cores.trans hu), ?_, rfl,
    rfl, hq.remote, hq.tag, hq.master, hq.addr, hq.granules, hq.isWrite, hq.held, hq.sentAt, fun k hk => ?_, hq.mem⟩
  · rw [modMover, getCore_modCore _ _ _ hn, if_pos rfl, getMover_setMover]
    simp [hlines', mapIf]
  · rw [modMover, getCore_modCore _ _ _ hn, if_neg hk]
    simp only [getCore, hq.cores]

/-- Settles O14: by the kind of the line, and by the one held line that the loaded entry lets go. -/
theorem moverLines : Obligations.MoverLines := by
  constructor
  · intro s n m k l v x d a lands hlen hl hv hheld hremote hd hwaits hbank ha hmem
    obtain ⟨hmove, hgather, hrefused⟩ := moverLineDone_lands s n m k l v hlen hl hv hheld hremote hd hwaits hbank ha hmem
    exact ⟨fun q off haddr _ => hmove q off haddr, hgather, hrefused⟩
  · intro s n m r l v p lane x mine heldFor e u dst route hlen hlines hheld hv hothers hg ho hk hr hown hf hvalid hp _ hm
    exact rankCacheFill_sends s n m r l v p hlen hlines hheld hv hothers hg ho hk hr hown hf hvalid hp hm

end Sys2Proof.Machine
end

section
/-! SUPPORT. What a comparison of the sentry engine counts, and the statement on SENTRY_COMPARE (O27). -/

namespace Sys2Proof.Machine

variable {s : State}

/-- What the counters of a block read once one of them has counted (R575). -/
theorem getReg_count_ite (h : twf 0 s.regs = true) {b off o w : Nat} (hoff : off < 4096) (ho : o < 4096) (hw : w ≤ 63) :
    getReg (count s b off w) b o = if o = off then satAdd w (getReg s b off) 1 else getReg s b o := by
  split
  · next he => rw [he, getReg_count h _ _ hw]
  · next hne =>
    have hlt : satAdd w (getReg s b off) 1 < 2 ^ 64 := by
      have := Nat.pow_lt_pow_right (show 1 < 2 by decide) (show w < 64 by omega)
      unfold satAdd; omega
    rw [count, countN, if_neg (by decide), getReg_setReg h _ _ _ _ _ hlt, if_neg (by rw [regKey_inj ho hoff]; simp [hne])]

theorem twf_count (h : twf 0 s.regs = true) (b off w : Nat) : twf 0 (count s b off w).regs = true := by
  rw [count, countN, if_neg (by decide)]
  exact twf_tset h _ _

/-- A deferred disable of the numeric block changes nothing but block states. -/
theorem settle_numeric (s : State) : ∃ bs, settle s NUMERIC = { s with blocks := bs } := by
  have hon (u : State) : onDisable u NUMERIC = u := rfl
  unfold settle disableNow
  simp only [hon]
  split
  · split
    · exact ⟨_, rfl⟩
    · exact ⟨_, rfl⟩
  · exact ⟨_, rfl⟩

theorem settle_numeric_cores (s : State) : (settle s NUMERIC).cores = s.cores := by
  obtain ⟨bs, h⟩ := settle_numeric s
  rw [h]

theorem getReg_settle_numeric (s : State) (b off : Nat) : getReg (settle s NUMERIC) b off = getReg s b off := by
  obtain ⟨bs, h⟩ := settle_numeric s
  rw [h]
  rfl

/-- The oldest capture of a core has left its buffer. -/
def captureTaken (s : State) (n : Nat) (rest : List Capture) : State := modCore s n (fun k => { k with captures := rest })

/-- The counter to which an outcome adds (R109). -/
def outcomeCounter : SentryOutcome → Nat
  | .clean => 0x050
  | .warn => 0x058
  | .fault => 0x060

/-- The verdict on a capture by the thresholds that SENTRY_CFG holds (R108). -/
def verdictOf (s : State) (c : Capture) : SentryOutcome :=
  sentryJudge (fld (getReg s NUMERIC 0x010) 9 5) (fld (getReg s NUMERIC 0x010) 14 10) (sentryW c) c.after

/-- A capture that is not exact in BF16 is only counted. -/
theorem sentryCompare_inexact {n : Nat} {c : Capture} {rest : List Capture} (hc : (getCore s n).captures = c :: rest) (hx : captureExact c = false) :
    sentryCompare s n = settle (count (captureTaken s n rest) NUMERIC 0x078 32) NUMERIC := by
  simp only [sentryCompare, hc, hx, Bool.not_false, if_true]
  rfl

/-- An exact capture is counted as compared, and by its outcome; the log entry of a fault changes no numeric register. -/
theorem sentryCompare_exact {n : Nat} {c : Capture} {rest : List Capture} (hr : twf 0 s.regs = true) (hc : (getCore s n).captures = c :: rest)
    (hx : captureExact c = true) :
    ∃ v, sentryCompare s n = settle v NUMERIC ∧ v.cores = (captureTaken s n rest).cores ∧ ∀ off, off < 4096 →
      getReg v NUMERIC off = getReg (count (count (captureTaken s n rest) NUMERIC 0x048 32) NUMERIC (outcomeCounter (verdictOf s c)) 32) NUMERIC off := by
  have hu : twf 0 (captureTaken s n rest).regs = true := hr
  have hcfg : getReg (count (captureTaken s n rest) NUMERIC 0x048 32) NUMERIC 0x010 = getReg s NUMERIC 0x010 :=
    getReg_count_ite hu (by decide) (by decide) (by decide)
  have hcores (off : Nat) : (count (count (captureTaken s n rest) NUMERIC 0x048 32) NUMERIC off 32).cores = (captureTaken s n rest).cores :=
    ((count_tidy ..).trans (count_tidy ..)).cores
  simp only [captureTaken] at hcfg hcores ⊢
  simp only [sentryCompare, hc, hx, Bool.not_true, Bool.false_eq_true, if_false, hcfg, verdictOf]
  cases sentryJudge (fld (getReg s NUMERIC 0x010) 9 5) (fld (getReg s NUMERIC 0x010) 14 10) (sentryW c) c.after with
  | clean => exact ⟨_, rfl, hcores _, fun _ _ => rfl⟩
  | warn => exact ⟨_, rfl, hcores _, fun _ _ => rfl⟩
  | fault =>
    exact ⟨_, rfl, (logEntry_tidy ..).cores.trans (hcores _), fun off hoff => getReg_logEntry (twf_count (twf_count hu _ _ _) _ _ _) (by decide) hoff _ _ _ _⟩

/-- A core whose oldest capture has been taken, and no other core changed. -/
theorem captureTaken_frame {t : State} {n : Nat} {rest : List Capture} (hn : n < s.cores.length) (ht : t.cores = (captureTaken s n rest).cores) :
    (getCore t n).captures = rest ∧ othersKept s t n := by
  have hget (m : Nat) : getCore t m = getCore (captureTaken s n rest) m := by simp only [getCore, ht]
  constructor
  · rw [hget, captureTaken, getCore_modCore _ _ _ hn, if_pos rfl]
  · intro m hm
    rw [hget, captureTaken, getCore_modCore _ _ _ hn, if_neg hm]

/-- Settles O27: by whether the capture is exact, and then by its outcome. -/
theorem sentryCompares : Obligations.SentryCompares := by
  intro s n c rest cfg verdict counted hlen hregs hcap
  have hn : n.val < s.cores.length := by rw [hlen]; exact n.isLt
  have hu : twf 0 (captureTaken s n.val rest).regs = true := hregs
  have hreg (off : Nat) : getReg (captureTaken s n.val rest) NUMERIC off = getReg s NUMERIC off := rfl
  refine ⟨_, rfl, ?_⟩
  cases hx : captureExact c with
  | false =>
    rw [sentryCompare_inexact hcap hx]
    obtain ⟨hrest, hothers⟩ := captureTaken_frame hn ((settle_numeric_cores _).trans (count_tidy ..).cores)
    refine ⟨hrest, hothers, ?_⟩
    simp (disch := decide) [counted, getReg_settle_numeric, getReg_count_ite hu, hreg]
  | true =>
    obtain ⟨v, hv, hvcores, hvregs⟩ := sentryCompare_exact hregs hcap hx
    rw [hv]
    obtain ⟨hrest, hothers⟩ := captureTaken_frame hn ((settle_numeric_cores _).trans hvcores)
    refine ⟨hrest, hothers, ?_⟩
    have hverdict : verdict = verdictOf s c := rfl
    have hu' := twf_count hu NUMERIC 0x048 32
    simp (disch := decide) only [counted, getReg_settle_numeric, hvregs, hverdict]
    cases verdictOf s c <;> simp (disch := decide) [outcomeCounter, getReg_count_ite hu', getReg_count_ite hu, hreg]

end Sys2Proof.Machine
end

section
/-! SUPPORT. The fields of a number: what they read after one of them is replaced. -/

namespace Sys2Proof.Machine

theorem bit_eq_testBit (x k : Nat) : bit x k = x.testBit k := by
  rw [Nat.testBit_eq_decide_div_mod_eq]
  rfl

theorem testBit_fld (x hi lo i : Nat) : (fld x hi lo).testBit i = (decide (i < hi + 1 - lo) && x.testBit (i + lo)) := by
  rw [fld, Nat.testBit_mod_two_pow, Nat.testBit_div_two_pow]

/-- A number as the bits above a field, the field and the bits below it. -/
theorem setFld_eq (x v : Nat) {hi lo : Nat} (h : lo ≤ hi) :
    setFld x hi lo v = 2 ^ lo * (2 ^ (hi + 1 - lo) * (x / 2 ^ (hi + 1)) + v % 2 ^ (hi + 1 - lo)) + x % 2 ^ lo := by
  have hpow : (2 : Nat) ^ (hi + 1) = 2 ^ lo * 2 ^ (hi + 1 - lo) := by rw [← pow_add]; congr 1; omega
  have hsplit : x = 2 ^ lo * (2 ^ (hi + 1 - lo) * (x / 2 ^ (hi + 1)) + fld x hi lo) + x % 2 ^ lo := by
    rw [fld, hpow, ← Nat.div_div_eq_div_mul, Nat.div_add_mod, Nat.div_add_mod]
  have hle : fld x hi lo * 2 ^ lo ≤ x := (Nat.mul_le_mul_right _ (Nat.mod_le _ _)).trans (Nat.div_mul_le_self _ _)
  have hx : x - fld x hi lo * 2 ^ lo = 2 ^ lo * (2 ^ (hi + 1 - lo) * (x / 2 ^ (hi + 1))) + x % 2 ^ lo := by
    rw [Nat.mul_add, Nat.mul_comm (2 ^ lo) (fld x hi lo)] at hsplit
    omega
  rw [setFld, hx, Nat.mul_add, Nat.mul_comm (2 ^ lo) (v % _)]
  omega

theorem testBit_setFld (x v i : Nat) {hi lo : Nat} (h : lo ≤ hi) :
    (setFld x hi lo v).testBit i = if lo ≤ i ∧ i ≤ hi then v.testBit (i - lo) else x.testBit i := by
  rw [setFld_eq x v h, Nat.testBit_two_pow_mul_add _ (Nat.mod_lt _ (Nat.two_pow_pos _)), Nat.testBit_two_pow_mul_add _ (Nat.mod_lt _ (Nat.two_pow_pos _))]
  simp only [Nat.testBit_mod_two_pow, Nat.testBit_div_two_pow]
  rcases Nat.lt_or_ge i lo with hlo | hlo
  · simp [hlo, show ¬ lo ≤ i by omega]
  rcases Nat.lt_or_ge hi i with hhi | hhi
  · rw [if_neg (by omega), if_neg (by omega), if_neg (by omega), show i - lo - (hi + 1 - lo) + (hi + 1) = i by omega]
  · simp [hlo, hhi, show ¬ i < lo by omega, show i - lo < hi + 1 - lo by omega]

/-- The field that was replaced. -/
theorem fld_setFld_same (x v : Nat) {hi lo : Nat} (h : lo ≤ hi) : fld (setFld x hi lo v) hi lo = v % 2 ^ (hi + 1 - lo) := by
  refine Nat.eq_of_testBit_eq fun i => ?_
  rw [testBit_fld, testBit_setFld _ _ _ h, Nat.testBit_mod_two_pow]
  by_cases hi' : i < hi + 1 - lo
  · rw [if_pos (by omega), Nat.add_sub_cancel]
  · simp [hi']

/-- A field apart from the one that was replaced. -/
theorem fld_setFld_apart (x v : Nat) {hi lo hi' lo' : Nat} (h : lo ≤ hi) (hap : hi' < lo ∨ hi < lo') : fld (setFld x hi lo v) hi' lo' = fld x hi' lo' := by
  refine Nat.eq_of_testBit_eq fun i => ?_
  rw [testBit_fld, testBit_fld, testBit_setFld _ _ _ h]
  by_cases hi'' : i < hi' + 1 - lo'
  · rw [if_neg (by omega)]
  · simp [hi'']

/-- A bit apart from the field that was replaced. -/
theorem bit_setFld_apart (x v : Nat) {hi lo k : Nat} (h : lo ≤ hi) (hap : k < lo ∨ hi < k) : bit (setFld x hi lo v) k = bit x k := by
  rw [bit_eq_testBit, bit_eq_testBit, testBit_setFld _ _ _ h, if_neg (by omega)]

/-- A bit that was replaced. -/
theorem bit_setFld_same (x v k : Nat) : bit (setFld x k k v) k = v.testBit 0 := by
  rw [bit_eq_testBit, testBit_setFld _ _ _ le_rfl, if_pos ⟨le_rfl, le_rfl⟩, Nat.sub_self]

theorem testBit_b2n (b : Bool) : (b2n b).testBit 0 = b := by cases b <;> rfl

theorem setFld_lt {x hi lo v w : Nat} (h : lo ≤ hi) (hw : hi < w) (hx : x < 2 ^ w) : setFld x hi lo v < 2 ^ w := by
  refine Nat.lt_pow_two_of_testBit _ fun i hiw => ?_
  rw [testBit_setFld _ _ _ h, if_neg (by omega)]
  exact Nat.testBit_lt_two_pow (hx.trans_le (Nat.pow_le_pow_right (by decide) hiw))

/-- Two fields of a number, each in its place. -/
theorem testBit_two_fields (x i : Nat) : (2 ^ 48 * fld x 63 48 + 2 ^ 13 * fld x 31 13).testBit i = (x.testBit i && (decide (13 ≤ i ∧ i < 32) || decide (48 ≤ i ∧ i < 64))) := by
  have hlt : 2 ^ 13 * fld x 31 13 < 2 ^ 48 := by
    have : fld x 31 13 < 2 ^ 19 := Nat.mod_lt _ (by decide)
    omega
  rw [Nat.testBit_two_pow_mul_add _ hlt, Nat.testBit_two_pow_mul, testBit_fld, testBit_fld]
  split
  · rcases Nat.lt_or_ge i 13 with h | h
    · simp [show ¬ 13 ≤ i by omega, show ¬ 48 ≤ i by omega]
    · simp [h, show ¬ 48 ≤ i by omega, Nat.sub_add_cancel h, Bool.and_comm, show i - 13 < 19 ↔ i < 32 by omega]
  · simp [show 48 ≤ i by omega, show ¬ i < 32 by omega, Nat.sub_add_cancel (show 48 ≤ i by omega), Bool.and_comm, show i - 48 < 16 ↔ i < 64 by omega]

/-- The guarded bits of a word are those of its two guarded fields (R87). -/
theorem and_guardedMask (x : Nat) : x &&& guardedMask = 2 ^ 48 * fld x 63 48 + 2 ^ 13 * fld x 31 13 := by
  have hmask : guardedMask = 2 ^ 48 * fld (2 ^ 64 - 1) 63 48 + 2 ^ 13 * fld (2 ^ 64 - 1) 31 13 := by decide
  refine Nat.eq_of_testBit_eq fun i => ?_
  rw [testBit_two_fields, Nat.testBit_and, hmask, testBit_two_fields, Nat.testBit_two_pow_sub_one]
  by_cases h : i < 64
  · simp [h]
  · simp [h, show ¬ i < 32 by omega]

/-- A word with its guarded bits replaced is one with its two guarded fields replaced. -/
theorem guarded_replaced (v w : Nat) :
    v - (v &&& guardedMask) + (w &&& guardedMask) = setFld (setFld v 31 13 (fld w 31 13)) 63 48 (fld w 63 48) := by
  have hle : v &&& guardedMask ≤ v := Nat.and_le_left
  rw [and_guardedMask] at hle
  have h1 : fld w 31 13 < 2 ^ 19 := Nat.mod_lt _ (by decide)
  have h2 : fld w 63 48 < 2 ^ 16 := Nat.mod_lt _ (by decide)
  rw [and_guardedMask, and_guardedMask, setFld, fld_setFld_apart _ _ (by decide) (.inr (by decide)), setFld]
  rw [Nat.mod_eq_of_lt (show fld w 31 13 < 2 ^ (31 + 1 - 13) from h1), Nat.mod_eq_of_lt (show fld w 63 48 < 2 ^ (63 + 1 - 48) from h2)]
  omega

end Sys2Proof.Machine
end

section
/-! SUPPORT. The steward's slots: what a report, a commit and a write of a half leave in them, and the statement on the three (O26). -/

namespace Sys2Proof.Machine

variable {s : State}

/-! ### The slots of a state -/

theorem slotBits_lt (s : State) (k : Nat) : slotBits s k < 2 ^ 128 := (tget 0 s.steward k).isLt

/-- What the slots hold once one of them is set. -/
theorem slotBits_setSlot (h : twf 0 s.steward = true) {k v : Nat} (hv : v < 2 ^ 128) (j : Nat) : slotBits (setSlot s k v) j = if j = k then v else slotBits s j := by
  simp only [slotBits, setSlot, tget_tset h]
  split
  · rw [BitVec.toNat_ofNat, Nat.mod_eq_of_lt hv]
  · rfl

theorem slotBits_congr {s t : State} (h : t.steward = s.steward) (k : Nat) : slotBits t k = slotBits s k := by rw [slotBits, slotBits, h]

/-- A number between −128 and 127 is what its 8-bit code says. -/
theorem toInt_ofInt {t : Int} (hlo : -128 ≤ t) (hhi : t ≤ 127) : toInt 8 (ofInt 8 t) = t := by
  have e : (2 : Nat) ^ 8 = 256 := rfl
  simp only [toInt, ofInt, e]
  split <;> omega

theorem ofInt_lt (t : Int) : ofInt 8 t < 2 ^ 8 := by
  have e : (2 : Nat) ^ 8 = 256 := rfl
  simp only [ofInt, e]
  omega

/-! ### Reports, R89 and R90 -/

/-- INTERVAL_MAX after a report's maximum. -/
def maximumNoted (v : Nat) (mag : F32) : Nat := if fkey (BitVec.ofNat 32 (fld v 95 64)) < fkey mag then setFld v 95 64 mag.toNat else v

theorem maximumNoted_lt {v : Nat} (hv : v < 2 ^ 128) (mag : F32) : maximumNoted v mag < 2 ^ 128 := by
  unfold maximumNoted
  split
  · exact setFld_lt (by decide) (by decide) hv
  · exact hv

theorem fld_maximumNoted (v : Nat) (mag : F32) :
    fld (maximumNoted v mag) 95 64 = if fkey (BitVec.ofNat 32 (fld v 95 64)) < fkey mag then mag.toNat else fld v 95 64 := by
  unfold maximumNoted
  split
  · rw [fld_setFld_same _ _ (by decide)]
    exact Nat.mod_eq_of_lt mag.isLt
  · rfl

theorem fld_maximumNoted_below (v : Nat) (mag : F32) {hi lo : Nat} (h : hi < 64) : fld (maximumNoted v mag) hi lo = fld v hi lo := by
  unfold maximumNoted
  split
  · exact fld_setFld_apart _ _ (by decide) (.inl h)
  · rfl

theorem bit_maximumNoted_below (v : Nat) (mag : F32) {k : Nat} (h : k < 64) : bit (maximumNoted v mag) k = bit v k := by
  unfold maximumNoted
  split
  · exact bit_setFld_apart _ _ (by decide) (.inl h)
  · rfl

/-- A slot after a report, where no commit waits for it. -/
def reportedSlot (v : Nat) (mag : F32) (ovf nan : Bool) : Nat :=
  let v := maximumNoted v mag
  let v := setFld v 10 10 (b2n (bit v 10 || ovf))
  let v := setFld v 11 11 (b2n (bit v 11 || nan))
  let v := setFld v 55 48 (ofInt 8 (commitValues v).2)
  setFld v 47 32 (slotWriters v - 1)

theorem reportedSlot_lt {v : Nat} (hv : v < 2 ^ 128) (mag : F32) (ovf nan : Bool) : reportedSlot v mag ovf nan < 2 ^ 128 := by
  have hlt {x hi lo y : Nat} (h : lo ≤ hi) (hw : hi < 128) := @setFld_lt x hi lo y 128 h hw
  exact hlt (by decide) (by decide) (hlt (by decide) (by decide) (hlt (by decide) (by decide) (hlt (by decide) (by decide) (maximumNoted_lt hv mag))))

/-- What a report leaves in its slot: one writer fewer, the larger maximum and the joined flags. -/
structure Reported (v : Nat) (mag : F32) (ovf nan : Bool) (r : Nat) : Prop where
  writers : slotWriters r = slotWriters v - 1
  maximum : fld r 95 64 = if fkey (BitVec.ofNat 32 (fld v 95 64)) < fkey mag then mag.toNat else fld v 95 64
  overflow : bit r 10 = (bit v 10 || ovf)
  nans : bit r 11 = (bit v 11 || nan)
  pending : slotPending r = slotPending v
  current : slotCurrent r = slotCurrent v
  enabled : slotEnabled r = slotEnabled v

theorem reportedSlot_reported (v : Nat) (mag : F32) (ovf nan : Bool) : Reported v mag ovf nan (reportedSlot v mag ovf nan) := by
  have hw : (fld v 47 32 - 1) % 2 ^ (47 + 1 - 32) = fld v 47 32 - 1 := Nat.mod_eq_of_lt (Nat.lt_of_le_of_lt (Nat.sub_le _ _) (Nat.mod_lt _ (by decide)))
  constructor <;>
    simp (disch := decide) only [reportedSlot, slotWriters, slotPending, slotCurrent, slotEnabled, fld_setFld_same, fld_setFld_apart, bit_setFld_same,
      bit_setFld_apart, testBit_b2n, fld_maximumNoted, fld_maximumNoted_below, bit_maximumNoted_below, hw]

/-- A step that changes counters and what the step driver notes alone. -/
def CountsOnly (s t : State) : Prop := { t with regs := [], driver := {} } = { s with regs := [], driver := {} }

theorem CountsOnly.trans {s t u : State} (h : CountsOnly s t) (g : CountsOnly t u) : CountsOnly s u := Eq.trans g h
theorem CountsOnly.steward {s t : State} (h : CountsOnly s t) : t.steward = s.steward := (congrArg State.steward h :)
theorem CountsOnly.disables {s t : State} (h : CountsOnly s t) : t.disables = s.disables := (congrArg State.disables h :)
theorem CountsOnly.cores {s t : State} (h : CountsOnly s t) : t.cores = s.cores := (congrArg State.cores h :)
theorem CountsOnly.memory {s t : State} (h : CountsOnly s t) : memoryKept s t :=
  ⟨(congrArg State.mem h :), (congrArg State.guard h :), (congrArg State.nvm h :)⟩

theorem noteWritten_only (s : State) (k : Nat) : CountsOnly s (noteWritten s k) := by
  unfold noteWritten
  split
  · rfl
  · rfl

theorem countIf_only (s : State) (p : Bool) (off : Nat) : CountsOnly s (if p then count s NUMERIC off 32 else s) := by
  cases p
  · rfl
  · rfl

/-- A report sets its slot, a commit that waits for the last writer applied, and counts; a disable that waits takes effect then. -/
theorem reportWriter_eq (s : State) (w : Writer) : reportWriter s w =
    let r := reportedSlot (slotBits s w.slot) w.maximum w.ovf w.nan
    let r := if slotWriters r = 0 ∧ slotPending r = true then commitSlot r else r
    let u := noteWritten (setSlot s w.slot r) w.slot
    let u := if w.ovf then count u NUMERIC 0x080 32 else u
    let u := if w.nan then count u NUMERIC 0x088 32 else u
    if slotWriters r = 0 && u.disables.contains w.slot then disableSlot u w.slot else u := rfl

/-- A report of a writer for which neither a commit nor a disable waits sets the slot, and counts. -/
theorem reportWriter_plain (w : Writer) (hp : slotPending (slotBits s w.slot) = false) (hd : w.slot ∉ s.disables) :
    CountsOnly (setSlot s w.slot (reportedSlot (slotBits s w.slot) w.maximum w.ovf w.nan)) (reportWriter s w) := by
  have hpend := (reportedSlot_reported (slotBits s w.slot) w.maximum w.ovf w.nan).pending.trans hp
  rw [reportWriter_eq]
  simp only [hpend, Bool.false_eq_true, and_false, if_false]
  have honly := ((noteWritten_only (setSlot s w.slot (reportedSlot (slotBits s w.slot) w.maximum w.ovf w.nan)) w.slot).trans
    (countIf_only _ w.ovf 0x080)).trans (countIf_only _ w.nan 0x088)
  rw [if_neg]
  · exact honly
  · rw [honly.disables]
    simp [hd]

/-- A report of a writer for which neither a commit nor a disable waits (R89, R90). -/
theorem stewardReport_plain (hst : twf 0 s.steward = true) (k : Fin 4096) (mag : F32) (ovf nan : Bool) (hw : slotWriters (slotBits s k.val) ≠ 0)
    (hp : slotPending (slotBits s k.val) = false) (hd : k.val ∉ s.disables) :
    ∃ t, exec (.stewardReport k mag ovf nan) s = .next t ∧ Reported (slotBits s k.val) mag ovf nan (slotBits t k.val) ∧
      (∀ j, j ≠ k.val → slotBits t j = slotBits s j) ∧ t.cores = s.cores ∧ memoryKept s t := by
  have honly := reportWriter_plain (s := s)
    { slot := k.val, scale := slotCurrent (slotBits s k.val), maximum := mag, ovf := ovf, nan := nan } hp hd
  have hslot (j : Nat) := (slotBits_congr honly.steward j).trans
    (slotBits_setSlot hst (k := k.val) (reportedSlot_lt (slotBits_lt s k.val) mag ovf nan) j)
  refine ⟨_, congrArg Host.Outcome.next (if_neg hw), ?_, fun j hj => ?_, honly.cores, honly.memory⟩
  · rw [hslot, if_pos rfl]
    exact reportedSlot_reported ..
  · rw [hslot, if_neg hj]

/-! ### Commits, R92 and R93 -/

/-- The exponent that a commit installs fits its field (R92). -/
theorem commitValues_bounds (v : Nat) : -127 ≤ (commitValues v).2 ∧ (commitValues v).2 ≤ 127 := by
  have hclamp (x : Int) : -127 ≤ clampInt x (-127) 127 ∧ clampInt x (-127) 127 ≤ 127 := by unfold clampInt; omega
  exact hclamp _

theorem commitSlot_lt {v : Nat} (hv : v < 2 ^ 128) : commitSlot v < 2 ^ 128 := by
  have hlt {x hi lo y : Nat} (h : lo ≤ hi) (hw : hi < 128) := @setFld_lt x hi lo y 128 h hw
  exact hlt (by decide) (by decide) (hlt (by decide) (by decide) (hlt (by decide) (by decide) (hlt (by decide) (by decide) (hlt (by decide) (by decide) hv))))

/-- What a commit leaves in its slot: CURRENT and NEXT as R92 computes them, and no maximum, flag or pending commit. -/
structure Committed (v r : Nat) : Prop where
  current : slotCurrent r = (commitValues v).2
  next : toInt 8 (fld r 55 48) = (commitValues v).2
  maximum : fld r 95 64 = 0
  flags : fld r 12 10 = 0
  enabled : slotEnabled r = slotEnabled v

theorem commitSlot_committed (v : Nat) : Committed v (commitSlot v) := by
  obtain ⟨hlo, hhi⟩ := commitValues_bounds v
  have hcode : toInt 8 (ofInt 8 (commitValues v).2 % 2 ^ (63 + 1 - 56)) = (commitValues v).2 := by
    rw [Nat.mod_eq_of_lt (show ofInt 8 (commitValues v).2 < 2 ^ (63 + 1 - 56) from ofInt_lt _), toInt_ofInt (by omega) hhi]
  constructor <;>
    simp (disch := decide) only [commitSlot, slotCurrent, slotEnabled, fld_setFld_same, fld_setFld_apart, bit_setFld_apart, Nat.zero_mod] <;>
    exact hcode

/-- A table in canonical form lists a key at most once, with the value that a read gives. -/
theorem tget_of_mem {α : Type} [DecidableEq α] {d : α} {t : Table α} (h : twf d t = true) {p : Nat × α} (hp : p ∈ t) : tget d t p.1 = p.2 := by
  induction t with
  | nil => simp at hp
  | cons q t ih =>
    obtain ⟨k, v⟩ := q
    obtain ⟨-, hlt, ht⟩ := twf_cons.mp h
    rcases List.mem_cons.mp hp with rfl | hp
    · simp [tget]
    · rw [tget, if_neg (by have := hlt p hp; omega), ih ht hp]

theorem mem_of_tget_ne {α : Type} [DecidableEq α] {d : α} {t : Table α} {k : Nat} (h : tget d t k ≠ d) : (k, tget d t k) ∈ t := by
  induction t with
  | nil => exact absurd rfl h
  | cons q t ih =>
    obtain ⟨j, v⟩ := q
    by_cases hj : j = k
    · simp [tget, hj]
    · simp only [tget, hj, if_false] at h ⊢
      exact List.mem_cons_of_mem _ (ih h)

theorem twf_nodup {α : Type} [DecidableEq α] {d : α} {t : Table α} (h : twf d t = true) : t.Nodup := by
  induction t with
  | nil => exact List.nodup_nil
  | cons q t ih =>
    obtain ⟨-, hlt, ht⟩ := twf_cons.mp h
    exact List.nodup_cons.mpr ⟨fun hq => absurd (hlt q hq) (lt_irrefl _), ih ht⟩

/-- An enabled slot after a request of its commit: committed, or pending while writers hold it (R93). -/
def requestedSlot (v : Nat) : Nat := if slotWriters v = 0 then commitSlot v else setFld v 12 12 1

/-- A request that names one enabled slot. -/
theorem requestCommits_one (hst : twf 0 s.steward = true) {w k : Nat} (hk : fld w 11 0 = k) (hn : fld w 24 12 = 1) (hen : slotEnabled (slotBits s k) = true) :
    requestCommits s w = setSlot s k (requestedSlot (slotBits s k)) := by
  have hne : tget 0 s.steward k ≠ 0 := fun h0 => by
    have : slotBits s k = 0 := by rw [slotBits, h0]; rfl
    rw [this] at hen
    exact absurd hen (by decide)
  have hother (e : Nat × BitVec 128) (he : e ∈ s.steward) (hek : e ≠ (k, tget 0 s.steward k)) :
      ¬ (k ≤ e.1 ∧ e.1 < k + 1 ∧ slotEnabled e.2.toNat = true) := fun ⟨h1, h2, _⟩ => by
    obtain ⟨j, v⟩ := e
    obtain rfl : j = k := by simp only at h1 h2; omega
    exact hek (by rw [tget_of_mem hst he])
  unfold requestCommits
  simp only [hn, hk]
  refine foldl_once (x := (k, tget 0 s.steward k)) (mem_of_tget_ne hne) (twf_nodup hst) ?_ (fun e he hek => if_neg (hother e he hek))
    (fun e he hek => if_neg (hother e he hek))
  have hin : k ≤ (k, tget 0 s.steward k).1 ∧ (k, tget 0 s.steward k).1 < k + 1 ∧ slotEnabled (tget 0 s.steward k).toNat = true :=
    ⟨le_rfl, Nat.lt_succ_self k, hen⟩
  rw [if_pos hin, requestedSlot]
  exact (apply_ite (setSlot s k) (slotWriters (slotBits s k) = 0) _ _).symm

/-- A request that names one slot commits it or makes its commit pending where it is enabled; one that names none, or more than there are, does nothing. -/
theorem stewardCommit_outcomes (k : Fin 4096) (w : Word64) (hr : running s = true) (hst : twf 0 s.steward = true) (hk : fld w.toNat 11 0 = k.val) :
    (fld w.toNat 24 12 = 1 → slotEnabled (slotBits s k.val) = true →
      exec (.stewardCommit w) s = .next (setSlot s k.val (requestedSlot (slotBits s k.val)))) ∧
    (fld w.toNat 24 12 = 0 ∨ 4096 < fld w.toNat 24 12 → exec (.stewardCommit w) s = .next s) := by
  have hexec : exec (.stewardCommit w) s = .next (requestCommits s w.toNat) := congrArg Host.Outcome.next (powered_running hr _)
  refine ⟨fun hn hen => ?_, fun hn => ?_⟩
  · rw [hexec, requestCommits_one hst hk hn hen]
  · rw [hexec, requestCommits, if_pos hn]

/-! ### Writes of a slot's halves, R87 and R88 -/

theorem getReg_lt (s : State) (b off : Nat) : getReg s b off < 2 ^ 64 := by
  have hd : regDefault (regKey b off) < 2 ^ 64 := by
    simp only [regDefault]
    repeat' split
    all_goals decide
  exact Nat.xor_lt_two_pow (tget 0 s.regs (regKey b off)).isLt hd

/-- A disabled slot that a write of its low half enables: the guarded fields of the word, and ENABLED. -/
def enabledSlot (v w : Nat) : Nat := setFld (setFld (setFld v 31 13 (fld w 31 13)) 63 48 (fld w 63 48)) 9 9 1

theorem enabledSlot_lt {v : Nat} (hv : v < 2 ^ 128) (w : Nat) : enabledSlot v w < 2 ^ 128 :=
  setFld_lt (by decide) (by decide) (setFld_lt (by decide) (by decide) (setFld_lt (by decide) (by decide) hv))

theorem enabledSlot_fields (v w : Nat) : slotEnabled (enabledSlot v w) = true ∧ fld (enabledSlot v w) 31 13 = fld w 31 13 ∧
    fld (enabledSlot v w) 63 48 = fld w 63 48 ∧ fld (enabledSlot v w) 47 32 = fld v 47 32 ∧ fld (enabledSlot v w) 127 64 = fld v 127 64 := by
  have h1 : fld w 31 13 % 2 ^ (31 + 1 - 13) = fld w 31 13 := Nat.mod_mod ..
  have h2 : fld w 63 48 % 2 ^ (63 + 1 - 48) = fld w 63 48 := Nat.mod_mod ..
  simp (disch := decide) only [enabledSlot, slotEnabled, bit_setFld_same, fld_setFld_same, fld_setFld_apart, h1, h2, and_true]
  rfl

/-- A write of the low half of a disabled slot with ENABLED high and a format of R86. -/
theorem writeSlotLow_enables {w : Nat} (hoff : slotEnabled (slotBits s (getReg s NUMERIC 0x020)) = false) (hrej : s.slotRejected = none) (hw : bit w 9 = true)
    (hlo : 3 ≤ fld w 16 13) (hhi : fld w 16 13 ≤ 8) :
    writeSlotLow s w = setSlot s (getReg s NUMERIC 0x020) (enabledSlot (slotBits s (getReg s NUMERIC 0x020)) w) := by
  simp [writeSlotLow, hoff, hrej, hw, hlo, hhi, guarded_replaced, enabledSlot]

/-- What a write of the low half of an enabled slot does to the slot: ENABLED high takes back a disable that waits, ENABLED low disables it once its writers are gone (R88). -/
def slotKept (s : State) (k : Nat) (on : Bool) : State :=
  if on then { s with disables := s.disables.filter (· != k) }
  else if slotWriters (slotBits s k) = 0 then disableSlot s k
  else { s with disables := s.disables.filter (· != k) ++ [k] }

/-- A write of the low half of an enabled slot is rejected when it changes a guarded field. -/
theorem writeSlotLow_enabled {w : Nat} (hon : slotEnabled (slotBits s (getReg s NUMERIC 0x020)) = true) :
    writeSlotLow s w =
      let k := getReg s NUMERIC 0x020
      let t := slotKept s k (bit w 9)
      if Nat.land (Nat.xor (slotBits s k) w) guardedMask ≠ 0 then setReg { t with slotRejected := some k } NUMERIC 0x040 k else t := by
  simp [writeSlotLow, hon, slotKept]

theorem exec_stewardSlotWrite (hr : running s = true) (w : Word64) : exec (.stewardSlotWrite false w) s = .next (writeSlotLow s w.toNat) :=
  congrArg Host.Outcome.next (powered_running hr _)

/-- A write of the high half changes no field, and nothing at all where no rejection stands. -/
theorem exec_stewardSlotWrite_high (hr : running s = true) (w : Word64) (hrej : s.slotRejected = none) : exec (.stewardSlotWrite true w) s = .next s := by
  refine congrArg Host.Outcome.next ((powered_running hr _).trans ?_)
  simp [writeSlotHigh, hrej]

theorem steward_disableSlot (s : State) (k : Nat) : (disableSlot s k).steward = (setSlot s k (setFld (slotBits s k) 9 9 0)).steward := rfl

/-- A slot that is disabled keeps its fields (R88). -/
theorem slotBits_disableSlot (hst : twf 0 s.steward = true) (k j : Nat) :
    slotBits (disableSlot s k) j = if j = k then setFld (slotBits s k) 9 9 0 else slotBits s j := by
  rw [slotBits_congr (steward_disableSlot s k), slotBits_setSlot hst (setFld_lt (by decide) (by decide) (slotBits_lt s k))]

/-- Settles O26: a report sets its slot, a commit of one slot runs over the table once, and a write of the low half is split by ENABLED and the guarded fields. -/
theorem steward : Obligations.Steward := by
  refine ⟨?_, ?_, ?_⟩
  · intro s k mag ovf nan v hst
    refine ⟨fun hw hp hd => ?_, fun hw => congrArg Host.Outcome.next (if_pos hw)⟩
    obtain ⟨t, hexec, hrep, hothers, hcores, hmem⟩ := stewardReport_plain hst k mag ovf nan hw hp hd
    exact ⟨t, hexec, hrep.writers, hrep.maximum, hrep.overflow, hrep.nans, hrep.current, hrep.enabled, hothers, hcores, hmem⟩
  · intro s k w v others hr hst hk
    obtain ⟨hcommit, hnone⟩ := stewardCommit_outcomes k w hr hst hk
    have hv := slotBits_lt s k.val
    have hslot (r : Nat) (hlt : r < 2 ^ 128) : slotBits (setSlot s k.val r) k.val = r ∧ others (setSlot s k.val r) :=
      ⟨by rw [slotBits_setSlot hst hlt, if_pos rfl], fun j hj => by rw [slotBits_setSlot hst hlt, if_neg hj], rfl⟩
    refine ⟨fun hn hen hw => ?_, fun hn hen hw => ?_, hnone⟩
    · obtain ⟨hset, hothers⟩ := hslot _ (commitSlot_lt hv)
      obtain ⟨hcur, hnext, hmax, hflags, henabled⟩ := commitSlot_committed v
      refine ⟨_, (hcommit hn hen).trans (by rw [requestedSlot, if_pos hw]), ?_⟩
      rw [hset]
      exact ⟨hcur, hnext, hmax, hflags, henabled.trans hen, hothers⟩
    · obtain ⟨hset, hothers⟩ := hslot _ (setFld_lt (hi := 12) (lo := 12) (v := 1) (by decide) (by decide) hv)
      refine ⟨_, (hcommit hn hen).trans (by rw [requestedSlot, if_neg hw]), ?_⟩
      rw [hset]
      exact ⟨bit_setFld_same .., congrArg (toInt 8) (fld_setFld_apart _ _ (by decide) (by decide)), hothers⟩
  · intro s w k v out changed hr hst hregs
    have hv := slotBits_lt s k
    have hout (hon : slotEnabled v = true) (on : Bool) (hw : bit w.toNat 9 = on) :
        out = .next (if changed then setReg { slotKept s k on with slotRejected := some k } NUMERIC 0x040 k else slotKept s k on) := by
      subst hw
      exact (exec_stewardSlotWrite hr w).trans (congrArg _ (writeSlotLow_enabled hon))
    refine ⟨fun hoff hrej hw hlo hhi => ?_, fun hon hw hc => ?_, fun hon hw hc => ?_, fun hon hw hwr hc => ?_, fun hon hw hwr hc => ?_,
      exec_stewardSlotWrite_high hr w⟩
    · have hslot := slotBits_setSlot hst (k := k) (enabledSlot_lt hv w.toNat)
      obtain ⟨hen, hlow, hhigh, hwriters, hupper⟩ := enabledSlot_fields v w.toNat
      refine ⟨_, (exec_stewardSlotWrite hr w).trans (congrArg _ (writeSlotLow_enables hoff hrej hw hlo hhi)), ?_⟩
      rw [hslot, if_pos rfl]
      exact ⟨hen, hlow, hhigh, hwriters, hupper, fun j hj => by rw [hslot, if_neg hj], rfl⟩
    · rw [hout hon true hw, if_neg hc]
      rfl
    · refine ⟨_, (hout hon true hw).trans (congrArg _ (if_pos hc)), rfl, ?_, rfl, rfl, rfl, rfl, rfl⟩
      exact (getReg_setReg (s := { slotKept s k true with slotRejected := some k }) hregs _ _ _ _ _ (getReg_lt ..)).trans (if_pos rfl)
    · have hslot := slotBits_disableSlot hst k
      refine ⟨disableSlot s k, ?_, ?_⟩
      · rw [hout hon false hw, if_neg hc, slotKept, if_neg Bool.false_ne_true, if_pos hwr]
      · rw [hslot, if_pos rfl]
        exact ⟨bit_setFld_same .., congrArg (toInt 8) (fld_setFld_apart _ _ (by decide) (by decide)), fun j hj => by rw [hslot, if_neg hj]⟩
    · rw [hout hon false hw, if_neg hc, slotKept, if_neg Bool.false_ne_true, if_neg hwr]

end Sys2Proof.Machine
end

section
/-! SUPPORT. Collectives that open and start: what each step leaves of a collective's own books and of every other one, and the statement on both (O40). -/

namespace Sys2Proof.Machine

variable {s t u : State} {k : CollId}

/-! ### The collective of a name -/

theorem collOf_congr (h : t.collectives = s.collectives) (k : CollId) : collOf t k = collOf s k := by rw [collOf, collOf, h]

/-- What is found in a list after an update of the elements of one name that keeps names. -/
theorem collOf_updColl {f : Collective → Collective} (hf : ∀ c, (f c).id = c.id) (s : State) (k j : CollId) :
    collOf (updColl s k f) j = if j = k then (collOf s k).map f else collOf s j := by
  have hname (c : Collective) : ((if (c.id == k) = true then f c else c).id == j) = (c.id == j) := by
    split
    · rw [hf]
    · rfl
  have hfind : collOf (updColl s k f) j = (collOf s j).map (fun c => if (c.id == k) = true then f c else c) := by
    simp only [collOf, updColl, mapIf, List.find?_map, Function.comp_def, hname]
  rw [hfind]
  split
  · next he =>
    subst he
    refine Option.map_congr fun c hc => ?_
    rw [if_pos (by simpa using List.find?_some hc)]
  · next he =>
    rw [Option.map_congr (g := id), Option.map_id_apply]
    intro c hc
    have hcj : c.id = j := by simpa using List.find?_some hc
    rw [if_neg (by simpa [hcj] using he)]
    rfl

theorem collOf_updColl_self {f : Collective → Collective} {c : Collective} (hc : collOf s k = some c) (hf : ∀ c, (f c).id = c.id := by intro; rfl) :
    collOf (updColl s k f) k = some (f c) := by
  rw [collOf_updColl hf, if_pos rfl, hc]
  rfl

theorem collOf_updColl_ne {f : Collective → Collective} {j : CollId} (hj : j ≠ k) (hf : ∀ c, (f c).id = c.id := by intro; rfl) :
    collOf (updColl s k f) j = collOf s j := by
  rw [collOf_updColl hf, if_neg hj]

/-! ### Steps that keep part of one collective, and every other one -/

/-- A step that keeps every other collective, and of collective k what p shows. -/
structure CollKeeps {α : Type} (k : CollId) (p : Collective → α) (s t : State) : Prop where
  others : ∀ j, j ≠ k → collOf t j = collOf s j
  own : (collOf t k).map p = (collOf s k).map p

section
variable {α : Type} {p : Collective → α}

theorem CollKeeps.refl (s : State) : CollKeeps k p s s := ⟨fun _ _ => rfl, rfl⟩

theorem CollKeeps.trans (h : CollKeeps k p s t) (g : CollKeeps k p t u) : CollKeeps k p s u :=
  ⟨fun j hj => (g.others j hj).trans (h.others j hj), g.own.trans h.own⟩

/-- Two steps, the second named first: it fixes the state between them. -/
theorem CollKeeps.after (g : CollKeeps k p t u) (h : CollKeeps k p s t) : CollKeeps k p s u := h.trans g

theorem CollKeeps.ite {c : Prop} [Decidable c] (h : c → CollKeeps k p s t) (g : ¬ c → CollKeeps k p s u) : CollKeeps k p s (if c then t else u) := by
  split
  · next hc => exact h hc
  · next hc => exact g hc

theorem CollKeeps.of_collectives (h : t.collectives = s.collectives) : CollKeeps k p s t := ⟨fun j _ => collOf_congr h j, by rw [collOf_congr h]⟩

theorem CollKeeps.updColl {f : Collective → Collective} (s : State) (hf : ∀ c, (f c).id = c.id := by intro; rfl) (hp : ∀ c, p (f c) = p c := by intro; rfl) :
    CollKeeps k p s (updColl s k f) := by
  refine ⟨fun j hj => collOf_updColl_ne hj hf, ?_⟩
  rw [collOf_updColl hf, if_pos rfl, Option.map_map]
  exact congrArg (fun g => (collOf s k).map g) (funext hp)

theorem CollKeeps.foldl {β : Type} {f : State → β → State} (h : ∀ s b, CollKeeps k p s (f s b)) (l : List β) (s : State) : CollKeeps k p s (l.foldl f s) := by
  induction l generalizing s with
  | nil => exact .refl s
  | cons b l ih => exact (h s b).trans (ih _)

theorem CollKeeps.weaken {β : Type} (h : CollKeeps k p s t) {q : Collective → β} (f : α → β) (hq : ∀ c, q c = f (p c)) : CollKeeps k q s t := by
  have hqp : q = f ∘ p := funext hq
  exact ⟨h.others, by rw [hqp, ← Option.map_map, ← Option.map_map, h.own]⟩

/-- The collective after such a step. -/
theorem CollKeeps.some (h : CollKeeps k p s t) {c : Collective} (hc : collOf s k = some c) : ∃ y, collOf t k = some y ∧ p y = p c := by
  have := h.own
  rw [hc, Option.map_some] at this
  obtain ⟨y, hy, hp⟩ := Option.map_eq_some_iff.mp this
  exact ⟨y, hy, hp⟩

/-! ### Messages and passed-on presence -/

theorem collSend_keeps (s : State) (j : CollId) (dst : Nat) (w : Message) : CollKeeps k p s (collSend s j dst w) :=
  .of_collectives (sendMessage_net ..).collectives

theorem sendPieces_keeps (s : State) (dst unit off : Nat) (result : Bool) (bs : List Byte) (poison : List Nat) :
    CollKeeps k p s (sendPieces s k dst unit off result bs poison) := by
  unfold sendPieces
  split
  · exact .refl s
  · exact .foldl (fun s _ => collSend_keeps ..) _ s

theorem runBits_keeps (c : Collective) (first n : Nat) (f : Nat → Bool) (s : State) (dst : Nat) : CollKeeps k p s (runBits c first n f s dst) := by
  unfold runBits
  split
  · exact .refl s
  · exact collSend_keeps ..

end

/-- A collective without what its reads, its landed pieces and its passed-on presence bits change. -/
def Collective.books (c : Collective) : Collective :=
  { c with presenceSent := [], prefixes := [], landed := [], results := [], writer := none, poisonReads := 0, corrReads := 0, poisoned := false }

theorem passPresence_keeps (s : State) (k : CollId) : CollKeeps k Collective.books s (passPresence s k) := by
  unfold passPresence
  split
  · exact .refl s
  · refine .foldl (fun s j => ?_) _ s
    dsimp only
    refine .ite (fun _ => .refl s) fun _ => .ite (fun _ => ?_) fun _ => ?_
    · exact (CollKeeps.foldl (fun s _ => runBits_keeps ..) _ _).after (.updColl s)
    · exact (runBits_keeps ..).after (.updColl s)

theorem collRead_keeps (s : State) (k : CollId) (a n : Nat) : CollKeeps k Collective.books s (collRead s k a n).2.2 :=
  (CollKeeps.of_collectives (readSpan_tidy ..).collectives).trans (.updColl _)

/-! ### Pieces that land in a tile store -/

theorem coreSpan_inTile {d n a len : Nat} (h : inTile d n) (ha : d ≤ a) (hlen : a + len ≤ d + n) : CoreSpan a len := by
  obtain ⟨m, hlo, hhi⟩ := h
  rw [show a = tileBase m.val + (a - tileBase m.val) by omega]
  exact coreSpan_tile m.isLt (by omega)

/-- A write of a started collective to the stores of the cores ends nothing. -/
theorem collWrite_collectives {unit a : Nat} {bs : List Byte} (poison : List Nat) (s : State) (h : CoreSpan a bs.length) :
    (collWrite s unit k a bs poison).collectives = s.collectives := by
  have hmapped : (writeSpan (redMaster unit) s a bs (poison.map (· + a / 32))).1 = false := by
    simp only [writeSpan, pieces_mapped h, Option.isSome_none]
  unfold collWrite
  simp only [hmapped, Bool.false_eq_true, if_false]
  rw [noteLines_tidy_rest]
  exact (writeSpan_tidy ..).collectives

theorem noteResultPoison_keeps (s : State) (k : CollId) (n : Nat) : CollKeeps k Collective.books s (noteResultPoison s k n) := by
  unfold noteResultPoison
  split
  · exact .refl s
  · exact (CollKeeps.of_collectives (countN_tidy ..).collectives).trans (.updColl _)

/-- A unit without a header and without a scale unit is closed by its own book entry alone. -/
theorem closeUnit_keeps {c : Collective} (hc : collOf s k = some c) (hh : c.e.hdr = false) (hs : c.e.scaled = false) (unit v visits : Nat) (poison : Bool) :
    CollKeeps k Collective.books s (closeUnit s unit k v visits poison) := by
  unfold closeUnit
  simp only [hc, hh, hs, Bool.false_eq_true, if_false]
  exact .updColl s

theorem Collective.e_of_books {c y : Collective} (h : y.books = c.books) : y.e = c.e := (congrArg Collective.e h :)

theorem landed_unscaled {c : Collective} (hs : c.e.scaled = false) (at' : Nat) (body : List Byte) (bad : List Nat) : landed c at' body bad = (body, bad, c.writer) := by
  rw [landed, hs, if_neg Bool.false_ne_true]

/-- Bytes moved unchanged that land as one whole unit in a tile store. -/
theorem landPiece_keeps {c : Collective} (hc : collOf s k = some c) (hh : c.e.hdr = false) (hs : c.e.scaled = false) (ho : c.e.op = 3)
    (ht : inTile c.e.dst (c.e.unitBytes * c.e.units)) (v : Nat) (data : List Byte) (poison : List Nat) :
    CollKeeps k Collective.books s (landPiece s k v 0 data poison) := by
  have hlead : c.e.lead false = 0 := by simp [CollEntry.lead, hh, hs, b2n]
  have htravel : 32 * c.e.travel false ≤ c.e.unitBytes := by
    simp only [CollEntry.travel, hlead, CollEntry.region, hh, b2n, Bool.false_eq_true, if_false]
    omega
  have hdst : c.dstUnits = (0, c.e.units) := by simp [Collective.dstUnits, ho]
  unfold landPiece
  simp only [hc, hs, hh, hlead, landed_unscaled hs, hdst, Nat.lt_irrefl, if_false, Nat.zero_add, Nat.sub_self, Nat.mul_zero, List.drop_zero, Nat.sub_zero,
    false_and, or_false, Bool.false_eq_true, b2n, Nat.add_zero, Nat.zero_le, decide_true, true_and, List.filter_true, List.map_id']
  refine .ite (fun _ => .refl s) fun h => ?_
  have hspan : CoreSpan (c.dstAddr v) data.length := by
    simp only [not_or, decide_eq_false_iff_not, not_not] at h
    obtain ⟨-, hmod, hfit, hv, -⟩ := h
    have hunit : c.e.unitBytes * v + c.e.unitBytes ≤ c.e.unitBytes * c.e.units := by
      rw [← Nat.mul_succ]
      exact Nat.mul_le_mul_left _ hv
    refine coreSpan_inTile ht ?_ ?_ <;> simp only [Collective.dstAddr, hdst, Nat.sub_zero] <;> omega
  generalize hw : collWrite _ 0 k (c.dstAddr v) data poison = w
  have hkeeps : CollKeeps k Collective.books s w := by
    rw [← hw]
    exact ((CollKeeps.of_collectives (collWrite_collectives _ _ hspan)).after (noteResultPoison_keeps ..)).after (.updColl s)
  obtain ⟨y, hy, hbooks⟩ := hkeeps.some hc
  have he := Collective.e_of_books hbooks
  simp only [hy]
  refine .ite (fun _ => ?_) fun _ => hkeeps
  exact ((CollKeeps.updColl _).after (closeUnit_keeps hy (by rw [he, hh]) (by rw [he, hs]) ..)).after hkeeps

/-! ### Source units, R392, R403, R406 -/

/-- A collective without what the sending of a reduction's source units changes. -/
def Collective.unsent (c : Collective) : Collective := { c.books with contributions := [], sourceDone := [] }

theorem CollKeeps.unsent (h : CollKeeps k Collective.books s t) : CollKeeps k Collective.unsent s t :=
  h.weaken (fun c => { c with contributions := [], sourceDone := [] }) fun _ => rfl

theorem readOwn_keeps (s : State) (k : CollId) (c : Collective) (v : Nat) : CollKeeps k Collective.books s (readOwn s k c v).2.2 := by
  unfold readOwn
  dsimp only
  refine (collRead_keeps ..).after ?_
  split
  · exact collRead_keeps ..
  · exact .refl s

theorem sourceReduced_keeps (s : State) (k : CollId) (v : Nat) : CollKeeps k Collective.unsent s (sourceReduced s k v) := by
  unfold sourceReduced
  split
  · exact .refl s
  · next c _ =>
    dsimp only
    refine .ite (fun _ => .updColl s) fun _ => (CollKeeps.unsent (readOwn_keeps s k c v)).trans ?_
    split
    · exact (CollKeeps.updColl _).after (sendPieces_keeps ..)
    · exact .ite (fun _ => (CollKeeps.updColl _).after (.updColl _)) fun _ => .updColl _

/-- From s to t the collective k, which was c, has sent source units, and no other collective has changed. -/
structure SentUnits (k : CollId) (c : Collective) (us : List Nat) (s t : State) : Prop where
  others : ∀ j, j ≠ k → collOf t j = collOf s j
  own : ∃ y, collOf t k = some y ∧ y.books = { c.books with sourceDone := c.sourceDone ++ us }

theorem SentUnits.of_keeps {c : Collective} (h : CollKeeps k Collective.books s t) (hc : collOf s k = some c) : SentUnits k c [] s t := by
  obtain ⟨y, hy, hb⟩ := h.some hc
  exact ⟨h.others, y, hy, by rw [hb, List.append_nil]; rfl⟩

theorem sourceMoved_sends {c : Collective} (hc : collOf s k = some c) (hh : c.e.hdr = false) (hs : c.e.scaled = false)
    (ht : inTile c.e.dst (c.e.unitBytes * c.e.units)) (v : Nat) (bs : List Byte) (ps : List Nat) : SentUnits k c [v] s (sourceMoved s k v bs ps) := by
  have hkeeps (ds : List Nat) : CollKeeps k Collective.books s (ds.foldl (fun s d => sendPieces s k d v 0 false bs ps) s) :=
    .foldl (fun s _ => sendPieces_keeps ..) ds s
  have hlanded (ds : List Nat) : CollKeeps k Collective.books s
      (if c.e.op = 3 then landPiece (ds.foldl (fun s d => sendPieces s k d v 0 false bs ps) s) k v 0 bs ps
        else ds.foldl (fun s d => sendPieces s k d v 0 false bs ps) s) := by
    refine .ite (fun ho => ?_) fun _ => hkeeps ds
    obtain ⟨x, hx, hb⟩ := (hkeeps ds).some hc
    have he := Collective.e_of_books hb
    exact (landPiece_keeps hx (by rw [he, hh]) (by rw [he, hs]) (by rw [he, ho]) (by rw [he]; exact ht) v bs ps).after (hkeeps ds)
  unfold sourceMoved
  simp only [hc]
  generalize (if c.e.op = 3 then c.e.spreadsTo c.self v else if c.e.op = 5 then (List.range c.e.size).filter (· != c.self) else [c.e.send]) = ds
  obtain ⟨y, hy, hb⟩ := (hlanded ds).some hc
  refine ⟨fun j hj => (collOf_updColl_ne hj).trans ((hlanded ds).others j hj), { y with sourceDone := y.sourceDone ++ [v] }, collOf_updColl_self hy, ?_⟩
  have hdone : y.sourceDone = c.sourceDone := (congrArg Collective.sourceDone hb :)
  rw [← hb, ← hdone]
  rfl

theorem SentUnits.trans {c y : Collective} {us vs : List Nat} (h : SentUnits k c us s t) (hy : collOf t k = some y) (g : SentUnits k y vs t u) :
    SentUnits k c (us ++ vs) s u := by
  obtain ⟨x, hx, hb⟩ := h.own
  obtain rfl : x = y := Option.some.inj (hx.symm.trans hy)
  obtain ⟨z, hz, hzb⟩ := g.own
  have hdone : x.sourceDone = c.sourceDone ++ us := (congrArg Collective.sourceDone hb :)
  refine ⟨fun j hj => (g.others j hj).trans (h.others j hj), z, hz, ?_⟩
  rw [hzb, hb, hdone, List.append_assoc]

/-- What the units of a list send one after another. -/
theorem foldl_sourceMoved {c : Collective} (hc : collOf s k = some c) (hh : c.e.hdr = false) (hs : c.e.scaled = false)
    (ht : inTile c.e.dst (c.e.unitBytes * c.e.units)) (got : List (Nat × List Byte × List Nat)) :
    SentUnits k c (got.map (·.1)) s (got.foldl (fun s g => sourceMoved s k g.1 g.2.1 g.2.2) s) := by
  induction got generalizing s c with
  | nil => exact .of_keeps (.refl s) hc
  | cons g got ih =>
    have hfirst := sourceMoved_sends hc hh hs ht g.1 g.2.1 g.2.2
    obtain ⟨y, hy, hb⟩ := hfirst.own
    have he : y.e = c.e := (congrArg Collective.e hb :)
    exact hfirst.trans hy (ih hy (by rw [he, hh]) (by rw [he, hs]) (by rw [he]; exact ht))

/-- The source units of moved bytes as they are read, and the state after the reads. -/
def readUnits (s : State) (k : CollId) (c : Collective) (units : List Nat) : List (Nat × List Byte × List Nat) × State :=
  units.foldl (fun acc v =>
    let r := collRead acc.2 k (c.srcAddr v) c.e.unitBytes
    (acc.1 ++ [(v, r.1, r.2.1)], r.2.2)) ([], s)

theorem moveSources_eq (s : State) (k : CollId) (c : Collective) (units : List Nat) :
    moveSources s k c units = (readUnits s k c units).1.foldl (fun s g => sourceMoved s k g.1 g.2.1 g.2.2) (readUnits s k c units).2 := rfl

theorem readUnits_reads (s : State) (k : CollId) (c : Collective) (units : List Nat) :
    (readUnits s k c units).1.map (·.1) = units ∧ CollKeeps k Collective.books s (readUnits s k c units).2 := by
  induction units using List.reverseRecOn with
  | nil => exact ⟨rfl, .refl s⟩
  | append_singleton units v ih =>
    obtain ⟨hread, hkeeps⟩ := ih
    rw [readUnits, List.foldl_append, ← readUnits]
    exact ⟨by simp [hread], hkeeps.trans (collRead_keeps ..)⟩

/-- All source units are read before the first of them is sent (R390, R392). -/
theorem moveSources_sends {c : Collective} (hc : collOf s k = some c) (hh : c.e.hdr = false) (hs : c.e.scaled = false)
    (ht : inTile c.e.dst (c.e.unitBytes * c.e.units)) (units : List Nat) : SentUnits k c units s (moveSources s k c units) := by
  obtain ⟨hread, hkeeps⟩ := readUnits_reads s k c units
  obtain ⟨y, hy, hb⟩ := hkeeps.some hc
  have he := Collective.e_of_books hb
  have hsent := foldl_sourceMoved hy (by rw [he, hh]) (by rw [he, hs]) (by rw [he]; exact ht) (readUnits s k c units).1
  rw [hread, ← moveSources_eq] at hsent
  exact (SentUnits.of_keeps hkeeps hc).trans hy hsent

/-! ### The data phase and the start -/

/-- A collective without a bitmap combines or moves every unit (R412). -/
theorem outcome_of_bitmap {c : Collective} (hb : c.e.bitmap = 0) (v : Nat) : c.outcome v = some true := by rw [Collective.outcome, if_pos hb]

theorem writeOutcome_of_bitmap {c : Collective} (hc : collOf s k = some c) (hb : c.e.bitmap = 0) : writeOutcome s k = s := by
  unfold writeOutcome
  simp only [hc, hb, true_or, if_true]

/-- No contribution of moved bytes waits for the data phase. -/
theorem landHeld_none {c : Collective} (hc : collOf s k = some c) (h : c.contributions = []) : landHeld s k = s := by
  unfold landHeld
  simp only [hc, h, List.foldl_nil, ite_self]

/-- The collective k, which was c, is in its data phase: a movement has sent all its source units, and no other collective has changed. -/
structure Begun (k : CollId) (c : Collective) (s t : State) : Prop where
  others : ∀ j, j ≠ k → collOf t j = collOf s j
  own : ∃ y, collOf t k = some y ∧ y.unsent = { c with dataPhase := true }.unsent ∧
    (c.e.reduces = false → y.sourceDone = (List.range c.srcUnits.2).map (· + c.srcUnits.1))

/-- A collective without a bitmap and headers, that has sent and received nothing yet, whose destination lies in one tile store. -/
structure Collective.Plain (c : Collective) : Prop where
  bitmap : c.e.bitmap = 0
  header : c.e.hdr = false
  scaled : c.e.reduces = false → c.e.scaled = false
  contributions : c.contributions = []
  sourceDone : c.sourceDone = []
  tile : inTile c.e.dst (c.e.unitBytes * c.e.units)

theorem Collective.Plain.of_books {c y : Collective} (h : c.Plain) (hb : y.books = c.books) : y.Plain := by
  have he := Collective.e_of_books hb
  exact ⟨by rw [he, h.bitmap], by rw [he, h.header], by rw [he]; exact h.scaled, (congrArg Collective.contributions hb :).trans h.contributions,
    (congrArg Collective.sourceDone hb :).trans h.sourceDone, by rw [he]; exact h.tile⟩

theorem beginData_begins {c : Collective} (hc : collOf s k = some c) (hplain : c.Plain) : Begun k c s (beginData s k) := by
  obtain ⟨hbit, hh, hs, hcont, hdone, ht⟩ := hplain
  have hmismatch : headerMismatch s k = (none, s) := by simp only [headerMismatch, hc, hh, Bool.not_false, if_true]
  have hbegun : collOf (updColl s k (fun c => { c with dataPhase := true })) k = some { c with dataPhase := true } := collOf_updColl_self hc
  have hother (j : CollId) (hj : j ≠ k) : collOf (updColl s k (fun c => { c with dataPhase := true })) j = collOf s j := collOf_updColl_ne hj
  have he : ({ c with dataPhase := true } : Collective).e = c.e := rfl
  unfold beginData
  simp only [hmismatch, writeOutcome_of_bitmap hbegun hbit, hbegun, he]
  cases hr : c.e.reduces with
  | true =>
    have habsent (us : List Nat) : us.filter (fun v => ({ c with dataPhase := true } : Collective).outcome v == some false) = [] :=
      List.filter_eq_nil_iff.mpr fun v _ => by rw [outcome_of_bitmap (c := { c with dataPhase := true }) hbit]; decide
    simp only [if_true, habsent, List.foldl_nil]
    have hkeeps := CollKeeps.foldl (k := k) (sourceReduced_keeps · k ·) ((List.range c.srcUnits.2).map (· + c.srcUnits.1)) (updColl s k (fun c => { c with dataPhase := true }))
    obtain ⟨y, hy, hb⟩ := hkeeps.some hbegun
    exact ⟨fun j hj => (hkeeps.others j hj).trans (hother j hj), y, hy, hb, fun h => by simp [hr] at h⟩
  | false =>
    simp only [Bool.false_eq_true, if_false]
    have hsent := moveSources_sends hbegun hh (hs hr) ht ((List.range c.srcUnits.2).map (· + c.srcUnits.1))
    obtain ⟨y, hy, hb⟩ := hsent.own
    have hnone : y.contributions = [] := (congrArg Collective.contributions hb :).trans hcont
    have hall : y.sourceDone = c.sourceDone ++ _ := (congrArg Collective.sourceDone hb :)
    have hland : landHeld (moveSources (updColl s k (fun c => { c with dataPhase := true })) k { c with dataPhase := true }
        ((List.range c.srcUnits.2).map (· + c.srcUnits.1))) k = _ := landHeld_none hy hnone
    have hown : y.unsent = { c with dataPhase := true }.unsent :=
      (congrArg (fun x : Collective => ({ x with contributions := [], sourceDone := [] } : Collective)) hb :)
    refine ⟨fun j hj => ?_, y, ?_, hown, fun _ => by rw [hall, hdone, List.nil_append]⟩
    · exact (congrArg (collOf · j) hland).trans ((hsent.others j hj).trans (hother j hj))
    · exact (congrArg (collOf · k) hland).trans hy

/-- Nothing of its presence phase is open for a collective without a bitmap: its data phase begins. -/
theorem afterPresence_begins {c : Collective} (hc : collOf s k = some c) (hst : c.state = 2) (hdata : c.dataPhase = false) (hplain : c.Plain) :
    Begun k c s (afterPresence s k) := by
  have hkeeps := passPresence_keeps s k
  obtain ⟨x, hx, hb⟩ := hkeeps.some hc
  have hxplain := hplain.of_books hb
  have hxst : x.state = 2 := (congrArg Collective.state hb :).trans hst
  have hxdata : x.dataPhase = false := (congrArg Collective.dataPhase hb :).trans hdata
  have hready : x.presenceDone = true := by simp only [Collective.presenceDone, hxplain.bitmap, beq_self_eq_true, Bool.true_or]
  obtain ⟨hothers, y, hy, hown, hsent⟩ := beginData_begins hx hxplain
  unfold afterPresence
  simp only [hx, hxst, hxdata, hready, beq_self_eq_true, Bool.not_false, Bool.and_self, if_true]
  refine ⟨fun j hj => (hothers j hj).trans (hkeeps.others j hj), y, hy, hown.trans ?_, ?_⟩
  · exact (congrArg (fun z : Collective => ({ z with dataPhase := true } : Collective).unsent) hb :)
  · have he := Collective.e_of_books hb
    have hsrc : x.srcUnits = c.srcUnits := (congrArg Collective.srcUnits hb :)
    rwa [he, hsrc] at hsent

/-- An open collective whose members have all been heard starts, where its slot is enabled and has no commit pending (R71, R93, R403). -/
theorem startColl_starts {c : Collective} (hc : collOf s c.id = some c) (hst : c.state = 1) (hheard : c.heard.length = c.members.length)
    (hslot : c.writes = true → stewardOn s (numericOf c.e.num).slot = true ∧ slotPending (slotBits s (numericOf c.e.num).slot) = false)
    (hdata : c.dataPhase = false) (hplain : c.Plain) :
    ∃ T w, Begun c.id { c with state := 2, startedAt := T, writer := w } s (startColl s c.id c.e.op) := by
  have hbegins (u : State) (hu : u.collectives = s.collectives) (T : Nat) (w : Option Writer) :
      Begun c.id { c with state := 2, startedAt := T, writer := w } s
        (afterPresence (updColl u c.id (fun c => { c with state := 2, startedAt := T, writer := w })) c.id) := by
    have hcu : collOf u c.id = some c := (collOf_congr hu _).trans hc
    have hbegun := afterPresence_begins (collOf_updColl_self (f := fun c => { c with state := 2, startedAt := T, writer := w }) hcu) rfl hdata ⟨hplain.bitmap, hplain.header, hplain.scaled,
      hplain.contributions, hplain.sourceDone, hplain.tile⟩
    exact ⟨fun j hj => (hbegun.others j hj).trans ((collOf_updColl_ne hj).trans (collOf_congr hu j)), hbegun.own⟩
  unfold startColl
  simp only [hc, hst, hheard, hplain.bitmap, ne_eq, not_true_eq_false, or_self, if_false, if_true]
  cases hw : c.writes with
  | false =>
    simp only [Bool.false_and, Bool.false_eq_true, if_false]
    exact ⟨_, _, hbegins (readTime s COLL).2 rfl _ none⟩
  | true =>
    obtain ⟨hon, hpend⟩ := hslot hw
    simp only [hon, hpend, Bool.not_true, Bool.and_false, Bool.false_eq_true, if_false, if_true]
    exact ⟨_, _, hbegins (takeWriter (readTime s COLL).2 (numericOf c.e.num).slot).2 rfl _ _⟩

/-! ### Opening, R400 to R402 -/

theorem settleColl_none (h : ∀ x ∈ s.collectives, x.armFail = false) : settleColl s = s := by
  have hnone : s.collectives.filter (fun c => c.armFail && c.state == 0) = [] := List.filter_eq_nil_iff.mpr fun c hc => by simp [h c hc]
  rw [settleColl, hnone, List.foldl_nil]

theorem NetTidy.heldMessages (h : NetTidy s t) : t.heldMessages = s.heldMessages := (congrArg State.heldMessages h.rest :)

theorem heldOpens_none (h : s.heldMessages = []) (k : CollId) : heldOpens s k = [] := by rw [heldOpens, h]; rfl

theorem dropOpens_none (h : s.heldMessages = []) (k : CollId) : (dropOpens s k).collectives = s.collectives := by
  unfold dropOpens
  simp only [heldOpens_none h, List.map_nil, List.foldl_nil]

/-- Where no OPEN is held, a collective opens with the sending of its own. -/
theorem openColl_opens {c : Collective} (hc : collOf s c.id = some c) (hheld : s.heldMessages = []) :
    collOf (openColl s c) c.id = some { c with state := 1, opened := (readTime s COLL).1 } ∧ ∀ j, j ≠ c.id → collOf (openColl s c) j = collOf s j := by
  have hnet := netTidy_foldl (fun s r => sendMessage_net s 2 c.id.index.toNat r (.openMsg c.id (BitVec.ofNat 16 c.e.gen) (collDigest c))) c.members
    (updColl (readTime s COLL).2 c.id (fun x => { x with state := 1, opened := (readTime s COLL).1 }))
  have hnone := hnet.heldMessages.trans hheld
  have hcoll : (openColl s c).collectives = (updColl (readTime s COLL).2 c.id (fun x => { x with state := 1, opened := (readTime s COLL).1 })).collectives := by
    unfold openColl collSend
    simp only [heldOpens_none hnone, List.foldl_nil]
    exact (dropOpens_none hnone _).trans hnet.collectives
  have hread (j : CollId) : collOf (readTime s COLL).2 j = collOf s j := collOf_congr rfl j
  exact ⟨(collOf_congr hcoll _).trans (collOf_updColl_self ((hread _).trans hc)),
    fun j hj => (collOf_congr hcoll j).trans ((collOf_updColl_ne hj).trans (hread j))⟩

/-- An OPEN of an open collective's generation and digest notes its member as heard (R402). -/
theorem openMessage_heard (via : Via) {c : Collective} (src : BitVec 12) {i : Nat}
    (ha : accepted s via) (hc : collOf (arrivalOf s via 2 c.id.index.toNat src.toNat) c.id = some c) (hst : c.state ≠ 0) (hi : c.members.idxOf? src.toNat = some i) :
    exec (.openMessage ⟨via, src⟩ c.id (BitVec.ofNat 16 c.e.gen) (collDigest c)) s =
      .next (updColl (arrivalOf s via 2 c.id.index.toNat src.toNat) c.id (fun x => if x.heard.contains i then x else { x with heard := x.heard ++ [i] })) := by
  have hgen : (BitVec.ofNat 16 c.e.gen).toNat = c.e.gen := by
    rw [BitVec.toNat_ofNat]
    exact Nat.mod_eq_of_lt (Nat.mod_lt _ (by decide))
  have hreceive (act : State → State) : receive s via 2 c.id.index.toNat src.toNat act = act (arrivalOf s via 2 c.id.index.toNat src.toNat) := by
    have hpair : acceptFrames s via = (true, (acceptFrames s via).2) := Prod.ext ha rfl
    rw [receive, hpair]
    rfl
  refine congrArg Host.Outcome.next ((hreceive _).trans ?_)
  simp only [takeOpen, hc, hst, if_false, applyOpen, hgen, ne_eq, not_true_eq_false, hi]

/-- Settles O40: the opening sends messages alone, an OPEN is noted, and a start goes through its presence phase to the data phase. -/
theorem collectivesRun : Obligations.CollectivesRun := by
  refine ⟨?_, ?_, ?_⟩
  · intro s c hc harm hnext hheld
    obtain ⟨hopened, hothers⟩ := openColl_opens hc hheld
    obtain ⟨-, hold, hnew⟩ := readTime_bounds s COLL
    have hexec : exec .collectiveOpen s = .next (openColl s c) := by
      show execCollectiveOpen s = _
      simp only [execCollectiveOpen, settleColl_none harm, hnext]
    exact ⟨_, _, hexec, hopened, hnew, hold, hothers⟩
  · intro s via c src i u ha hc hst hi _
    exact openMessage_heard via src ha hc hst hi
  · intro s c i op slot hi hc hst hop hheard hslot hbit hh hs hdata hcont hdone ht
    have hexec : exec i s = .next (startColl s c.id c.e.op) := by
      subst hop
      simp only [List.mem_cons, Prod.mk.injEq, List.not_mem_nil, or_false] at hi
      rcases hi with ⟨rfl, ho⟩ | ⟨rfl, ho⟩ | ⟨rfl, ho⟩ | ⟨rfl, ho⟩ | ⟨rfl, ho⟩ | ⟨rfl, ho⟩ <;>
        · rw [ho]
          rfl
    obtain ⟨T, w, hothers, y, hy, hown, hsent⟩ := startColl_starts hc hst hheard hslot hdata ⟨hbit, hh, hs, hcont, hdone, ht⟩
    exact ⟨_, y, hexec, hy, (congrArg Collective.state hown :), (congrArg Collective.dataPhase hown :), (congrArg Collective.entry hown :),
      (congrArg Collective.members hown :), (congrArg Collective.heard hown :), hsent, hothers⟩

end Sys2Proof.Machine
end

section
/-! SUPPORT. Where the operands of a product operation lie: every granule that it consumes is in the core's own tile store, once the checks of R124 and R150 have passed. -/

namespace Sys2Proof.Machine

/-! ### Byte ranges of the tile store -/

/-- Byte ranges that end within the tile store. -/
def InTile (ranges : List (Nat × Nat)) : Prop := ∀ r ∈ ranges, r.1 + r.2 ≤ 0x400000

theorem InTile.append {xs ys : List (Nat × Nat)} (hx : InTile xs) (hy : InTile ys) : InTile (xs ++ ys) := fun r hr =>
  (List.mem_append.mp hr).elim (hx r) (hy r)

/-- The granules that ranges of the tile store touch lie in it. -/
theorem inCore_of_mem_rangeGranules {n : Nat} {ranges : List (Nat × Nat)} (hn : n < 128) (hr : InTile ranges) {g : Nat}
    (hg : g ∈ rangeGranules (tileBase n) ranges) : InCore (32 * g) := by
  obtain ⟨r, hrm, p, hp, rfl⟩ : ∃ r ∈ ranges, ∃ p ∈ pieces (tileBase n + r.1) r.2, p.1 = g := by
    simpa [rangeGranules, List.mem_eraseDups, List.mem_flatMap, List.mem_map] using hg
  have hend := hr r hrm
  obtain ⟨-, hlast, hfirst, -⟩ := mem_pieces hp
  refine ⟨n, hn, .inl ?_⟩
  simp only [tileBase] at *
  omega

/-! ### The windows of R121 -/

theorem firstStop_eq_none {l : List (Bool × Stop)} : firstStop l = none ↔ ∀ x ∈ l, x.1 = false := by
  induction l with
  | nil => simp [firstStop]
  | cons x l ih =>
    obtain ⟨b, t⟩ := x
    cases b <;> simp [firstStop, ih]

/-- A window whose check finds nothing beyond the tile store lies in it. -/
theorem Window.inTile {w : Window} (h : w.beyond.isSome = false) : InTile w.ranges := by
  have hnone : w.ranges.find? (fun r => decide (0x400000 < r.1 + r.2)) = none := by simpa [Window.beyond] using h
  intro r hr
  simpa using List.find?_eq_none.mp hnone r hr

theorem windowStops_inTile {n e : Nat} {ws : List Window} (h : ∀ x ∈ windowStops n e ws, x.1 = false) : ∀ w ∈ ws, InTile w.ranges := fun w hw =>
  Window.inTile (h (w.beyond.isSome, _) (List.mem_flatMap.mpr ⟨w, hw, List.mem_cons_self⟩))

/-- The windows that an issue of the matrix slot checks. -/
def issueWindows (i : MatIssue) : List Window :=
  (if i.first.sparse = 0 then [i.first.winA] else []) ++ [i.first.winB] ++ (match i.second with | some d => [d.winB] | none => [])

theorem windowStops_of_matChecks {c : Core} {n bits : Nat} {csf1 : Bool} {m : MatSlot} {reg : BitVec 5 → Nat} (h : matChecks c n csf1 m bits reg = none) :
    ∀ x ∈ windowStops n m.e.toNat (issueWindows (effective c m reg).1), x.1 = false := by
  intro x hx
  refine firstStop_eq_none.mp h x ?_
  simp only [List.mem_append]
  exact .inl (.inl (.inl (.inl (.inl (.inr hx)))))

/-- The windows of an operation that passes R124 lie in the tile store: those of a dense A and of B. -/
theorem windows_inTile {c : Core} {n bits : Nat} {csf1 : Bool} {m : MatSlot} {reg : BitVec 5 → Nat} (h : matChecks c n csf1 m bits reg = none) :
    ((effective c m reg).1.first.sparse = 0 → InTile (effective c m reg).1.first.winA.ranges) ∧ InTile (effective c m reg).1.first.winB.ranges := by
  have hwin := windowStops_inTile (windowStops_of_matChecks h)
  exact ⟨fun hs => hwin _ (by simp [issueWindows, hs]), hwin _ (by simp [issueWindows])⟩

/-! ### The regions of a compressed tile, R145 to R149 -/

theorem fmtBits_even (code : Nat) : 2 ∣ fmtBits code := by
  unfold fmtBits fmtOf
  split
  · rename_i f hf
    split at hf <;> cases hf <;> decide
  · decide

theorem le_ceilDiv_mul (a : Nat) : a ≤ 32 * ceilDiv a 32 := by
  unfold ceilDiv
  omega

theorem ceilDiv_mono {a b : Nat} (h : a ≤ b) (c : Nat) : ceilDiv a c ≤ ceilDiv b c := Nat.div_le_div_right (by omega)

/-- A part of one of 64 rows ends within the rows. -/
theorem row_within {r x row : Nat} (hr : r < 64) (hx : x ≤ row) : r * row + x ≤ 64 * row :=
  calc r * row + x ≤ (r + 1) * row := by rw [Nat.add_mul]; omega
    _ ≤ 64 * row := Nat.mul_le_mul_right _ hr

/-- The bytes that an operation over k positions uses of a row of dense values, of values of form n:8 and of metadata are no more than the row of a tile of depth kT has. -/
theorem rowBytes_le {k kT w : Nat} (n : Nat) (hk : 32 ∣ k) (hT : 32 ∣ kT) (hw : 2 ∣ w) (h : k ≤ kT) :
    ceilDiv (k * w) 8 ≤ kT * w / 8 ∧ ceilDiv (k * n / 8 * w) 8 ≤ kT * n * w / 64 ∧ k * n / 16 ≤ kT * n / 16 := by
  obtain ⟨j, rfl⟩ := hk
  obtain ⟨J, rfl⟩ := hT
  obtain ⟨v, rfl⟩ := hw
  have hle : j * (n * v) ≤ J * (n * v) := Nat.mul_le_mul_right _ (by omega)
  have hdense : j * v ≤ J * v := Nat.mul_le_mul_right _ (by omega)
  have e1 : 32 * j * n / 8 * (2 * v) = 8 * (j * (n * v)) := by
    rw [show 32 * j * n = 8 * (4 * (j * n)) by ring, Nat.mul_div_cancel_left _ (by decide)]; ring
  have e2 : 32 * J * n * (2 * v) / 64 = J * (n * v) := by
    rw [show 32 * J * n * (2 * v) = 64 * (J * (n * v)) by ring, Nat.mul_div_cancel_left _ (by decide)]
  have e3 : 32 * j * (2 * v) = 64 * (j * v) := by ring
  have e4 : 32 * J * (2 * v) = 64 * (J * v) := by ring
  refine ⟨?_, ?_, Nat.div_le_div_right (Nat.mul_le_mul_right _ h)⟩
  · rw [e3, e4]; unfold ceilDiv; omega
  · rw [e1, e2]; unfold ceilDiv; omega

/-- The regions of a tile end within its size. -/
theorem tileLayout_regions (n kT w b : Nat) (dense scaled : Bool) :
    let l := tileLayout n kT w b dense scaled
    32 + 64 * l.valueRow ≤ 32 * l.size ∧ 32 * l.moff + 64 * l.metaRow ≤ 32 * l.size ∧ 32 * l.soff + 64 * l.scaleRow ≤ 32 * l.size := by
  simp only [tileLayout]
  generalize (if dense then kT * w / 8 else kT * n * w / 64) = vr
  generalize (if scaled then ceilDiv (if dense then kT else kT * n / 8) b else 0) = sr
  have hvalue := le_ceilDiv_mul (64 * vr)
  have hscale := le_ceilDiv_mul (64 * sr)
  have hmeta := le_ceilDiv_mul (64 * (kT * n / 16))
  cases dense <;> cases scaled <;> simp <;> omega

/-- The rows of a tile whose header passes R150 hold what an operation over the first k positions uses of them. -/
theorem layout_rows {h : TileHeader} {k : Nat} (hdepth : k ≤ h.kT) (hk : 32 ∣ k) (hT : 32 ∣ h.kT) :
    let num := numericOf h.num
    let slots := if h.dense then k else k * formN h.form / 8
    ceilDiv (slots * fmtBits num.format) 8 ≤ h.layout.valueRow ∧ (h.dense = false → k * formN h.form / 16 ≤ h.layout.metaRow) ∧
      (num.scaling = 1 → ceilDiv slots num.block ≤ h.layout.scaleRow) := by
  obtain ⟨hdense, hvalue, hmeta⟩ := rowBytes_le (formN h.form) hk hT (fmtBits_even (numericOf h.num).format) hdepth
  simp only [TileHeader.layout, tileLayout]
  cases h.dense <;> simp +contextual only [if_true, if_false, Bool.false_eq_true, beq_self_eq_true, true_implies, false_implies, reduceCtorEq, true_and]
  · exact ⟨hvalue, hmeta, fun _ => ceilDiv_mono (Nat.div_le_div_right (Nat.mul_le_mul_right _ hdepth)) _⟩
  · exact ⟨hdense, fun _ => ceilDiv_mono hdepth _⟩

/-- The ranges of a tile whose header passes R150 end within the tile's size. -/
theorem tileRanges_within {h : TileHeader} {form aNum k : Nat} (hgood : headerBad h form aNum k = false) (hk : 32 ∣ k) (hT : 32 ∣ h.kT) :
    ∀ r ∈ tileRanges h k, r.1 + r.2 ≤ 32 * h.tsize := by
  simp only [headerBad, Bool.or_eq_false_iff, bne_eq_false_iff_eq, decide_eq_false_iff_not, not_lt] at hgood
  obtain ⟨⟨⟨⟨⟨⟨⟨-, hdepth⟩, -⟩, -⟩, -⟩, hmoff⟩, hsoff⟩, hsize⟩ := hgood
  obtain ⟨hvalue, hmeta, hscale⟩ := layout_rows hdepth hk hT
  obtain ⟨hvalues, hmetas, hscales⟩ : 32 + 64 * h.layout.valueRow ≤ 32 * h.layout.size ∧ 32 * h.layout.moff + 64 * h.layout.metaRow ≤ 32 * h.layout.size ∧
    32 * h.layout.soff + 64 * h.layout.scaleRow ≤ 32 * h.layout.size := tileLayout_regions ..
  intro x hx
  simp only [tileRanges, List.mem_flatMap, List.mem_range, List.mem_append, List.mem_singleton, List.mem_ite_nil_left, List.mem_ite_nil_right,
    Bool.not_eq_true] at hx
  rw [hsize]
  obtain ⟨r, hr, (rfl | ⟨hform, rfl⟩) | ⟨hscaled, rfl⟩⟩ := hx
  · have := row_within hr hvalue; dsimp only; omega
  · have := row_within hr (hmeta hform); dsimp only; omega
  · have := row_within hr (hscale hscaled); dsimp only; omega

/-! ### The granules that an operation consumes, R133 -/

theorem headerChecks_eq_none {p : Product} {n : Nat} {h : TileHeader} (hc : headerChecks p n h = none) :
    headerBad h p.sparse p.aNum p.k = false ∧ 32 * p.aAddr + 32 * h.tsize ≤ 0x400000 := by
  have hstop := firstStop_eq_none.mp hc
  exact ⟨hstop (_, _) (List.mem_cons_self), not_lt.mp (decide_eq_false_iff_not.mp (hstop (_, _) (List.mem_cons_of_mem _ List.mem_cons_self)))⟩

theorem effective_first_depth (c : Core) (m : MatSlot) (reg : BitVec 5 → Nat) : 32 ∣ (effective c m reg).1.first.k := by
  unfold effective
  dsimp only
  split <;> exact Dvd.intro _ rfl

theorem effective_first_aAddr (c : Core) (m : MatSlot) (reg : BitVec 5 → Nat) : (effective c m reg).1.first.aAddr < 2 ^ 17 := by
  unfold effective
  dsimp only
  split <;> exact Nat.mod_lt _ (by decide)

/-- The granules of an operation that has passed R124, and R150 where its A is sparse, lie in the stores of the cores. -/
theorem stageGranules_inCore {s : State} {c : Core} {n : Nat} {bits : Nat} {csf1 : Bool} {m : MatSlot} {reg : BitVec 5 → Nat} (hn : n < 128)
    (h : matChecks c n csf1 m bits reg = none)
    (hs : (effective c m reg).1.first.sparse ≠ 0 → headerChecks (effective c m reg).1.first n (headerAt s n (effective c m reg).1.first) = none) :
    ∀ g ∈ stageGranules s n (effective c m reg).1.first true, InCore (32 * g) := by
  have hdepth := effective_first_depth c m reg
  obtain ⟨hA, hB⟩ := windows_inTile h
  generalize (effective c m reg).1.first = p at hs hdepth hA hB ⊢
  intro g hg
  refine inCore_of_mem_rangeGranules hn (InTile.append ?_ hB) hg
  by_cases hp : p.sparse = 0
  · simpa [hp] using hA hp
  · obtain ⟨hgood, hend⟩ := headerChecks_eq_none (hs hp)
    have hT : 32 ∣ (headerAt s n p).kT := Dvd.intro _ rfl
    intro r hr
    simp only [Bool.not_true, Bool.false_eq_true, if_false, hp, List.mem_map] at hr
    obtain ⟨q, hq, rfl⟩ := hr
    have := tileRanges_within hgood hdepth hT q hq
    dsimp only
    omega

end Sys2Proof.Machine
end

section
/-! SUPPORT. What the guard checks of a core's own reads leave in the module: counts of the core, counters and the log; with clean codes, nothing at all. -/

namespace Sys2Proof.Machine

/-- A core without what its guard checks count for the completion record (R541). -/
def guardAside (c : Core) : Core := { c with guardUncorr := 0, guardCorr := 0 }

/-- A step from s to t in which core n meets what its reads find, and no core changes otherwise. -/
structure Consumed (n : Nat) (s t : State) : Prop where
  length : t.cores.length = s.cores.length
  core : guardAside (getCore t n) = guardAside (getCore s n)
  others : othersKept s t n

variable {n : Nat} {s t u : State}

theorem Consumed.of_cores (h : t.cores = s.cores) : Consumed n s t :=
  ⟨by rw [h], by simp only [getCore, h], fun m _ => by simp only [getCore, h]⟩

theorem Consumed.refl (s : State) : Consumed n s s := .of_cores rfl

theorem Consumed.trans (h : Consumed n s t) (g : Consumed n t u) : Consumed n s u :=
  ⟨g.length.trans h.length, g.core.trans h.core, fun m hm => (g.others m hm).trans (h.others m hm)⟩

/-- A count of the core's own. -/
theorem Consumed.count {f : Core → Core} (hn : n < s.cores.length) (hf : ∀ c, guardAside (f c) = guardAside c) : Consumed n s (modCore s n f) :=
  ⟨modCore_cores_length .., by rw [getCore_modCore _ _ _ hn, if_pos rfl, hf], fun m hm => by rw [getCore_modCore _ _ _ hn, if_neg hm]⟩

/-- Counters, the log and what else an operation on memory may change are no core's. -/
theorem Consumed.tidy (h : Consumed n s t) (g : Tidy t u) : Consumed n s u := h.trans (.of_cores g.cores)

theorem Consumed.lt (h : Consumed n s t) (hn : n < s.cores.length) : n < t.cores.length := by rwa [h.length]

theorem consumed_corrected (hn : n < s.cores.length) : Consumed n s (modCore s n (fun c => { c with guardCorr := c.guardCorr + 1 })) := .count hn fun _ => rfl

theorem consumed_bad (hn : n < s.cores.length) (b a : Nat) :
    Consumed n s (notePoisonConsumed (modCore s n (fun c => { c with guardUncorr := c.guardUncorr + 1 })) b a n) := by
  have hcount : Consumed n s (modCore s n (fun c => { c with guardUncorr := c.guardUncorr + 1 })) := .count hn fun _ => rfl
  exact hcount.tidy (notePoisonConsumed_tidy ..)

/-- Whatever a core consumes, its own record changes in the counts alone. -/
theorem consume_consumed (hn : n < s.cores.length) (gs : List Nat) : Consumed n s (consume s n gs).2 := by
  unfold consume
  refine List.foldlRecOn gs _ (motive := fun acc : List (BitVec 8 × Nat) × State => Consumed n s acc.2) (.refl s) fun acc hacc g _ => hacc.trans ?_
  have hlen := hacc.lt hn
  have hread : Consumed n acc.2 (readGranule acc.2 g false).2.2 := .tidy (.refl _) (readGranule_tidy ..)
  have hlen' := hread.lt hlen
  dsimp only
  split
  · exact hread
  · exact hread.trans (consumed_corrected hlen')
  · exact hread.trans (consumed_bad hlen' _ _)
  · exact hread.trans (consumed_bad hlen' _ _)

/-- Granules of the cores' stores whose codes are clean are consumed without effect. -/
theorem consume_clean (hg : s.guard = []) {gs : List Nat} (hin : ∀ g ∈ gs, InCore (32 * g)) : consume s n gs = ([], s) := by
  refine foldl_fixed _ _ _ fun g hmem => ?_
  simp only [readGranule_clean false (hin g hmem) (show tget 0 s.guard g = 0 by rw [hg]; rfl)]

/-! ### The checks of a bundle whose only operation is in its matrix slot -/

/-- The sparse header's check consumes the header alone. -/
theorem sparseChecks_consumed (hn : n < s.cores.length) (c : Core) (x : MatSlot) : Consumed n s (sparseChecks s n c x).2 := by
  have hc := consume_consumed hn [(tileBase n + 32 * (effective c x (sreg c)).1.first.aAddr) / 32]
  unfold sparseChecks
  dsimp only
  split
  · exact .refl s
  · split <;> (rename_i heq; rw [heq] at hc; exact hc)

/-- With clean codes the check changes nothing, and a header that it accepts passes R150. -/
theorem sparseChecks_clean {c : Core} {x : MatSlot} (hn : n < 128) (hg : s.guard = []) (h : (sparseChecks s n c x).1 = none) :
    (sparseChecks s n c x).2 = s ∧ ((effective c x (sreg c)).1.first.sparse ≠ 0 →
      headerChecks (effective c x (sreg c)).1.first n (headerAt s n (effective c x (sreg c)).1.first) = none) := by
  have haddr := effective_first_aAddr c x (sreg c)
  have hc := consume_clean (s := s) (n := n) hg (gs := [(tileBase n + 32 * (effective c x (sreg c)).1.first.aAddr) / 32]) fun g hgm => by
    rw [List.mem_singleton.mp hgm]
    exact ⟨n, hn, .inl (by simp only [tileBase]; omega)⟩
  by_cases hs : (effective c x (sreg c)).1.first.sparse = 0
  · simp [sparseChecks, hs]
  · simp only [sparseChecks, hs, if_false, hc] at h ⊢
    exact ⟨trivial, fun _ => h⟩

end Sys2Proof.Machine
end

section
/-! SUPPORT. What the start of a product operation leaves in its core and, with clean codes, in the memories. -/

namespace Sys2Proof.Machine

variable {n : Nat} {s t u : State}

/-- A core without what the start of a product operation notes for later cycles. -/
def startAside (c : Core) : Core := { guardAside c with events := [], lastTile := none, sentryGen := 0, matOps := [], capturesInFlight := 0 }

/-- A core that has started one more operation, which keeps its matrix slot until cycle `free`. -/
def oneMore (free : Nat) (c : Core) : Core := { c with matFree := free, nextId := c.nextId + 1, productOps := c.productOps + 1 }

/-- A step from s to t that starts one product operation of core n, which keeps the matrix slot until cycle `free`. -/
structure Started (n free : Nat) (s t : State) : Prop where
  length : t.cores.length = s.cores.length
  core : startAside (getCore t n) = startAside (oneMore free (getCore s n))
  events : ∃ es, (getCore t n).events = (getCore s n).events ++ es ∧ ∀ e ∈ es, (getCore s n).cycle < e.1
  others : othersKept s t n

variable {free : Nat}

/-- What the operation's reads meet before it starts is no part of the start. -/
theorem Consumed.started (h : Consumed n s t) (g : Started n free t u) : Started n free s u where
  length := g.length.trans h.length
  core := by
    have hwith (c : Core) : startAside (oneMore free c) = startAside (oneMore free (guardAside c)) := rfl
    rw [g.core, hwith, h.core, ← hwith]
  events := by
    have hevents : (getCore t n).events = (getCore s n).events := (congrArg Core.events h.core :)
    have hcycle : (getCore t n).cycle = (getCore s n).cycle := (congrArg Core.cycle h.core :)
    simpa only [hevents, hcycle] using g.events
  others := fun m hm => (g.others m hm).trans (h.others m hm)

theorem Started.matFree (h : Started n free s t) : (getCore t n).matFree = free := (congrArg Core.matFree h.core :)

/-- Further events of the start, all of them for later cycles, and perhaps a longer use of the slot. -/
theorem Started.addEvents (h : Started n free s t) (hn : n < s.cores.length) {es : List (Nat × CoreEvent)} (hes : ∀ e ∈ es, (getCore s n).cycle < e.1)
    {f : Core → Core} {free' : Nat} (hf : f (getCore t n) = { Machine.addEvents (getCore t n) es with matFree := free' }) :
    Started n free' s (modCore t n f) := by
  have hcore : getCore (modCore t n f) n = { Machine.addEvents (getCore t n) es with matFree := free' } := by
    rw [getCore_modCore _ _ _ (by rwa [h.length]), if_pos rfl, hf]
  refine ⟨(modCore_cores_length ..).trans h.length, ?_, ?_, fun m hm => ?_⟩
  · rw [hcore]
    exact congrArg (fun c : Core => { c with matFree := free' }) h.core
  · obtain ⟨fs, hfs, hlater⟩ := h.events
    refine ⟨fs ++ es, ?_, fun e he => (List.mem_append.mp he).elim (hlater e) (hes e)⟩
    rw [hcore, ← List.append_assoc, ← hfs]
    rfl
  · rw [getCore_modCore _ _ _ (by rwa [h.length]), if_neg hm, h.others m hm]

/-! ### The start of an operation, R129 -/

theorem four_le_occupancy (p : Product) (f : Nat) : 4 ≤ p.occupancy f := Nat.le_max_right ..

/-- A product operation starts: the slot is busy for its occupancy, and its reads and writes of C are due in later cycles. -/
theorem startProduct_started (hn : n < s.cores.length) (pc : Nat) (aud : Bool) (p : Product) (a : List (List (Option F32))) (b : List (List F32)) (bytes : Nat) :
    Started n ((getCore s n).cycle + p.occupancy (numericOf p.aNum).format) s (startProduct s n pc (getCore s n).cycle aud p a b bytes) := by
  have hset (c : Core) (counted : Bool) (m : Nat) :
      getCore (setCore (if counted then count s NUMERIC 0x070 32 else s) n c) m = if m = n then c else getCore s m := by
    cases counted
    · exact getCore_setCore _ _ _ hn
    · exact getCore_setCore (s := count s NUMERIC 0x070 32) _ _ _ hn
  have hlength (c : Core) (counted : Bool) : (setCore (if counted then count s NUMERIC 0x070 32 else s) n c).cores.length = s.cores.length := by
    cases counted <;> exact List.length_set
  unfold startProduct
  dsimp only
  refine ⟨?_, ?_, ?_, fun m hm => ?_⟩
  · exact hlength _ _
  · rw [hset, if_pos rfl]
    rfl
  · rw [hset, if_pos rfl]
    refine ⟨_, rfl, fun e he => ?_⟩
    simp only [List.mem_append, List.mem_ite_nil_left, List.mem_cons, List.not_mem_nil, or_false] at he
    obtain ⟨-, rfl | rfl⟩ | rfl | rfl | rfl := he <;> dsimp only <;> omega
  · rw [hset, if_neg hm]

theorem startProduct_memory (pc c : Nat) (aud : Bool) (p : Product) (a : List (List (Option F32))) (b : List (List F32)) (bytes : Nat) :
    memoryKept s (startProduct s n pc c aud p a b bytes) := by
  unfold startProduct
  dsimp only
  split <;> exact ⟨rfl, rfl, rfl⟩

/-! ### The issue of the matrix slot -/

/-- A sparse A that is stored dense is counted as the operation issues (R153). -/
def denseCounted (s : State) (n : Nat) (p : Product) : State := if p.sparse ≠ 0 ∧ (headerAt s n p).dense then count s (CORE n) 0x0A8 32 else s

theorem denseCounted_tidy (p : Product) : Tidy s (denseCounted s n p) := tidy_ite (count_tidy ..) (.refl s)

/-- What an operation consumes as it issues (R133). -/
def consumeStage (s : State) (n : Nat) (p : Product) : List (BitVec 8 × Nat) × State :=
  consume (denseCounted s n p) n (stageGranules (denseCounted s n p) n p true)

/-- The events of what an operation consumes: halts for bad granules and for a fault in the metadata (R151). -/
def stageHalts (s : State) (n pc : Nat) (p : Product) : List (Nat × CoreEvent) :=
  let t := (getCore s n).cycle
  let u := denseCounted s n p
  poisonLater t pc (consumeStage s n p).1 ++
    if p.sparse = 0 then [] else metaHalt (headerAt s n p) (peekBytes u (tileBase n + 32 * p.aAddr) (32 * (headerAt s n p).tsize)) p t pc

theorem issueMatrix_single (pc : Nat) (aud : Bool) (p : Product) :
    issueMatrix s n pc aud ⟨p, none⟩ =
      modCore (startProduct (consumeStage s n p).2 n pc (getCore s n).cycle aud p (stageA (denseCounted s n p) n p) (stageB (denseCounted s n p) n p)
        (p.captureBytes (denseCounted s n p) n)) n (fun c => addEvents c (stageHalts s n pc p)) := rfl

theorem issueMatrix_pair (pc : Nat) (aud : Bool) (p w : Product) :
    issueMatrix s n pc aud ⟨p, some w⟩ =
      let t2 := (getCore s n).cycle + p.occupancy (numericOf p.aNum).format
      modCore (issueMatrix s n pc aud ⟨p, none⟩) n (fun c => { addEvents c [(t2, .startHalf (getCore (consumeStage s n p).2 n).nextId w pc aud)] with
        matFree := t2 + w.occupancy (numericOf w.aNum).format }) := rfl

theorem consumeStage_consumed (hn : n < s.cores.length) (p : Product) : Consumed n s (consumeStage s n p).2 := by
  have hcount : Consumed n s (denseCounted s n p) := .of_cores (denseCounted_tidy p).cores
  exact hcount.trans (consume_consumed (hcount.lt hn) _)

theorem stageHalts_later (pc : Nat) (p : Product) : ∀ e ∈ stageHalts s n pc p, (getCore s n).cycle < e.1 := by
  intro e he
  simp only [stageHalts, List.mem_append, List.mem_ite_nil_left] at he
  obtain he | ⟨-, he⟩ := he
  · obtain ⟨h, -, rfl⟩ := List.mem_map.mp he
    exact Nat.lt_succ_self _
  · unfold metaHalt at he
    split at he
    · simp at he
    · obtain rfl := List.mem_singleton.mp he
      exact Nat.lt_add_right _ (Nat.lt_add_of_pos_right (by decide))

/-- A single operation issues. -/
theorem issueMatrix_single_started (hn : n < s.cores.length) (pc : Nat) (aud : Bool) (p : Product) :
    Started n ((getCore s n).cycle + p.occupancy (numericOf p.aNum).format) s (issueMatrix s n pc aud ⟨p, none⟩) := by
  have hconsumed := consumeStage_consumed hn p
  have hcycle : (getCore (consumeStage s n p).2 n).cycle = (getCore s n).cycle := (congrArg Core.cycle hconsumed.core :)
  have hstart := startProduct_started (hconsumed.lt hn) pc aud p (stageA (denseCounted s n p) n p) (stageB (denseCounted s n p) n p)
    (p.captureBytes (denseCounted s n p) n)
  rw [hcycle] at hstart
  have hboth := hconsumed.started hstart
  rw [issueMatrix_single]
  exact hboth.addEvents hn (stageHalts_later pc p) (by rw [← hboth.matFree]; rfl)

/-- Both halves of an alternating pair issue: the slot is busy for both, and the second starts when the first leaves it (R138, R140). -/
theorem issueMatrix_pair_started (hn : n < s.cores.length) (pc : Nat) (aud : Bool) (p w : Product) :
    let t2 := (getCore s n).cycle + p.occupancy (numericOf p.aNum).format
    Started n (t2 + w.occupancy (numericOf w.aNum).format) s (issueMatrix s n pc aud ⟨p, some w⟩) ∧
      (t2, .startHalf (getCore s n).nextId w pc aud) ∈ (getCore (issueMatrix s n pc aud ⟨p, some w⟩) n).events := by
  have hid : (getCore (consumeStage s n p).2 n).nextId = (getCore s n).nextId := (congrArg Core.nextId (consumeStage_consumed hn p).core :)
  have hfirst := issueMatrix_single_started hn pc aud p
  have hlen : n < (issueMatrix s n pc aud ⟨p, none⟩).cores.length := by rw [hfirst.length]; exact hn
  have hocc := four_le_occupancy p (numericOf p.aNum).format
  rw [issueMatrix_pair, hid]
  refine ⟨hfirst.addEvents hn (fun e he => ?_) rfl, ?_⟩
  · obtain rfl := List.mem_singleton.mp he
    dsimp only
    omega
  · rw [getCore_modCore _ _ _ hlen, if_pos rfl]
    exact List.mem_append_right _ (List.mem_singleton_self _)

/-- With clean codes, the issue of an operation whose operands lie in the cores' stores leaves the memories as they are. -/
theorem issueMatrix_memory (hg : s.guard = []) (pc : Nat) (aud : Bool) (i : MatIssue) (hin : ∀ g ∈ stageGranules s n i.first true, InCore (32 * g)) :
    memoryKept s (issueMatrix s n pc aud i) := by
  obtain ⟨p, w⟩ := i
  have hcount : memoryKept s (denseCounted s n p) := by
    unfold denseCounted
    split <;> exact ⟨rfl, rfl, rfl⟩
  have hgranules : stageGranules (denseCounted s n p) n p true = stageGranules s n p true := by
    unfold denseCounted
    split <;> rfl
  have hconsume : consumeStage s n p = ([], denseCounted s n p) := by
    rw [consumeStage, hgranules]
    exact consume_clean (hcount.2.1.trans hg) hin
  have hsingle : memoryKept s (issueMatrix s n pc aud ⟨p, none⟩) := by
    obtain ⟨hmem, hguard, hnvm⟩ := hcount
    obtain ⟨hmem', hguard', hnvm'⟩ := startProduct_memory (s := denseCounted s n p) (n := n) pc (getCore s n).cycle aud p (stageA (denseCounted s n p) n p)
      (stageB (denseCounted s n p) n p) (p.captureBytes (denseCounted s n p) n)
    rw [issueMatrix_single, hconsume]
    exact ⟨hmem'.trans hmem, hguard'.trans hguard, hnvm'.trans hnvm⟩
  cases w with
  | none => exact hsingle
  | some w => exact hsingle

end Sys2Proof.Machine
end

section
/-! SUPPORT. The checks of a bundle whose only operation is in its matrix slot: that slot's own, which may meet a sparse header; the audit's registers stay. -/

namespace Sys2Proof.Machine

variable {n : Nat} {s u : State}

/-! ### The registers of the audit -/

/-- A write at one key leaves what every other key reads, whatever the form of the table. -/
theorem tget_tset_other {α : Type} [DecidableEq α] {d : α} (t : Table α) {k j : Nat} (v : α) (hj : j ≠ k) : tget d (tset d t k v) j = tget d t j := by
  induction t with
  | nil => simp only [tset]; split <;> simp [tget, Ne.symm hj]
  | cons q t ih =>
    obtain ⟨k', v'⟩ := q
    simp only [tset]
    split
    · split
      · rfl
      · simp [tget, Ne.symm hj]
    · split
      · rename_i hk
        split <;> simp [tget, hk ▸ Ne.symm hj, Ne.symm hj]
      · simp only [tget, ih]

theorem getReg_count_other {b o b' o' : Nat} (w : Nat) (h : regKey b o ≠ regKey b' o') : getReg (count s b' o' w) b o = getReg s b o := by
  rw [count, countN, if_neg (by decide), getReg, setReg, tget_tset_other _ _ h, getReg]

theorem regionOf_tile (s : State) {off : Nat} (hn : n < 128) (hoff : off < 0x400000) : regionOf s (tileBase n + off) = .tile n off := by
  have hdiv : (tileBase n + off - 0x20000000000) / 0x400000 = n := by simp only [tileBase]; omega
  have hmod : (tileBase n + off - 0x20000000000) % 0x400000 = off := by simp only [tileBase]; omega
  unfold regionOf poolBase
  simp only [hdiv, hmod, if_pos hn]
  rw [if_neg, if_neg, if_neg, if_neg, if_pos] <;> simp only [tileBase] <;> omega

/-- A read of the tile store that finds nothing uncorrectable leaves the registers of the cores. -/
theorem getReg_noteCheck_tile {off g : Nat} {r : Guard} (hn : n < 128) (hr : r ≠ .uncorrectable) (hg : regionOf s (32 * g) = .tile n off) (m o : Nat) :
    getReg (noteCheck s g r) (CORE m) o = getReg s (CORE m) o := by
  cases r with
  | clean => rfl
  | poison => rfl
  | uncorrectable => exact absurd rfl hr
  | corrected e =>
    have hpoint : checkPoint s (32 * g) = 0x14 + n / 64 := by rw [checkPoint, hg]
    have hne : ∀ p < 4096, regKey (CORE m) o ≠ regKey CHIP p := by intro p hp; simp only [regKey, CORE, CHIP]; omega
    have hcorr : getReg (noteCorr s (checkPoint s (32 * g))) (CORE m) o = getReg s (CORE m) o := by
      rw [noteCorr, getReg_count_other _ (hne _ (by decide)), getReg_count_other _ (hne _ (by omega))]
    exact hcorr

/-- The check of a header in the tile store that finds no bad granule leaves the registers of the cores. -/
theorem getReg_consume_tile {off g : Nat} (hn : n < 128) (hg : regionOf s (32 * g) = .tile n off) (h : (consume s n [g]).1 = []) (m o : Nat) :
    getReg (consume s n [g]).2 (CORE m) o = getReg s (CORE m) o := by
  have hread : readGranule s g false = ((peekGranule s g).1, (peekGranule s g).2, noteCheck s g (peekGranule s g).2) := by
    simp only [readGranule, hg]
  simp only [consume, List.foldl_cons, List.foldl_nil, hread] at h ⊢
  have hkept := getReg_noteCheck_tile (s := s) (off := off) (g := g) (r := (peekGranule s g).2) hn
  generalize (peekGranule s g).2 = r at *
  cases r with
  | clean => exact hkept (by simp) hg m o
  | corrected e => exact hkept (by simp) hg m o
  | poison => simp [addBad] at h
  | uncorrectable => simp [addBad] at h

theorem getReg_sparseChecks {c : Core} {x : MatSlot} (hn : n < 128) (h : (sparseChecks s n c x).1 = none) (m o : Nat) :
    getReg (sparseChecks s n c x).2 (CORE m) o = getReg s (CORE m) o := by
  have haddr := effective_first_aAddr c x (sreg c)
  have hgranule : 32 * ((tileBase n + 32 * (effective c x (sreg c)).1.first.aAddr) / 32) = tileBase n + 32 * (effective c x (sreg c)).1.first.aAddr := by
    simp only [tileBase]; omega
  have hkept := getReg_consume_tile (s := s) (g := (tileBase n + 32 * (effective c x (sreg c)).1.first.aAddr) / 32) hn
    (by rw [hgranule]; exact regionOf_tile s hn (by omega))
  by_cases hs : (effective c x (sreg c)).1.first.sparse = 0
  · simp [sparseChecks, hs]
  · simp only [sparseChecks, hs, if_false] at h ⊢
    split at h
    · simp at h
    · rename_i heq
      rw [heq] at hkept
      exact hkept rfl m o

theorem auditedBundle_congr {b : Bundle} (hl : (getCore u n).launch = (getCore s n).launch) (hr : ∀ o, getReg u (CORE n) o = getReg s (CORE n) o) :
    auditedBundle u n b = auditedBundle s n b := by
  simp only [auditedBundle, hl, hr]

/-! ### A bundle whose only operation is in its matrix slot -/

theorem matBundle_not_suppressed (c : Core) (tag : BitVec 16) (x : MatSlot) (k : Nat) : suppressed c (matBundle tag x) k = false := by
  simp [suppressed, predBit, matBundle, bit]

/-- The slots beside the matrix slot are empty, and pass their checks. -/
theorem slotChecks_empty {tag : BitVec 16} {x : MatSlot} {pc k : Nat} (hk : k ≠ 1) : slotChecks s n pc (matBundle tag x) k = (none, s) := by
  have hseq : seqChecks (getCore s n) n pc ⟨0, 0, 0, 0, 0, 0⟩ = none := by
    simp [seqChecks, seqCollision, seqWrites, seqAccess, firstStop]
  simp only [slotChecks, matBundle_not_suppressed]
  match k, hk with
  | 0, _ => exact congrArg (·, s) hseq
  | 2, _ | 3, _ | 4, _ | _ + 5, _ => rfl

/-- A fold over the slots that only the matrix slot moves. -/
theorem foldl_slots_mat {β : Type} {f : β → Nat → β} (h : ∀ b k, k ≠ 1 → f b k = b) (b : β) : (List.range 6).foldl f b = f b 1 := by
  simp only [range6, List.foldl_cons, List.foldl_nil]
  rw [h _ 0 (by decide), h _ 2 (by decide), h _ 3 (by decide), h _ 4 (by decide), h _ 5 (by decide)]

/-- A bundle with an operation in its matrix slot alone is encoded legally, so that its checks are those of that slot (R209). -/
theorem bundleChecks_mat {tag : BitVec 16} {x : MatSlot} {pc : Nat} (hc : isCsf1 (getCore s n) = false) (hop : x.mop = 1) (hr : x.rsvd = 0) :
    bundleChecks s n pc (matBundle tag x) = ((slotChecks s n pc (matBundle tag x) 1).1.map (fun t => ⟨t.reason, pc, 1, BitVec.ofNat 64 t.detail⟩),
      (slotChecks s n pc (matBundle tag x) 1).2) := by
  have hundefined : (List.range 6).find? (slotUndefined (matBundle tag x) false) = none := by
    simp [range6, slotUndefined, matBundle, predBit, bit, hop]
  have hreserved : (List.range 6).find? (fun k => (!suppressed (getCore s n) (matBundle tag x) k || false) && slotReserved (matBundle tag x) false k) = none := by
    simp [range6, slotReserved, matBundle, seqUses, hop, hr, vecBits, dmBits, accBits, at_]
  have hrsvd : (matBundle tag x).rsvd = 0 := rfl
  simp only [bundleChecks, hc, hundefined, hrsvd, hreserved, ne_eq, not_true_eq_false, if_false]
  refine foldl_slots_mat (fun acc k hk => ?_) _
  obtain ⟨_ | stop, t⟩ := acc
  · simp only [slotChecks_empty hk, Option.map_none]
  · rfl

/-- A matrix slot that passes its checks passes R124, and R150 where its A is sparse. -/
theorem slotChecks_mat {tag : BitVec 16} {x : MatSlot} {pc : Nat} (hc : isCsf1 (getCore s n) = false) (hop : x.mop = 1)
    (h : (slotChecks s n pc (matBundle tag x) 1).1 = none) :
    matChecks (getCore s n) n false x (matBits x) (sreg (getCore s n)) = none ∧
      slotChecks s n pc (matBundle tag x) 1 = sparseChecks s n (getCore s n) x := by
  have hmat : (matBundle tag x).mat = x := rfl
  simp only [slotChecks, matBundle_not_suppressed, hc, hmat, hop, Bool.false_eq_true, if_false, show (1 : BitVec 2) ≠ 0 by decide] at h ⊢
  cases hm : matChecks (getCore s n) n false x (matBits x) (sreg (getCore s n)) with
  | some t => simp [hm] at h
  | none => simp

/-- What a bundle of the matrix slot consumes and changes by its checks, where they pass. -/
theorem bundleChecks_mat_passes {tag : BitVec 16} {x : MatSlot} {pc : Nat} (hc : isCsf1 (getCore s n) = false) (hop : x.mop = 1) (hr : x.rsvd = 0)
    (h : (bundleChecks s n pc (matBundle tag x)).1 = none) :
    matChecks (getCore s n) n false x (matBits x) (sreg (getCore s n)) = none ∧ (sparseChecks s n (getCore s n) x).1 = none ∧
      bundleChecks s n pc (matBundle tag x) = (none, (sparseChecks s n (getCore s n) x).2) := by
  rw [bundleChecks_mat hc hop hr] at h ⊢
  have hslot : (slotChecks s n pc (matBundle tag x) 1).1 = none := Option.map_eq_none_iff.mp h
  obtain ⟨hmat, hsparse⟩ := slotChecks_mat hc hop hslot
  refine ⟨hmat, hsparse ▸ hslot, ?_⟩
  rw [hslot, hsparse]
  rfl

end Sys2Proof.Machine
end

section
/-! SUPPORT. What a still core does with a bundle whose only operation is in its matrix slot. -/

namespace Sys2Proof.Machine

variable {s u : State} {n : Fin 128} {tag : BitVec 16} {x : MatSlot}

theorem effective_congr {c d : Core} (hf : d.productFile = c.productFile) (hs : d.sregs = c.sregs) (x : MatSlot) : effective d x (sreg d) = effective c x (sreg c) := by
  have hreg : sreg d = sreg c := by funext i; simp only [sreg, hs]
  simp only [effective, hf, hreg]

/-- What the matrix slot x starts on core n (R217). -/
def issueAt (s : State) (n : Fin 128) (x : MatSlot) : MatIssue := (effective (getCore s n.val) x (sreg (getCore s n.val))).1

/-- Core c has gone on to the bundle after the one at pc, in order or by its loops (R207, R234). -/
def movedOn (loops : List LoopFrame) (pc : Nat) (c : Core) : Core :=
  { c with pc := (afterBundle loops pc).1, loops := (afterBundle loops pc).2, bundles := c.bundles + 1, breakExempt := false }

/-- A bundle of the matrix slot takes effect: the slot's operation issues, and the core moves on (R207). -/
theorem performBundle_mat (pc : Nat) (hop : x.mop = 1) (ha : auditedBundle s n.val (matBundle tag x) = false) :
    performBundle s n.val pc (matBundle tag x) =
      (false, modCore (issueMatrix s n.val pc false (issueAt s n x)) n.val (movedOn (getCore s n.val).loops pc)) := by
  simp only [performBundle, matBundle_not_suppressed, ha]
  simp [matBundle, hop, nextBundle, seqEffect]
  rfl

/-- The state in which a still core's matrix slot takes effect: its cycle has begun, and the slot's checks have met a sparse header. -/
def checkedState (s : State) (n : Fin 128) (x : MatSlot) : State :=
  (sparseChecks (clearPorts s n.val) n.val (getCore (clearPorts s n.val) n.val) x).2

theorem checkedState_consumed (hn : n.val < s.cores.length) : Consumed n.val (clearPorts s n.val) (checkedState s n x) :=
  sparseChecks_consumed ((modCore_cores_length ..).symm ▸ hn) _ _

/-- A core without the uses of its ports' banks in the cycle. -/
def portsAside (c : Core) : Core := { c with ports := [], portsAt := 0 }

/-- A core without what the checks of an issue may change of it: those uses, and its counts of guard checks. -/
def checkAside (c : Core) : Core := portsAside (guardAside c)

/-- What an issue reads of its core is what it was before the checks. -/
theorem checkAside_fields {c d : Core} (h : checkAside d = checkAside c) :
    d.productFile = c.productFile ∧ d.sregs = c.sregs ∧ d.loops = c.loops ∧ d.launch = c.launch :=
  ⟨(congrArg Core.productFile h :), (congrArg Core.sregs h :), (congrArg Core.loops h :), (congrArg Core.launch h :)⟩

theorem clearPorts_core (hn : n.val < s.cores.length) : checkAside (getCore (clearPorts s n.val) n.val) = checkAside (getCore s n.val) := by
  rw [getCore_clear hn]
  rfl

theorem checkedState_core (hn : n.val < s.cores.length) : checkAside (getCore (checkedState s n x) n.val) = checkAside (getCore s n.val) :=
  (congrArg portsAside (checkedState_consumed hn).core).trans (clearPorts_core hn)

theorem checkAside_effective {c d : Core} (h : checkAside d = checkAside c) (x : MatSlot) : effective d x (sreg d) = effective c x (sreg c) := by
  obtain ⟨hfile, hregs, -, -⟩ := checkAside_fields h
  exact effective_congr hfile hregs x

theorem issueAt_checked (hn : n.val < s.cores.length) : issueAt (checkedState s n x) n x = issueAt s n x :=
  congrArg Prod.fst (checkAside_effective (checkedState_core hn) x)

/-- What a still core does with a bundle whose only operation is in its matrix slot: the slot's effect, and the move to the next bundle. -/
theorem mat_issue (h : StillAt s n (matBundle tag x)) (hop : x.mop = 1) (hr : x.rsvd = 0)
    (hc : (bundleChecks (clearPorts s n.val) n.val (getCore s n.val).pc (matBundle tag x)).1 = none) :
    issueBundle (clearPorts s n.val) n.val (matBundle tag x) none =
      ([], modCore (issueMatrix (checkedState s n x) n.val (getCore s n.val).pc false (issueAt s n x)) n.val
        (movedOn (getCore s n.val).loops (getCore s n.val).pc)) := by
  have hn := stillAt_len h
  obtain ⟨-, ⟨-, -, -, -, -, hcsf, hfiles⟩, -, haudit⟩ := stillAt_clear h
  obtain ⟨-, hsparse, hchecks⟩ := bundleChecks_mat_passes hcsf hop hr hc
  obtain ⟨-, -, hloops, hlaunch⟩ := checkAside_fields (checkedState_core (x := x) hn)
  have hlaunch := hlaunch.trans (checkAside_fields (clearPorts_core hn)).2.2.2.symm
  have hunaudited : auditedBundle (checkedState s n x) n.val (matBundle tag x) = false :=
    (auditedBundle_congr hlaunch fun o => getReg_sparseChecks n.isLt hsparse _ _).trans haudit
  have hpc : (getCore (clearPorts s n.val) n.val).pc = (getCore s n.val).pc := by rw [getCore_clear hn]
  have hsop : (matBundle tag x).seq.sop ≠ 3 := by simp [matBundle]
  have hperform := performBundle_mat (s := checkedState s n x) (getCore s n.val).pc hop hunaudited
  rw [issueAt_checked hn, hloops] at hperform
  simp only [issueBundle, meetFiles_none hfiles, hpc, hchecks]
  rw [show (sparseChecks (clearPorts s n.val) n.val (getCore (clearPorts s n.val) n.val) x).2 = checkedState s n x from rfl, hunaudited, hperform]
  simp only [Bool.false_eq_true, if_false, Option.toList_none, List.append_nil, if_neg hsop]
  rw [List.find?_eq_none.mpr (by simp)]

end Sys2Proof.Machine
end

section
/-! SUPPORT. The cycle in which a product operation issues, and the statement on the three operations (O11). -/

namespace Sys2Proof.Machine

variable {s : State} {n : Fin 128} {tag : BitVec 16} {x : MatSlot} {free : Nat}

/-- A core without what the issue of its matrix slot leaves in it beside the announced fields. -/
def issueAside (c : Core) : Core := portsAside (startAside c)

/-- Nothing of a core is due, in flight or queued: its cycle ends with its count alone. -/
structure Calm (c : Core) : Prop where
  later : Later c
  passes : c.passes = []
  loaded : c.nextLoaded = []
  queues : c.queues = []
  waiting : c.waiting = []
  moves0 : c.mover0.moves = []
  moves1 : c.mover1.moves = []

/-- The cycle in which a still core is given a bundle that leaves it calm, and moves on. -/
theorem issueRow_movedOn {b : Bundle} {v : State} {loops : List LoopFrame} {pc : Nat} (h : StillAt s n b)
    (hi : issueBundle (clearPorts s n.val) n.val b none = ([], modCore v n.val (movedOn loops pc))) (hn : n.val < v.cores.length) (hc : Calm (getCore v n.val)) :
    ∃ t, issueRow s n b = .next t ∧ othersKept v t n.val ∧ memoryKept v t ∧
      portsAside (getCore t n.val) = portsAside { movedOn loops pc (getCore v n.val) with cycle := (getCore v n.val).cycle + 1 } := by
  have hmoved : getCore (modCore v n.val (movedOn loops pc)) n.val = movedOn loops pc (getCore v n.val) := by rw [getCore_modCore _ _ _ hn, if_pos rfl]
  have hn' : n.val < (modCore v n.val (movedOn loops pc)).cores.length := by rwa [modCore_cores_length]
  refine ⟨_, issueRow_still h hi hn' (hmoved ▸ hc.later) (hmoved ▸ hc.passes) (hmoved ▸ hc.loaded) (hmoved ▸ hc.queues) (hmoved ▸ hc.waiting),
    fun m hm => ?_, ⟨rfl, rfl, rfl⟩, ?_⟩
  · rw [getCore_modCore _ _ _ hn', if_neg hm, getCore_modCore _ _ _ hn, if_neg hm]
  · rw [getCore_modCore _ _ _ hn', if_pos rfl, hmoved, dropMoves_calm]
    · rfl
    · exact hc.moves0
    · exact hc.moves1

/-- What the statements read of a core that has issued an operation, and what keeps its next cycles calm. -/
theorem issueAside_fields {c d : Core} (h : issueAside d = issueAside (oneMore free c)) :
    d.bundles = c.bundles ∧ d.cycle = c.cycle ∧ d.sregs = c.sregs ∧ d.productOps = c.productOps + 1 ∧ d.vecFree = c.vecFree ∧ d.matFree = free := by
  simp only [issueAside, portsAside, startAside, guardAside, oneMore] at h
  exact ⟨(congrArg Core.bundles h :), (congrArg Core.cycle h :), (congrArg Core.sregs h :), (congrArg Core.productOps h :), (congrArg Core.vecFree h :),
    (congrArg Core.matFree h :)⟩

theorem issueAside_calm {c d : Core} (h : issueAside d = issueAside (oneMore free c)) :
    d.passes = c.passes ∧ d.nextLoaded = c.nextLoaded ∧ d.queues = c.queues ∧ d.waiting = c.waiting ∧ d.mover0 = c.mover0 ∧ d.mover1 = c.mover1 := by
  simp only [issueAside, portsAside, startAside, guardAside, oneMore] at h
  exact ⟨(congrArg Core.passes h :), (congrArg Core.nextLoaded h :), (congrArg Core.queues h :), (congrArg Core.waiting h :), (congrArg Core.mover0 h :),
    (congrArg Core.mover1 h :)⟩

theorem issueAside_of_checkAside {c d e : Core} (h : checkAside d = checkAside c)
    (g : startAside e = startAside (oneMore free d)) :
    issueAside e = issueAside (oneMore free c) := by
  have hwith (a : Core) : issueAside (oneMore free a) = issueAside (oneMore free (checkAside a)) := rfl
  rw [issueAside, g, ← issueAside, hwith, h, ← hwith]

theorem checkAside_clock {c d : Core} (h : checkAside d = checkAside c) : d.events = c.events ∧ d.cycle = c.cycle ∧ d.nextId = c.nextId :=
  ⟨(congrArg Core.events h :), (congrArg Core.cycle h :), (congrArg Core.nextId h :)⟩

/-- The start of an operation leaves a still core calm: its events are all for later cycles. -/
theorem Started.calm {u v : State} (hs : Still (getCore s n.val)) (hcore : checkAside (getCore u n.val) = checkAside (getCore s n.val))
    (h : Started n.val free u v) : Calm (getCore v n.val) := by
  have hfields := issueAside_of_checkAside hcore h.core
  obtain ⟨hpasses, hloaded, hqueues, hwaiting, hmover0, hmover1⟩ := issueAside_calm hfields
  obtain ⟨-, hcycle, -⟩ := issueAside_fields hfields
  obtain ⟨-, -, -, -, hevents₀, hpasses₀, hloaded₀, hqueues₀, hwaiting₀, hmoves0, hmoves1, -⟩ := still_fields hs
  refine ⟨?_, hpasses.trans hpasses₀, hloaded.trans hloaded₀, hqueues.trans hqueues₀, hwaiting.trans hwaiting₀, hmover0 ▸ hmoves0, hmover1 ▸ hmoves1⟩
  obtain ⟨es, hes, hlater⟩ := h.events
  obtain ⟨hevents, hclock, -⟩ := checkAside_clock hcore
  rw [hevents, hevents₀, List.nil_append] at hes
  intro e he
  rw [hcycle, ← hclock]
  exact hlater e (hes ▸ he)

/-- What the product operations have in common of the states before and after their issue. -/
def ProductIssued (s t : State) (n : Fin 128) (free : Nat) : Prop :=
  let c := getCore s n.val
  let d := getCore t n.val
  (d.pc = (afterBundle c.loops c.pc).1 ∧ d.bundles = c.bundles + 1 ∧ d.cycle = c.cycle + 1 ∧ d.sregs = c.sregs ∧ d.productOps = c.productOps + 1 ∧
    d.vecFree = c.vecFree ∧ othersKept s t n.val ∧ (s.guard = [] → memoryKept s t)) ∧ d.matFree = free

/-- With clean codes, the operation's issue leaves the memories: its checks have placed all it reads in the core's tile store. -/
theorem issueMatrix_checked_memory (h : StillAt s n (matBundle tag x)) (hop : x.mop = 1) (hr : x.rsvd = 0)
    (hc : (bundleChecks (clearPorts s n.val) n.val (getCore s n.val).pc (matBundle tag x)).1 = none) (hg : s.guard = []) (pc : Nat) :
    memoryKept s (issueMatrix (checkedState s n x) n.val pc false (issueAt s n x)) := by
  obtain ⟨-, ⟨-, -, -, -, -, hcsf, -⟩, -, -⟩ := stillAt_clear h
  obtain ⟨hmat, hsparse, -⟩ := bundleChecks_mat_passes hcsf hop hr hc
  have hclear : (clearPorts s n.val).guard = [] := hg
  obtain ⟨hsame, hheader⟩ := sparseChecks_clean n.isLt hclear hsparse
  have hgranules := stageGranules_inCore n.isLt hmat hheader
  rw [checkAside_effective (clearPorts_core (stillAt_len h)) x, ← issueAt] at hgranules
  rw [checkedState, hsame]
  exact issueMatrix_memory hclear pc false _ hgranules

/-- A still core issues an operation in its matrix slot: what the operation starts, the core keeps, and it moves on to the next bundle. -/
theorem issueRow_mat (h : StillAt s n (matBundle tag x)) (hop : x.mop = 1) (hr : x.rsvd = 0) (hi : issues s n (matBundle tag x))
    (hstart : Started n.val free (checkedState s n x)
      (issueMatrix (checkedState s n x) n.val (getCore s n.val).pc false (issueAt s n x))) :
    ∃ t, issueRow s n (matBundle tag x) = .next t ∧ ProductIssued s t n free ∧ (getCore t n.val).events =
      (getCore (issueMatrix (checkedState s n x) n.val (getCore s n.val).pc false (issueAt s n x)) n.val).events := by
  have hn := stillAt_len h
  have hissue := mat_issue h hop hr hi.1
  have hmemory (hg : s.guard = []) := issueMatrix_checked_memory h hop hr hi.1 hg (getCore s n.val).pc
  have hlength : (checkedState s n x).cores.length = s.cores.length := (checkedState_consumed hn).length.trans (modCore_cores_length ..)
  have hcore := checkedState_core (x := x) hn
  have hothers : othersKept s (checkedState s n x) n.val := fun m hm =>
    ((checkedState_consumed hn).others m hm).trans (by rw [clearPorts, getCore_modCore _ _ _ hn, if_neg hm])
  generalize checkedState s n x = u at *
  generalize issueMatrix u n.val (getCore s n.val).pc false (issueAt s n x) = v at *
  have hlen : n.val < v.cores.length := by rw [hstart.length, hlength]; exact hn
  have hfields := issueAside_of_checkAside hcore hstart.core
  obtain ⟨hbundles, hcycle, hsregs, hops, hvec, hfree⟩ := issueAside_fields hfields
  have hcalm : Calm (getCore v n.val) := hstart.calm h.2.1 hcore
  obtain ⟨t, hrow, hkept, hmem, hlast⟩ := issueRow_movedOn h hissue hlen hcalm
  have hothers' : othersKept s t n.val := fun m hm => ((hkept m hm).trans (hstart.others m hm)).trans (hothers m hm)
  have hmemory' (hg : s.guard = []) : memoryKept s t := by
    obtain ⟨hm, hgd, hv⟩ := hmemory hg
    exact ⟨hmem.1.trans hm, hmem.2.1.trans hgd, hmem.2.2.trans hv⟩
  refine ⟨t, hrow, ⟨⟨(congrArg Core.pc hlast :), ?_, ?_, ?_, ?_, ?_, hothers', hmemory'⟩, ?_⟩, (congrArg Core.events hlast :)⟩
  · exact (congrArg Core.bundles hlast :).trans (congrArg (· + 1) hbundles)
  · exact (congrArg Core.cycle hlast :).trans (congrArg (· + 1) hcycle)
  · exact (congrArg Core.sregs hlast :).trans hsregs
  · exact (congrArg Core.productOps hlast :).trans hops
  · exact (congrArg Core.vecFree hlast :).trans hvec
  · exact (congrArg Core.matFree hlast :).trans hfree

/-! ### The three operations -/

theorem issueAt_single (h : slotOp s n (matBundle tag x) ≠ 2) : issueAt s n x = ⟨(issueAt s n x).first, none⟩ := by
  have hop : (productOf (tget 0 (getCore s n.val).productFile x.e.toNat)).op ≠ 2 := h
  simp only [issueAt, effective, if_neg hop]

/-- One product operation issues. -/
theorem issueRow_single (h : StillAt s n (matBundle tag x)) (hop : x.mop = 1) (hr : x.rsvd = 0) (hi : issues s n (matBundle tag x))
    (hslot : slotOp s n (matBundle tag x) ≠ 2) :
    ∃ t, issueRow s n (matBundle tag x) = .next t ∧ ProductIssued s t n ((getCore s n.val).cycle +
      (issueAt s n x).first.occupancy (numericOf (issueAt s n x).first.aNum).format) := by
  have hn := stillAt_len h
  have hsingle := issueAt_single hslot
  have hclock := (checkAside_clock (checkedState_core (x := x) hn)).2.1
  have hlen : n.val < (checkedState s n x).cores.length := (checkedState_consumed hn).lt ((modCore_cores_length ..).symm ▸ hn)
  have hstart := issueMatrix_single_started hlen (getCore s n.val).pc false (issueAt s n x).first
  rw [← hsingle, hclock] at hstart
  obtain ⟨t, hrow, hissued, -⟩ := issueRow_mat h hop hr hi hstart
  exact ⟨t, hrow, hissued⟩

/-- An alternating pair issues. -/
theorem issueRow_pair {w : Product} (h : StillAt s n (matBundle tag x)) (hop : x.mop = 1) (hr : x.rsvd = 0) (hi : issues s n (matBundle tag x))
    (hw : (issueAt s n x).second = some w) :
    let p := (issueAt s n x).first
    let t2 := (getCore s n.val).cycle + p.occupancy (numericOf p.aNum).format
    ∃ t, issueRow s n (matBundle tag x) = .next t ∧ ProductIssued s t n (t2 + w.occupancy (numericOf w.aNum).format) ∧
      (t2, .startHalf (getCore s n.val).nextId w (getCore s n.val).pc false) ∈ (getCore t n.val).events := by
  have hn := stillAt_len h
  have hboth : issueAt s n x = ⟨(issueAt s n x).first, some w⟩ := by rw [← hw]
  obtain ⟨-, hclock, hid⟩ := checkAside_clock (checkedState_core (x := x) hn)
  have hlen : n.val < (checkedState s n x).cores.length := (checkedState_consumed hn).lt ((modCore_cores_length ..).symm ▸ hn)
  obtain ⟨hstart, hhalf⟩ := issueMatrix_pair_started hlen (getCore s n.val).pc false (issueAt s n x).first w
  rw [← hboth, hclock] at hstart
  rw [← hboth, hclock, hid] at hhalf
  obtain ⟨t, hrow, hissued, hevents⟩ := issueRow_mat h hop hr hi hstart
  exact ⟨t, hrow, hissued, hevents ▸ hhalf⟩

theorem withMat_matBundle (hop : x.mop = 1) : withMat (matBundle tag x) = matBundle tag x := by
  simp only [withMat, matBundle, ← hop]

/-- Settles O11: the slot's checks and its operand reads leave the core but for its guard counts, the operation starts with its events in later cycles, and
the core moves on; with clean codes, operands that passed R124 and R150 are read from the tile store without effect. -/
theorem productsIssue : Obligations.ProductsIssue := by
  unfold Obligations.ProductsIssue
  intro s n tag x
  dsimp only
  intro hop hr h hi
  have hexec1 : exec (.productOperation n (matBundle tag x)) s =
      if slotOp s n (matBundle tag x) = 1 ∨ slotOp s n (matBundle tag x) = 2 then .next s else issueRow s n (withMat (matBundle tag x)) := rfl
  have hexec2 : exec (.statisticsProduct n (matBundle tag x)) s =
      if slotOp s n (matBundle tag x) = 1 then issueRow s n (withMat (matBundle tag x)) else .next s := rfl
  have hexec3 : exec (.alternatingPair n (matBundle tag x)) s =
      if slotOp s n (matBundle tag x) = 2 then issueRow s n (withMat (matBundle tag x)) else .next s := rfl
  rw [withMat_matBundle hop] at hexec1 hexec2 hexec3
  refine ⟨fun hslot => ?_, fun hslot => ?_, fun w hslot hw => ?_⟩
  · rw [hexec1, if_neg (by simp [hslot])]
    exact issueRow_single h hop hr hi (by simp [hslot])
  · rw [hexec2, if_pos hslot]
    exact issueRow_single h hop hr hi (by simp [hslot])
  · rw [hexec3, if_pos hslot]
    obtain ⟨t, hrow, ⟨hafter, hfree⟩, hhalf⟩ := issueRow_pair h hop hr hi hw
    exact ⟨t, hrow, hafter, hfree, hhalf⟩

end Sys2Proof.Machine
end

section
/-! SUPPORT. Bundles whose only operation is in their accumulator slot, what ZERO stores, and the statement on ZERO and COPY (O9). -/

namespace Sys2Proof.Machine

/-! ### The checks of the accumulator slot alone -/

section
variable {s : State} {n : Nat} {tag : BitVec 16} {x : AccSlot}

theorem accBundle_not_suppressed (c : Core) (tag : BitVec 16) (x : AccSlot) (k : Nat) : suppressed c (accBundle tag x) k = false := by
  simp [suppressed, predBit, accBundle, bit]

/-- A ZERO or COPY encoded legally, each of whose tiles lies in the accumulator store (R209, R220). -/
structure LegalTiles (x : AccSlot) : Prop where
  op : x.aop = 1 ∧ x.src = 0 ∨ x.aop = 2
  rsvd : x.rsvd = 0
  dst : x.dst.toNat + x.n.toNat ≤ 63
  src : x.aop = 2 → x.src.toNat + x.n.toNat ≤ 63

/-- A free slot takes such an operation. -/
theorem accChecks_pass {c : Core} (hfree : c.accFree ≤ c.cycle) (hx : LegalTiles x) : accChecks c x = none := by
  obtain ⟨-, -, hdst, hsrc⟩ := hx
  have hcopy : (x.aop == 2 && decide (63 < x.src.toNat + x.n.toNat)) = false := by
    rw [Bool.and_eq_false_imp]
    intro h
    simpa using hsrc (eq_of_beq h)
  simp only [accChecks, firstStop, hcopy, decide_eq_true_eq, Bool.false_eq_true, Nat.not_lt.mpr hfree, Nat.not_lt.mpr hdst, if_false]

/-- Where the accumulator slot passes its checks, every slot does: the others are empty. -/
theorem slotChecks_acc {pc k : Nat} (hpass : accChecks (getCore s n) x = none) : slotChecks s n pc (accBundle tag x) k = (none, s) := by
  have hseq : seqChecks (getCore s n) n pc ⟨0, 0, 0, 0, 0, 0⟩ = none := by
    simp [seqChecks, seqCollision, seqWrites, seqAccess, firstStop]
  simp only [slotChecks, accBundle_not_suppressed]
  match k with
  | 0 => exact congrArg (·, s) hseq
  | 1 | 2 | 3 | 4 => rfl
  | k + 5 =>
    have hacc : (accBundle tag x).acc = x := rfl
    simp [hacc, hpass]

/-- A ZERO or COPY alone in its bundle passes the bundle's checks where its slot is free (R209). -/
theorem bundleChecks_acc {pc : Nat} (hc : isCsf1 (getCore s n) = false) (hx : LegalTiles x) (hfree : (getCore s n).accFree ≤ (getCore s n).cycle) :
    bundleChecks s n pc (accBundle tag x) = (none, s) := by
  have hpass := accChecks_pass hfree hx
  obtain ⟨hop, hrsvd, -, -⟩ := hx
  have hundefined : (List.range 6).find? (slotUndefined (accBundle tag x) false) = none := by
    obtain ⟨h, -⟩ | h := hop <;> simp [range6, slotUndefined, accBundle, predBit, bit, h]
  have hreserved : (List.range 6).find? (fun k => (!suppressed (getCore s n) (accBundle tag x) k || false) && slotReserved (accBundle tag x) false k) = none := by
    obtain ⟨h, hsrc⟩ | h := hop
    · simp [range6, slotReserved, accBundle, seqUses, matBits, vecBits, dmBits, at_, hrsvd, h, hsrc]
    · simp [range6, slotReserved, accBundle, seqUses, matBits, vecBits, dmBits, at_, hrsvd, h]
  have hbits : (accBundle tag x).rsvd = 0 := rfl
  simp only [bundleChecks, hc, hundefined, hbits, hreserved, ne_eq, not_true_eq_false, if_false]
  exact foldl_fixed _ _ _ fun k _ => by simp only [slotChecks_acc hpass, Option.map_none]

end

/-! ### The issue of the accumulator slot on a still core -/

section
variable {s : State} {n : Fin 128} {tag : BitVec 16} {x : AccSlot}

/-- The access of the slot to half h of its tile j, after an issue at pc in cycle t. -/
def accAccess (x : AccSlot) (pc t j h : Nat) : CoreEvent :=
  if x.aop = 1 then .zeroHalf (x.dst.toNat + j) h pc t false else .copyHalf (x.src.toNat + j) (x.dst.toNat + j) h pc t false

/-- The accesses of the slot after an issue in cycle t: one tile every two cycles, half by half (R220). -/
def accSchedule (x : AccSlot) (pc t : Nat) : List (Nat × CoreEvent) :=
  (List.range (x.n.toNat + 1)).flatMap fun j => [(t + 1 + 2 * j, accAccess x pc t j 0), (t + 2 + 2 * j, accAccess x pc t j 1)]

/-- The cycle from which the slot is free again after an issue in cycle t (R220). -/
def accEnd (x : AccSlot) (t : Nat) : Nat := t + 2 * (x.n.toNat + 1) + if x.aop = 2 then 1 else 0

/-- The effect of the slot is its schedule and its occupancy. -/
theorem accEffect_eq (s : State) (m pc : Nat) (x : AccSlot) :
    accEffect s m pc x false = modCore s m (fun c => addEvents { c with accFree := accEnd x c.cycle } (accSchedule x pc c.cycle)) := by
  have hsecond (t j : Nat) : t + 1 + 2 * j + 1 = t + 2 + 2 * j := by omega
  simp only [accEffect, accSchedule, accAccess, accEnd, hsecond, Nat.add_zero]
  by_cases hzero : x.aop = 1 <;> simp only [hzero, if_true, if_false]

theorem accSchedule_later {pc t : Nat} : ∀ e ∈ accSchedule x pc t, t < e.1 := by
  intro e he
  simp only [accSchedule, List.mem_flatMap, List.mem_cons, List.not_mem_nil, or_false] at he
  obtain ⟨j, -, rfl | rfl⟩ := he <;> dsimp only <;> omega

/-- A bundle of the accumulator slot takes effect: the slot's accesses are on their way, and the core moves on (R207). -/
theorem performBundle_acc (pc : Nat) (hop : x.aop ≠ 0) (ha : auditedBundle s n.val (accBundle tag x) = false) :
    performBundle s n.val pc (accBundle tag x) = (false, modCore (accEffect s n.val pc x false) n.val (movedOn (getCore s n.val).loops pc)) := by
  have hop' : ¬ x.aop = 0#3 := hop
  simp only [performBundle, accBundle_not_suppressed, ha]
  simp [accBundle, hop', nextBundle, seqEffect]
  rfl

/-- What a still core whose accumulator slot is free does with a bundle of that slot. -/
theorem acc_issue (h : StillAt s n (accBundle tag x)) (hx : LegalTiles x) (hfree : (getCore s n.val).accFree ≤ (getCore s n.val).cycle) :
    issueBundle s n.val (accBundle tag x) none =
      ([], modCore (accEffect s n.val (getCore s n.val).pc x false) n.val (movedOn (getCore s n.val).loops (getCore s n.val).pc)) := by
  obtain ⟨-, ⟨-, -, -, -, -, hcsf, hfiles⟩, -, haudit⟩ := h
  have hop : x.aop ≠ 0 := by obtain ⟨h, -⟩ | h := hx.op <;> simp [h]
  have hsop : (accBundle tag x).seq.sop ≠ 3 := by simp [accBundle]
  simp only [issueBundle, meetFiles_none hfiles, bundleChecks_acc hcsf hx hfree, haudit, performBundle_acc _ hop haudit]
  simp only [Bool.false_eq_true, if_false, Option.toList_none, List.append_nil, if_neg hsop]
  rw [List.find?_eq_none.mpr (by simp)]

/-- A still core issues ZERO or COPY: it moves on with the slot's accesses to come, and the slot is busy until they are made. -/
theorem issueRow_acc (h : StillAt s n (accBundle tag x)) (hx : LegalTiles x) (hfree : (getCore s n.val).accFree ≤ (getCore s n.val).cycle) :
    issueRow s n (accBundle tag x) = .next (modCore (issued s n (accSchedule x (getCore s n.val).pc (getCore s n.val).cycle)) n.val
      (fun c => { c with accFree := accEnd x (getCore s n.val).cycle })) := by
  have hn := stillAt_len h
  have hn' : n.val < (clearPorts s n.val).cores.length := stillAt_len (stillAt_clear h)
  have hclear := getCore_clear hn
  have hpc : (getCore (clearPorts s n.val) n.val).pc = (getCore s n.val).pc := by rw [hclear]
  have hloops : (getCore (clearPorts s n.val) n.val).loops = (getCore s n.val).loops := by rw [hclear]
  obtain ⟨-, -, -, -, hevents, hpasses, hloaded, hqueues, hwaiting, hmoves0, hmoves1, -⟩ := still_fields h.2.1
  have hissue := acc_issue (stillAt_clear h) hx (by rwa [hclear])
  rw [accEffect_eq, hpc, hloops, modCore_modCore _ _ _ hn', clearPorts, modCore_modCore _ _ _ hn] at hissue
  have hlast (f : Core → Core) : getCore (modCore s n.val f) n.val = f (getCore s n.val) := by rw [getCore_modCore _ _ _ hn, if_pos rfl]
  refine (issueRow_still h hissue (by rwa [modCore_cores_length]) ?later ((congrArg Core.passes (hlast _)).trans hpasses)
    ((congrArg Core.nextLoaded (hlast _)).trans hloaded) ((congrArg Core.queues (hlast _)).trans hqueues)
    ((congrArg Core.waiting (hlast _)).trans hwaiting)).trans ?state
  case later => simpa [hlast, movedOn, addEvents, hevents, Later] using accSchedule_later
  case state =>
    rw [modCore_modCore _ _ _ hn, issued]
    simp only [modCore, setCore_setCore, getCore_setCore _ _ _ hn, if_true]
    rw [dropMoves_calm (by exact hmoves0) (by exact hmoves1)]
    simp [movedOn, addEvents, hevents, portsNow]

end

/-! ### The stores of ZERO -/

section
variable {s : State}

/-- Zeros stored granule by granule are one store of zeros. -/
theorem mem_zeroGranules (s : State) (g k : Nat) :
    ((List.range k).foldl (fun s i => storeGranule s (g + i) (List.replicate 32 0) false) s).mem = tsetList 0 s.mem (32 * g) (List.replicate (32 * k) 0) := by
  induction k with
  | zero => rfl
  | succ k ih =>
    have hsplit : List.replicate (32 * (k + 1)) (0 : Byte) = List.replicate (32 * k) 0 ++ List.replicate 32 0 := by
      rw [List.replicate_append_replicate]; rfl
    rw [List.range_succ, List.foldl_append, List.foldl_cons, List.foldl_nil, storeGranule_mem, putBytes, ih, hsplit, tsetList_append, List.length_replicate,
      Nat.mul_add]

/-- A half of a tile that ZERO clears reads zero, and every other byte of local memory is as before. -/
theorem tget_mem_zeroHalf (h : twf 0 s.mem = true) (n tile half pc t : Nat) (ws : List ScatterWrite) (a : Nat) :
    tget 0 (doWrite n (.zeroHalf tile half pc t false) (ws, s)).2.mem a =
      if accTileAddr n tile half ≤ a ∧ a < accTileAddr n tile half + 4096 then 0 else tget 0 s.mem a := by
  have hgranule : 32 * (accTileAddr n tile half / 32) = accTileAddr n tile half := by
    unfold accTileAddr accBase; omega
  have hmem : (doWrite n (.zeroHalf tile half pc t false) (ws, s)).2.mem = tsetList 0 s.mem (accTileAddr n tile half) (List.replicate 4096 0) := by
    have := mem_zeroGranules s (accTileAddr n tile half / 32) 128
    rwa [hgranule] at this
  rw [hmem, tget_tsetList h, List.length_replicate]
  split
  · exact List.getD_replicate _ (by omega)
  · rfl

end

/-! ### The statement -/

/-- Settles O9: ZERO and COPY have one issue rule and differ in their schedule; a half of a tile is cleared granule by granule. -/
theorem tileOperations : Obligations.TileOperations := by
  refine ⟨fun s n tag dst src k hfree hdst => ⟨fun h => ?zero, fun hsrc h => ?copy⟩, fun s n tile half pc t ws hmem => ?clears⟩
  case zero => exact issueRow_acc h ⟨.inl ⟨rfl, rfl⟩, rfl, hdst, by simp⟩ hfree
  case copy => exact issueRow_acc h ⟨.inr rfl, rfl, hdst, fun _ => hsrc⟩ hfree
  case clears => exact tget_mem_zeroHalf hmem n.val tile.val half.val pc t ws

end Sys2Proof.Machine
end

section
/-! SUPPORT. The debug commands of a core and the record of a halted one, and the statement on both (O16). -/

namespace Sys2Proof.Machine

/-! ### The debug commands, R269 to R271 -/

section
variable {s : State} {n : Fin 128}

theorem exec_resume (hr : running s = true) : exec (.resume n) s = .next (debugCommand s n.val 1) := congrArg Host.Outcome.next (powered_running hr _)

theorem exec_abort (hr : running s = true) : exec (.abort n) s = .next (debugCommand s n.val 2) := congrArg Host.Outcome.next (powered_running hr _)

theorem exec_sregWrite (hr : running s = true) (i : Fin 32) (v : Word64) : exec (.sregWrite n i v) s = .next (writeSregWindow s n.val i.val v) :=
  congrArg Host.Outcome.next (powered_running hr _)

theorem debugCommand_resume_refused (h : mayResume (getCore s n.val) = false) :
    debugCommand s n.val 1 = setCore s n.val { getCore s n.val with debugReject := true } := by
  simp [debugCommand, h, modCore]

/-- An accepted RESUME of a core that broke at a bundle goes on there, and the bundle is exempt from breaks. -/
theorem debugCommand_resume_bundle (h : mayResume (getCore s n.val) = true) (hb : (getCore s n.val).resumeAtBarrier = false) :
    debugCommand s n.val 1 = setCore s n.val
      { getCore s n.val with debugReject := false, halt := ⟨0, 0, 0, 0⟩, resumed := true, brk := none, breakRequest := none, run := .running, breakExempt := true } := by
  simp only [debugCommand, modCore, h, hb]
  rfl

/-- An accepted RESUME of a core that broke at a barrier waits there again. -/
theorem debugCommand_resume_barrier (h : mayResume (getCore s n.val) = true) (hb : (getCore s n.val).resumeAtBarrier = true) :
    debugCommand s n.val 1 = setCore s n.val
      { getCore s n.val with debugReject := false, halt := ⟨0, 0, 0, 0⟩, resumed := true, brk := none, breakRequest := none, run := .atBarrier,
                             resumeAtBarrier := false } := by
  simp only [debugCommand, modCore, h, hb]
  rfl

theorem debugCommand_abort_refused (h : isHalted (getCore s n.val) = false) :
    debugCommand s n.val 2 = setCore s n.val { getCore s n.val with debugReject := true } := by
  simp [debugCommand, h, modCore]

theorem debugCommand_abort (h : isHalted (getCore s n.val) = true) :
    debugCommand s n.val 2 = setCore s n.val { getCore s n.val with debugReject := false, run := .idle, halt := ⟨0, 0, 0, 0⟩, resumeAtBarrier := false } := by
  simp [debugCommand, h, modCore]

/-- A scalar register of a halted core takes the value; S0 has no storage. -/
theorem writeSregWindow_writes {i : Fin 32} {v : Word64} (h : isHalted (getCore s n.val) = true) (hi : i ≠ 0) :
    writeSregWindow s n.val i.val v = setCore s n.val { getCore s n.val with sregs := tset 0 (getCore s n.val).sregs i.val v } := by
  have hpos : i.val ≠ 0 := fun h0 => hi (Fin.ext h0)
  simp only [writeSregWindow, h, if_true, modCore, putSreg, Nat.mod_eq_of_lt i.isLt, hpos, if_false]

theorem writeSregWindow_keeps {i : Fin 32} (v : Word64) (h : isHalted (getCore s n.val) = false ∨ i = 0) : writeSregWindow s n.val i.val v = s := by
  rcases h with h | rfl
  · simp [writeSregWindow, h]
  · unfold writeSregWindow
    split
    · exact modCore_id _ _ (by simp [putSreg])
    · rfl

end

/-! ### The record of a halted core, R173 and R255 -/

/-- Writing the record of a launch is an operation on memory, beside a note for the step driver. -/
theorem writeLaunchRecord_frame (s : State) (n status reason total detail : Nat) :
    let t := writeLaunchRecord s n status reason total detail
    t.cores = s.cores ∧ t.launches = s.launches ∧ t.forage = s.forage := by
  have hloss (u : State) (a : Nat) (c : Core) : (noteLoss u a c).cores = u.cores ∧ (noteLoss u a c).launches = u.launches ∧ (noteLoss u a c).forage = u.forage := by
    unfold noteLoss; split <;> exact ⟨rfl, rfl, rfl⟩
  have htidy {u v : State} (h : Tidy u v) : v.cores = u.cores ∧ v.launches = u.launches ∧ v.forage = u.forage :=
    ⟨h.cores, (congrArg State.launches h.rest :), h.forage⟩
  unfold writeLaunchRecord
  dsimp only
  split
  · exact ⟨rfl, rfl, rfl⟩
  · rename_i l _
    have hclear (m : Master) (a : Nat) (bs : List Byte) : Tidy s (if (getCore s n).resumed = true then (writeSpan m s a bs []).2 else s) :=
      tidy_ite (writeSpan_tidy ..) (.refl s)
    simp only [htidy (writeRecord_tidy ..), hloss, htidy (hclear ..), and_self]

/-- Settles O16: each debug command by whether it is accepted; the record is an operation on memory, after which the core notes that it is written. -/
theorem debugging : Obligations.Debugging := by
  refine ⟨fun s n _ hr => ⟨fun h hb => ?_, fun h hb => ?_, fun h => ?_, fun h => ?_, fun h => ?_, fun i v h hi => ?_, fun i v h => ?_⟩,
    fun s n hlen hrun hrec h0 h1 hq hw => ?_⟩
  · rw [exec_resume hr, debugCommand_resume_bundle h hb]
  · rw [exec_resume hr, debugCommand_resume_barrier h hb]
  · rw [exec_resume hr, debugCommand_resume_refused h]
  · rw [exec_abort hr, debugCommand_abort h]
  · rw [exec_abort hr, debugCommand_abort_refused h]
  · rw [exec_sregWrite hr, writeSregWindow_writes h hi]
  · rw [exec_sregWrite hr, writeSregWindow_keeps v h]
  · obtain ⟨hcores, hlaunches, hforage⟩ := writeLaunchRecord_frame s n.val 1 (getCore s n.val).halt.reason.toNat 0 (haltDetailBits (getCore s n.val))
    refine ⟨_, congrArg Host.Outcome.next (if_pos (by simp [hrun, hrec, h0, h1, hq, hw])), ?_⟩
    generalize writeLaunchRecord s n.val 1 (getCore s n.val).halt.reason.toNat 0 (haltDetailBits (getCore s n.val)) = u at hcores hlaunches hforage
    have hsame (m : Nat) : getCore u m = getCore s m := by simp only [getCore, hcores]
    have hn : n.val < u.cores.length := by rw [hcores, hlen]; exact n.isLt
    have hcore := getCore_modCore n.val n.val (fun c => { c with recordPending := false }) hn
    rw [if_pos rfl, hsame] at hcore
    refine ⟨?_, ?_, ?_, ?_, fun m hm => ?_, hlaunches, hforage⟩
    · rw [hcore]; simp [isHalted, hrun]
    · rw [hcore]
    · rw [hcore]
    · rw [hcore]
    · rw [getCore_modCore _ _ _ hn, if_neg hm, hsame]

end Sys2Proof.Machine
end

section
/-! SUPPORT. The head of a conflict queue: what its application stores, the cycle of a core in which nothing else happens, and the statement on
SCATTERED_WRITE_APPLY (O13). -/

namespace Sys2Proof.Machine

/-! ### The words of a granule -/

theorem bytesOf_ofBytes (bs : List Byte) : bytesOf (ofBytes bs) bs.length = bs := by
  induction bs with
  | nil => rfl
  | cons b bs ih =>
    have hlt := b.isLt
    have hlow : BitVec.ofNat 8 (b.toNat + 256 * ofBytes bs) = b := by
      apply BitVec.eq_of_toNat_eq
      rw [BitVec.toNat_ofNat]; omega
    have hhigh : (b.toNat + 256 * ofBytes bs) / 256 = ofBytes bs := by omega
    simp only [ofBytes, List.length_cons, bytesOf, hlow, hhigh, ih]

theorem ofBytes_lt (bs : List Byte) : ofBytes bs < 256 ^ bs.length := by
  induction bs with
  | nil => simp [ofBytes]
  | cons b bs ih =>
    have := b.isLt
    simp only [ofBytes, List.length_cons, pow_succ]
    omega

/-- A word of four bytes, as bytes again. -/
theorem bytesOf_word {w : List Byte} (hw : w.length = 4) : bytesOf (BitVec.ofNat 32 (ofBytes w)).toNat 4 = w := by
  have hlt := ofBytes_lt w
  rw [hw] at hlt
  rw [BitVec.toNat_ofNat, Nat.mod_eq_of_lt (by omega)]
  conv_lhs => rw [← hw]
  exact bytesOf_ofBytes w

theorem words4_append {w : List Byte} (hw : w.length = 4) (bs : List Byte) : words4 (w ++ bs) = BitVec.ofNat 32 (ofBytes w) :: words4 bs := by
  obtain ⟨a, b, c, d, rfl⟩ : ∃ a b c d, w = [a, b, c, d] := by
    match w, hw with
    | [a, b, c, d], _ => exact ⟨a, b, c, d, rfl⟩
  have hlen : (bs.length + 4) / 4 + 1 = (bs.length / 4 + 1) + 1 := by omega
  simp [words4, chunks, hlen]

theorem modifyAt_succ {α : Type} (x : α) (l : List α) (i : Nat) (f : α → α) : modifyAt (x :: l) (i + 1) f = x :: modifyAt l i f := by
  simp only [modifyAt, List.getElem?_cons_succ]
  split <;> rfl

theorem bytes4_words4 {bs : List Byte} {k : Nat} (h : bs.length = 4 * k) : bytes4 (words4 bs) = bs := by
  induction k generalizing bs with
  | zero => obtain rfl : bs = [] := List.length_eq_zero_iff.mp h; rfl
  | succ k ih =>
    have hw : (bs.take 4).length = 4 := by rw [List.length_take]; omega
    conv_lhs => rw [← List.take_append_drop 4 bs, words4_append hw]
    rw [bytes4, List.flatMap_cons, bytesOf_word hw, ← bytes4, ih (by rw [List.length_drop]; omega), List.take_append_drop]

/-- A change of one word of a list of bytes changes its four bytes. -/
theorem bytes4_modifyAt {bs : List Byte} {k : Nat} (h : bs.length = 4 * k) {i : Nat} (hi : i < k) (f : F32 → F32) :
    bytes4 (modifyAt (words4 bs) i f) =
      bs.take (4 * i) ++ bytesOf (f (BitVec.ofNat 32 (ofBytes ((bs.drop (4 * i)).take 4)))).toNat 4 ++ bs.drop (4 * i + 4) := by
  induction k generalizing bs i with
  | zero => omega
  | succ k ih =>
    obtain ⟨w, rest, hw, rfl⟩ : ∃ w rest, w.length = 4 ∧ bs = w ++ rest :=
      ⟨bs.take 4, bs.drop 4, by rw [List.length_take]; omega, (List.take_append_drop 4 bs).symm⟩
    have hrest : rest.length = 4 * k := by rw [List.length_append] at h; omega
    rw [words4_append hw]
    cases i with
    | zero =>
      have hset : modifyAt (BitVec.ofNat 32 (ofBytes w) :: words4 rest) 0 f = f (BitVec.ofNat 32 (ofBytes w)) :: words4 rest := rfl
      rw [hset, bytes4, List.flatMap_cons, ← bytes4, bytes4_words4 hrest]
      simp [List.take_append, List.drop_append, hw]
    | succ i =>
      rw [modifyAt_succ, bytes4, List.flatMap_cons, ← bytes4, bytesOf_word hw, ih hrest (by omega)]
      have h1 : 4 * (i + 1) = w.length + 4 * i := by omega
      have h2 : w.length + 4 * i + 4 = w.length + (4 * i + 4) := by omega
      rw [h1, h2, List.take_length_add_append, List.drop_length_add_append, List.drop_length_add_append, List.append_assoc, List.append_assoc, List.append_assoc]

/-! ### One queued write, R170 -/

variable {s : State} {n : Nat}

/-- A queued write of one lane stores the granule that the lane falls in, where its code is clean. -/
theorem applyScatter_granule {w : ScatterWrite} {lane g : Nat} {x : F32} (hw : w.adds = [(lane, x)]) (hlane : lane < 32)
    (hgran : (accBase n + 128 * w.line) / 32 + lane / 8 = g) (hread : readGranule s g false = (memBytes s (32 * g) 32, .clean, s)) :
    applyScatter s n w = storeGranule s g (bytes4 (modifyAt (words4 (memBytes s (32 * g) 32)) (lane % 8) (fun y => fadd y x))) false := by
  unfold applyScatter
  refine foldl_once (x := lane / 8) (List.mem_range.mpr (by omega)) List.nodup_range ?_ (fun q _ hq => ?_) (fun q _ hq => ?_)
  · extract_lets mine granule
    have hmine : mine = [(lane, x)] := by simp [mine, hw]
    have hgranule : granule = g := hgran
    rw [hmine, hgranule, hread]
    rfl
  all_goals simp [hw, show lane / 8 ≠ q from fun h => hq h.symm]

/-- A queued write of one lane stores the sum in the lane's four bytes. -/
theorem applyScatter_one (hm : twf 0 s.mem = true) (hn : n < 128) {line lane : Nat} (hline : line < 4096) (hlane : lane < 32) (x : F32) {a : Nat}
    (ha : a = accBase n + 128 * line + 4 * lane) (hg : tget 0 s.guard (a / 32) = 0) :
    StoresOnly s (applyScatter s n ⟨line, [(lane, x)]⟩) ∧
      (applyScatter s n ⟨line, [(lane, x)]⟩).mem = tsetList 0 s.mem a (bytesOf (fadd (BitVec.ofNat 32 (ofBytes (memBytes s a 4))) x).toNat 4) := by
  have hgran : (accBase n + 128 * line) / 32 + lane / 8 = a / 32 := by unfold accBase at *; omega
  have haddr : a = 32 * (a / 32) + 4 * (lane % 8) := by unfold accBase at ha; omega
  have hread := readGranule_clean (s := s) false (g := a / 32) ⟨n, hn, .inr (by unfold accBase at *; omega)⟩ hg
  have hstep := applyScatter_granule (w := ⟨line, [(lane, x)]⟩) rfl hlane hgran hread
  have hword : ((memBytes s (32 * (a / 32)) 32).drop (4 * (lane % 8))).take 4 = memBytes s a 4 := by
    rw [memBytes, tgetList_slice _ _ (by omega), ← haddr, memBytes]
  rw [hstep]
  refine ⟨storeGranule_only .., ?_⟩
  rw [bytes4_modifyAt (k := 8) (by rw [memBytes_length]) (by omega), hword, storeGranule_mem]
  have hsplice := tsetList_splice hm (k := 32 * (a / 32)) (off := 4 * (lane % 8)) (n := 32)
    (vs := bytesOf (fadd (BitVec.ofNat 32 (ofBytes (memBytes s a 4))) x).toNat 4) (by rw [bytesOf_length]; omega)
  rw [bytesOf_length, ← haddr] at hsplice
  exact hsplice

/-! ### The cycle in which a queue's head is applied, R168 and R173 -/

/-- The state in which the head of a bank's queue has been applied in a fresh cycle of the core. -/
def headApplied (s : State) (n bank : Nat) : State := usePorts (applyHead (clearPorts s n) n bank) n [(1, bank, 1)]

/-- All queued writes of a core are for one bank: it alone applies a head. -/
theorem applyHeads_one {bank : Nat} {w : ScatterWrite} {rest : List (Nat × ScatterWrite)} (hb : bank < 32) (hq : (getCore s n).queues = (bank, w) :: rest)
    (hrest : ∀ q ∈ rest, q.1 = bank) : applyHeads s n [] = usePorts (applyHead s n bank) n [(1, bank, 1)] := by
  have hany (b : Nat) : (getCore s n).queues.any (fun q => q.1 == b) = (b == bank) := by
    rw [hq, List.any_cons, Bool.eq_iff_iff]
    simp only [Bool.or_eq_true, beq_iff_eq, List.any_eq_true]
    constructor
    · rintro (h | ⟨q, hq, h⟩)
      · exact h.symm
      · exact h.symm.trans (hrest q hq)
    · exact fun h => .inl h.symm
  have hone : headBanks (getCore s n) [] = [bank] := by
    simp only [headBanks, hany, List.contains_nil, Bool.not_false, Bool.true_and]
    rw [List.filter_beq, List.count_eq_one_of_mem List.nodup_range (List.mem_range.mpr hb), List.replicate_one]
  simp only [applyHeads, hone, List.foldl_cons, List.foldl_nil, List.map_cons, List.map_nil]

section
variable {bank : Nat} {w : ScatterWrite} {rest : List (Nat × ScatterWrite)}

theorem applyHead_first (hq : (getCore s n).queues = (bank, w) :: rest) :
    applyHead s n bank = modCore (applyScatter s n w) n (fun c => { c with queues := c.queues.eraseP (fun x => x.1 == bank) }) := by
  simp only [applyHead, hq, List.find?_cons, beq_self_eq_true]

/-- The core once a head has been applied: the head has left its queue, and the bank's port is in use. -/
theorem getCore_headApplied (hn : n < s.cores.length) (hq : (getCore s n).queues = (bank, w) :: rest)
    (hstore : StoresOnly (clearPorts s n) (applyScatter (clearPorts s n) n w)) (m : Nat) :
    getCore (headApplied s n bank) m =
      if m = n then { getCore s n with queues := rest, ports := [(1, bank, 1)], portsAt := s.cycles } else getCore s m := by
  have hcores := hstore.cores
  have hclear := getCore_clear hn
  have hq' : (getCore (clearPorts s n) n).queues = (bank, w) :: rest := by rw [hclear]; exact hq
  have hsame (k : Nat) : getCore (applyScatter (clearPorts s n) n w) k = getCore (clearPorts s n) k := by simp only [getCore, hcores]
  have hlen : n < (applyScatter (clearPorts s n) n w).cores.length := by rwa [hcores, clearPorts, modCore_cores_length]
  have hcycles : (applyScatter (clearPorts s n) n w).cycles = s.cycles := (congrArg State.cycles hstore :)
  rw [headApplied, applyHead_first hq', usePorts, modCore_modCore _ _ _ hlen, getCore_modCore _ _ _ hlen, hsame, hsame]
  split
  · simp [hclear, hq, portsNow, hcycles]
  · next hm => rw [clearPorts, getCore_modCore _ _ _ hn, if_neg hm]

theorem drainQueues_one (hn : n < s.cores.length) (hb : bank < 32) (hq : (getCore s n).queues = (bank, w) :: rest) (hrest : ∀ q ∈ rest, q.1 = bank)
    (hw : (getCore (headApplied s n bank) n).waiting = []) : drainQueues s n = headApplied s n bank := by
  have hq' : (getCore (clearPorts s n) n).queues = (bank, w) :: rest := by rw [getCore_clear hn]; exact hq
  rw [drainQueues, applyHeads_one hb hq' hrest, ← headApplied, joinWaiting_calm hw]

/-- A core past its END with nothing but queued writes on its way. -/
structure Ended (c : Core) : Prop where
  run : c.run = .running
  ended : c.ended = true
  events : c.events = []
  passes : c.passes = []
  nextLoaded : c.nextLoaded = []
  moves0 : c.mover0.moves = []
  moves1 : c.mover1.moves = []
  lines0 : c.mover0.lines = []
  lines1 : c.mover1.lines = []
  waiting : c.waiting = []

theorem Ended.not_frozen {c : Core} (h : Ended c) : coreFrozen c = false := by
  simp [coreFrozen, creditFreeze, xlateFreeze, accFreeze, moverStalls, h.moves0, h.moves1, h.lines0, h.lines1, h.waiting]

theorem Ended.later {c : Core} (h : Ended c) : Later c := by simp [Later, h.events]

theorem Ended.clear (hn : n < s.cores.length) (h : Ended (getCore s n)) : Ended (getCore (clearPorts s n) n) := by
  rw [getCore_clear hn]
  exact ⟨h.run, h.ended, h.events, h.passes, h.nextLoaded, h.moves0, h.moves1, h.lines0, h.lines1, h.waiting⟩

/-- The end of a core's cycle in its own schedule: events that are past and moves that are past leave, and the cycle count moves on. -/
def endCycle (c : Core) : Core := dropMoves { c with events := c.events.filter (fun e => decide (c.cycle < e.1)), cycle := c.cycle + 1 }

/-- The writes of a cycle in which nothing is due: the head of the one bank that has a queue is applied, and the core's cycle count moves on. -/
theorem cycleWrites_ended (hn : n < s.cores.length) (h : Ended (getCore s n)) (hb : bank < 32) (hq : (getCore s n).queues = (bank, w) :: rest)
    (hrest : ∀ q ∈ rest, q.1 = bank) (hw : (getCore (headApplied s n bank) n).waiting = []) :
    cycleWrites (clearPorts s n) n = modCore (headApplied s n bank) n endCycle := by
  have hc := h.clear hn
  have hq' : (getCore (clearPorts s n) n).queues = (bank, w) :: rest := by rw [getCore_clear hn]; exact hq
  simp only [cycleWrites, dueEvents_later hc.later, staticReads_calm hc.later hc.passes, staticWrites_calm hc.later, List.append_nil, List.flatMap_nil,
    List.eraseDups_nil, List.map_nil, List.filter_nil, List.foldl_nil, usePorts_clear hn, applyHeads_one hb hq' hrest]
  rw [← headApplied, joinWaiting_calm hw]
  rfl

/-- The cycle of a core past its END: it issues nothing, and the head is applied. -/
theorem coreCycle_ended (hn : n < s.cores.length) (h : Ended (getCore s n)) (hb : bank < 32) (hq : (getCore s n).queues = (bank, w) :: rest)
    (hrest : ∀ q ∈ rest, q.1 = bank) (hw : (getCore (headApplied s n bank) n).waiting = []) (src : Source) :
    coreCycle s n src = modCore (headApplied s n bank) n endCycle := by
  have hc := h.clear hn
  have hlines : requestLine (requestLine (clearPorts s n) n 0) n 1 = clearPorts s n := by
    rw [requestLine_calm 0 (by simp [getMover, hc.moves0]), requestLine_calm 1 (by simp [getMover, hc.moves1])]
  have hreads : cycleReads n ([], clearPorts s n) = ([], clearPorts s n) := cycleReads_calm hc.later hc.passes hc.nextLoaded
  have hissue : issueFrom (clearPorts s n) n src = ([], clearPorts s n) := by simp [issueFrom, mayIssue, hc.ended]
  simp only [coreCycle, h.run, true_or, if_true, hlines, hc.not_frozen, Bool.false_eq_true, if_false, hissue, hreads]
  exact cycleWrites_ended hn h hb hq hrest hw

/-- A core that issues nothing more applies the head of its one queue; what else its cycle changes is of its own schedule. -/
theorem anyCycle_applies (hn : n < s.cores.length) (hrun : (getCore s n).run = .halted ∨ Ended (getCore s n)) (hb : bank < 32)
    (hq : (getCore s n).queues = (bank, w) :: rest) (hrest : ∀ q ∈ rest, q.1 = bank) (hw : (getCore (headApplied s n bank) n).waiting = []) :
    ∃ f : Core → Core, anyCycle s n = modCore (headApplied s n bank) n f ∧
      ∀ c, (f c).queues = c.queues ∧ (f c).sregs = c.sregs ∧ (f c).ports = c.ports ∧ (f c).portsAt = c.portsAt := by
  unfold anyCycle
  rcases hrun with hrun | hrun
  · refine ⟨id, ?_, fun c => ⟨rfl, rfl, rfl, rfl⟩⟩
    rw [if_pos hrun, drainQueues_one hn hb hq hrest hw, modCore_id _ _ rfl]
  · refine ⟨endCycle, ?_, fun c => ⟨rfl, rfl, rfl, rfl⟩⟩
    rw [if_neg (by rw [hrun.run]; decide), coreCycle_ended hn hrun hb hq hrest hw .fetch]

end

/-! ### The statement -/

theorem unitsKept_modCore (s : State) (n : Nat) (f : Core → Core) : unitsKept s (modCore s n f) :=
  ⟨rfl, rfl, rfl, rfl, rfl, rfl, rfl, rfl, rfl, rfl, rfl, rfl, rfl⟩

theorem unitsKept_trans {s t u : State} (h : unitsKept s t) (g : unitsKept t u) : unitsKept s u := by
  obtain ⟨h1, h2, h3, h4, h5, h6, h7, h8, h9, h10, h11, h12, h13⟩ := h
  obtain ⟨g1, g2, g3, g4, g5, g6, g7, g8, g9, g10, g11, g12, g13⟩ := g
  exact ⟨g1.trans h1, g2.trans h2, g3.trans h3, g4.trans h4, g5.trans h5, g6.trans h6, g7.trans h7, g8.trans h8, g9.trans h9, g10.trans h10, g11.trans h11,
    g12.trans h12, g13.trans h13⟩

/-- Settles O13: in the core's cycle the one bank with a queue applies its head, which stores the sum in the lane's four bytes. -/
theorem scatterApplies : Obligations.ScatterApplies := by
  intro s n bank line lane x rest c a hlen hrun hline hw hq hrest hm hgwf hg
  have hn : n.val < s.cores.length := by rw [hlen]; exact n.isLt
  have hrun' : (getCore s n.val).run = .halted ∨ Ended (getCore s n.val) := by
    refine hrun.imp_right ?_
    rintro ⟨hr, he, hev, hp, hl, hm0, hm1, hl0, hl1⟩
    exact ⟨hr, he, hev, hp, hl, hm0, hm1, hl0, hl1, hw⟩
  obtain ⟨honly, hmem⟩ := applyScatter_one (s := clearPorts s n.val) hm n.isLt hline lane.isLt x rfl hg
  have hcore := getCore_headApplied hn hq honly
  obtain ⟨f, hcycle, hf⟩ := anyCycle_applies hn hrun' bank.isLt hq hrest (by rw [hcore, if_pos rfl]; exact hw)
  have hq' : (getCore (clearPorts s n.val) n.val).queues = (bank.val, ⟨line, [(lane.val, x)]⟩) :: rest := by rw [getCore_clear hn]; exact hq
  have hcores' : (headApplied s n.val bank.val).cores.length = s.cores.length := by
    rw [headApplied, applyHead_first hq', usePorts, modCore_cores_length, modCore_cores_length, honly.cores, clearPorts, modCore_cores_length]
  have hn' : n.val < (headApplied s n.val bank.val).cores.length := by rwa [hcores']
  have hcore' (m : Nat) := getCore_modCore n.val m f hn'
  obtain ⟨hqueues, hsregs, hports, hportsAt⟩ := hf (getCore (headApplied s n.val bank.val) n.val)
  have hcycles : (headApplied s n.val bank.val).cycles = s.cycles := by rw [headApplied, applyHead_first hq']; exact (congrArg State.cycles honly :)
  have hused : (portsNow (modCore (headApplied s n.val bank.val) n.val f) (getCore (modCore (headApplied s n.val bank.val) n.val f) n.val)).contains
      (1, bank.val, 1) = true := by
    rw [hcore', if_pos rfl, portsNow, hports, hportsAt, hcore, if_pos rfl, modCore_cycles, hcycles]
    simp
  have hmem' : (modCore (headApplied s n.val bank.val) n.val f).mem =
      tsetList 0 s.mem a (bytesOf (fadd (BitVec.ofNat 32 (ofBytes (memBytes s a 4))) x).toNat 4) := by
    rw [modCore_mem, headApplied, applyHead_first hq']; exact hmem
  refine ⟨_, congrArg Host.Outcome.next (if_pos (by rw [hcycle]; exact hused)), ?_⟩
  rw [hcycle]
  refine ⟨?_, ?_, fun b hb => ?_, ?_, fun m hmn => ?_, ?_⟩
  · rw [hcore', if_pos rfl, hqueues, hcore, if_pos rfl]
  · rw [memBytes, hmem']
    have hread := tgetList_tsetList hm a (bytesOf (fadd (BitVec.ofNat 32 (ofBytes (memBytes s a 4))) x).toNat 4)
    rwa [bytesOf_length] at hread
  · rw [hmem', tget_tsetList_out hm _ _ _ (by rw [bytesOf_length]; omega)]
  · rw [hcore', if_pos rfl, hsregs, hcore, if_pos rfl]
  · rw [hcore', if_neg hmn, hcore, if_neg hmn]
  · refine unitsKept_trans ?_ (unitsKept_modCore _ _ _)
    rw [headApplied, applyHead_first hq']
    exact unitsKept_trans (unitsKept_trans (unitsKept_modCore _ _ _) honly.unitsKept) (unitsKept_trans (unitsKept_modCore _ _ _) (unitsKept_modCore _ _ _))

end Sys2Proof.Machine
end

section
/-! SUPPORT. Writes of ENABLE fields: what a block's enabling and disabling leave of everything else, and the statement on the enables of blocks and channels (O28). -/

namespace Sys2Proof.Machine

/-! ### What starts and ends with a block leaves -/

/-- Block states, the cores, the DMA channels' work, the lists and the non-volatile memory are as before. -/
structure SideKept (s t : State) : Prop where
  blocks : t.blocks = s.blocks
  cores : t.cores = s.cores
  dma : t.dma = s.dma
  forage : t.forage = s.forage
  nvm : t.nvm = s.nvm

theorem SideKept.refl (s : State) : SideKept s s := ⟨rfl, rfl, rfl, rfl, rfl⟩

theorem SideKept.trans {s t u : State} (h : SideKept s t) (g : SideKept t u) : SideKept s u :=
  ⟨g.blocks.trans h.blocks, g.cores.trans h.cores, g.dma.trans h.dma, g.forage.trans h.forage, g.nvm.trans h.nvm⟩

theorem SideKept.ite {s t u : State} {p : Prop} [Decidable p] (h : SideKept s t) (g : SideKept s u) : SideKept s (if p then t else u) := by
  split
  · exact h
  · exact g

theorem SideKept.foldl {β : Type} {f : State → β → State} (h : ∀ s b, SideKept s (f s b)) (l : List β) (s : State) : SideKept s (l.foldl f s) := by
  induction l generalizing s with
  | nil => exact .refl s
  | cons b l ih => exact (h s b).trans (ih _)

theorem Tidy.sideKept {s t : State} (h : Tidy s t) : SideKept s t := ⟨h.blocks, h.cores, h.dma, h.forage, h.nvm⟩

theorem PoolOnly.sideKept {s t : State} (h : PoolOnly s t) : SideKept s t := ⟨h.blocks, h.cores, (congrArg State.dma h :), (congrArg State.forage h :), h.nvm⟩

theorem modLane_sideKept (s : State) (l : Nat) (f : Lane → Lane) : SideKept s (modLane s l f) := ⟨rfl, rfl, rfl, rfl, rfl⟩

theorem startTraining_sideKept (s : State) (l : Nat) : SideKept s (startTraining s l) := by
  refine .trans ?_ (modLane_sideKept ..)
  unfold setResult
  exact .ite (modLane_sideKept ..) ((modLane_sideKept ..).trans (logEntry_tidy ..).sideKept)

theorem trainLanes_sideKept (s : State) (ls : List Nat) : SideKept s (trainLanes s ls) :=
  .foldl (fun s l => .ite (startTraining_sideKept s l) (.refl s)) ls s

theorem splitPorts_sideKept (s : State) : SideKept s (splitPorts s) := by
  refine .foldl (fun s p => ?_) _ s
  split
  · exact .refl s
  · exact .foldl (fun s l => .ite (.refl s) (modLane_sideKept ..)) _ s

theorem onEnable_sideKept (s : State) (b : Nat) : SideKept s (onEnable s b) :=
  .ite ⟨rfl, rfl, rfl, rfl, rfl⟩ (.ite (poolServe_only s).sideKept
    (.ite ((trainLanes_sideKept ..).trans (splitPorts_sideKept _)) (.ite (trainLanes_sideKept ..) (.refl s))))

theorem stopLanes_sideKept (s : State) (ls : List Nat) : SideKept s (stopLanes s ls) :=
  .foldl (fun s _ => .ite (modLane_sideKept ..) (.refl s)) ls s

theorem stopLanes_mem (s : State) (ls : List Nat) : (stopLanes s ls).mem = s.mem := by
  unfold stopLanes
  induction ls generalizing s with
  | nil => rfl
  | cons l ls ih =>
    rw [List.foldl_cons, ih]
    split <;> rfl

theorem onDisable_sideKept (s : State) (b : Nat) : SideKept s (onDisable s b) :=
  .ite ⟨rfl, rfl, rfl, rfl, rfl⟩ (.ite (stopLanes_sideKept ..) (.ite (stopLanes_sideKept ..) (.refl s)))

theorem onDisable_mem (s : State) (b : Nat) : (onDisable s b).mem = s.mem := by
  unfold onDisable
  split
  · rfl
  · split
    · exact stopLanes_mem ..
    · split
      · exact stopLanes_mem ..
      · rfl

/-! ### One block's state -/

/-- Every other block's state, the cores, the DMA channels' work, the lists and the non-volatile memory are as before. -/
def OthersKept (b : Nat) (s t : State) : Prop := (∀ k, k ≠ b → blk t k = blk s k) ∧ t.cores = s.cores ∧ t.dma = s.dma ∧ t.forage = s.forage ∧ t.nvm = s.nvm

theorem OthersKept.trans {b : Nat} {s t u : State} (h : OthersKept b s t) (g : OthersKept b t u) : OthersKept b s u := by
  obtain ⟨h1, h2, h3, h4, h5⟩ := h
  obtain ⟨g1, g2, g3, g4, g5⟩ := g
  exact ⟨fun k hk => (g1 k hk).trans (h1 k hk), g2.trans h2, g3.trans h3, g4.trans h4, g5.trans h5⟩

theorem SideKept.blk {s t : State} (h : SideKept s t) (k : Nat) : blk t k = blk s k := by simp only [Machine.blk, h.blocks]

theorem SideKept.others {s t : State} (h : SideKept s t) (b : Nat) : OthersKept b s t := ⟨fun k _ => h.blk k, h.cores, h.dma, h.forage, h.nvm⟩

theorem setBlk_others {s : State} (h : twf {} s.blocks = true) (b : Nat) (v : BlockStatus) : OthersKept b s (setBlk s b v) :=
  ⟨fun k hk => by rw [blk_setBlk h, if_neg hk], rfl, rfl, rfl, rfl⟩

section
variable {s w : State} {b : Nat}

/-- An accepted ENABLE = 1 (R566, R569). -/
theorem writeEnable_enables (hwf : twf {} w.blocks = true) (he : (blk w b).errorStopped = false) (hc : configIllegal w b = false) :
    isEnabled (writeEnable w b true) b = true ∧ (blk (writeEnable w b true) b).disabling = false ∧ (blk (writeEnable w b true) b).configBad = false ∧
      OthersKept b w (writeEnable w b true) := by
  cases hon : (blk w b).enabled with
  | true =>
    have ht : writeEnable w b true = setBlk w b { blk w b with disabling := false, configBad := false } := by simp [writeEnable, he, hc, hon]
    rw [ht, isEnabled, blk_setBlk hwf, if_pos rfl]
    exact ⟨hon, rfl, rfl, setBlk_others hwf ..⟩
  | false =>
    have ht : writeEnable w b true = onEnable (setBlk w b { blk w b with enabled := true, disabling := false, configBad := false }) b := by
      simp [writeEnable, he, hc, hon]
    have hside := onEnable_sideKept (setBlk w b { blk w b with enabled := true, disabling := false, configBad := false }) b
    rw [ht, isEnabled, hside.blk, blk_setBlk hwf, if_pos rfl]
    exact ⟨rfl, rfl, rfl, (setBlk_others hwf ..).trans (hside.others b)⟩

/-- ENABLE = 1 with settings that are not legal (R569). -/
theorem writeEnable_illegal (he : (blk w b).errorStopped = false) (hc : configIllegal w b = true) :
    writeEnable w b true = setBlk w b { blk w b with configBad := true } := by
  simp [writeEnable, he, hc]

/-- ENABLE = 1 of an error-stopped block has no effect (R543). -/
theorem writeEnable_stopped (he : (blk w b).errorStopped = true) : writeEnable w b true = setBlk w b { blk w b with configBad := false } := by
  simp [writeEnable, he]

/-- ENABLE = 0 of a block that nothing keeps busy takes effect at once (R566). -/
theorem writeEnable_disables (hwf : twf {} w.blocks = true) (hd : mayDisable w b = true) :
    isEnabled (writeEnable w b false) b = false ∧ (blk (writeEnable w b false) b).configBad = false ∧ OthersKept b w (writeEnable w b false) ∧
      (writeEnable w b false).mem = w.mem := by
  have hself (v : BlockStatus) : blk (setBlk w b v) b = v := by rw [blk_setBlk hwf, if_pos rfl]
  have hmay (v : BlockStatus) : mayDisable (setBlk w b v) b = true := hd
  cases hon : (blk w b).enabled with
  | false =>
    have ht : writeEnable w b false = setBlk w b { blk w b with configBad := false } := by simp [writeEnable, hon]
    rw [ht, isEnabled, hself]
    exact ⟨hon, rfl, setBlk_others hwf .., rfl⟩
  | true =>
    have ht : writeEnable w b false = onDisable (setBlk (setBlk w b { blk w b with configBad := false }) b
        { blk w b with configBad := false, enabled := false, disabling := false, rejected := false, rejectSlot := 0 }) b := by
      simp [writeEnable, hon, hmay, disableNow, hself]
    have hwf' : twf {} (setBlk w b { blk w b with configBad := false }).blocks = true := twf_tset hwf _ _
    have hside := onDisable_sideKept (setBlk (setBlk w b { blk w b with configBad := false }) b
      { blk w b with configBad := false, enabled := false, disabling := false, rejected := false, rejectSlot := 0 }) b
    rw [ht, isEnabled, hside.blk, blk_setBlk hwf', if_pos rfl, onDisable_mem]
    exact ⟨rfl, rfl, ((setBlk_others hwf ..).trans (setBlk_others hwf' ..)).trans (hside.others b), rfl⟩

/-- Any other ENABLE = 0 takes effect later (R566). -/
theorem writeEnable_defers (hwf : twf {} w.blocks = true) (hon : isEnabled w b = true) (hd : mayDisable w b = false) :
    isEnabled (writeEnable w b false) b = true ∧ (blk (writeEnable w b false) b).disabling = true ∧ (blk (writeEnable w b false) b).configBad = false ∧
      OthersKept b w (writeEnable w b false) ∧ (writeEnable w b false).mem = w.mem := by
  have hself (v : BlockStatus) : blk (setBlk w b v) b = v := by rw [blk_setBlk hwf, if_pos rfl]
  have hmay (v : BlockStatus) : mayDisable (setBlk w b v) b = false := hd
  have hwf' : twf {} (setBlk w b { blk w b with configBad := false }).blocks = true := twf_tset hwf _ _
  rw [isEnabled] at hon
  have ht : writeEnable w b false = setBlk (setBlk w b { blk w b with configBad := false }) b { blk w b with configBad := false, disabling := true } := by
    simp [writeEnable, hon, hmay, hself]
  rw [ht, isEnabled, blk_setBlk hwf', if_pos rfl]
  exact ⟨hon, rfl, rfl, (setBlk_others hwf ..).trans (setBlk_others hwf' ..), rfl⟩

/-! ### The fields that are written first, R567 and R568 -/

/-- What the fields of a control register leave of its block's state: all but the noted rejection. -/
structure FieldsWritten (b : Nat) (s w : State) : Prop where
  wf : twf {} w.blocks = true
  state : ∃ r slot, blk w b = { blk s b with rejected := r, rejectSlot := slot }
  others : OthersKept b s w
  mem : w.mem = s.mem

theorem noteReject_fields (hwf : twf {} s.blocks = true) (hb : b ≠ DMA) (off : Nat) : FieldsWritten b s (noteReject s b off) := by
  have ht : noteReject s b off = setBlk s b { blk s b with rejected := true, rejectSlot := BitVec.ofNat 9 (off / 8) } := if_neg (fun h => hb h.1)
  rw [ht]
  exact ⟨twf_tset hwf _ _, ⟨true, BitVec.ofNat 9 (off / 8), by rw [blk_setBlk hwf, if_pos rfl]⟩, setBlk_others hwf .., rfl⟩

theorem FieldsWritten.refl (hwf : twf {} s.blocks = true) : FieldsWritten b s s := ⟨hwf, ⟨_, _, rfl⟩, ⟨fun _ _ => rfl, rfl, rfl, rfl, rfl⟩, rfl⟩

theorem FieldsWritten.setReg (h : FieldsWritten b s w) (b' off v : Nat) : FieldsWritten b s (setReg w b' off v) :=
  ⟨h.wf, h.state, h.others.trans ⟨fun _ _ => rfl, rfl, rfl, rfl, rfl⟩, h.mem⟩

theorem writeField_fields (hwf : twf {} s.blocks = true) (hb : b ≠ DMA) (off : Nat) (d : RegDef) (v : Nat) : FieldsWritten b s (writeField s b off d v) := by
  unfold writeField
  dsimp only
  split
  · refine .setReg ?_ ..
    split
    · exact .refl hwf
    · exact noteReject_fields hwf hb off
  · exact (FieldsWritten.refl hwf).setReg ..

end

/-- The commands that write the control register of a block other than DMA's. -/
def enableCommands (v : Word64) : List (Instr × Nat) :=
  ([(.numericEnable v, NUMERIC), (.exchEnable v, EXCH), (.solverEnable v, SOLVER), (.collEnable v, COLL), (.scacheEnable v, SCACHE), (.poolEnable v, POOL),
    (.fabricEnable v, FABRIC)] : List (Instr × Nat)) ++ ((List.finRange 12).map (fun k => (.memcEnable k v, MEMC k.val)) : List (Instr × Nat)) ++
    ((List.finRange 8).map (fun k => (.linkEnable k v, LINK k.val)) : List (Instr × Nat))

theorem exec_enable {s : State} {v : Word64} {i : Instr} {b : Nat} (hr : running s = true) (hi : (i, b) ∈ enableCommands v) :
    exec i s = .next (writeEnable (writeField s b 0x008 (regAt b 0x008) v.toNat) b (bit v.toNat 0)) ∧ b ≠ DMA := by
  have hp (f : State → State) : (Host.Outcome.next (powered s f) : Host.Outcome State Fault Refusal) = .next (f s) := congrArg _ (powered_running hr f)
  simp only [enableCommands, List.mem_append, List.mem_cons, List.not_mem_nil, or_false, List.mem_map, Prod.mk.injEq] at hi
  rcases hi with ((⟨rfl, rfl⟩ | ⟨rfl, rfl⟩ | ⟨rfl, rfl⟩ | ⟨rfl, rfl⟩ | ⟨rfl, rfl⟩ | ⟨rfl, rfl⟩ | ⟨rfl, rfl⟩) | ⟨k, -, rfl, rfl⟩) | ⟨k, -, rfl, rfl⟩
  case inl.inr => exact ⟨hp _, by unfold MEMC DMA; omega⟩
  case inr => exact ⟨hp _, by unfold LINK DMA; omega⟩
  all_goals exact ⟨hp _, by decide⟩

/-! ### The enables of the DMA channels, R160, R569 and R571 -/

theorem testBit_bitsOf (n : Nat) (f : Nat → Bool) : bitsOf n f < 2 ^ n ∧ ∀ k, (bitsOf n f).testBit k = (decide (k < n) && f k) := by
  induction n with
  | zero => exact ⟨by simp [bitsOf], fun k => by simp [bitsOf]⟩
  | succ n ih =>
    obtain ⟨hlt, hbits⟩ := ih
    have hsplit : bitsOf (n + 1) f = 2 ^ n * b2n (f n) + bitsOf n f := by
      simp only [bitsOf, List.range_succ, List.foldl_append, List.foldl_cons, List.foldl_nil]
      rw [Nat.add_comm, Nat.mul_comm]
    have hone : b2n (f n) ≤ 1 := by unfold b2n; split <;> omega
    refine ⟨?_, fun k => ?_⟩
    · rw [hsplit, pow_succ]
      have := Nat.mul_le_mul_left (2 ^ n) hone
      omega
    · rw [hsplit, Nat.testBit_two_pow_mul_add _ hlt, hbits]
      split
      · next hk => simp [hk, Nat.lt_succ_of_lt hk]
      · next hk =>
        rcases Nat.eq_or_lt_of_le (Nat.le_of_not_lt hk) with rfl | hgt
        · rw [Nat.sub_self, testBit_b2n]; simp
        · have hzero : (b2n (f n)).testBit (k - n) = false := Nat.testBit_lt_two_pow (Nat.lt_of_le_of_lt hone (Nat.one_lt_two_pow (by omega)))
          simp [hzero, show ¬ k < n + 1 by omega]

theorem bit_bitsOf {n k : Nat} (hk : k < n) (f : Nat → Bool) : bit (bitsOf n f) k = f k := by
  rw [bit_eq_testBit, (testBit_bitsOf n f).2, decide_eq_true hk, Bool.true_and]

theorem contains_bitList_filter {x n k : Nat} (hk : k < n) (p : Nat → Bool) : ((bitList x n).filter p).contains k = (bit x k && p k) := by
  rw [Bool.eq_iff_iff, List.contains_iff_mem, bitList, List.mem_filter, List.mem_filter, List.mem_range, Bool.and_eq_true]
  exact ⟨fun h => ⟨h.1.2, h.2⟩, fun h => ⟨⟨hk, h.1⟩, h.2⟩⟩

/-- The channels whose enable a write of CHAN_ENABLE leaves accepted. -/
theorem bit_dmaOn_writeChannels {s : State} (hregs : twf 0 s.regs = true) (v : Nat) (c : Fin 32) :
    bit (writeChannels s v).dmaOn.toNat c.val =
      (bit v c.val && (bit s.dmaOn.toNat c.val || (!(blk s DMA).errorStopped && decide (getReg s DMA (0x108 + 32 * c.val) ≤ 16)))) := by
  have hlt : v % 2 ^ 32 < 2 ^ 64 := Nat.lt_of_lt_of_le (Nat.mod_lt _ (by decide)) (by decide)
  have hsize (n : Nat) (hn : n < 32) : getReg (setReg s DMA 0x008 (v % 2 ^ 32)) DMA (0x108 + 32 * n) = getReg s DMA (0x108 + 32 * n) := by
    rw [getReg_setReg hregs _ _ _ _ _ hlt, if_neg (by rw [regKey_inj (by omega) (by decide)]; omega)]
  unfold writeChannels
  dsimp only
  rw [BitVec.toNat_ofNat, Nat.mod_eq_of_lt (testBit_bitsOf 32 _).1, bit_bitsOf c.isLt, contains_bitList_filter c.isLt, contains_bitList_filter c.isLt]
  simp only [setBlk_dmaOn, setReg_dmaOn, hsize c.val c.isLt]
  have hblk : blk (setReg s DMA 0x008 (v % 2 ^ 32)) DMA = blk s DMA := rfl
  have hlegal : decide (getReg s DMA (0x108 + 32 * c.val) ≤ 16) = !decide (16 < getReg s DMA (0x108 + 32 * c.val)) := by rw [← decide_not, decide_eq_decide]; omega
  rw [hblk, hlegal]
  cases bit v c.val <;> cases bit s.dmaOn.toNat c.val <;> simp

/-! ### The statement -/

/-- Settles O28: the fields of the control register are written first, and then its ENABLE by what the block's state and settings allow. -/
theorem enables : Obligations.Enables := by
  refine ⟨fun s v i b hi hr hwf => ?blocks, fun s v c hr _ hregs => ?channels⟩
  case blocks =>
    obtain ⟨hexec, hb⟩ := exec_enable hr hi
    have hw := writeField_fields hwf hb 0x008 (regAt b 0x008) v.toNat
    intro w kept
    obtain ⟨r, slot, hstate⟩ := hw.state
    have hen : isEnabled w b = isEnabled s b := (congrArg BlockStatus.enabled hstate :)
    have hstop : (blk w b).errorStopped = (blk s b).errorStopped := (congrArg BlockStatus.errorStopped hstate :)
    have hset (x : BlockStatus) : blk (setBlk w b x) b = x := by rw [blk_setBlk hw.wf, if_pos rfl]
    refine ⟨fun hv he hc => ?_, fun hv he hc => ?_, fun hv he => ?_, fun hv hd => ?_, fun hv hon hd => ?_⟩
    all_goals refine ⟨_, hexec, ?_⟩; rw [hv]
    · obtain ⟨h1, h2, h3, hk⟩ := writeEnable_enables hw.wf (hstop.trans he) hc
      exact ⟨h1, h2, h3, hw.others.trans hk⟩
    · rw [writeEnable_illegal (hstop.trans he) hc, isEnabled, hset]
      exact ⟨hen, rfl, hw.others.trans (setBlk_others hw.wf ..), hw.mem⟩
    · rw [writeEnable_stopped (hstop.trans he), isEnabled, hset]
      exact ⟨hen, rfl, hw.others.trans (setBlk_others hw.wf ..), hw.mem⟩
    · obtain ⟨h1, h2, hk, hm⟩ := writeEnable_disables hw.wf hd
      exact ⟨h1, h2, hw.others.trans hk, hm.trans hw.mem⟩
    · obtain ⟨h1, h2, h3, hk, hm⟩ := writeEnable_defers hw.wf (hen.trans hon) hd
      exact ⟨h1, h2, h3, hw.others.trans hk, hm.trans hw.mem⟩
  case channels =>
    have hlt : v.toNat % 2 ^ 32 < 2 ^ 64 := Nat.lt_of_lt_of_le (Nat.mod_lt _ (by decide)) (by decide)
    have hreg : getReg (writeChannels s v.toNat) DMA 0x008 = v.toNat % 2 ^ 32 := by
      have := getReg_setReg hregs DMA 0x008 DMA 0x008 (v.toNat % 2 ^ 32) hlt
      rwa [if_pos rfl] at this
    exact ⟨_, congrArg Host.Outcome.next (powered_running hr _), hreg, bit_dmaOn_writeChannels hregs v.toNat c, rfl, rfl, rfl, rfl, rfl⟩

end Sys2Proof.Machine
end

section
/-! SUPPORT. Operations on memory and their books leave the tails of the DMA rings as they were. -/

namespace Sys2Proof.Machine

/-! ### The tails of the rings -/

/-- The tails of the 32 DMA rings in a register table. -/
def ringTails (t : Table Word64) (c : Fin 32) : Word64 := tget 0 t (regKey DMA (0x118 + 32 * c.val))

/-- A step after which every ring has the tail that it had. -/
def TailsKept (s t : State) : Prop := ringTails t.regs = ringTails s.regs

theorem TailsKept.trans {s t u : State} (h : TailsKept s t) (g : TailsKept t u) : TailsKept s u := Eq.trans g h

theorem TailsKept.of_regs {s t : State} (h : t.regs = s.regs) : TailsKept s t := congrArg ringTails h

theorem TailsKept.refl (s : State) : TailsKept s s := rfl

theorem TailsKept.ite {p : Prop} [Decidable p] {s t u : State} (h : TailsKept s t) (g : TailsKept s u) : TailsKept s (if p then t else u) := by
  split
  · exact h
  · exact g

theorem TailsKept.foldl {β : Type} {f : State → β → State} (h : ∀ s b, TailsKept s (f s b)) (l : List β) (s : State) : TailsKept s (l.foldl f s) := by
  induction l generalizing s with
  | nil => exact .refl s
  | cons b l ih => exact (h s b).trans (ih _)

theorem TailsKept.foldl_snd {α β : Type} {f : α × State → β → α × State} (h : ∀ a s b, TailsKept s (f (a, s) b).2) (l : List β) (a : α) (s : State) :
    TailsKept s (l.foldl f (a, s)).2 := by
  induction l generalizing a s with
  | nil => exact .refl s
  | cons b l ih => exact (h a s b).trans (ih (f (a, s) b).1 (f (a, s) b).2)

theorem TailsKept.foldl_fst {α β : Type} {f : State × α → β → State × α} (h : ∀ a s b, TailsKept s (f (s, a) b).1) (l : List β) (a : α) (s : State) :
    TailsKept s (l.foldl f (s, a)).1 := by
  induction l generalizing a s with
  | nil => exact .refl s
  | cons b l ih => exact (h a s b).trans (ih (f (s, a) b).2 (f (s, a) b).1)

/-! ### Registers and counters of other blocks -/

section
variable {s : State} {b off : Nat}

theorem setReg_tails (h : ∀ c : Fin 32, regKey DMA (0x118 + 32 * c.val) ≠ regKey b off) (v : Nat) : TailsKept s (setReg s b off v) := by
  funext c
  exact tget_tset_other s.regs _ (h c)

/-- No register of another block is a ring's tail. -/
theorem tail_ne (hb : b ≠ DMA) (ho : off < 4096) (c : Fin 32) : regKey DMA (0x118 + 32 * c.val) ≠ regKey b off := fun h =>
  hb ((regKey_inj (by omega) ho).mp h).1.symm

theorem countN_tails (h : ∀ c : Fin 32, regKey DMA (0x118 + 32 * c.val) ≠ regKey b off) (w n : Nat) : TailsKept s (countN s b off w n) :=
  .ite (.refl s) (setReg_tails h _)

theorem count_tails (hb : b ≠ DMA) (ho : off < 4096) (w : Nat) : TailsKept s (count s b off w) := countN_tails (tail_ne hb ho) w 1

end

theorem storeBytes_tails (s : State) (g off : Nat) (bs : List Byte) (p : Bool) : TailsKept s (storeBytes s g off bs p) :=
  .of_regs (congrArg State.regs (storeBytes_only s g off bs p) :)

theorem logEntry_tails (s : State) (b cls code d : Nat) : TailsKept s (logEntry s b cls code d) := by
  unfold logEntry
  dsimp only
  split
  · exact count_tails (by decide) (by decide) _
  · exact .trans (.of_regs (readTime_regs s KEEPER)) (.trans (.of_regs (storeGranule_regs ..)) (setReg_tails (tail_ne (by decide) (by decide)) _))

theorem noteUnmapped_tails (m : Master) (s : State) (a : Nat) : TailsKept s (noteUnmapped m s a) :=
  .trans (setReg_tails (tail_ne (by decide) (by decide)) _) (logEntry_tails ..)

theorem notePoisonConsumed_tails (s : State) (b a u : Nat) : TailsKept s (notePoisonConsumed s b a u) := logEntry_tails ..

/-! ### Check points -/

/-- The core that a region names, of those that belong to one. -/
def Region.core : Region → Option Nat
  | .tile n _ => some n
  | .acc n _ => some n
  | .imem n _ _ => some n
  | _ => none

/-- A region names one of the 128 cores, or none. -/
def Region.InRange (x : Region) : Prop := ∀ n, x.core = some n → n < 128

theorem inRange_some {x : Region} {n : Nat} (hx : x.core = some n) (h : n < 128) : x.InRange := fun m hm => by
  obtain rfl : n = m := Option.some.inj (hx.symm.trans hm)
  exact h

theorem inRange_none {x : Region} (h : x.core = none) : x.InRange := fun m hm => by simp [h] at hm

theorem inRange_ite {p : Prop} [Decidable p] {x y : Region} (hx : p → x.InRange) (hy : y.InRange) : (if p then x else y).InRange := by
  split
  · exact hx ‹_›
  · exact hy

theorem regionOf_inRange (s : State) (a : Nat) : (regionOf s a).InRange := by
  have none {p : Prop} {x : Region} (h : x.core = .none) : p → x.InRange := fun _ => inRange_none h
  have within {p : Prop} [Decidable p] {x : Region} (h : p → x.InRange) : (if p then x else .unmapped).InRange := inRange_ite h (inRange_none rfl)
  unfold regionOf
  dsimp only
  refine inRange_ite (fun _ => within (none rfl)) (inRange_ite (fun _ => within (none rfl)) (inRange_ite (fun _ => within (none rfl))
    (inRange_ite (fun _ => within (none rfl)) (inRange_ite (fun _ => within fun h => inRange_some rfl h) (inRange_ite (fun _ => within fun h => inRange_some rfl h)
      (inRange_ite (fun _ => within fun h => inRange_some rfl h) (inRange_ite (fun _ => within (none rfl)) (within (none rfl)))))))))

/-- The channels of the stacks are 0 to 383 (R424). -/
theorem hbmMap_channel_lt (s : State) (a : Nat) : (hbmMap s a).1 < 384 := by
  have hactive (i : Nat) (hi : s.boot.mappedOut.isEmpty = true → i < 384) : activeChannel s i < 384 := by
    unfold activeChannel
    split
    · next h => exact hi h
    · rw [List.getD_eq_getElem?_getD]
      cases hget : ((List.range 384).filter (fun c => !s.boot.mappedOut.contains c))[i]? with
      | none => decide
      | some c => exact List.mem_range.mp (List.mem_filter.mp (List.mem_of_getElem? hget)).1
  refine hactive _ fun h => Nat.lt_of_lt_of_le (Nat.mod_lt _ ?_) (Nat.sub_le ..)
  rw [activeCount, List.isEmpty_iff.mp h]
  decide

theorem memc_ne_dma {s : State} {a : Nat} : MEMC ((hbmMap s a).1 / 32) ≠ DMA := by
  have := hbmMap_channel_lt s a
  unfold MEMC DMA
  omega

/-- The check points are 0x00 to 0x15 (R546). -/
theorem checkPoint_lt (s : State) (a : Nat) : checkPoint s a < 0x16 := by
  have hch := hbmMap_channel_lt s a
  have hcore := regionOf_inRange s a
  unfold checkPoint
  split
  · split <;> omega
  case h_5 n off hr => have := hcore n (congrArg Region.core hr); omega
  case h_6 n off hr => have := hcore n (congrArg Region.core hr); omega
  case h_7 n b off hr => have := hcore n (congrArg Region.core hr); omega
  all_goals decide

section
variable {s : State} {point : Nat}

theorem guardLast_tails (s : State) (v : Word64) : TailsKept s { s with guardLast := v } := rfl

theorem met_tails (s : State) (x : List (Nat × Bool)) (y : List (Nat × Nat)) : TailsKept s { s with scrubs := x, metErrors := y } := rfl

theorem noteUncorr_tails (hp : point < 0x16) (b g : Nat) : TailsKept s (noteUncorr s point b g) := by
  unfold noteUncorr
  dsimp only
  exact (((count_tails (by decide) (by omega) _).trans (count_tails (by decide) (by decide) _)).trans (guardLast_tails _ _)).trans (logEntry_tails ..)

theorem noteCorr_tails (hp : point < 0x16) : TailsKept s (noteCorr s point) :=
  .trans (count_tails (by decide) (by omega) _) (count_tails (by decide) (by decide) _)

theorem noteCheck_tails (s : State) (g : Nat) (r : Guard) : TailsKept s (noteCheck s g r) := by
  cases r with
  | clean => exact .refl s
  | poison => exact .refl s
  | corrected e => exact noteCorr_tails (checkPoint_lt ..)
  | uncorrectable => exact .ite (.refl s) ((met_tails _ _ _).trans (noteUncorr_tails (checkPoint_lt ..) ..))

end

/-! ### The books of HBM, the shared cache and the write-combining buffers -/

theorem wcb_tails (s : State) (w : List WcbEntry) : TailsKept s { s with wcb := w } := rfl

theorem lines_tails (s : State) (w : List (Nat × Bool)) : TailsKept s { s with cacheLines := w } := rfl

theorem stackAccess_tails (s : State) (a : Nat) (w r : Bool) : TailsKept s (stackAccess s a w r) := by
  have hcount (o : Nat) (ho : o < 4096) (u : State) : TailsKept u (count u (MEMC ((hbmMap s a).1 / 32)) o 48) := count_tails memc_ne_dma ho _
  have hif (p : Prop) [Decidable p] (o : Nat) (ho : o < 4096) (u : State) : TailsKept u (if p then count u (MEMC ((hbmMap s a).1 / 32)) o 48 else u) :=
    .ite (hcount o ho u) (.refl u)
  have hdir : (if w = true then 0x028 else 0x020) < 4096 := by split <;> decide
  exact ((hcount _ hdir s).trans (hif _ _ (by decide) _)).trans (hif _ _ (by decide) _)

theorem drainGranule_tails {k : Nat} (hk : MEMC k ≠ DMA) (e : WcbEntry) (p : State × OpenRows) (i : Nat) : TailsKept p.1 (drainGranule k e p i).1 := by
  unfold drainGranule
  dsimp only
  split
  · exact .refl _
  · split
    · exact stackAccess_tails ..
    · exact ((stackAccess_tails ..).trans (count_tails hk (by decide) _)).trans (stackAccess_tails ..)

theorem drainBatch_tails {k : Nat} (hk : MEMC k ≠ DMA) (s : State) (pc : Nat) : TailsKept s (drainBatch s k pc) :=
  .foldl_fst (fun rows s e => .foldl_fst (fun rows s i => drainGranule_tails hk e (s, rows) i) _ rows s) _ _ s

theorem stackReads_tails (s : State) (as : List Nat) (r : Bool) : TailsKept s (stackReads s as r) :=
  .foldl_fst (fun r s a => by dsimp only; split; exacts [.refl s, stackAccess_tails ..]) as r s

theorem wcbWrite_tails (s : State) (a off len : Nat) : TailsKept s (wcbWrite s a off len) := by
  unfold wcbWrite
  dsimp only
  split
  · exact wcb_tails ..
  · refine .trans ?_ (wcb_tails ..)
    split
    · exact .refl s
    · split
      · exact drainBatch_tails memc_ne_dma ..
      · exact .refl s

theorem evictLine_tails (s : State) (l : Nat) (d : Bool) : TailsKept s (evictLine s l d) := by
  unfold evictLine
  dsimp only
  have h : TailsKept s { s with cacheLines := s.cacheLines.filter (fun x => x.1 != l), reserved := s.reserved.filter (fun r => r.2 != l + 1) } := rfl
  split
  · exact (h.trans (count_tails (by decide) (by decide) _)).trans (wcbWrite_tails ..)
  · exact h

theorem allocLine_tails (s : State) (l : Nat) (d : Bool) : TailsKept s (allocLine s l d) := by
  unfold allocLine
  dsimp only
  refine .ite (.refl s) (.trans (.ite (.refl s) (.trans (t := (fresh s).2) rfl ?_)) (lines_tails ..))
  generalize (fresh s).2 = t
  generalize (if s.cacheLines.isEmpty = true then [] else s.cacheLines.filter (fun x => Config.cacheSet x.1 == Config.cacheSet l)) = mine
  split
  · exact evictLine_tails ..
  · exact .refl _

theorem hit_tails (p : Prop) [Decidable p] (s : State) {o : Nat} (ho : o < 4096) : TailsKept s (if p then count s SCACHE o 48 else s) :=
  .ite (count_tails (by decide) ho _) (.refl s)

theorem hbmReadNote_tails (s : State) (a : Nat) (f at' : Bool) : TailsKept s (hbmReadNote s a f at') :=
  .ite (.ite (hit_tails _ s (by decide)) ((hit_tails _ s (by decide)).trans (.ite ((stackReads_tails ..).trans (allocLine_tails ..)) (stackReads_tails ..))))
    (stackReads_tails ..)

theorem hbmWriteNote_tails (s : State) (a off len : Nat) (f at' : Bool) : TailsKept s (hbmWriteNote s a off len f at') :=
  .ite (.ite ((hit_tails _ s (by decide)).trans (lines_tails ..))
    ((hit_tails _ s (by decide)).trans (.ite ((stackReads_tails ..).trans (allocLine_tails ..)) (wcbWrite_tails ..)))) (wcbWrite_tails ..)

/-! ### Reads and writes by a DMA channel -/

theorem readGranule_tails (s : State) (g : Nat) (f : Bool) : TailsKept s (readGranule s g f).2.2 := by
  unfold readGranule
  dsimp only
  split
  · split
    · exact count_tails memc_ne_dma (by decide) _
    · exact (hbmReadNote_tails ..).trans (noteCheck_tails ..)
  · exact .refl s
  · exact noteCheck_tails ..

theorem hopErrors_tails (s : State) (x : List (Nat × Nat × BitVec 32)) : TailsKept s { s with hopErrors := x } := rfl

theorem crossHop_tails {point : Nat} (hp : point < 0x16) (g : Nat) (p : Guard × State) : TailsKept p.2 (crossHop g p point).2 := by
  unfold crossHop
  split
  · exact .refl _
  · dsimp only
    split
    · exact (hopErrors_tails p.2 _).trans (noteCorr_tails hp)
    · exact (hopErrors_tails p.2 _).trans (noteUncorr_tails hp ..)
    · exact hopErrors_tails p.2 _
    · exact hopErrors_tails p.2 _

/-- The check points between a DMA channel and an address. -/
theorem hopPoints_dma_lt (c : Fin 32) (s : State) (a : Nat) : ∀ point ∈ hopPoints (.dma c) s a, point < 0x16 := by
  have hdie : ∀ e, addressDie s a = some e → e < 2 := by
    intro e he
    have hcore := regionOf_inRange s a
    unfold addressDie at he
    split at he
    case h_4 => simp at he
    all_goals
      next hr =>
      have := hcore _ (congrArg Region.core hr)
      have := Option.some.inj he
      omega
  intro point hp
  cases he : addressDie s a with
  | none =>
    simp only [hopPoints, masterDie, he, List.mem_singleton] at hp
    omega
  | some e =>
    have := hdie e he
    simp only [hopPoints, masterDie, he, List.mem_cons, List.not_mem_nil, or_false] at hp
    omega

theorem foldl_crossHop_tails {l : List Nat} (hl : ∀ point ∈ l, point < 0x16) (g : Nat) (p : Guard × State) : TailsKept p.2 (l.foldl (crossHop g) p).2 := by
  induction l generalizing p with
  | nil => exact .refl _
  | cons point l ih => exact (crossHop_tails (hl point List.mem_cons_self) g p).trans (ih (fun q hq => hl q (List.mem_cons_of_mem _ hq)) _)

theorem crossHops_tails (c : Fin 32) (s : State) (g : Nat) (r : Guard) : TailsKept s (crossHops (.dma c) s g r).2 := by
  unfold crossHops
  split
  · exact .refl s
  · have hpoints := hopPoints_dma_lt c s (32 * g)
    exact foldl_crossHop_tails hpoints g (r, s)

theorem readSpan_tails (c : Fin 32) (s : State) (a n : Nat) : TailsKept s (readSpan (.dma c) s a n).2 := by
  refine .foldl_snd (fun rd s p => ?_) _ _ _
  dsimp only
  split
  · split
    · exact .refl s
    · exact noteUnmapped_tails ..
  · exact .of_regs (by unfold noteTimeRead; split <;> rfl)
  · exact (readGranule_tails ..).trans (crossHops_tails ..)

theorem writePiece_tails (c : Fin 32) (s : State) (g off : Nat) (bs : List Byte) (p f : Bool) : TailsKept s (writePiece (.dma c) s g off bs p f) := by
  unfold writePiece
  dsimp only
  generalize hr : regionOf s (32 * g + off) = r
  cases r <;> dsimp only
  case unmapped => exact .refl s
  case regs => exact .of_regs rfl
  case imem n b o => exact .ite (storeBytes_tails ..) (.ite (count_tails (by unfold CORE DMA; omega) (by decide) _) (.refl s))
  case solverStore => exact .ite (.ite (count_tails (by decide) (by decide) _) (.refl s)) (storeBytes_tails ..)
  case hbm => exact .ite (count_tails memc_ne_dma (by decide) _) ((hbmWriteNote_tails ..).trans (storeBytes_tails ..))
  all_goals exact storeBytes_tails ..

theorem writeSpan_tails (c : Fin 32) (s : State) (a : Nat) (bs : List Byte) (p : List Nat) : TailsKept s (writeSpan (.dma c) s a bs p).2 := by
  unfold writeSpan
  dsimp only
  refine .trans ?_ (.foldl_fst (fun _ _ _ => (crossHops_tails ..).trans (writePiece_tails ..)) _ _ _)
  split
  · exact noteUnmapped_tails ..
  · exact .refl s

end Sys2Proof.Machine
end

section
/-! SUPPORT. What a DMA channel's reads bring and what its units leave of everything else: with local places every unit starts, and ends or faults. -/

namespace Sys2Proof.Machine

/-! ### Lists cut into pieces of equal length -/

theorem chunks_eq_map {α : Type} {n m fuel : Nat} {l : List α} (hn : 0 < n) (hl : l.length = n * m) (hf : m ≤ fuel) :
    chunks n fuel l = (List.range m).map (fun i => (l.drop (n * i)).take n) := by
  induction m generalizing fuel l with
  | zero =>
    obtain rfl : l = [] := List.length_eq_zero_iff.mp hl
    cases fuel <;> rfl
  | succ m ih =>
    obtain ⟨fuel, rfl⟩ : ∃ f, fuel = f + 1 := ⟨fuel - 1, by omega⟩
    have hcut : chunks n (fuel + 1) l = l.take n :: chunks n fuel (l.drop n) := by
      cases l with
      | nil =>
        simp only [List.length_nil, Nat.mul_add] at hl
        omega
      | cons x l => rfl
    rw [hcut, ih (by rw [List.length_drop, hl, Nat.mul_succ]; omega) (by omega), List.range_succ_eq_map, List.map_cons, List.map_map]
    simp only [Function.comp_def, List.drop_drop, Nat.succ_eq_add_one, Nat.mul_add, Nat.mul_one, Nat.mul_zero, List.drop_zero, Nat.add_comm]

/-- The granules that an access of whole granules brings, with their places. -/
theorem gotGranules_eq {a m : Nat} {data : List Byte} (hl : data.length = 32 * m) (bad : Nat → Bool) :
    gotGranules a data bad = (List.range m).map (fun i => (a + 32 * i, (data.drop (32 * i)).take 32, bad i)) := by
  rw [gotGranules, chunks_eq_map (by decide) hl (by omega)]
  apply List.ext_getElem <;> simp

/-- The addresses of a range of whole granules. -/
theorem rangeAddrs_eq {a m : Nat} (ha : a % 32 = 0) : rangeAddrs a (32 * m) = (List.range m).map (fun i => a + 32 * i) := by
  unfold rangeAddrs pieces
  split
  · next h => obtain rfl : m = 0 := by omega
              rfl
  · have hcount : (a + 32 * m - 1) / 32 - a / 32 + 1 = m := by omega
    rw [hcount, List.map_map]
    refine List.map_congr_left fun i _ => ?_
    simp only [Function.comp_apply]
    omega

/-! ### The length of what a read returns -/

theorem peekGranule_length (s : State) (g : Nat) : (peekGranule s g).1.length = 32 := by
  have hmod (l : List Byte) (i : Nat) (f : Byte → Byte) : (modifyAt l i f).length = l.length := by
    unfold modifyAt
    split
    · exact List.length_set
    · rfl
  have hrepair (errs : List (Nat × Nat)) : ∀ l : List Byte, (repairBytes l errs).length = l.length := by
    unfold repairBytes
    induction errs with
    | nil => exact fun l => rfl
    | cons e errs ih =>
      intro l
      rw [List.foldl_cons, ih]
      split
      · exact hmod ..
      · rfl
  unfold peekGranule
  dsimp only
  split
  · rw [hrepair, memBytes_length]
  · rw [memBytes_length]

theorem readGranule_length (s : State) (g : Nat) (first : Bool) : (readGranule s g first).1.length = 32 := by
  unfold readGranule
  dsimp only
  split
  · split
    · exact List.length_replicate
    · exact peekGranule_length s g
  · exact List.length_replicate
  · exact peekGranule_length s g

/-- A read returns as many bytes as it asks for. -/
theorem readSpan_length (m : Master) (s : State) (a n : Nat) : (readSpan m s a n).1.data.length = n := by
  have hread : (readSpan m s a n).1.data.length = ({} : Rd).data.length + n := by
    refine foldl_pieces (motive := fun _ n (b r : Rd × State) => r.1.data.length = b.1.data.length + n) (fun _ _ => rfl) ?_
    intro a n b r hn ih
    rw [ih]
    have hk : min n (32 - a % 32) ≤ n := Nat.min_le_left _ _
    suffices h : ∀ x k, k = b.1.data.length + min n (32 - a % 32) → x = k → x + (n - min n (32 - a % 32)) = b.1.data.length + n by
      refine h _ _ rfl ?_
      dsimp only
      split
      · simp
      · simp [regReadBytes]
      · have hlen := readGranule_length b.2 (a / 32) b.1.data.isEmpty
        split <;> (simp only [List.length_append, List.length_take, List.length_drop, hlen]; omega)
    intro x k hk' hx
    omega
  simpa using hread

/-! ### Jobs -/

theorem lt_of_getJob {s : State} {c : Nat} {j : DmaJob} (h : getJob s c = some j) : c < s.dma.length := by
  by_contra hc
  simp [getJob, List.getElem?_eq_none (Nat.le_of_not_lt hc)] at h

theorem setJob_getJob (s : State) (c : Nat) : setJob s c (getJob s c) = s := by
  simp only [setJob, getJob]
  cases h : s.dma[c]? with
  | none => rw [List.set_eq_of_length_le (by simpa using h)]
  | some j =>
    obtain ⟨hc, rfl⟩ := List.getElem?_eq_some_iff.mp h
    simp

theorem modJob_some {s : State} {c : Nat} {j : DmaJob} (h : getJob s c = some j) (f : DmaJob → DmaJob) : modJob s c f = setJob s c (some (f j)) := by
  simp only [modJob, h]

theorem getJob_modJob_self {s : State} {c : Nat} {j : DmaJob} (h : getJob s c = some j) (f : DmaJob → DmaJob) : getJob (modJob s c f) c = some (f j) := by
  rw [modJob_some h, getJob_setJob _ _ _ (lt_of_getJob h), if_pos rfl]

/-- A job's place in its descriptor: what its reads, its writes and their counts leave alone. -/
def DmaJob.progress (j : DmaJob) : DmaJob :=
  { j with got := [], pruned := 0, denseTiles := 0, poisonReads := 0, poisoned := false, corrReads := 0, unmapped := false, writer := none }

/-- The state without what the work of a DMA channel may change. -/
def dmaAside (s : State) : State := aside { s with dma := [], doneWrites := [] }

/-- A step that only the work of channel c makes: other channels' jobs and the tails of the rings are as before. -/
structure JobOnly (c : Nat) (s t : State) : Prop where
  rest : dmaAside t = dmaAside s
  tails : TailsKept s t
  others : ∀ k, k ≠ c → getJob t k = getJob s k

/-- Work within a unit of channel c: its job goes on, with the granules that it has. -/
structure Works (c : Nat) (s t : State) : Prop extends JobOnly c s t where
  job : ∀ j, getJob s c = some j → ∃ j', getJob t c = some j' ∧ j'.progress = j.progress ∧ ∀ a, j.has a = true → j'.has a = true

/-- A unit of channel c that stops its descriptor with a fault. -/
structure Stops (c : Nat) (s t : State) : Prop extends JobOnly c s t where
  job : ∀ j, getJob s c = some j → ∃ j', getJob t c = some j' ∧ j'.desc = j.desc ∧ j'.total = j.total ∧ j'.finished = true ∧ j'.fault ≠ 0

section
variable {c : Nat} {s t u : State}

theorem JobOnly.refl (s : State) : JobOnly c s s := ⟨rfl, rfl, fun _ _ => rfl⟩

theorem JobOnly.trans (h : JobOnly c s t) (g : JobOnly c t u) : JobOnly c s u :=
  ⟨g.rest.trans h.rest, h.tails.trans g.tails, fun k hk => (g.others k hk).trans (h.others k hk)⟩

theorem JobOnly.cores (h : JobOnly c s t) : t.cores = s.cores := (congrArg State.cores h.rest :)

theorem JobOnly.remote (h : JobOnly c s t) : t.remote = s.remote := (congrArg State.remote h.rest :)

theorem JobOnly.of_tidy (h : Tidy s t) (ht : TailsKept s t) : JobOnly c s t :=
  ⟨congrArg (fun x : State => { x with dma := [], doneWrites := [] }) h.rest, ht, fun k _ => by simp only [getJob, h.dma]⟩

theorem JobOnly.setJob (s : State) (c : Nat) (j : Option DmaJob) : JobOnly c s (setJob s c j) :=
  ⟨rfl, rfl, fun k hk => by simp only [getJob, Machine.setJob, List.getElem?_set_ne (Ne.symm hk)]⟩

theorem Works.refl (s : State) : Works c s s := ⟨.refl s, fun j hj => ⟨j, hj, rfl, fun _ h => h⟩⟩

theorem Works.trans (h : Works c s t) (g : Works c t u) : Works c s u := by
  refine ⟨h.toJobOnly.trans g.toJobOnly, fun j hj => ?_⟩
  obtain ⟨j', hj', hp, hh⟩ := h.job j hj
  obtain ⟨j'', hj'', hp', hh'⟩ := g.job j' hj'
  exact ⟨j'', hj'', hp'.trans hp, fun a ha => hh' a (hh a ha)⟩

theorem Works.then_stops (h : Works c s t) (g : Stops c t u) : Stops c s u := by
  refine ⟨h.toJobOnly.trans g.toJobOnly, fun j hj => ?_⟩
  obtain ⟨j', hj', hp, -⟩ := h.job j hj
  obtain ⟨j'', hj'', hd, ht, hf⟩ := g.job j' hj'
  have hdesc : j'.desc = j.desc := (congrArg DmaJob.desc hp :)
  have htotal : j'.total = j.total := (congrArg DmaJob.total hp :)
  exact ⟨j'', hj'', hd.trans hdesc, ht.trans htotal, hf⟩

theorem Works.of_tidy (h : Tidy s t) (ht : TailsKept s t) : Works c s t :=
  ⟨.of_tidy h ht, fun j hj => ⟨j, by simp only [getJob, h.dma] at hj ⊢; exact hj, rfl, fun _ h => h⟩⟩

theorem Works.ite {p : Prop} [Decidable p] (h : Works c s t) (g : Works c s u) : Works c s (if p then t else u) := by
  split
  · exact h
  · exact g

theorem Works.foldl {β : Type} {f : State → β → State} (h : ∀ s b, Works c s (f s b)) (l : List β) (s : State) : Works c s (l.foldl f s) := by
  induction l generalizing s with
  | nil => exact .refl s
  | cons b l ih => exact (h s b).trans (ih _)

theorem Works.setJob {j j' : DmaJob} (hj : getJob s c = some j) (hp : j'.progress = j.progress) (hh : ∀ a, j.has a = true → j'.has a = true) :
    Works c s (setJob s c (some j')) := by
  refine ⟨.setJob s c _, fun k hk => ⟨j', ?_, ?_⟩⟩
  · rw [getJob_setJob _ _ _ (lt_of_getJob hj), if_pos rfl]
  · obtain rfl : j = k := Option.some.inj (hj.symm.trans hk)
    exact ⟨hp, hh⟩

theorem Works.modJob (s : State) {f : DmaJob → DmaJob} (hp : ∀ j, (f j).progress = j.progress) (hh : ∀ j a, j.has a = true → (f j).has a = true) :
    Works c s (modJob s c f) := by
  unfold Machine.modJob
  split
  · next j hj => exact .setJob hj (hp j) (hh j)
  · exact .refl s

theorem Works.noteLines (s : State) (a n : Nat) : Works c s (noteLines s a n) := by
  unfold Machine.noteLines
  split
  · exact .refl s
  · exact ⟨⟨rfl, rfl, fun _ _ => rfl⟩, fun j hj => ⟨j, hj, rfl, fun _ h => h⟩⟩

theorem Works.countN (b off w n : Nat) (h : ∀ c : Fin 32, regKey DMA (0x118 + 32 * c.val) ≠ regKey b off) : Works c s (countN s b off w n) :=
  .of_tidy (countN_tidy ..) (countN_tails h ..)

end

/-! ### Local places -/

theorem resolve_local (m : Master) (s : State) (a need : Nat) (fill : Bool) : resolve m s 0 a need fill = (.here (a % 2 ^ 42), s) := rfl

theorem dmaMaster_val (c : Fin 32) : dmaMaster c.val = .dma c := by
  simp [dmaMaster]

/-- The channel awaits no answer of another module. -/
def NoAnswer (c : Fin 32) (s : State) : Prop := ∀ r ∈ s.remote, r.master ≠ .dma c

theorem NoAnswer.waits {c : Fin 32} {s : State} (h : NoAnswer c s) (w : Bool) : dmaWaits s c.val w = false := by
  simp only [dmaWaits, dmaMaster_val, List.any_eq_false, Bool.and_eq_true, beq_iff_eq, not_and]
  exact fun r hr hm => absurd hm (h r hr)

theorem JobOnly.noAnswer {c : Fin 32} {k : Nat} {s t : State} (h : JobOnly k s t) (hn : NoAnswer c s) : NoAnswer c t := fun r hr => hn r (by rwa [← h.remote])

/-! ### Source granules, R541 -/

section
variable {c : Fin 32} {s : State} {consumes : Bool} {x : Nat × Nat}

/-- A chunk of a local source range has been read. -/
def chunkRead (s : State) (c : Fin 32) (consumes : Bool) (x : Nat × Nat) : State :=
  let r := readSpan (.dma c) s (x.1 % 2 ^ 42) x.2
  modJob (if consumes then r.1.poison.foldl (fun s g => notePoisonConsumed s DMA (32 * g) c.val) r.2 else r.2) c.val (fun j =>
    { j with got := j.got ++ gotGranules x.1 r.1.data (fun i => r.1.poison.contains (x.1 % 2 ^ 42 / 32 + i)),
             poisonReads := j.poisonReads + r.1.bad, corrReads := j.corrReads + r.1.corr })

/-- A chunk of a local range is read, unless all of it has arrived. -/
theorem fetchChunk_local {j : DmaJob} (hj : getJob s c.val = some j) (hn : NoAnswer c s) :
    fetchChunk s c.val 0 consumes x = if (rangeAddrs x.1 x.2).all j.has = true then s else chunkRead s c consumes x := by
  have hno : s.remote.any (fun r => r.master == .dma c && !r.isWrite && r.addr == x.1) = false := by
    simp only [List.any_eq_false, Bool.and_eq_true, beq_iff_eq, not_and]
    exact fun r hr hm => absurd hm.1 (hn r hr)
  simp only [fetchChunk, hj, dmaMaster_val, hno, Bool.or_false, resolve_local]
  rfl

theorem chunkRead_works : Works c.val s (chunkRead s c consumes x) := by
  unfold chunkRead
  refine Works.trans (.ite ?_ ?_) (.modJob _ (fun _ => rfl) fun j a ha => ?_)
  · exact .trans (.of_tidy (readSpan_tidy ..) (readSpan_tails ..))
      (.foldl (fun s g => .of_tidy (notePoisonConsumed_tidy ..) (notePoisonConsumed_tails ..)) _ _)
  · exact .of_tidy (readSpan_tidy ..) (readSpan_tails ..)
  · simp only [DmaJob.has, List.any_append, Bool.or_eq_true] at ha ⊢
    exact .inl ha

/-- The granules of a chunk that has been read. -/
theorem chunkRead_has {j : DmaJob} (hj : getJob s c.val = some j) {m : Nat} (ha : x.1 % 32 = 0) (hm : x.2 = 32 * m) :
    ∃ j', getJob (chunkRead s c consumes x) c.val = some j' ∧ (rangeAddrs x.1 x.2).all j'.has = true := by
  have hread : Works c.val s (if consumes then (readSpan (.dma c) s (x.1 % 2 ^ 42) x.2).1.poison.foldl
      (fun s g => notePoisonConsumed s DMA (32 * g) c.val) (readSpan (.dma c) s (x.1 % 2 ^ 42) x.2).2 else (readSpan (.dma c) s (x.1 % 2 ^ 42) x.2).2) :=
    .ite (.trans (.of_tidy (readSpan_tidy ..) (readSpan_tails ..))
      (.foldl (fun s g => .of_tidy (notePoisonConsumed_tidy ..) (notePoisonConsumed_tails ..)) _ _)) (.of_tidy (readSpan_tidy ..) (readSpan_tails ..))
  obtain ⟨j₁, hj₁, -⟩ := hread.job j hj
  refine ⟨_, getJob_modJob_self hj₁ _, ?_⟩
  have hlen : (readSpan (.dma c) s (x.1 % 2 ^ 42) x.2).1.data.length = 32 * m := by rw [readSpan_length, hm]
  rw [hm, rangeAddrs_eq ha]
  simp only [List.all_eq_true, List.mem_map, List.mem_range, DmaJob.has, List.any_append, Bool.or_eq_true]
  rintro a ⟨i, hi, rfl⟩
  right
  rw [← hm, gotGranules_eq hlen]
  simp only [List.any_eq_true, List.mem_map, List.mem_range]
  exact ⟨_, ⟨i, hi, rfl⟩, by simp⟩

end

/-- The chunks of a range of whole granules are of whole granules. -/
theorem accessChunks_aligned {a n : Nat} (ha : a % 32 = 0) (hn : n % 32 = 0) {x : Nat × Nat} (hx : x ∈ accessChunks a n) : x.1 % 32 = 0 ∧ x.2 = 32 * (x.2 / 32) := by
  unfold accessChunks at hx
  split at hx
  · simp at hx
  · obtain ⟨i, -, rfl⟩ := List.mem_map.mp hx
    dsimp only
    omega

/-- The chunks in which source ranges are read, in whole granules. -/
def sourceChunks (rs : List (Nat × Nat)) : List (Nat × Nat) :=
  rs.flatMap (fun r => accessChunks (r.1 / 32 * 32) (32 * ((r.1 + r.2 + 31) / 32) - r.1 / 32 * 32))

theorem sourceChunks_aligned {rs : List (Nat × Nat)} {x : Nat × Nat} (hx : x ∈ sourceChunks rs) : x.1 % 32 = 0 ∧ x.2 = 32 * (x.2 / 32) := by
  obtain ⟨r, -, hr⟩ := List.mem_flatMap.mp hx
  exact accessChunks_aligned (by omega) (by omega) hr

section
variable {c : Fin 32} {s : State} {consumes : Bool}

theorem fetchChunks_arrive {xs : List (Nat × Nat)} (hx : ∀ x ∈ xs, x.1 % 32 = 0 ∧ x.2 = 32 * (x.2 / 32)) {j : DmaJob} (hj : getJob s c.val = some j)
    (hn : NoAnswer c s) :
    Works c.val s (xs.foldl (fun s x => fetchChunk s c.val 0 consumes x) s) ∧
      ∃ j', getJob (xs.foldl (fun s x => fetchChunk s c.val 0 consumes x) s) c.val = some j' ∧ ∀ x ∈ xs, (rangeAddrs x.1 x.2).all j'.has = true := by
  induction xs generalizing s j with
  | nil => exact ⟨.refl s, j, hj, by simp⟩
  | cons x xs ih =>
    obtain ⟨ha, hm⟩ := hx x List.mem_cons_self
    have hstep : Works c.val s (fetchChunk s c.val 0 consumes x) ∧
        ∃ j', getJob (fetchChunk s c.val 0 consumes x) c.val = some j' ∧ (rangeAddrs x.1 x.2).all j'.has = true := by
      rw [fetchChunk_local hj hn]
      split
      · next hall => exact ⟨.refl s, j, hj, hall⟩
      · exact ⟨chunkRead_works, chunkRead_has hj ha hm⟩
    obtain ⟨hw, j₁, hj₁, hall⟩ := hstep
    obtain ⟨hw', j', hj', hall'⟩ := ih (fun y hy => hx y (List.mem_cons_of_mem _ hy)) hj₁ (hw.noAnswer hn)
    rw [List.foldl_cons]
    refine ⟨hw.trans hw', j', hj', fun y hy => ?_⟩
    rcases List.mem_cons.mp hy with rfl | hy
    · obtain ⟨j'', hj'', -, hh⟩ := hw'.job j₁ hj₁
      obtain rfl : j'' = j' := Option.some.inj (hj''.symm.trans hj')
      simp only [List.all_eq_true] at hall ⊢
      exact fun a h => hh a (hall a h)
    · exact hall' y hy

/-- Local source ranges have all arrived once they are asked for. -/
theorem fetchRanges_arrives {j : DmaJob} (hj : getJob s c.val = some j) (hn : NoAnswer c s) (rs : List (Nat × Nat)) :
    (fetchRanges s c.val 0 consumes rs).1 = true ∧ Works c.val s (fetchRanges s c.val 0 consumes rs).2 := by
  obtain ⟨hw, j', hj', hall⟩ := fetchChunks_arrive (consumes := consumes) (xs := sourceChunks rs) (fun x hx => sourceChunks_aligned hx) hj hn
  refine ⟨?_, hw⟩
  unfold sourceChunks at hj' hall
  simp only [fetchRanges, hj', List.all_eq_true] at hall ⊢
  exact hall

end

/-! ### Writes of local destinations -/

section
variable {c : Fin 32}

/-- A chunk with poisoned granules is noted in the job. -/
def chunkMarked (s : State) (c : Fin 32) (bad : List Nat) : State := if bad.isEmpty then s else modJob s c.val (fun j => { j with poisoned := true })

/-- One chunk of a local destination is written; a discarded write is noted in the job. -/
def chunkWritten (s : State) (c : Fin 32) (part : List Byte) (bad : List Nat) (x : Nat × Nat) : State :=
  let r := writeSpan (.dma c) (chunkMarked s c bad) (x.1 % 2 ^ 42) part (bad.map (fun g => g - x.1 / 32 + x.1 % 2 ^ 42 / 32))
  if r.1 then modJob r.2 c.val (fun j => { j with unmapped := true }) else noteLines r.2 (x.1 % 2 ^ 42) part.length

theorem dmaWrite_local (s : State) (a : Nat) (bs : List Byte) (poison : Bool) (carried : List Nat) :
    dmaWrite s c.val 0 a bs poison carried = (accessChunks a bs.length).foldl (fun s x =>
      chunkWritten s c ((bs.drop (x.1 - a)).take x.2) ((pieces x.1 x.2).map (·.1) |>.filter (fun g => poison || carried.contains g)) x) s := by
  simp only [dmaWrite, resolve_local, dmaMaster_val]
  rfl

theorem chunkMarked_works (s : State) (bad : List Nat) : Works c.val s (chunkMarked s c bad) :=
  .ite (.refl s) (.modJob _ (fun _ => rfl) (fun _ _ h => h))

theorem chunkWritten_works (s : State) (part : List Byte) (bad : List Nat) (x : Nat × Nat) : Works c.val s (chunkWritten s c part bad x) := by
  have hwrite : Works c.val s (writeSpan (.dma c) (chunkMarked s c bad) (x.1 % 2 ^ 42) part (bad.map (fun g => g - x.1 / 32 + x.1 % 2 ^ 42 / 32))).2 :=
    (chunkMarked_works s bad).trans (.of_tidy (writeSpan_tidy ..) (writeSpan_tails ..))
  exact .ite (hwrite.trans (.modJob _ (fun _ => rfl) (fun _ _ h => h))) (hwrite.trans (.noteLines ..))

theorem dmaWrite_works (s : State) (a : Nat) (bs : List Byte) (poison : Bool) (carried : List Nat) : Works c.val s (dmaWrite s c.val 0 a bs poison carried) := by
  rw [dmaWrite_local]
  exact .foldl (fun s x => chunkWritten_works ..) _ s

variable {d : DmaDesc}

theorem writeRow_works (hk : d.dstKind = 0) (s : State) (len r x y : Nat) (vals : List F32) (poison : Bool) :
    Works c.val s (writeRow s c.val d len r x y vals poison) := by
  unfold writeRow
  split
  · exact .refl s
  · next j hj =>
    have hwriter : Works c.val s (setJob s c.val (some { j with writer := (packValues d.dstNum j.writer vals).writer })) := .setJob hj rfl (fun _ h => h)
    have hcount := hwriter.trans (.countN NUMERIC 0x090 32 (packValues d.dstNum j.writer vals).nans (tail_ne (by decide) (by decide)))
    simp only [hk]
    exact .ite (.trans (hcount.trans (dmaWrite_works ..)) (dmaWrite_works ..)) (hcount.trans (dmaWrite_works ..))

theorem writeTensorScale_works (hk : d.dstKind = 0) (s : State) : Works c.val s (writeTensorScale s c.val d) := by
  unfold writeTensorScale
  split
  · split
    · rw [hk]
      exact .ite (dmaWrite_works ..) (.refl s)
    · exact .refl s
  · exact .refl s

/-! ### Units, R156 and R164 -/

/-- A step in which a unit goes through, or stops its descriptor with a fault. -/
def UnitRuns (c : Nat) (s t : State) : Prop := Works c s t ∨ Stops c s t

theorem UnitRuns.after {k : Nat} {s t u : State} (g : UnitRuns k t u) (h : Works k s t) : UnitRuns k s u := g.imp h.trans h.then_stops

theorem stops_of_fault {k : Nat} {s : State} {j : DmaJob} (hj : getJob s k = some j) (j₀ : DmaJob) (hd : j₀.desc = j.desc) (ht : j₀.total = j.total) {fault : Nat}
    (hf : fault ≠ 0) (tile row group orient : Nat) : Stops k s (setJob s k (some (dmaFault j₀ fault tile row group orient))) := by
  refine ⟨.setJob s k _, fun j' hj' => ⟨dmaFault j₀ fault tile row group orient, ?_, ?_⟩⟩
  · rw [getJob_setJob _ _ _ (lt_of_getJob hj), if_pos rfl]
  · obtain rfl : j = j' := Option.some.inj (hj.symm.trans hj')
    exact ⟨hd, ht, rfl, hf⟩

variable {s : State} {j : DmaJob}

theorem copyUnit_runs (hj : getJob s c.val = some j) (hn : NoAnswer c s) (hsrc : d.srcKind = 0) (hdst : d.dstKind = 0) (u : Nat) :
    ∃ t, (copyUnit s c.val d u).1 = some t ∧ UnitRuns c.val s t := by
  unfold copyUnit
  rw [hsrc, hdst]
  obtain ⟨hok, hw⟩ := fetchRanges_arrives (consumes := !d.carries) hj hn
    ((if d.orient = true then (List.range d.rows).map d.rowRange else [d.rowRange u]) ++ d.scaleRange)
  dsimp only
  generalize fetchRanges s c.val 0 (!d.carries) _ = r at hok hw
  obtain ⟨ok, v⟩ := r
  obtain ⟨j', hj', -⟩ := hw.job j hj
  obtain rfl : ok = true := hok
  simp only [hj']
  split
  · exact ⟨_, rfl, .inl (hw.trans (dmaWrite_works ..))⟩
  · split
    · exact ⟨_, rfl, .inl (hw.trans ((writeTensorScale_works hdst v).trans (.ite (.refl _) (.foldl (fun s r => writeRow_works hdst ..) _ _))))⟩
    · exact ⟨_, rfl, .inl (hw.trans ((writeTensorScale_works hdst v).trans (writeRow_works hdst ..)))⟩

theorem compressUnit_runs (hj : getJob s c.val = some j) (hn : NoAnswer c s) (hsrc : d.srcKind = 0) (hdst : d.dstKind = 0) (hdst2 : d.dst2Kind = 0) (u : Nat) :
    ∃ t, (compressUnit s c.val d u).1 = some t ∧ UnitRuns c.val s t := by
  unfold compressUnit
  rw [hsrc, hdst, hdst2]
  obtain ⟨hok, hw⟩ := fetchRanges_arrives (consumes := true) hj hn ((List.range d.rows).map d.rowRange ++ d.scaleRange)
  dsimp only
  generalize fetchRanges s c.val 0 true _ = r at hok hw
  obtain ⟨ok, v⟩ := r
  obtain ⟨j', hj', -⟩ := hw.job j hj
  obtain rfl : ok = true := hok
  simp only [hj', ite_self]
  generalize (if decide (d.tiles ≤ u) = true then u - d.tiles else u) = tile
  generalize formFrom d j' (decide (d.tiles ≤ u)) tile = f
  generalize (if decide (d.tiles ≤ u) = true then d.dst2Pitch else d.dstPitch) = stride
  have hkey (off : Nat) (h : off < 0x100) : ∀ k : Fin 32, regKey DMA (0x118 + 32 * k.val) ≠ regKey DMA off := fun k => by
    rw [Ne, regKey_inj (by omega) (by omega)]; omega
  have hpruned : Works c.val s (countN v DMA 0x028 32 f.pruned) := hw.trans (.countN DMA 0x028 32 _ (hkey _ (by decide)))
  have hsame : getJob (countN v DMA 0x028 32 f.pruned) c.val = some j' := by
    simp only [getJob, (countN_tidy ..).dma]; exact hj'
  split
  · next hf => exact ⟨_, rfl, .inr (hw.then_stops (stops_of_fault hj' j' rfl rfl hf ..))⟩
  · split
    · refine ⟨_, rfl, .inr (hpruned.then_stops ?_)⟩
      exact stops_of_fault hsame { j' with pruned := j'.pruned + f.pruned, writer := f.writer } rfl rfl (by decide) tile 0 0 _
    · refine ⟨_, rfl, .inl ?_⟩
      have hjob := hpruned.trans (.setJob hsame (j' := { j' with pruned := j'.pruned + f.pruned, writer := f.writer, denseTiles := j'.denseTiles + b2n f.dense })
        rfl fun _ h => h)
      have hcounted := (hjob.trans (.countN DMA 0x020 32 (b2n f.dense) (hkey _ (by decide)))).trans (.countN NUMERIC 0x090 32 f.nans (tail_ne (by decide) (by decide)))
      exact hcounted.trans (dmaWrite_works ..)

end

end Sys2Proof.Machine
end

section
/-! SUPPORT. The units of a DMA descriptor with local places, one after another to its end. -/

namespace Sys2Proof.Machine

section
variable {c : Fin 32} {d : DmaDesc} {s : State} {j : DmaJob}

/-! ### An expansion's unit -/

theorem expandFault_ne_zero {u : Nat} {x : Nat × Nat × Nat} (h : expandFault d j u = some x) : x.1 ≠ 0 := by
  unfold expandFault at h
  split at h
  · simp at h
  · split at h
    · obtain rfl := Option.some.inj h
      exact Nat.succ_ne_zero 3
    · split at h
      · simp at h
      · obtain ⟨f, -, rfl⟩ := Option.map_eq_some_iff.mp h
        exact Nat.succ_ne_zero 2

/-- The elements of tile u that one row of the destination takes. -/
def expandRow (c : Fin 32) (d : DmaDesc) (s : State) (len row lo hi : Nat) (el : Nat → F32 × Bool) : State :=
  let r := completeRange d.dstNum len lo (min hi len)
  if r.2 ≤ r.1 then s
  else
    let vals := (List.range (r.2 - r.1)).map (fun i => el (r.1 + i))
    writeRow s c.val d len row r.1 r.2 (vals.map (·.1)) (vals.any (·.2))

theorem expandRow_works (hdst : d.dstKind = 0) (s : State) (len row lo hi : Nat) (el : Nat → F32 × Bool) : Works c.val s (expandRow c d s len row lo hi el) :=
  .ite (.refl s) (writeRow_works hdst ..)

/-- What a unit of an expansion does once the tile's granules have arrived. -/
def expandTile (s : State) (c : Fin 32) (d : DmaDesc) (j : DmaJob) (u : Nat) : State :=
  match expandFault d j u with
  | some (f, r, g) => setJob s c.val (some (dmaFault j f u r g 0))
  | none =>
    if d.orient then
      ((List.range d.kT).map (· + u % d.blocks * d.kT)).foldl (fun s k =>
        if k < d.kExt then expandRow c d s d.rowExt k (64 * (u / d.blocks)) (64 * (u / d.blocks) + 64) (fun i => expandedMatrix d j i k) else s)
        (writeTensorScale s c.val d)
    else
      ((List.range 64).map (· + 64 * (u / d.blocks))).foldl (fun s i =>
        if i < d.rowExt then expandRow c d s d.kExt i (u % d.blocks * d.kT) (u % d.blocks * d.kT + d.kT) (fun k => expandedMatrix d j i k) else s)
        (writeTensorScale s c.val d)

theorem expandTile_runs (hj : getJob s c.val = some j) (hdst : d.dstKind = 0) (u : Nat) : UnitRuns c.val s (expandTile s c d j u) := by
  unfold expandTile
  split
  · next f r g hf => exact .inr (stops_of_fault hj j rfl rfl (expandFault_ne_zero hf) ..)
  · exact .inl (.ite ((writeTensorScale_works hdst s).trans (.foldl (fun s _ => .ite (expandRow_works hdst ..) (.refl s)) _ _))
      ((writeTensorScale_works hdst s).trans (.foldl (fun s _ => .ite (expandRow_works hdst ..) (.refl s)) _ _)))

theorem expandUnit_runs (hj : getJob s c.val = some j) (hn : NoAnswer c s) (hsrc : d.srcKind = 0) (hdst : d.dstKind = 0) (u : Nat) :
    ∃ t, (expandUnit s c.val d u).1 = some t ∧ UnitRuns c.val s t := by
  unfold expandUnit
  rw [hsrc]
  obtain ⟨hok, hw⟩ := fetchRanges_arrives (consumes := true) hj hn [(d.tileAt u, 32)]
  dsimp only
  generalize fetchRanges s c.val 0 true _ = r at hok hw
  obtain ⟨ok, v⟩ := r
  obtain ⟨j', hj', -⟩ := hw.job j hj
  obtain rfl : ok = true := hok
  dsimp only at hw hj'
  have hend {w : State} (hv : Works c.val s w) {k : DmaJob} (hk : getJob w c.val = some k) : UnitRuns c.val s (expandTile w c d k u) :=
    (expandTile_runs hk hdst u).after hv
  simp only [hj']
  cases headerOf d j' u with
  | none =>
    simp only [Bool.false_eq_true, if_false, hj']
    refine ⟨_, ?_, hend hw hj'⟩
    unfold expandTile
    cases expandFault d j' u <;> rfl
  | some h =>
    dsimp only
    by_cases hgood : (!(headerBad h d.form d.srcNum d.kT || h.excess)) = true
    · simp only [if_pos hgood]
      obtain ⟨hok, hw'⟩ := fetchRanges_arrives (consumes := true) hj' (hw.noAnswer hn) ((tileRanges h d.kT).map (fun r => (d.tileAt u + r.1, r.2)))
      generalize fetchRanges v c.val 0 true _ = r at hok hw'
      obtain ⟨ok, w⟩ := r
      obtain ⟨k, hk, -⟩ := hw'.job j' hj'
      obtain rfl : ok = true := hok
      dsimp only at hw' hk
      simp only [hk]
      refine ⟨_, ?_, hend (hw.trans hw') hk⟩
      unfold expandTile
      cases expandFault d k u <;> rfl
    · simp only [if_neg hgood, hj']
      refine ⟨_, ?_, hend hw hj'⟩
      unfold expandTile
      cases expandFault d j' u <;> rfl

/-! ### Units one after another -/

/-- A unit of a descriptor with local places goes through or stops it. -/
theorem unit_runs (hj : getJob s c.val = some j) (hn : NoAnswer c s) (hsrc : d.srcKind = 0) (hdst : d.dstKind = 0) (hdst2 : d.dst2Kind = 0) (u : Nat) :
    ∃ v, UnitRuns c.val s v ∧ startUnit s c.val d u = modJob v c.val (fun j => if j.finished then j else { j with out := true }) := by
  unfold startUnit
  generalize d.mode = mode
  rcases mode with _ | _ | mode
  · obtain ⟨v, hv, hruns⟩ := copyUnit_runs hj hn hsrc hdst u
    exact ⟨v, hruns, by simp only [hv]⟩
  · obtain ⟨v, hv, hruns⟩ := compressUnit_runs hj hn hsrc hdst hdst2 u
    exact ⟨v, hruns, by simp only [hv]⟩
  · obtain ⟨v, hv, hruns⟩ := expandUnit_runs hj hn hsrc hdst u
    exact ⟨v, hruns, by simp only [hv]⟩

/-- The same descriptor, at the same total. -/
def DmaJob.Same (j j' : DmaJob) : Prop := j'.desc = j.desc ∧ j'.total = j.total

/-- A job of unfinished units: it has not faulted, and counts the unit that is out. -/
structure DmaJob.Open (j : DmaJob) (n : Nat) : Prop where
  finished : j.finished = false
  fault : j.fault = 0
  units : j.done + b2n j.out = n

/-- A descriptor that a fault has stopped. -/
def DmaJob.Stopped (j : DmaJob) : Prop := j.finished = true ∧ j.fault ≠ 0

/-- A unit that starts is out, or stops the descriptor. -/
theorem startUnit_runs {n : Nat} (hj : getJob s c.val = some j) (ho : j.Open n) (hout : j.out = false) (hn : NoAnswer c s)
    (hsrc : d.srcKind = 0) (hdst : d.dstKind = 0) (hdst2 : d.dst2Kind = 0) (u : Nat) :
    JobOnly c.val s (startUnit s c.val d u) ∧
      ∃ j', getJob (startUnit s c.val d u) c.val = some j' ∧ j.Same j' ∧ (j'.Stopped ∨ j'.Open (n + 1)) := by
  obtain ⟨v, hruns, heq⟩ := unit_runs hj hn hsrc hdst hdst2 u
  rw [heq]
  obtain ⟨hf, hz, hu⟩ := ho
  rcases hruns with hw | hs
  · obtain ⟨j', hj', hp, -⟩ := hw.job j hj
    have hdesc : j'.desc = j.desc := (congrArg DmaJob.desc hp :)
    have htotal : j'.total = j.total := (congrArg DmaJob.total hp :)
    have hfin : j'.finished = false := (congrArg DmaJob.finished hp :).trans hf
    have hfault : j'.fault = 0 := (congrArg DmaJob.fault hp :).trans hz
    have hdone : j'.done = j.done := (congrArg DmaJob.done hp :)
    refine ⟨?_, { j' with out := true }, ?_, ⟨hdesc, htotal⟩, .inr ⟨hfin, hfault, ?_⟩⟩
    · rw [modJob_some hj']
      exact hw.toJobOnly.trans (.setJob ..)
    · rw [getJob_modJob_self hj', hfin]
      rfl
    · rw [hout] at hu
      simp only [b2n] at hu ⊢
      simp at hu ⊢
      omega
  · obtain ⟨j', hj', hdesc, htotal, hfin, hfault⟩ := hs.job j hj
    refine ⟨?_, j', ?_, ⟨hdesc, htotal⟩, .inl ⟨hfin, hfault⟩⟩
    · rw [modJob_some hj']
      exact hs.toJobOnly.trans (.setJob ..)
    · rw [getJob_modJob_self hj', hfin]
      rfl

/-- A job of which the unit that is out, if there is one, is over. -/
def settledJob (d : DmaDesc) (j : DmaJob) : DmaJob :=
  if j.finished || !j.out then j
  else if j.unmapped then
    (let second := d.mode == 1 && decide (d.tiles ≤ j.done)
     { dmaFault j 6 (if second then j.done - d.tiles else j.done) 0 0 (b2n second) with out := false })
  else { j with out := false, done := j.done + 1 }

theorem settleUnit_eq (hj : getJob s c.val = some j) : settleUnit s c.val d = setJob s c.val (some (settledJob d j)) := modJob_some hj _

/-- A unit that is out is done, or stops the descriptor. -/
theorem settledJob_settles {n : Nat} (d : DmaDesc) (hs : j.Stopped ∨ j.Open n) :
    j.Same (settledJob d j) ∧ ((settledJob d j).Stopped ∨ (settledJob d j).Open n ∧ (settledJob d j).out = false) := by
  unfold settledJob
  split
  · next hidle =>
    refine ⟨⟨rfl, rfl⟩, hs.imp_right fun ho => ⟨ho, ?_⟩⟩
    simpa [ho.finished] using hidle
  · next hbusy =>
    simp only [Bool.or_eq_true, Bool.not_eq_true', not_or, Bool.not_eq_true, Bool.not_eq_false] at hbusy
    split
    · exact ⟨⟨rfl, rfl⟩, .inl ⟨rfl, Nat.succ_ne_zero 5⟩⟩
    · rcases hs with hstop | ⟨hf, hz, hu⟩
      · exact absurd (hstop.1.symm.trans hbusy.1) (Ne.symm Bool.false_ne_true)
      · rw [hbusy.2] at hu
        exact ⟨⟨rfl, rfl⟩, .inr ⟨⟨hf, hz, hu⟩, rfl⟩⟩

/-- Units with local places run to the descriptor's end. -/
theorem dmaUnits_end (hsrc : d.srcKind = 0) (hdst : d.dstKind = 0) (hdst2 : d.dst2Kind = 0) {fuel n : Nat} (hj : getJob s c.val = some j) (hn : NoAnswer c s)
    (hs : j.Stopped ∨ j.Open n) (hle : n ≤ j.total) (hfuel : j.total < fuel + n) :
    JobOnly c.val s (dmaUnits fuel s c.val d) ∧
      ∃ j', getJob (dmaUnits fuel s c.val d) c.val = some j' ∧ j.Same j' ∧ j'.finished = true ∧ (j'.fault = 0 → j'.done = j'.total) := by
  induction fuel generalizing s j n with
  | zero => omega
  | succ fuel ih =>
    obtain ⟨⟨hdesc₁, htotal₁⟩, hs₁⟩ := settledJob_settles d hs
    have hsettle : JobOnly c.val s (settleUnit s c.val d) := by
      rw [settleUnit_eq hj]
      exact .setJob ..
    have hj₁ : getJob (settleUnit s c.val d) c.val = some (settledJob d j) := by rw [settleUnit_eq hj, getJob_setJob _ _ _ (lt_of_getJob hj), if_pos rfl]
    generalize settledJob d j = j₁ at hdesc₁ htotal₁ hs₁ hj₁
    simp only [dmaUnits, hn.waits, Bool.or_false, Bool.false_eq_true, if_false, hj₁]
    rcases hs₁ with hstop | ⟨hopen, hout⟩
    · rw [if_pos hstop.1]
      exact ⟨hsettle, j₁, hj₁, ⟨hdesc₁, htotal₁⟩, hstop.1, fun h => absurd h hstop.2⟩
    · have hdone : j₁.done = n := by simpa [hout, b2n] using hopen.units
      rw [hopen.finished, if_neg Bool.false_ne_true]
      split
      · next hall =>
        exact ⟨hsettle.trans (.setJob ..), { j₁ with finished := true }, by rw [getJob_setJob _ _ _ (lt_of_getJob hj₁), if_pos rfl],
          ⟨hdesc₁, htotal₁⟩, rfl, fun _ => hall⟩
      · next hmore =>
        obtain ⟨hstart, j₂, hj₂, ⟨hdesc₂, htotal₂⟩, hs₂⟩ := startUnit_runs hj₁ hopen hout (hsettle.noAnswer hn) hsrc hdst hdst2 j₁.done
        obtain ⟨hrest, j₃, hj₃, ⟨hdesc₃, htotal₃⟩, hend⟩ := ih hj₂ (hstart.noAnswer (hsettle.noAnswer hn)) hs₂ (by omega) (by omega)
        exact ⟨(hsettle.trans hstart).trans hrest, j₃, hj₃, ⟨hdesc₃.trans (hdesc₂.trans hdesc₁), htotal₃.trans (htotal₂.trans htotal₁)⟩, hend⟩

end

end Sys2Proof.Machine
end

section
/-! SUPPORT. How a DMA channel takes a descriptor, finishes it and ends it. -/

namespace Sys2Proof.Machine

/-! ### The descriptor, R155 -/

/-- A field within the width of a bit vector is that of the number it was made from. -/
theorem fld_ofNat {w v hi lo : Nat} (h : hi < w) : fld (BitVec.ofNat w v).toNat hi lo = fld v hi lo := by
  refine Nat.eq_of_testBit_eq fun i => ?_
  rw [testBit_fld, testBit_fld, BitVec.toNat_ofNat, Nat.testBit_mod_two_pow]
  by_cases hi' : i < hi + 1 - lo
  · rw [decide_eq_true (show i + lo < w by omega), Bool.true_and]
  · simp [hi']

theorem bit_ofNat {w v k : Nat} (h : k < w) : bit (BitVec.ofNat w v).toNat k = bit v k := by
  rw [bit_eq_testBit, bit_eq_testBit, BitVec.toNat_ofNat, Nat.testBit_mod_two_pow, decide_eq_true h, Bool.true_and]

/-- A descriptor's fields lie in its 512 bits. -/
theorem dmaDesc_ofNat (v : Nat) : dmaDesc (BitVec.ofNat 512 v).toNat = dmaDesc v := by
  unfold dmaDesc
  simp (disch := decide) only [fld_ofNat, bit_ofNat]

/-- The three commands of a channel's work, by the descriptors' modes (R156). -/
theorem exec_dma (s : State) (c : Fin 32) (mode : Fin 3) :
    exec (if mode = 0 then .dmaCopy c else if mode = 1 then .dmaCompress c else .dmaExpand c) s = .next (dmaWork s c.val mode.val) := by
  fin_cases mode
  · rfl
  · rfl
  · rfl

section
variable {c : Fin 32} {s : State}

/-! ### A descriptor that a channel takes, R158 to R160 -/

theorem takeDescriptor_busy {j : DmaJob} (hj : getJob s c.val = some j) (mode : Nat) : takeDescriptor s c.val mode = s := by
  simp [takeDescriptor, mayTake, hj]

/-- TAIL advances past a descriptor that is taken from state u. -/
def tailAdvanced (u : State) (c : Fin 32) : State :=
  setReg (readTime u DMA).2 DMA (0x118 + 32 * c.val) ((getReg u DMA (0x118 + 32 * c.val) + 1) % 2 ^ 32)

theorem tailAdvanced_getReg {u : State} (hu : twf 0 u.regs = true) :
    getReg (tailAdvanced u c) DMA (0x118 + 32 * c.val) = (getReg u DMA (0x118 + 32 * c.val) + 1) % 2 ^ 32 := by
  rw [tailAdvanced, getReg_setReg (by rwa [readTime_regs]) _ _ _ _ _ (by omega), if_pos rfl]

/-- The job of a descriptor that has been taken, which ends at once where it is bad. -/
def takenJob (u : State) (rd : Rd) (bad : Bool) : DmaJob :=
  { desc := BitVec.ofNat 512 (ofBytes rd.data), started := (readTime u DMA).1, total := (dmaDesc (ofBytes rd.data)).units, fault := if bad then 5 else 0,
    finished := bad, poisonReads := rd.bad, corrReads := rd.corr, writer := none }

/-- A channel takes the descriptor that rd brings, where that is bad or its destination is not tensor-scaled. -/
theorem takeDescriptor_taken {rd : Rd} {u : State} {mode : Nat} (hread : readSpan (dmaMaster c.val) s (ringSlot s c.val) 64 = (rd, u))
    (hm : mayTake s c.val = true) (hmode : (dmaDesc (ofBytes rd.data)).mode = mode) {bad : Bool}
    (hbad : (!rd.poison.isEmpty || descriptorBad u (dmaDesc (ofBytes rd.data))) = bad) (hok : bad = true ∨ (dmaDesc (ofBytes rd.data)).tensorDst = false) :
    takeDescriptor s c.val mode = setJob (tailAdvanced u c) c.val (some (takenJob u rd bad)) := by
  have hplain : (!bad && (dmaDesc (ofBytes rd.data)).tensorDst) = false := by
    rcases hok with rfl | h
    · rfl
    · rw [h, Bool.and_false]
  simp only [takeDescriptor, hm, if_true, hread, hmode, ne_eq, not_true_eq_false, if_false, hbad, hplain, Bool.false_and, Bool.false_eq_true]
  rfl

/-! ### A descriptor at its end, R164 -/

/-- Nothing is out and every unit is done: the descriptor is finished. -/
theorem dmaWork_finishes {j : DmaJob} (hj : getJob s c.val = some j) {mode : Nat} (hmode : (dmaDesc j.desc.toNat).mode = mode)
    (hw : dmaWaits s c.val true = false) (hr : dmaWaits s c.val false = false) (hout : j.out = false) (hfin : j.finished = false) (hall : j.done = j.total) :
    dmaWork s c.val mode = setJob s c.val (some { j with finished := true }) := by
  have hsettle : settleUnit s c.val (dmaDesc j.desc.toNat) = s := by
    rw [settleUnit_eq hj, settledJob, hout, Bool.not_false, Bool.or_true, if_pos rfl, ← hj, setJob_getJob]
  simp only [dmaWork, takeDescriptor_busy hj, hj, hmode, ne_eq, not_true_eq_false, hfin, Bool.false_eq_true, or_self, if_false, dmaUnits, hw, hr,
    Bool.or_self, hsettle, hall, if_true]

/-- A writer's report sets a slot, counts, and may disable the slot. -/
theorem reportWriter_sets (s : State) (w : Writer) :
    ∃ k r u p, CountsOnly (setSlot s k r) u ∧ reportWriter s w = (if p = true then disableSlot u k else u) :=
  ⟨_, _, _, _, ((noteWritten_only _ w.slot).trans (countIf_only _ w.ovf 0x080)).trans (countIf_only _ w.nan 0x088), reportWriter_eq s w⟩

/-- It leaves the channels' and the cores' work as it was. -/
theorem reportWriter_work (s : State) (w : Writer) : (reportWriter s w).dma = s.dma ∧ (reportWriter s w).cores = s.cores := by
  obtain ⟨k, r, u, p, honly, heq⟩ := reportWriter_sets s w
  have hdma : u.dma = (setSlot s k r).dma := (congrArg State.dma honly :)
  have hcores := honly.cores
  rw [setSlot_dma] at hdma
  rw [setSlot_cores] at hcores
  rw [heq]
  cases p
  · exact ⟨hdma, hcores⟩
  · exact ⟨hdma, hcores⟩

/-- A channel left free, with a rejection of its registers that falls where it was the last (R571). -/
def channelFreed (u : State) (c : Fin 32) : State :=
  let t := setJob u c.val none
  let t := { t with dmaRejected := t.dmaRejected.filter (dmaChanEnabled t) }
  if t.dmaRejected.isEmpty then setBlk t DMA { blk t DMA with rejected := false, rejectSlot := 0 } else t

theorem channelFreed_work (u : State) (c : Fin 32) : (channelFreed u c).dma = (setJob u c.val none).dma ∧ (channelFreed u c).cores = u.cores := by
  unfold channelFreed
  dsimp only
  split
  · exact ⟨rfl, rfl⟩
  · exact ⟨rfl, rfl⟩

/-- A finished descriptor writes its record, and its channel is free. -/
theorem dmaEnd_frees {j : DmaJob} (hj : getJob s c.val = some j) (hfin : j.finished = true) (hw : dmaWaits s c.val true = false) :
    getJob (dmaEnd s c.val) c.val = none ∧ (∀ k, k ≠ c.val → getJob (dmaEnd s c.val) k = getJob s k) ∧ (dmaEnd s c.val).cores = s.cores := by
  have hend : ∃ u : State, (u.dma = s.dma ∧ u.cores = s.cores) ∧ dmaEnd s c.val = channelFreed u c := by
    have hrecord {u : State} (h : u.dma = s.dma ∧ u.cores = s.cores) (r : Record) (a : Nat) :
        (writeRecord (dmaMaster c.val) u a r).dma = s.dma ∧ (writeRecord (dmaMaster c.val) u a r).cores = s.cores :=
      ⟨(writeRecord_tidy ..).dma.trans h.1, (writeRecord_tidy ..).cores.trans h.2⟩
    simp only [dmaEnd, hj, hfin, hw, Bool.not_true, Bool.or_self, Bool.false_eq_true, if_false]
    cases j.writer with
    | none => exact ⟨_, hrecord ⟨rfl, rfl⟩ _ _, rfl⟩
    | some w => exact ⟨_, hrecord (reportWriter_work s w) _ _, rfl⟩
  obtain ⟨u, ⟨hdma, hcores⟩, heq⟩ := hend
  obtain ⟨hdma', hcores'⟩ := channelFreed_work u c
  have hjob (k : Nat) : getJob (dmaEnd s c.val) k = getJob (setJob s c.val none) k := by
    simp only [getJob, heq, hdma', setJob, hdma]
  rw [hjob, getJob_setJob _ _ _ (lt_of_getJob hj), if_pos rfl]
  refine ⟨rfl, fun k hk => ?_, heq ▸ hcores'.trans hcores⟩
  rw [hjob, getJob_setJob _ _ _ (lt_of_getJob hj), if_neg hk]

end

end Sys2Proof.Machine
end

section
/-! SUPPORT. A row of the tile stores that a DMA channel copies with clean codes: what it reads, what it writes, and its one unit. -/

namespace Sys2Proof.Machine

/-! ### Spans and their chunks -/

theorem CoreSpan.sub {a n b k : Nat} (h : CoreSpan a n) (hb : a ≤ b) (hk : b + k ≤ a + n) : CoreSpan b k := fun x hx hx' => h x (by omega) (by omega)

/-- The cores' stores lie below the top of the local addresses. -/
theorem CoreSpan.local {a n : Nat} (h : CoreSpan a n) (hn : 0 < n) : a % 2 ^ 42 = a := by
  obtain ⟨m, hm, hx | hx⟩ := h a (by omega) (by omega)
  · simp only [tileBase] at hx
    omega
  · simp only [accBase] at hx
    omega

/-- The chunks of a range lie in it. -/
theorem mem_accessChunks {a n : Nat} {x : Nat × Nat} (hx : x ∈ accessChunks a n) : 0 < x.2 ∧ a ≤ x.1 ∧ x.1 + x.2 ≤ a + n := by
  unfold accessChunks at hx
  split at hx
  · simp at hx
  · obtain ⟨i, hi, rfl⟩ := List.mem_map.mp hx
    have := List.mem_range.mp hi
    dsimp only
    omega

/-- A granule of a range of whole granules lies in one of its chunks. -/
theorem exists_accessChunk {a n g : Nat} (ha : a % 32 = 0) (hn : n % 32 = 0) (hg : a ≤ 32 * g) (hg' : 32 * g < a + n) :
    ∃ x ∈ accessChunks a n, 32 * g ∈ rangeAddrs x.1 x.2 := by
  have hpos : n ≠ 0 := by omega
  have hmem (i : Nat) (hi : i < (a + n - 1) / 128 - a / 128 + 1) :
      (max a (128 * (a / 128 + i)), min (a + n) (128 * (a / 128 + i) + 128) - max a (128 * (a / 128 + i))) ∈ accessChunks a n := by
    rw [accessChunks, if_neg hpos]
    exact List.mem_map.mpr ⟨i, List.mem_range.mpr hi, rfl⟩
  refine ⟨_, hmem (32 * g / 128 - a / 128) (by omega), ?_⟩
  obtain ⟨hlo, hlen⟩ := accessChunks_aligned ha hn (hmem (32 * g / 128 - a / 128) (by omega))
  dsimp only at hlo hlen ⊢
  rw [hlen, rangeAddrs_eq hlo]
  refine List.mem_map.mpr ⟨g - max a (128 * (a / 128 + (32 * g / 128 - a / 128))) / 32, List.mem_range.mpr ?_, ?_⟩
  · omega
  · omega

/-- A range is its part below the next 128-byte boundary, then the rest. -/
theorem accessChunks_cons {a n : Nat} (hn : 0 < n) :
    accessChunks a n = (a, min n (128 - a % 128)) :: accessChunks (a + min n (128 - a % 128)) (n - min n (128 - a % 128)) := by
  by_cases h : n ≤ 128 - a % 128
  · rw [Nat.min_eq_left h, Nat.sub_self, accessChunks, if_neg (by omega), show (a + n - 1) / 128 - a / 128 + 1 = 1 by omega]
    simp only [List.range_one, List.map_cons, List.map_nil, accessChunks, if_true, Nat.add_zero]
    rw [Nat.max_eq_left (by omega), Nat.min_eq_left (by omega), Nat.add_sub_cancel_left]
  · rw [Nat.min_eq_right (by omega)]
    have hnext : (a + (128 - a % 128)) / 128 = a / 128 + 1 := by omega
    have hcount : (a + n - 1) / 128 - a / 128 + 1 = (a + n - 1) / 128 - (a / 128 + 1) + 1 + 1 := by omega
    rw [accessChunks, accessChunks, if_neg (by omega), if_neg (by omega), hnext, show a + (128 - a % 128) + (n - (128 - a % 128)) = a + n by omega, hcount,
      List.range_succ_eq_map, List.map_cons, List.map_map]
    congr 1
    · rw [Nat.add_zero, Nat.max_eq_left (by omega), Nat.min_eq_right (by omega)]
      exact congrArg (Prod.mk a) (by omega)
    · refine List.map_congr_left fun i _ => ?_
      simp only [Function.comp, Nat.succ_eq_add_one, ← Nat.add_assoc, Nat.add_right_comm _ i 1]
      rw [Nat.max_eq_right (by omega), Nat.max_eq_right (by omega)]

/-! ### What clean reads bring -/

section
variable {c : Fin 32} {s : State}

/-- Granules as a memory of clean codes holds them. -/
def Gathered (s : State) (got : List (Nat × List Byte × Bool)) : Prop := ∀ g ∈ got, g.2 = (memBytes s g.1 32, false)

/-- The bytes of a range that has arrived from clean codes. -/
theorem bytes_gathered {j : DmaJob} (hgot : Gathered s j.got) {a n : Nat} (hhas : ∀ p ∈ pieces a n, j.has (32 * p.1) = true) : j.bytes a n = (memBytes s a n, false) := by
  have hfind {x : Nat} (hx : j.has x = true) : j.got.find? (fun g => g.1 == x) = some (x, memBytes s x 32, false) := by
    obtain ⟨g, hg⟩ := Option.isSome_iff_exists.mp (List.find?_isSome.mpr (List.any_eq_true.mp hx))
    have hfst : g.1 = x := by simpa using List.find?_some hg
    have hsnd := hgot g (List.mem_of_find?_eq_some hg)
    rw [hg, ← hfst, ← hsnd]
  have hall : j.bytes a n = (([] : List Byte) ++ memBytes s a n, false) := by
    refine foldl_pieces (motive := fun a n (b r : List Byte × Bool) => (∀ p ∈ pieces a n, j.has (32 * p.1) = true) → b.2 = false → r = (b.1 ++ memBytes s a n, false))
      ?_ ?_ hhas rfl
    · rintro a ⟨bs, p⟩ - rfl
      simp [memBytes, tgetList]
    · rintro a n ⟨bs, p⟩ r hn ih hhas rfl
      rw [pieces_cons hn] at hhas
      have hfound := hfind (hhas _ List.mem_cons_self)
      have hbytes : ((memBytes s (32 * (a / 32)) 32).drop (a % 32)).take (min n (32 - a % 32)) = memBytes s a (min n (32 - a % 32)) := by
        rw [memBytes, tgetList_slice _ _ (by omega), Nat.div_add_mod, memBytes]
      have happend : memBytes s a n = memBytes s a (min n (32 - a % 32)) ++ memBytes s (a + min n (32 - a % 32)) (n - min n (32 - a % 32)) := by
        rw [memBytes, memBytes, memBytes, ← tgetList_add, Nat.add_sub_cancel' (Nat.min_le_left _ _)]
      rw [happend, ← List.append_assoc]
      simp only [hfound, hbytes, Bool.or_false] at ih
      exact ih (fun p hp => hhas p (List.mem_cons_of_mem _ hp)) trivial
  exact hall

/-- A chunk of a clean range that is read: its granules join the job's. -/
theorem chunkRead_clean {j : DmaJob} {consumes : Bool} (hj : getJob s c.val = some j) (hc : clean s) {x : Nat × Nat} (hx : CoreSpan x.1 x.2) (hpos : 0 < x.2)
    (hlen : x.2 = 32 * (x.2 / 32)) (hgot : Gathered s j.got) :
    ∃ got, chunkRead s c consumes x = setJob s c.val (some { j with got := got }) ∧ Gathered s got := by
  have hread := readSpan_clean (.dma c) hx (by simp [hc.1, tget]) hc.2
  refine ⟨j.got ++ gotGranules x.1 (memBytes s x.1 x.2) (fun _ => false), ?_, ?_⟩
  · simp only [chunkRead, hx.local hpos, hread, List.foldl_nil, ite_self, modJob_some hj]
    rfl
  · intro g hg
    rcases List.mem_append.mp hg with hg | hg
    · exact hgot g hg
    · rw [gotGranules_eq (m := x.2 / 32) (by rw [memBytes_length, ← hlen])] at hg
      obtain ⟨i, hi, rfl⟩ := List.mem_map.mp hg
      have := List.mem_range.mp hi
      dsimp only
      rw [memBytes, tgetList_slice _ _ (by omega), memBytes]

/-- Chunks of clean ranges, of whole granules, that are read one after another. -/
theorem fetchChunks_clean {consumes : Bool} {xs : List (Nat × Nat)} (hx : ∀ x ∈ xs, CoreSpan x.1 x.2 ∧ 0 < x.2 ∧ x.2 = 32 * (x.2 / 32)) {j : DmaJob}
    (hj : getJob s c.val = some j) (hn : NoAnswer c s) (hc : clean s) (hgot : Gathered s j.got) :
    ∃ got, xs.foldl (fun s x => fetchChunk s c.val 0 consumes x) s = setJob s c.val (some { j with got := got }) ∧ Gathered s got := by
  induction xs generalizing s j with
  | nil => exact ⟨j.got, by rw [List.foldl_nil, ← hj, setJob_getJob], hgot⟩
  | cons x xs ih =>
    obtain ⟨hspan, hpos, hlen⟩ := hx x List.mem_cons_self
    have hstep : ∃ got, fetchChunk s c.val 0 consumes x = setJob s c.val (some { j with got := got }) ∧ Gathered s got := by
      rw [fetchChunk_local hj hn]
      split
      · exact ⟨j.got, by rw [← hj, setJob_getJob], hgot⟩
      · exact chunkRead_clean hj hc hspan hpos hlen hgot
    obtain ⟨got, heq, hgot⟩ := hstep
    have hj' : getJob (setJob s c.val (some { j with got := got })) c.val = some { j with got := got } := by rw [getJob_setJob _ _ _ (lt_of_getJob hj), if_pos rfl]
    obtain ⟨got', heq', hgot'⟩ := ih (fun y hy => hx y (List.mem_cons_of_mem _ hy)) hj' hn hc hgot
    refine ⟨got', ?_, hgot'⟩
    rw [List.foldl_cons, heq, heq']
    simp only [setJob, List.set_set]

/-- A clean range of the cores' stores, read whole granule by whole granule. -/
theorem fetchRange_clean {consumes : Bool} {a n : Nat} (hx : CoreSpan (a / 32 * 32) (32 * ((a + n + 31) / 32) - a / 32 * 32)) {j : DmaJob}
    (hj : getJob s c.val = some j) (hn : NoAnswer c s) (hc : clean s) (hgot : j.got = []) :
    ∃ got, fetchRanges s c.val 0 consumes [(a, n)] = (true, setJob s c.val (some { j with got := got })) ∧
      ∀ b m, a / 32 * 32 ≤ b → b + m ≤ 32 * ((a + n + 31) / 32) → ({ j with got := got } : DmaJob).bytes b m = (memBytes s b m, false) := by
  have hsource : sourceChunks [(a, n)] = accessChunks (a / 32 * 32) (32 * ((a + n + 31) / 32) - a / 32 * 32) := List.append_nil _
  have hchunks : ∀ x ∈ sourceChunks [(a, n)], CoreSpan x.1 x.2 ∧ 0 < x.2 ∧ x.2 = 32 * (x.2 / 32) := fun x hmem => by
    have halign := (sourceChunks_aligned hmem).2
    rw [hsource] at hmem
    obtain ⟨hpos, hlo, hhi⟩ := mem_accessChunks hmem
    exact ⟨hx.sub hlo hhi, hpos, halign⟩
  obtain ⟨got, heq, hgathered⟩ := fetchChunks_clean (consumes := consumes) hchunks hj hn hc (by simp [hgot, Gathered])
  have hj' : getJob (setJob s c.val (some { j with got := got })) c.val = some { j with got := got } := by rw [getJob_setJob _ _ _ (lt_of_getJob hj), if_pos rfl]
  obtain ⟨-, j₁, hj₁, hall⟩ := fetchChunks_arrive (consumes := consumes) (fun x h => sourceChunks_aligned h) hj hn (xs := sourceChunks [(a, n)])
  rw [heq, hj'] at hj₁
  obtain rfl := Option.some.inj hj₁
  refine ⟨got, Prod.ext (fetchRanges_arrives hj hn _).1 heq, fun b m hb hm => bytes_gathered hgathered fun p hp => ?_⟩
  obtain ⟨hlo, hhi, hfirst, hlast⟩ := mem_pieces hp
  obtain ⟨x, hmem, hin⟩ := exists_accessChunk (a := a / 32 * 32) (n := 32 * ((a + n + 31) / 32) - a / 32 * 32) (g := p.1) (by omega) (by omega) (by omega) (by omega)
  exact List.all_eq_true.mp (hall x (hsource ▸ hmem)) _ hin


end

end Sys2Proof.Machine
end

section
/-! SUPPORT. A row of the tile stores that a DMA channel carries over clean codes: its bytes arrive, and nothing else changes. -/

namespace Sys2Proof.Machine

section
variable {c : Fin 32} {s t u : State}

/-! ### What a write over clean codes leaves -/

/-- Memory in canonical form whose codes are all clean. -/
structure CleanCodes (s : State) : Prop where
  mem : twf 0 s.mem = true
  guard : twf 0 s.guard = true
  codes : ∀ g, tget 0 s.guard g = 0
  hops : s.hopErrors = []

/-- A write of the bytes bs from a on, between memories of clean codes, that leaves the channels' jobs alone. -/
structure Puts (a : Nat) (bs : List Byte) (s t : State) : Prop where
  clean : CleanCodes t
  mem : t.mem = tsetList 0 s.mem a bs
  dma : t.dma = s.dma

theorem Puts.append {a : Nat} {bs cs : List Byte} (h : Puts a bs s t) (g : Puts (a + bs.length) cs t u) : Puts a (bs ++ cs) s u :=
  ⟨g.clean, by rw [g.mem, h.mem, tsetList_append], g.dma.trans h.dma⟩

theorem noteLines_cleanCodes (a n : Nat) (h : CleanCodes s) : CleanCodes (noteLines s a n) := by
  obtain ⟨hm, hg, hc, hh⟩ := h
  rw [noteLines_tidy_rest]
  exact ⟨hm, hg, hc, hh⟩

theorem noteLines_mem (s : State) (a n : Nat) : (noteLines s a n).mem = s.mem := by rw [noteLines_tidy_rest]

theorem noteLines_dma (s : State) (a n : Nat) : (noteLines s a n).dma = s.dma := by rw [noteLines_tidy_rest]

/-- One chunk of the cores' stores is written over clean codes. -/
theorem chunkWritten_puts (hs : CleanCodes s) {part : List Byte} {x : Nat × Nat} (hx : CoreSpan x.1 part.length) (hpos : 0 < part.length) :
    Puts x.1 part s (chunkWritten s c part [] x) := by
  obtain ⟨hm, hg, hc, hh⟩ := hs
  obtain ⟨hlost, hstores⟩ := writeSpan_clean (.dma c) (poison := []) (p := false) hx hm hg hc hh (fun _ _ _ => rfl)
  have hclean : CleanCodes (writeSpan (.dma c) s x.1 part []).2 := by
    refine ⟨by rw [hstores.mem]; exact twf_tsetList hm _ _, hstores.guardWf, fun g => ?_, hstores.only.hopErrors.trans hh⟩
    rw [hstores.guard, hc g]
    exact ite_self _
  have heq : chunkWritten s c part [] x = noteLines (writeSpan (.dma c) s x.1 part []).2 x.1 part.length := by
    simp only [chunkWritten, chunkMarked, List.isEmpty_nil, if_true, List.map_nil, hx.local hpos, hlost, Bool.false_eq_true, if_false]
  rw [heq]
  refine ⟨noteLines_cleanCodes _ _ hclean, ?_, ?_⟩
  · rw [noteLines_mem, hstores.mem]
  · rw [noteLines_dma]
    exact (congrArg State.dma hstores.only :)

/-- What is left of a row, in its chunks. -/
theorem chunks_put {a n k : Nat} {bs : List Byte} (hs : CleanCodes s) (hx : CoreSpan a bs.length) (hk : k + n = bs.length) :
    Puts (a + k) (bs.drop k) s ((accessChunks (a + k) n).foldl (fun s x => chunkWritten s c ((bs.drop (x.1 - a)).take x.2) [] x) s) := by
  induction n using Nat.strongRecOn generalizing k s with
  | ind n ih =>
    rcases Nat.eq_zero_or_pos n with rfl | hn
    · rw [List.drop_of_length_le (by omega)]
      exact ⟨hs, rfl, rfl⟩
    · generalize hl : min n (128 - (a + k) % 128) = l
      have hlen : ((bs.drop k).take l).length = l := by rw [List.length_take, List.length_drop]; omega
      rw [accessChunks_cons hn, List.foldl_cons, hl]
      dsimp only
      rw [Nat.add_sub_cancel_left]
      have hfirst : Puts (a + k) ((bs.drop k).take l) s (chunkWritten s c ((bs.drop k).take l) [] (a + k, l)) :=
        chunkWritten_puts (x := (a + k, l)) hs (hx.sub (Nat.le_add_right a k) (by rw [hlen]; dsimp only; omega)) (by omega)
      have hrest := ih (n - l) (by omega) (k := k + l) hfirst.clean (by omega)
      rw [← Nat.add_assoc, ← List.drop_drop] at hrest
      have hboth := hfirst.append (by rw [hlen]; exact hrest)
      rwa [List.take_append_drop] at hboth

/-- A row written to the cores' stores over clean codes. -/
theorem dmaWrite_puts {a : Nat} {bs : List Byte} (hs : CleanCodes s) (hx : CoreSpan a bs.length) : Puts a bs s (dmaWrite s c.val 0 a bs false []) := by
  rw [dmaWrite_local]
  simp only [Bool.false_or, List.contains_nil, List.filter_false]
  exact chunks_put (k := 0) hs hx (Nat.zero_add _)

/-! ### The one unit of a carried row -/

variable {d : DmaDesc} {j : DmaJob}

theorem scaleRange_of_carries (h : d.carries = true) : d.scaleRange = [] := by
  simp only [DmaDesc.carries, Bool.and_eq_true, bne_iff_ne, ne_eq] at h
  rw [DmaDesc.scaleRange, if_neg (by tauto)]

theorem orient_of_carries (h : d.carries = true) : d.orient = false := by
  simp only [DmaDesc.carries, Bool.and_eq_true, Bool.not_eq_true'] at h
  tauto

/-- A job of which no unit has started. -/
structure DmaJob.Fresh (j : DmaJob) : Prop where
  finished : j.finished = false
  out : j.out = false
  unmapped : j.unmapped = false
  fault : j.fault = 0
  done : j.done = 0
  got : j.got = []

/-- A row of n bytes at a lies in the stores of the cores, with the granules it begins and ends in. -/
def RowSpan (a n : Nat) : Prop := CoreSpan (a / 32 * 32) (32 * ((a + n + 31) / 32) - a / 32 * 32)

theorem rowSpan_tile {m x n : Nat} (hm : m < 128) (h : x + n ≤ 0x400000) : RowSpan (tileBase m + x) n := fun y hy hy' =>
  ⟨m, hm, .inl (by simp only [tileBase] at *; omega)⟩

/-- A carried row, read and written. -/
theorem copyUnit_carried (hj : getJob s c.val = some j) (hfresh : j.Fresh) (hn : NoAnswer c s) (hsrc : d.srcKind = 0) (hdst : d.dstKind = 0)
    (hcarries : d.carries = true) (hcodes : clean s) (hmem : twf 0 s.mem = true) (hfrom : RowSpan d.src (d.rowRange 0).2) (hto : CoreSpan d.dst (d.rowRange 0).2) :
    ∃ t got, (copyUnit s c.val d 0).1 = some t ∧ Puts d.dst (memBytes s d.src (d.rowRange 0).2) (setJob s c.val (some { j with got := got })) t := by
  obtain ⟨got, hfetch, hbytes⟩ := fetchRange_clean (consumes := false) hfrom hj hn hcodes hfresh.got
  have hjob : getJob (setJob s c.val (some { j with got := got })) c.val = some { j with got := got } := by rw [getJob_setJob _ _ _ (lt_of_getJob hj), if_pos rfl]
  have hclean : CleanCodes (setJob s c.val (some { j with got := got })) :=
    ⟨hmem, (congrArg (twf 0) hcodes.1 :), fun g => (congrArg (fun t => tget 0 t g) hcodes.1 :), hcodes.2⟩
  have hrow : ({ j with got := got } : DmaJob).bytes d.src (d.rowRange 0).2 = (memBytes s d.src (d.rowRange 0).2, false) := hbytes _ _ (by omega) (by omega)
  have hcarried : (pieces d.src (d.rowRange 0).2).filter (fun p => (({ j with got := got } : DmaJob).bytes (32 * p.1) 1).2) = [] := by
    refine List.filter_eq_nil_iff.mpr fun p hp => ?_
    obtain ⟨hlo, hhi, hfirst, hlast⟩ := mem_pieces hp
    rw [hbytes _ _ (by omega) (by omega)]
    exact Bool.false_ne_true
  have hputs := dmaWrite_puts (c := c) hclean (bs := memBytes s d.src (d.rowRange 0).2) (a := d.dst) (by rwa [memBytes_length])
  refine ⟨_, got, ?_, hputs⟩
  have hrange : d.rowRange 0 = (d.src, (d.rowRange 0).2) := rfl
  generalize (d.rowRange 0).2 = n at *
  simp only [copyUnit, orient_of_carries hcarries, scaleRange_of_carries hcarries, Bool.false_eq_true, if_false, List.append_nil, hcarries, Bool.not_true, if_true,
    hsrc, hrange, hfetch, hjob, hrow, hcarried, List.map_nil, hdst, Nat.mul_zero, Nat.add_zero]

/-- A copy's unit is out once it has gone through. -/
theorem startUnit_copy {u : Nat} (hmode : d.mode = 0) (h : (copyUnit s c.val d u).1 = some t) (hj : getJob t c.val = some j) (hfin : j.finished = false) :
    startUnit s c.val d u = setJob t c.val (some { j with out := true }) := by
  simp only [startUnit, hmode, h, modJob_some hj]
  rw [if_neg (by rw [hfin]; exact Bool.false_ne_true)]

/-- The next unit starts, where nothing is awaited. -/
theorem dmaUnits_next {fuel : Nat} (hn : NoAnswer c s) (hj : getJob s c.val = some j) (hfin : (settledJob d j).finished = false)
    (hmore : (settledJob d j).done ≠ (settledJob d j).total) :
    dmaUnits (fuel + 1) s c.val d = dmaUnits fuel (startUnit (setJob s c.val (some (settledJob d j))) c.val d (settledJob d j).done) c.val d := by
  simp only [dmaUnits, hn.waits, Bool.or_self, Bool.false_eq_true, if_false, settleUnit_eq hj, getJob_setJob _ _ _ (lt_of_getJob hj), if_true, hfin, hmore]

/-- The last unit is done, where nothing is awaited. -/
theorem dmaUnits_last {fuel : Nat} (hn : NoAnswer c s) (hj : getJob s c.val = some j) (hfin : (settledJob d j).finished = false)
    (hall : (settledJob d j).done = (settledJob d j).total) :
    dmaUnits (fuel + 1) s c.val d = setJob s c.val (some { settledJob d j with finished := true }) := by
  have hjob : getJob (settleUnit s c.val d) c.val = some (settledJob d j) := by rw [settleUnit_eq hj, getJob_setJob _ _ _ (lt_of_getJob hj), if_pos rfl]
  simp only [dmaUnits, hn.waits, Bool.or_self, Bool.false_eq_true, if_false, hjob, hfin, if_pos hall]
  simp only [settleUnit_eq hj, setJob, List.set_set]

/-- The one row of a carried copy. -/
theorem dmaUnits_carried (hj : getJob s c.val = some j) (hfresh : j.Fresh) (htotal : j.total = 1) (hn : NoAnswer c s) (hmode : d.mode = 0) (hsrc : d.srcKind = 0)
    (hdst : d.dstKind = 0) (hcarries : d.carries = true) (hcodes : clean s) (hmem : twf 0 s.mem = true) (hfrom : RowSpan d.src (d.rowRange 0).2)
    (hto : CoreSpan d.dst (d.rowRange 0).2) (fuel : Nat) :
    (dmaUnits (fuel + 2) s c.val d).mem = tsetList 0 s.mem d.dst (memBytes s d.src (d.rowRange 0).2) ∧
      ∃ j', getJob (dmaUnits (fuel + 2) s c.val d) c.val = some j' ∧ j'.fault = 0 := by
  obtain ⟨t, got, hunit, hputs⟩ := copyUnit_carried hj hfresh hn hsrc hdst hcarries hcodes hmem hfrom hto
  obtain ⟨hfin, hout, hunmapped, hfault, hdone, -⟩ := hfresh
  have hjt : getJob t c.val = some { j with got := got } := by
    have hset : getJob t c.val = getJob (setJob s c.val (some { j with got := got })) c.val := by simp only [getJob, hputs.dma]
    rw [hset, getJob_setJob _ _ _ (lt_of_getJob hj), if_pos rfl]
  have hidle : settledJob d j = j := by rw [settledJob, hout, Bool.not_false, Bool.or_true, if_pos rfl]
  have hsame : setJob s c.val (some j) = s := by rw [← hj, setJob_getJob]
  have hstart : startUnit s c.val d j.done = setJob t c.val (some { j with got := got, out := true }) :=
    (congrArg (startUnit s c.val d) hdone).trans (startUnit_copy hmode hunit hjt hfin)
  have hnext : dmaUnits (fuel + 2) s c.val d = dmaUnits (fuel + 1) (setJob t c.val (some { j with got := got, out := true })) c.val d := by
    rw [dmaUnits_next hn hj (by rw [hidle]; exact hfin) (by rw [hidle]; omega), hidle, hsame, hstart]
  have hover : settledJob d { j with got := got, out := true } = { j with got := got, done := 1, out := false } := by
    simp only [settledJob, hfin, hunmapped, hdone, Bool.not_true, Bool.or_self, Bool.false_eq_true, if_false, Nat.zero_add]
  have hnt : NoAnswer c t := by
    obtain ⟨t', hunit', hruns⟩ := copyUnit_runs hj hn hsrc hdst 0
    obtain rfl := Option.some.inj (hunit.symm.trans hunit')
    exact (hruns.elim Works.toJobOnly Stops.toJobOnly).noAnswer hn
  have hjob : getJob (setJob t c.val (some { j with got := got, out := true })) c.val = some { j with got := got, out := true } := by
    rw [getJob_setJob _ _ _ (lt_of_getJob hjt), if_pos rfl]
  rw [hnext, dmaUnits_last (s := setJob t c.val _) hnt hjob (by rw [hover]; exact hfin) (by rw [hover]; exact htotal.symm), hover]
  refine ⟨hputs.mem, { j with got := got, done := 1, out := false, finished := true }, ?_, hfault⟩
  rw [getJob_setJob _ _ _ (lt_of_getJob hjob), if_pos rfl]

end

end Sys2Proof.Machine
end

section
/-! SUPPORT. The statement on the DMA channels (O29): descriptors refused, run to their end, and ended. -/

namespace Sys2Proof.Machine

section
variable {c : Fin 32} {s u : State} {rd : Rd}

/-- The state in which channel c has taken the descriptor that rd brings, out of state u. -/
def descTaken (u : State) (rd : Rd) (c : Fin 32) (bad : Bool) : State := setJob (tailAdvanced u c) c.val (some (takenJob u rd bad))

theorem getReg_tail {v t : State} (h : TailsKept v t) : getReg t DMA (0x118 + 32 * c.val) = getReg v DMA (0x118 + 32 * c.val) := by
  simp only [getReg]
  rw [show tget 0 t.regs (regKey DMA (0x118 + 32 * c.val)) = tget 0 v.regs (regKey DMA (0x118 + 32 * c.val)) from congrFun h c]

/-- What a channel's taking a descriptor leaves: TAIL advanced, the job, and everything else. -/
structure Took (s u : State) (c : Fin 32) (rd : Rd) (t : State) (j : DmaJob) : Prop where
  tail : getReg t DMA (0x118 + 32 * c.val) = (getReg u DMA (0x118 + 32 * c.val) + 1) % 2 ^ 32
  job : getJob t c.val = some j
  desc : j.desc = BitVec.ofNat 512 (ofBytes rd.data)
  total : j.total = (dmaDesc (ofBytes rd.data)).units
  others : ∀ k, k ≠ c.val → getJob t k = getJob s k
  cores : t.cores = s.cores

theorem descTaken_took (hu : Tidy s u) (hlen : s.dma.length = 32) (hregs : twf 0 u.regs = true) (bad : Bool) :
    Took s u c rd (descTaken u rd c bad) (takenJob u rd bad) := by
  have hlt : c.val < (tailAdvanced u c).dma.length := by
    rw [show (tailAdvanced u c).dma = u.dma from rfl, hu.dma, hlen]
    exact c.isLt
  refine ⟨tailAdvanced_getReg hregs, ?_, rfl, rfl, fun k hk => ?_, hu.cores⟩
  · rw [descTaken, getJob_setJob _ _ _ hlt, if_pos rfl]
  · rw [descTaken, getJob_setJob _ _ _ hlt, if_neg hk]
    exact congrArg (fun l : List (Option DmaJob) => (l[k]?).getD none) hu.dma

theorem descTaken_memory (bad : Bool) : memoryKept u (descTaken u rd c bad) := ⟨rfl, rfl, rfl⟩

/-- Work of the channel alone keeps what the taking of its descriptor left. -/
theorem Took.after {v t : State} {j j' : DmaJob} (h : Took s u c rd v j) (g : JobOnly c.val v t) (hj : getJob t c.val = some j') (hsame : j.Same j') :
    Took s u c rd t j' :=
  ⟨(getReg_tail g.tails).trans h.tail, hj, hsame.1.trans h.desc, hsame.2.trans h.total, fun k hk => (g.others k hk).trans (h.others k hk), g.cores.trans h.cores⟩

/-! ### A descriptor that is taken -/

theorem tidy_of_read {m : Master} {a n : Nat} (h : readSpan m s a n = (rd, u)) : Tidy s u := by
  have htidy := readSpan_tidy m s a n
  rwa [h] at htidy

variable {mode : Nat} (hread : readSpan (dmaMaster c.val) s (ringSlot s c.val) 64 = (rd, u)) (hlen : s.dma.length = 32) (hregs : twf 0 u.regs = true)
  (hm : mayTake s c.val = true) (hmode : (dmaDesc (ofBytes rd.data)).mode = mode)
include hread hlen hregs hm hmode

/-- A bad descriptor ends at once. -/
theorem dmaWork_refused (hbad : rd.poison ≠ [] ∨ descriptorBad u (dmaDesc (ofBytes rd.data)) = true) :
    dmaWork s c.val mode = descTaken u rd c true ∧ Took s u c rd (descTaken u rd c true) (takenJob u rd true) := by
  have hb : (!rd.poison.isEmpty || descriptorBad u (dmaDesc (ofBytes rd.data))) = true := by simpa [List.isEmpty_iff] using hbad
  have htook := descTaken_took (c := c) (rd := rd) (tidy_of_read hread) hlen hregs true
  refine ⟨?_, htook⟩
  rw [dmaWork, takeDescriptor_taken hread hm hmode hb (.inl rfl), ← descTaken]
  simp only [htook.job]
  rw [if_pos (.inr rfl)]

/-- A good descriptor is worked on. -/
theorem dmaWork_taken (hpoison : rd.poison = []) (hgood : descriptorBad u (dmaDesc (ofBytes rd.data)) = false) (hscaled : (dmaDesc (ofBytes rd.data)).tensorDst = false) :
    dmaWork s c.val mode = dmaUnits (2 * (dmaDesc (ofBytes rd.data)).units + 2) (descTaken u rd c false) c.val (dmaDesc (ofBytes rd.data)) ∧
      Took s u c rd (descTaken u rd c false) (takenJob u rd false) := by
  have hb : (!rd.poison.isEmpty || descriptorBad u (dmaDesc (ofBytes rd.data))) = false := by simp [hpoison, hgood]
  have htook := descTaken_took (c := c) (rd := rd) (tidy_of_read hread) hlen hregs false
  refine ⟨?_, htook⟩
  rw [dmaWork, takeDescriptor_taken hread hm hmode hb (.inr hscaled), ← descTaken]
  simp only [htook.job]
  have hdesc : dmaDesc (takenJob u rd false).desc.toNat = dmaDesc (ofBytes rd.data) := dmaDesc_ofNat _
  rw [hdesc, hmode, if_neg (by simp [takenJob])]
  rfl

section
variable (hpoison : rd.poison = []) (hgood : descriptorBad u (dmaDesc (ofBytes rd.data)) = false) (hscaled : (dmaDesc (ofBytes rd.data)).tensorDst = false)
  (hsrc : (dmaDesc (ofBytes rd.data)).srcKind = 0) (hdst : (dmaDesc (ofBytes rd.data)).dstKind = 0) (hn : NoAnswer c u)
include hpoison hgood hscaled hsrc hdst hn

/-- A good descriptor with local places runs to its end. -/
theorem dmaWork_ends (hdst2 : (dmaDesc (ofBytes rd.data)).dst2Kind = 0) :
    ∃ j, Took s u c rd (dmaWork s c.val mode) j ∧ j.finished = true ∧ (j.fault = 0 → j.done = (dmaDesc (ofBytes rd.data)).units) := by
  obtain ⟨hwork, htook⟩ := dmaWork_taken hread hlen hregs hm hmode hpoison hgood hscaled
  have hopen : (takenJob u rd false).Open 0 := ⟨rfl, rfl, rfl⟩
  have htotal : (takenJob u rd false).total = (dmaDesc (ofBytes rd.data)).units := rfl
  obtain ⟨honly, j, hj, hsame, hfin, hdone⟩ := dmaUnits_end (fuel := 2 * (dmaDesc (ofBytes rd.data)).units + 2) hsrc hdst hdst2 htook.job hn (.inr hopen)
    (Nat.zero_le _) (by omega)
  rw [hwork]
  exact ⟨j, htook.after honly hj hsame, hfin, fun h => (hdone h).trans hsame.2⟩

/-- A row that a copy carries inside the tile stores arrives, and nothing else changes. -/
theorem dmaWork_carries {m k : Fin 128} {x y : Nat} (hcopy : mode = 0) (hcarries : (dmaDesc (ofBytes rd.data)).carries = true)
    (hrows : (dmaDesc (ofBytes rd.data)).rows = 1) (hcodes : clean u) (hmem : twf 0 u.mem = true)
    (hfrom : (dmaDesc (ofBytes rd.data)).src = tileBase m.val + x) (hx : x + ((dmaDesc (ofBytes rd.data)).rowRange 0).2 ≤ 0x400000)
    (hto : (dmaDesc (ofBytes rd.data)).dst = tileBase k.val + y) (hy : y + ((dmaDesc (ofBytes rd.data)).rowRange 0).2 ≤ 0x400000) :
    (dmaWork s c.val mode).mem =
        tsetList 0 u.mem (dmaDesc (ofBytes rd.data)).dst (memBytes u (dmaDesc (ofBytes rd.data)).src ((dmaDesc (ofBytes rd.data)).rowRange 0).2) ∧
      ∃ j, getJob (dmaWork s c.val mode) c.val = some j ∧ j.fault = 0 := by
  obtain ⟨hwork, htook⟩ := dmaWork_taken hread hlen hregs hm hmode hpoison hgood hscaled
  have hunits : (dmaDesc (ofBytes rd.data)).units = 1 := by simp only [DmaDesc.units, hmode.trans hcopy, hrows]
  rw [hwork]
  refine dmaUnits_carried htook.job ⟨rfl, rfl, rfl, rfl, rfl, rfl⟩ (htook.total.trans hunits) hn (hmode.trans hcopy) hsrc hdst hcarries hcodes hmem ?_ ?_ _
  · rw [hfrom]
    exact rowSpan_tile m.isLt hx
  · rw [hto]
    exact coreSpan_tile k.isLt hy

end

end

/-- Settles O29: the units of a descriptor with local places are followed one after another, each of which goes through or stops it; a carried row is followed byte by byte. -/
theorem dmaChannels : Obligations.DmaChannels := by
  unfold Obligations.DmaChannels
  refine ⟨fun s c mode => ?_, fun s c j mode => ?_⟩
  · intro rd u d i n took hlen hregs hm hmode
    have hread : readSpan (dmaMaster c.val) s (ringSlot s c.val) 64 = (rd, u) := rfl
    have htook {t : State} {j : DmaJob} (h : Took s u c rd t j) (hfin : j.finished = true) : took t j :=
      ⟨h.tail, h.job, h.desc, h.total, hfin, h.others, h.cores⟩
    refine ⟨fun hbad => ?_, fun hpoison hgood hscaled hsrc hdst hdst2 hn => ?_⟩
    · obtain ⟨hwork, h⟩ := dmaWork_refused hread hlen hregs hm hmode hbad
      exact ⟨_, _, (exec_dma s c mode).trans (congrArg Host.Outcome.next hwork), htook h rfl, rfl, rfl, descTaken_memory true⟩
    · obtain ⟨j, h, hfin, hdone⟩ := dmaWork_ends hread hlen hregs hm hmode hpoison hgood hscaled hsrc hdst hn hdst2
      refine ⟨_, j, exec_dma s c mode, htook h hfin, hdone, fun m k x y hcopy hcarries hrows hguard hhops hmem hfrom hx hto hy => ?_⟩
      obtain ⟨hmemory, j', hj', hfault⟩ := dmaWork_carries hread hlen hregs hm hmode hpoison hgood hscaled hsrc hdst hn (by rw [hcopy]; rfl) hcarries hrows
        ⟨hguard, hhops⟩ hmem hfrom hx hto hy
      obtain rfl := Option.some.inj (h.job.symm.trans hj')
      have hlength : (memBytes u d.src n).length = n := memBytes_length ..
      refine ⟨hfault, ?_, fun a ha => ?_⟩
      · have hrow := tgetList_tsetList hmem d.dst (memBytes u d.src n)
        rw [hlength] at hrow
        rw [memBytes, hmemory]
        exact hrow
      · rw [hmemory]
        exact tget_tsetList_out hmem d.dst a _ ((not_and_or.mp ha).imp Nat.lt_of_not_le fun h => by rw [hlength]; exact Nat.le_of_not_lt h)
  · intro d i hlen hj hmode hw hr hout hfault
    refine ⟨fun hfin hall => ?_, fun hfin => ⟨dmaEnd s c.val, rfl, dmaEnd_frees hj hfin hw⟩⟩
    exact (exec_dma s c mode).trans (congrArg Host.Outcome.next (dmaWork_finishes hj hmode hw hr hout hfin hall))

end Sys2Proof.Machine
end

section
/-! SUPPORT. What a pass reads in its first load cycle: its streams have passed R206, so that every range of its first vector lies in the core's own stores. -/

namespace Sys2Proof.Machine

/-! ### The checks of R206 on the input streams -/

section
variable {s : State} {c : Core} {n base bits : Nat} {x : VecSlot}

/-- The recipe that a vector slot names. -/
def namedRecipe (c : Core) (x : VecSlot) : Recipe := recipeOf (tget 0 c.recipeFile x.rcp.toNat).toNat

theorem vecChecks_defined (h : vecChecks s c n x base bits = none) : (namedRecipe c x).undefined = false := by
  refine firstStop_eq_none.mp h ((namedRecipe c x).undefined, ⟨0x01, bits⟩) ?_
  simp only [List.mem_append]
  exact .inl (.inl (.inl (.inl List.mem_cons_self)))

/-- What R206 checks of a stream's places: its first C tiles, and its bound. -/
theorem vecChecks_stream (h : vecChecks s c n x base bits = none) {i : Nat} (hi : i < 10) (hen : ((namedRecipe c x).stream i).en = true) :
    (!(namedRecipe c x).isIndex i && ((namedRecipe c x).stream i).space == 3 &&
      decide (63 < ((namedRecipe c x).stream i).unit base 0 + (namedRecipe c x).vpr * ((namedRecipe c x).stream i).pitch)) = false ∧
    (namedRecipe c x).bounded base i = true := by
  have hstops := firstStop_eq_none.mp h
  simp only [List.mem_append] at hstops
  have hstream (y : Bool × Stop) (hy : y ∈ _) : y.1 = false :=
    hstops y (.inl (.inl (.inl (.inr (List.mem_flatMap.mpr ⟨i, List.mem_range.mpr hi, by rw [← namedRecipe, hen]; exact hy⟩)))))
  refine ⟨hstream (_, _) List.mem_cons_self, ?_⟩
  have hbounded := hstream (!(namedRecipe c x).bounded base i, _)
    (List.mem_cons_of_mem _ (List.mem_cons_of_mem _ (List.mem_cons_of_mem _ (List.mem_cons_of_mem _ List.mem_cons_self))))
  simpa using hbounded

end

/-- The index stream of a scattering recipe that is defined lies in the tile store or the accumulator (R205). -/
theorem Recipe.index_space {p : Recipe} (h : p.undefined = false) {i : Nat} (hi : p.isIndex i = true) : (p.stream i).space < 2 := by
  simp only [Recipe.undefined, Bool.or_eq_false_iff] at h
  obtain ⟨-, hscatter⟩ := h
  simp only [Recipe.isIndex, Bool.and_eq_true, beq_iff_eq, decide_eq_true_eq] at hi
  obtain ⟨⟨hon, rfl⟩, -⟩ := hi
  simp only [hon, Bool.true_and, Bool.not_eq_false', Bool.and_eq_true, decide_eq_true_eq] at hscatter
  exact hscatter.2

/-! ### The ranges of the first vector -/

theorem Stream.unit_first_le (d : Stream) (base r : Nat) : d.unit base 0 ≤ d.unit base r := by
  simp only [Stream.unit, Nat.zero_mul]
  omega

theorem Stream.elements_first_le (d : Stream) (v : Nat) {k l : Nat} (hkl : k ≤ l) :
    (d.elements 0 k).1 = 0 ∧ (d.elements 0 k).2 ≤ (d.elements v l).1 + (d.elements v l).2 := by
  unfold Stream.elements
  split <;> split <;> simp only [Nat.mul_zero, true_and] <;> omega

/-- Each range of a pass's first vector ends no later than one of any other vector with as many lanes. -/
theorem Stream.ranges_first_le (d : Stream) (base r v : Nat) {k l : Nat} (hkl : k ≤ l) {first : Bool} {y : Nat × Nat} (hy : y ∈ d.ranges base 0 0 k first) :
    ∃ z ∈ d.ranges base r v l true, y.1 + y.2 ≤ z.1 + z.2 := by
  have hunit := d.unit_first_le base r
  obtain ⟨hstart, hcount⟩ := d.elements_first_le v hkl
  have hbits := ceilDiv_mono (Nat.mul_le_mul_right d.width hcount) 8
  have hblocks : ((d.elements 0 k).2 - 1) / d.num.block ≤ ((d.elements v l).1 + (d.elements v l).2 - 1) / d.num.block :=
    Nat.div_le_div_right (Nat.sub_le_sub_right hcount 1)
  have hext : d.extOffset base 0 ≤ d.extOffset base r := by simp [Stream.extOffset]
  simp only [Stream.ranges, List.mem_append, List.mem_singleton, List.mem_ite_nil_right, hstart, Nat.zero_mul, Nat.zero_div, Nat.zero_add, Nat.add_zero] at hy ⊢
  obtain ((rfl | ⟨hscaled, rfl⟩) | ⟨⟨htensor, -⟩, rfl⟩) | ⟨hx8, rfl⟩ := hy
  · exact ⟨_, .inl (.inl (.inl rfl)), by dsimp only; omega⟩
  · refine ⟨_, .inl (.inl (.inr ⟨hscaled, rfl⟩)), ?_⟩
    generalize ((d.elements 0 k).2 - 1) / d.num.block = lastBlock at *
    generalize ((d.elements v l).1 + (d.elements v l).2 - 1) / d.num.block = lastBlock' at *
    dsimp only
    omega
  · exact ⟨_, .inl (.inr ⟨⟨htensor, trivial⟩, rfl⟩), le_rfl⟩
  · exact ⟨_, .inr ⟨hx8, rfl⟩, by dsimp only; omega⟩

/-- An access ends within its space. -/
def InSpace (a : Access) : Prop := a.2.1 + a.2.2 ≤ spaceSize a.1

/-- An element stream's ranges of the first vector end within its space, where its bound holds. -/
theorem Recipe.first_ranges_inSpace {p : Recipe} {base i : Nat} (hb : p.bounded base i = true) (hen : (p.stream i).en = true) (hi : i < 6)
    (hindex : p.isIndex i = false) (h2 : (p.stream i).space ≠ 2) (h3 : (p.stream i).space ≠ 3) {first : Bool} {y : Nat × Nat}
    (hy : y ∈ (p.stream i).ranges base 0 0 (p.lanes 0) first) : InSpace ((p.stream i).space, y) := by
  have h8 : i ≠ 8 := by omega
  have h9 : i ≠ 9 := by omega
  simp only [Recipe.bounded, hen, h2, h3, h8, h9, hindex, Bool.not_true, decide_false, Bool.or_false, Bool.false_and, Bool.and_eq_true, Bool.or_eq_true, List.all_eq_true,
    decide_eq_true_eq, Bool.false_eq_true, if_false] at hb
  obtain ⟨hlast, hbefore⟩ := hb
  have hwithin {v l : Nat} (hl : p.lanes 0 ≤ l)
      (h : ∀ z ∈ (p.stream i).ranges base (p.rows - 1) v l true, z.1 + z.2 ≤ spaceSize (p.stream i).space) : InSpace ((p.stream i).space, y) := by
    obtain ⟨z, hz, hle⟩ := (p.stream i).ranges_first_le base (p.rows - 1) v hl hy
    exact hle.trans (h z hz)
  by_cases hone : p.vpr = 0
  · exact hwithin (by rw [hone]) hlast
  · refine hwithin ?_ (hbefore.resolve_left hone)
    rw [Recipe.lanes, if_neg (Ne.symm hone)]

/-- The reads of a pass's first vector end within their spaces (R206). -/
theorem loads_first_inSpace {s : State} {c : Core} {n base bits : Nat} {x : VecSlot} (h : vecChecks s c n x base bits = none) :
    ∀ a ∈ (namedRecipe c x).loads base 0 0, InSpace a := by
  have hdefined := vecChecks_defined h
  intro a ha
  obtain ⟨i, hi, ha⟩ := List.mem_flatMap.mp ha
  have hi := List.mem_range.mp hi
  have hstream := vecChecks_stream (i := i) h (by omega)
  generalize namedRecipe c x = p at *
  by_cases hen : (p.stream i).en = true
  swap
  · simp [hen] at ha
  obtain ⟨htiles, hbounded⟩ := hstream hen
  cases hindex : p.isIndex i with
  | true =>
    have hspace := Recipe.index_space hdefined hindex
    have hunit := (p.stream i).unit_first_le base (p.rows - 1)
    simp only [hen, hindex, Bool.not_true, Bool.false_eq_true, if_true, if_false, List.mem_singleton] at ha
    simp only [Recipe.bounded, hen, hindex, show i ≠ 8 by omega, show (p.stream i).space ≠ 2 by omega, show (p.stream i).space ≠ 3 by omega, decide_false,
      Bool.not_true, Bool.or_false, Bool.false_and, Bool.false_eq_true, if_true, if_false, decide_eq_true_eq] at hbounded
    subst ha
    simp only [InSpace]
    omega
  | false =>
    simp only [hen, hindex, Bool.not_true, Bool.false_eq_true, if_false] at ha
    split at ha
    · simp at ha
    · rename_i h3
      simp only [hindex, h3, Bool.not_false, beq_self_eq_true, Bool.true_and, decide_eq_false_iff_not] at htiles
      simp only [Nat.zero_lt_succ, if_true, List.mem_singleton, Nat.zero_mul, Nat.add_zero, Nat.mul_zero] at ha
      subst ha
      simp only [InSpace, spaceSize, one_ne_zero, if_false]
      omega
    · rename_i h2 h3
      obtain ⟨y, hy, rfl⟩ := List.mem_map.mp ha
      exact Recipe.first_ranges_inSpace hbounded hen hi hindex h2 h3 hy

/-! ### The granules of a load cycle -/

/-- The granules that a pass of core n consumes as it loads vector (r, v), each once (R183, R541). -/
def loadGranules (n : Nat) (p : Recipe) (base r v : Nat) : List Nat :=
  ((p.loads base r v).flatMap (fun a => (pieces (spaceBase n a.1 + a.2.1) a.2.2).map (·.1))).eraseDups

/-- A granule that an access within its space touches lies in the core's stores. -/
theorem inCore_of_mem_access {n : Nat} (hn : n < 128) {a : Access} (ha : InSpace a) {q : Nat × Nat × Nat} (hq : q ∈ pieces (spaceBase n a.1 + a.2.1) a.2.2) :
    InCore (32 * q.1) := by
  obtain ⟨-, hlast, hfirst, -⟩ := mem_pieces hq
  refine ⟨n, hn, ?_⟩
  unfold InSpace spaceSize at ha
  unfold spaceBase at hfirst hlast
  split at ha <;> rename_i hspace <;> simp only [hspace, if_true, if_false] at hfirst hlast
  · left; simp only [tileBase] at *; omega
  · right; simp only [accBase] at *; omega

/-- The granules of a pass's first load cycle lie in the core's stores. -/
theorem loadGranules_inCore {s : State} {c : Core} {n base bits : Nat} {x : VecSlot} (hn : n < 128) (h : vecChecks s c n x base bits = none) :
    ∀ g ∈ loadGranules n (namedRecipe c x) base 0 0, InCore (32 * g) := by
  intro g hg
  obtain ⟨a, ha, q, hq, rfl⟩ : ∃ a ∈ (namedRecipe c x).loads base 0 0, ∃ q ∈ pieces (spaceBase n a.1 + a.2.1) a.2.2, q.1 = g := by
    simpa only [loadGranules, List.mem_eraseDups, List.mem_flatMap, List.mem_map] using hg
  exact inCore_of_mem_access hn (loads_first_inSpace h a ha) hq

end Sys2Proof.Machine
end

section
/-! SUPPORT. What a still core does with a bundle whose only operation is in its vector slot: the slot's checks, and the pass that starts. -/

namespace Sys2Proof.Machine

/-! ### The checks of the vector slot alone -/

section
variable {s : State} {n : Nat} {tag : BitVec 16} {x : VecSlot} {pc : Nat}

theorem vecBundle_not_suppressed (c : Core) (tag : BitVec 16) (x : VecSlot) (k : Nat) : suppressed c (vecBundle tag x) k = false := by
  simp [suppressed, predBit, vecBundle, bit]

/-- The vector slot's checks on its core. -/
def passStop (s : State) (n : Nat) (x : VecSlot) : Option Stop := vecChecks s (getCore s n) n x (sreg (getCore s n) x.sb) (vecBits x)

/-- No slot's checks change anything, and the slots beside the vector slot, which are empty, pass theirs. -/
theorem slotChecks_vec (hop : x.vop = 1) (k : Nat) : slotChecks s n pc (vecBundle tag x) k = (if k = 2 then passStop s n x else none, s) := by
  have hseq : seqChecks (getCore s n) n pc ⟨0, 0, 0, 0, 0, 0⟩ = none := by
    simp [seqChecks, seqCollision, seqWrites, seqAccess, firstStop]
  have hvec : (vecBundle tag x).vec = x := rfl
  have hstarts : ¬ x.vop = 0 := by simp [hop]
  simp only [slotChecks, vecBundle_not_suppressed]
  match k with
  | 0 => exact congrArg (·, s) hseq
  | 2 => simp only [hvec, hstarts, Bool.false_eq_true, if_false, if_true, passStop]
  | 1 | 3 | 4 | _ + 5 => rfl

/-- A fold over distinct slots of which only slot j moves it. -/
theorem foldl_slots_only {β : Type} {f : β → Nat → β} {l : List Nat} {j : Nat} (hl : l.Nodup) (hj : j ∈ l) (h : ∀ b k, k ≠ j → f b k = b) (b : β) :
    l.foldl f b = f b j := by
  obtain ⟨before, after, rfl⟩ := List.append_of_mem hj
  obtain ⟨hafter, hbefore⟩ : j ∉ after ∧ j ∉ before := by
    obtain ⟨-, hcons, hapart⟩ := List.nodup_append.mp hl
    exact ⟨(List.nodup_cons.mp hcons).1, fun hm => hapart j hm j List.mem_cons_self rfl⟩
  rw [List.foldl_append, List.foldl_cons, foldl_fixed f b before fun k hk => h b k (ne_of_mem_of_not_mem hk hbefore),
    foldl_fixed f (f b j) after fun k hk => h (f b j) k (ne_of_mem_of_not_mem hk hafter)]

/-- A pass alone in its bundle is encoded legally, so that the bundle passes its checks only where the vector slot does (R209). -/
theorem bundleChecks_vec (hc : isCsf1 (getCore s n) = false) (hop : x.vop = 1) (hr : x.rsvd = 0) :
    bundleChecks s n pc (vecBundle tag x) = ((passStop s n x).map (fun t => ⟨t.reason, pc, 2, BitVec.ofNat 64 t.detail⟩), s) := by
  have hundefined : (List.range 6).find? (slotUndefined (vecBundle tag x) false) = none := by
    simp [range6, slotUndefined, vecBundle, predBit, bit, hop]
  have hreserved : (List.range 6).find? (fun k => (!suppressed (getCore s n) (vecBundle tag x) k || false) && slotReserved (vecBundle tag x) false k) = none := by
    simp [range6, slotReserved, vecBundle, seqUses, hop, hr, matBits, dmBits, accBits, at_]
  have hrsvd : (vecBundle tag x).rsvd = 0 := rfl
  simp only [bundleChecks, hc, hundefined, hrsvd, hreserved, slotChecks_vec hop, ne_eq, not_true_eq_false, if_false]
  rw [foldl_slots_only List.nodup_range (List.mem_range.mpr (show 2 < 6 by decide)) fun acc k hk => ?_]
  · rfl
  · obtain ⟨_ | stop, t⟩ := acc
    · simp only [if_neg hk, Option.map_none]
    · rfl

end

/-! ### The pass that starts, R175, R176 and R201 -/

section
variable {s : State}

/-- The tensor-scaled outputs of a recipe take their slots' exponents: the pass's writers, and the steward with each counted. -/
def takeWriters (s : State) (p : Recipe) : List (Nat × Writer) × State :=
  (List.range 4).foldl (fun acc o =>
    if (p.stream (6 + o)).en && (p.stream (6 + o)).num.scaling == 2 && !(o == 3 && p.tkEn) then
      (acc.1 ++ [(o, { slot := (p.stream (6 + o)).num.slot, scale := (takeWriter acc.2 (p.stream (6 + o)).num.slot).1 })],
        (takeWriter acc.2 (p.stream (6 + o)).num.slot).2)
    else acc) ([], s)

/-- The pass of recipe p that core c starts. -/
def startedPass (c : Core) (pc : Nat) (p : Recipe) (base : Nat) (aud : Bool) (ws : List (Nat × Writer)) : Pass :=
  { id := c.nextId, pc := pc, recipe := p.bits, base := base, issued := c.cycle, vectors := p.rows * (p.vpr + 1), audited := aud, writers := ws }

/-- A core that has started a pass. -/
def withPass (p : Recipe) (x : Pass) (c : Core) : Core :=
  { c with nextId := c.nextId + 1, vecFree := c.cycle + p.rows * (p.vpr + 1), passes := c.passes ++ [x] }

theorem issuePass_eq (s : State) (n pc : Nat) (x : VecSlot) (base : Nat) (aud : Bool) :
    issuePass s n pc x base aud = modCore (takeWriters s (namedRecipe (getCore s n) x)).2 n
      (fun c => withPass (namedRecipe (getCore s n) x)
        (startedPass c pc (namedRecipe (getCore s n) x) base aud (takeWriters s (namedRecipe (getCore s n) x)).1) c) := rfl

/-- The writers are the steward's: the cores and the memories stay. -/
theorem takeWriters_keeps (s : State) (p : Recipe) : (takeWriters s p).2.cores = s.cores ∧ memoryKept s (takeWriters s p).2 := by
  unfold takeWriters
  refine List.foldlRecOn _ _ (motive := fun acc : List (Nat × Writer) × State => acc.2.cores = s.cores ∧ memoryKept s acc.2) ⟨rfl, rfl, rfl, rfl⟩
    fun acc h o _ => ?_
  split
  · exact h
  · exact h

end

/-! ### The issue of the vector slot on a still core -/

section
variable {s : State} {n : Fin 128} {tag : BitVec 16} {x : VecSlot}

/-- A bundle of the vector slot takes effect: the pass starts, and the core moves on (R207). -/
theorem performBundle_vec (pc : Nat) (hop : x.vop = 1) (ha : auditedBundle s n.val (vecBundle tag x) = false) :
    performBundle s n.val pc (vecBundle tag x) =
      (false, modCore (issuePass s n.val pc x (sreg (getCore s n.val) x.sb) false) n.val (movedOn (getCore s n.val).loops pc)) := by
  simp only [performBundle, vecBundle_not_suppressed, ha]
  simp [vecBundle, hop, nextBundle, seqEffect]
  rfl

/-- What a still core whose vector slot passes its checks does with a bundle of that slot. -/
theorem vec_issue (h : StillAt s n (vecBundle tag x)) (hop : x.vop = 1) (hr : x.rsvd = 0) (hpass : passStop s n.val x = none) :
    issueBundle s n.val (vecBundle tag x) none =
      ([], modCore (issuePass s n.val (getCore s n.val).pc x (sreg (getCore s n.val) x.sb) false) n.val
        (movedOn (getCore s n.val).loops (getCore s n.val).pc)) := by
  obtain ⟨-, ⟨-, -, -, -, -, hcsf, hfiles⟩, -, haudit⟩ := h
  have hsop : (vecBundle tag x).seq.sop ≠ 3 := by simp [vecBundle]
  simp only [issueBundle, meetFiles_none hfiles, bundleChecks_vec hcsf hop hr, hpass, Option.map_none, haudit, performBundle_vec _ hop haudit]
  simp only [Bool.false_eq_true, if_false, Option.toList_none, List.append_nil, if_neg hsop]
  rw [List.find?_eq_none.mpr (by simp)]

end

end Sys2Proof.Machine
end

section
/-! SUPPORT. Load cycles of passes: what the load of a vector leaves of its core and of the memories, and a core cycle that loads and in which no write is due. -/

namespace Sys2Proof.Machine

/-! ### What load cycles leave of a core -/

/-- A pass without what its load cycles gather. -/
def loadAside (x : Pass) : Pass := { x with loaded := none, tiles := [], scales := [], indices := [] }

/-- A core without what a cycle of loads may change of it: what its passes gather, its guard counts and the uses of its ports' banks. -/
def cycleAside (c : Core) : Core := { portsAside (guardAside c) with passes := c.passes.map loadAside, nextLoaded := [] }

/-- No pass of a core has a vector on its way to the stages. -/
def Unloaded (c : Core) : Prop := ∀ x ∈ c.passes, x.loaded = none

/-- A step from s to t in which passes of core n load vectors, and no core changes otherwise. -/
structure Loads (n : Nat) (s t : State) : Prop where
  length : t.cores.length = s.cores.length
  core : cycleAside (getCore t n) = cycleAside (getCore s n)
  others : othersKept s t n

section
variable {n : Nat} {s t u : State}

theorem Loads.refl (s : State) : Loads n s s := ⟨rfl, rfl, fun _ _ => rfl⟩

theorem Loads.trans (h : Loads n s t) (g : Loads n t u) : Loads n s u :=
  ⟨g.length.trans h.length, g.core.trans h.core, fun m hm => (g.others m hm).trans (h.others m hm)⟩

theorem Loads.lt (h : Loads n s t) (hn : n < s.cores.length) : n < t.cores.length := by rwa [h.length]

/-- What a core consumes is part of its loads. -/
theorem Consumed.loads (h : Consumed n s t) : Loads n s t where
  length := h.length
  core := by
    have haside (c : Core) : cycleAside c = cycleAside (guardAside c) := rfl
    rw [haside, h.core, ← haside]
  others := h.others

theorem Consumed.unloaded (h : Consumed n s t) (hs : Unloaded (getCore s n)) : Unloaded (getCore t n) := by
  have hpasses : (getCore t n).passes = (getCore s n).passes := (congrArg Core.passes h.core :)
  rwa [Unloaded, hpasses]

/-- A change of the core's own passes that keeps all but what they gather. -/
theorem Loads.modCore (hn : n < s.cores.length) {f : Core → Core} (hf : cycleAside (f (getCore s n)) = cycleAside (getCore s n)) :
    Loads n s (modCore s n f) := by
  have hcore : getCore (Machine.modCore s n f) n = f (getCore s n) := by rw [getCore_modCore _ _ _ hn, if_pos rfl]
  exact ⟨modCore_cores_length .., hcore ▸ hf, fun m hm => by rw [getCore_modCore _ _ _ hn, if_neg hm]⟩

theorem cycleAside_updPass {c : Core} {id : Nat} {f : Pass → Pass} (hf : ∀ y, loadAside (f y) = loadAside y) : cycleAside (updPass c id f) = cycleAside c := by
  have hpasses : (updPass c id f).passes.map loadAside = c.passes.map loadAside := by
    simp only [updPass, mapIf, List.map_map]
    refine List.map_congr_left fun y _ => ?_
    rw [Function.comp, apply_ite loadAside, hf, ite_self]
  exact congrArg (fun ps => { portsAside (guardAside c) with passes := ps, nextLoaded := [] }) hpasses

theorem cycleAside_nextLoaded (c : Core) (ls : List (Nat × LoadedVector)) : cycleAside { c with nextLoaded := ls } = cycleAside c := rfl

theorem unloaded_nextLoaded {c : Core} (ls : List (Nat × LoadedVector)) (hc : Unloaded c) : Unloaded { c with nextLoaded := ls } := hc

theorem unloaded_updPass {c : Core} {id : Nat} {f : Pass → Pass} (hf : ∀ y, (f y).loaded = none) (hc : Unloaded c) : Unloaded (updPass c id f) := by
  intro y hy
  obtain ⟨x, hx, rfl⟩ := List.mem_map.mp hy
  split
  · exact hf x
  · exact hc x hx

/-! ### A load cycle of a pass, R181 to R183 -/

/-- The granules that pass x of core n consumes in a load cycle. -/
def cycleGranules (n : Nat) (x : Pass) (cycle : Nat) : List Nat :=
  let rv := (recipeOf x.recipe).place (cycle - x.issued)
  loadGranules n (recipeOf x.recipe) x.base rv.1 rv.2

/-- The load of a pass's vector consumes its granules, and changes what the pass has gathered and the vectors that the cycle has loaded. -/
theorem loadVector_state {id : Nat} {x : Pass} (hx : (getCore s n).passes.find? (fun y => y.id == id) = some x) :
    ∃ (gather : Pass → Pass) (l : LoadedVector), (∀ y, loadAside (gather y) = loadAside y) ∧ (x.loaded = none → ∀ y, (gather y).loaded = none) ∧
      (loadVector s n id).2 = modCore (modCore (consume s n (cycleGranules n x (getCore s n).cycle)).2 n (fun c => updPass c id gather)) n
        (fun c => { c with nextLoaded := c.nextLoaded ++ [(id, l)] }) := by
  unfold loadVector
  simp only [hx]
  refine ⟨_, _, ?_, ?_, rfl⟩
  · exact fun _ => rfl
  · exact fun h y => by simp only [h, Option.map_none]

theorem loadVector_loads (hn : n < s.cores.length) (id : Nat) (hs : Unloaded (getCore s n)) :
    Loads n s (loadVector s n id).2 ∧ Unloaded (getCore (loadVector s n id).2 n) := by
  cases hx : (getCore s n).passes.find? (fun y => y.id == id) with
  | none =>
    unfold loadVector
    simp only [hx]
    exact ⟨.refl s, hs⟩
  | some x =>
    obtain ⟨gather, l, haside, hnone, hstate⟩ := loadVector_state hx
    have hconsumed := consume_consumed hn (cycleGranules n x (getCore s n).cycle)
    have hlen := hconsumed.lt hn
    have hgathered := hconsumed.loads.trans (.modCore hlen (f := fun c => updPass c id gather) (cycleAside_updPass haside))
    have hlen' := hgathered.lt hn
    rw [hstate]
    refine ⟨hgathered.trans (.modCore hlen' (cycleAside_nextLoaded ..)), ?_⟩
    rw [getCore_modCore _ _ _ hlen', if_pos rfl, getCore_modCore _ _ _ hlen, if_pos rfl]
    exact unloaded_nextLoaded _ (unloaded_updPass (hnone (hs x (List.mem_of_find?_eq_some hx))) (hconsumed.unloaded hs))

/-- With clean codes, a load whose granules lie in the cores' stores leaves the memories as they are. -/
theorem loadVector_memory {id : Nat} {x : Pass} (hg : s.guard = []) (hx : (getCore s n).passes.find? (fun y => y.id == id) = some x)
    (hin : ∀ g ∈ cycleGranules n x (getCore s n).cycle, InCore (32 * g)) : memoryKept s (loadVector s n id).2 := by
  obtain ⟨gather, l, -, -, hstate⟩ := loadVector_state hx
  rw [hstate, consume_clean hg hin]
  exact ⟨rfl, rfl, rfl⟩

/-- A pass of a core with undamaged internal files loads its vector of the cycle, or none. -/
theorem doLoad_state {f : Found} (id : Nat) (hfiles : (getCore f.2 n).fileErrors = []) :
    (doLoad n id f).2 = f.2 ∨ (doLoad n id f).2 = (loadVector f.2 n id).2 := by
  unfold doLoad
  dsimp only
  split
  · exact .inl rfl
  · split
    · exact .inl rfl
    · simp only [meetFiles_none hfiles]
      exact .inr trivial

/-! ### The reads and the writes of the cycle -/

/-- Where no vector is on its way, the stages have nothing to do. -/
theorem cycleAside_runVectors {c : Core} (hc : Unloaded c) : cycleAside (runVectors c) = cycleAside c := by
  unfold runVectors
  rw [foldl_fixed (b := c) (l := c.passes) _ ?_]
  · simp only [cycleAside, List.map_map]
    rfl
  · intro x _
    cases hx : c.passes.find? (fun y => y.id == x.id) with
    | none => rfl
    | some y => simp only [Option.bind_some, hc y (List.mem_of_find?_eq_some hx)]

/-- A cycle whose reads find nothing that halts the core, and in which no event is due: the passes load, and the stages go on. -/
theorem cycleReads_loads (hl : Later (getCore s n)) (h : (cycleReads n ([], s)).1 = []) :
    cycleReads n ([], s) = ([], modCore (((getCore s n).passes.map (·.id)).foldl (fun f id => doLoad n id f) ([], s)).2 n runVectors) := by
  cases hc : conflictHalt (getCore s n) with
  | some stop => simp [cycleReads, hc] at h
  | none =>
    refine Prod.ext h ?_
    simp only [cycleReads, hc, dueEvents_later hl, List.foldl_nil]

/-- The uses of the shared ports' banks by the static accesses of a core's cycle (R185, R215). -/
def cycleUses (c : Core) : List (Nat × Nat × Nat) :=
  ((((staticReads c ++ staticWrites c).flatMap (·.accs)).flatMap accessBanks).eraseDups).map (fun b => (b.1, b.2, 0))

/-- In a cycle in which no write is due, only the banks of its reads are noted, and the core's cycle count moves on. -/
theorem cycleWrites_noWrites (hl : Later (getCore s n)) (hn : n < s.cores.length) (hq : (getCore s n).queues = []) (hw : (getCore s n).waiting = []) :
    cycleWrites s n = modCore s n (fun c =>
      dropMoves { c with ports := portsNow s c ++ cycleUses (getCore s n), portsAt := s.cycles, cycle := c.cycle + 1 }) := by
  have hevents : (getCore s n).events.filter (fun e => decide ((getCore s n).cycle < e.1)) = (getCore s n).events := by
    rw [List.filter_eq_self]
    intro e he
    simpa using hl e he
  have hqueues (xs) : (getCore (usePorts s n xs) n).queues = [] := by simp [usePorts, getCore_modCore _ _ _ hn, hq]
  have hwaits (xs) : (getCore (usePorts s n xs) n).waiting = [] := by simp [usePorts, getCore_modCore _ _ _ hn, hw]
  simp only [cycleWrites, dueEvents_later hl, List.foldl_nil]
  rw [← cycleUses, applyHeads_calm (hqueues _), usePorts_usePorts hn, List.append_nil, joinWaiting_calm (hwaits _), usePorts, modCore_modCore _ _ _ hn]
  simp only [modCore]
  congr 2
  simp only [hevents]

end

end Sys2Proof.Machine
end

section
/-! SUPPORT. The core cycle in which a pass starts and its first vector is loaded, and the statement on PASS (O12). -/

namespace Sys2Proof.Machine

/-- The place of a pass's first vector (R176). -/
theorem Recipe.place_first (p : Recipe) : p.place 0 = (0, 0) := by
  unfold Recipe.place
  split <;> simp

/-! ### The cycle in which a pass starts -/

section
variable {n : Nat} {v w : State} {x : Pass}

/-- Core c has just started pass x, and has nothing else on its way. -/
structure JustStarted (c : Core) (x : Pass) : Prop where
  events : c.events = []
  passes : c.passes = [x]
  unloaded : x.loaded = none
  issued : x.issued = c.cycle
  queues : c.queues = []
  waiting : c.waiting = []
  moves0 : c.mover0.moves = []
  moves1 : c.mover1.moves = []
  files : c.fileErrors = []

/-- What may be on its way beside a core's passes is not part of their loads. -/
theorem cycleAside_idle {c d : Core} (h : cycleAside d = cycleAside c) :
    d.events = c.events ∧ d.queues = c.queues ∧ d.waiting = c.waiting ∧ d.mover0.moves = c.mover0.moves ∧ d.mover1.moves = c.mover1.moves :=
  ⟨(congrArg Core.events h :), (congrArg Core.queues h :), (congrArg Core.waiting h :), (congrArg (fun c : Core => c.mover0.moves) h :),
    (congrArg (fun c : Core => c.mover1.moves) h :)⟩

theorem cycleAside_ticked {c d : Core} (h : cycleAside d = cycleAside c) (uses : List (Nat × Nat × Nat)) (k : Nat) :
    cycleAside { d with ports := uses, portsAt := k, cycle := d.cycle + 1 } = cycleAside { c with cycle := c.cycle + 1 } :=
  congrArg (fun c : Core => { c with cycle := c.cycle + 1 }) h

theorem JustStarted.later {c : Core} (h : JustStarted c x) : Later c := by
  intro e he
  rw [h.events] at he
  exact absurd he List.not_mem_nil

/-- The reads of the cycle, where nothing halts the core: the first vector is loaded, and with clean codes the memories stay. -/
theorem cycleReads_started (hn : n < v.cores.length) (h : JustStarted (getCore v n) x) (hr : (cycleReads n ([], v)).1 = []) :
    ∃ w, cycleReads n ([], v) = ([], w) ∧ Loads n v w ∧
      (v.guard = [] → (∀ g ∈ loadGranules n (recipeOf x.recipe) x.base 0 0, InCore (32 * g)) → memoryKept v w) := by
  have hfind : (getCore v n).passes.find? (fun y => y.id == x.id) = some x := by simp [h.passes]
  have hunloaded : Unloaded (getCore v n) := by
    intro y hy
    rw [h.passes] at hy
    exact (List.mem_singleton.mp hy) ▸ h.unloaded
  have hgranules : cycleGranules n x (getCore v n).cycle = loadGranules n (recipeOf x.recipe) x.base 0 0 := by
    rw [cycleGranules, h.issued, Nat.sub_self, Recipe.place_first]
  have hfold : ((getCore v n).passes.map (·.id)).foldl (fun f id => doLoad n id f) ([], v) = doLoad n x.id ([], v) := by
    rw [h.passes]
    rfl
  have hload : Loads n v (doLoad n x.id ([], v)).2 ∧ Unloaded (getCore (doLoad n x.id ([], v)).2 n) ∧
      (v.guard = [] → (∀ g ∈ loadGranules n (recipeOf x.recipe) x.base 0 0, InCore (32 * g)) → memoryKept v (doLoad n x.id ([], v)).2) := by
    obtain hnone | hsome := doLoad_state (f := ([], v)) x.id h.files
    · rw [hnone]
      exact ⟨.refl v, hunloaded, fun _ _ => ⟨rfl, rfl, rfl⟩⟩
    · rw [hsome]
      obtain ⟨hloads, hafter⟩ := loadVector_loads hn x.id hunloaded
      exact ⟨hloads, hafter, fun hg hin => loadVector_memory hg hfind (hgranules ▸ hin)⟩
  obtain ⟨hloads, hafter, hmemory⟩ := hload
  refine ⟨_, cycleReads_loads h.later hr, ?_, ?_⟩ <;> rw [hfold]
  · exact hloads.trans (.modCore (hloads.lt hn) (cycleAside_runVectors hafter))
  · exact hmemory

/-- The cycle in which a pass starts: the core's cycle count moves on, and its pass has loaded its first vector. -/
theorem coreCycle_started {s : State} {src : Source} (hs : n < s.cores.length) (hstill : Still (getCore s n)) (hi : issueFrom (clearPorts s n) n src = ([], v))
    (hn : n < v.cores.length) (h : JustStarted (getCore v n) x) (hr : (cycleReads n ([], v)).1 = []) :
    cycleAside (getCore (coreCycle s n src) n) = cycleAside { getCore v n with cycle := (getCore v n).cycle + 1 } ∧ othersKept v (coreCycle s n src) n ∧
      (v.guard = [] → (∀ g ∈ loadGranules n (recipeOf x.recipe) x.base 0 0, InCore (32 * g)) → memoryKept v (coreCycle s n src)) := by
  obtain ⟨w, hreads, hloads, hmemory⟩ := cycleReads_started hn h hr
  have hw := hloads.lt hn
  obtain ⟨hevents, hqueues, hwaiting, hmover0, hmover1⟩ := cycleAside_idle hloads.core
  have hlater : Later (getCore w n) := by
    intro e he
    rw [hevents, h.events] at he
    exact absurd he List.not_mem_nil
  have hcycle : coreCycle s n src = modCore w n (fun c =>
      dropMoves { c with ports := portsNow w c ++ cycleUses (getCore w n), portsAt := w.cycles, cycle := c.cycle + 1 }) := by
    rw [coreCycle_still hs hstill, hi, hreads]
    exact cycleWrites_noWrites hlater hw (hqueues.trans h.queues) (hwaiting.trans h.waiting)
  rw [hcycle]
  refine ⟨?_, fun m hm => ?_, hmemory⟩
  · rw [getCore_modCore _ _ _ hw, if_pos rfl, dropMoves_calm]
    · exact cycleAside_ticked hloads.core _ _
    · exact hmover0.trans h.moves0
    · exact hmover1.trans h.moves1
  · rw [getCore_modCore _ _ _ hw, if_neg hm]
    exact hloads.others m hm

end

/-! ### The statement -/

section
variable {s : State} {n : Fin 128} {x : VecSlot}

/-- The state in which a still core has started the pass of its vector slot, before the reads of the cycle. -/
def passStarted (s : State) (n : Fin 128) (x : VecSlot) : State :=
  modCore (issuePass (clearPorts s n.val) n.val (getCore s n.val).pc x (sreg (getCore s n.val) x.sb) false) n.val
    (movedOn (getCore s n.val).loops (getCore s n.val).pc)

theorem getCore_of_cores {u v : State} (h : v.cores = u.cores) (m : Nat) : getCore v m = getCore u m := by simp only [getCore, h]

/-- The writers that a pass takes as it starts. -/
def passWriters (s : State) (n : Fin 128) (x : VecSlot) : List (Nat × Writer) := (takeWriters (clearPorts s n.val) (namedRecipe (getCore s n.val) x)).1

/-- The pass that a still core starts. -/
def slotPass (s : State) (n : Fin 128) (x : VecSlot) : Pass :=
  startedPass (getCore s n.val) (getCore s n.val).pc (namedRecipe (getCore s n.val) x) (sreg (getCore s n.val) x.sb) false (passWriters s n x)

/-- Core c after the cycle in which it has started pass x of recipe p, but for what the pass has gathered there. -/
def afterStart (p : Recipe) (x : Pass) (c : Core) : Core := { movedOn c.loops c.pc (withPass p x c) with cycle := c.cycle + 1 }

theorem cycleAside_afterStart (p : Recipe) (x : Pass) (c : Core) (k : Nat) :
    cycleAside { movedOn c.loops c.pc (withPass p x { c with ports := [], portsAt := k }) with cycle := c.cycle + 1 } = cycleAside (afterStart p x c) := by
  cases c
  rfl

/-- What the statement reads of such a core. -/
theorem afterStart_fields {c d : Core} {p : Recipe} {x : Pass} (h : cycleAside d = cycleAside (afterStart p x c)) :
    d.passes.map loadAside = (c.passes ++ [x]).map loadAside ∧ d.vecFree = c.cycle + p.rows * (p.vpr + 1) ∧ d.pc = (afterBundle c.loops c.pc).1 ∧
      d.bundles = c.bundles + 1 ∧ d.cycle = c.cycle + 1 ∧ d.sregs = c.sregs ∧ d.matFree = c.matFree :=
  ⟨(congrArg Core.passes h :), (congrArg Core.vecFree h :), (congrArg Core.pc h :), (congrArg Core.bundles h :), (congrArg Core.cycle h :),
    (congrArg Core.sregs h :), (congrArg Core.matFree h :)⟩

/-- The pass is started on the core whose cycle has begun; its writers are no core's, and no memory's. -/
theorem passStarted_state (hn : n.val < s.cores.length) :
    (passStarted s n x).cores.length = s.cores.length ∧
    getCore (passStarted s n x) n.val = movedOn (getCore s n.val).loops (getCore s n.val).pc
      (withPass (namedRecipe (getCore s n.val) x) (slotPass s n x) { getCore s n.val with ports := [], portsAt := s.cycles }) ∧
    othersKept s (passStarted s n x) n.val ∧ memoryKept s (passStarted s n x) := by
  have hclear := getCore_clear hn
  have hrecipe : namedRecipe (getCore (clearPorts s n.val) n.val) x = namedRecipe (getCore s n.val) x := by rw [hclear]; rfl
  obtain ⟨hcores, hmemory⟩ := takeWriters_keeps (clearPorts s n.val) (namedRecipe (getCore s n.val) x)
  have hlength : (takeWriters (clearPorts s n.val) (namedRecipe (getCore s n.val) x)).2.cores.length = s.cores.length := by
    rw [hcores, clearPorts, modCore_cores_length]
  have hsame (m : Nat) : getCore (takeWriters (clearPorts s n.val) (namedRecipe (getCore s n.val) x)).2 m = getCore (clearPorts s n.val) m :=
    getCore_of_cores hcores m
  have hn' := hlength ▸ hn
  unfold passStarted
  rw [issuePass_eq, hrecipe, modCore_modCore _ _ _ hn']
  refine ⟨(modCore_cores_length ..).trans hlength, ?_, fun m hm => ?_, hmemory⟩
  · rw [getCore_modCore _ _ _ hn', if_pos rfl, hsame, hclear]
    rfl
  · rw [getCore_modCore _ _ _ hn', if_neg hm, hsame, clearPorts, getCore_modCore _ _ _ hn, if_neg hm]

/-- A still core that has started a pass has nothing else on its way. -/
theorem passStarted_justStarted (hn : n.val < s.cores.length) (h : Still (getCore s n.val)) :
    JustStarted (getCore (passStarted s n x) n.val) (slotPass s n x) := by
  obtain ⟨-, hcore, -⟩ := passStarted_state (x := x) hn
  obtain ⟨-, -, -, -, hevents, hpasses, -, hqueues, hwaiting, hmoves0, hmoves1, -, -, -, hfiles⟩ := still_fields h
  rw [hcore]
  exact ⟨hevents, congrArg (· ++ [slotPass s n x]) hpasses, rfl, rfl, hqueues, hwaiting, hmoves0, hmoves1, hfiles⟩

/-- What the vector slot reads of its core as the core's cycle begins. -/
theorem clear_slotReads (hn : n.val < s.cores.length) :
    let u := getCore (clearPorts s n.val) n.val
    u.pc = (getCore s n.val).pc ∧ u.loops = (getCore s n.val).loops ∧ sreg u = sreg (getCore s n.val) ∧ namedRecipe u x = namedRecipe (getCore s n.val) x := by
  rw [getCore_clear hn]
  exact ⟨rfl, rfl, rfl, rfl⟩

section
variable {tag : BitVec 16} (h : StillAt s n (vecBundle tag x)) (hop : x.vop = 1) (hr : x.rsvd = 0)
  (hc : (bundleChecks (clearPorts s n.val) n.val (getCore s n.val).pc (vecBundle tag x)).1 = none)
include h hop hr hc

theorem passStop_passes : passStop (clearPorts s n.val) n.val x = none := by
  obtain ⟨-, ⟨-, -, -, -, -, hcsf, -⟩, -, -⟩ := stillAt_clear h
  rw [bundleChecks_vec hcsf hop hr] at hc
  exact Option.map_eq_none_iff.mp hc

/-- A still core takes no break, and issues a pass that its checks let through. -/
theorem issueFrom_pass : issueFrom (clearPorts s n.val) n.val (.given (vecBundle tag x)) = ([], passStarted s n x) := by
  have hclear := stillAt_clear h
  obtain ⟨hpc, hloops, hregs, -⟩ := clear_slotReads (x := x) (stillAt_len h)
  have hissue := vec_issue hclear hop hr (passStop_passes h hop hr hc)
  rw [hpc, hloops, hregs] at hissue
  simp only [issueFrom, hclear.2.1.1, if_true, breakAt_still hclear, hissue, passStarted]

/-- The first vector of the pass is read from the core's own stores. -/
theorem slotPass_inCore : ∀ g ∈ loadGranules n.val (recipeOf (slotPass s n x).recipe) (slotPass s n x).base 0 0, InCore (32 * g) := by
  obtain ⟨-, -, hregs, hrecipe⟩ := clear_slotReads (x := x) (stillAt_len h)
  have hin := loadGranules_inCore n.isLt (passStop_passes h hop hr hc)
  rw [hrecipe, hregs] at hin
  exact hin

end

/-- A still core is given a pass that nothing halts: the pass is started, and the cycle moves on with its first vector loaded. -/
theorem issueRow_pass {tag : BitVec 16} (h : StillAt s n (vecBundle tag x)) (hop : x.vop = 1) (hr : x.rsvd = 0) (hi : issues s n (vecBundle tag x)) :
    ∃ t, issueRow s n (vecBundle tag x) = .next t ∧ othersKept s t n.val ∧ (s.guard = [] → memoryKept s t) ∧
      cycleAside (getCore t n.val) = cycleAside (afterStart (namedRecipe (getCore s n.val) x) (slotPass s n x) (getCore s n.val)) := by
  have hn := stillAt_len h
  obtain ⟨hchecks, hreads⟩ := hi
  have hissue := issueFrom_pass h hop hr hchecks
  rw [hissue] at hreads
  obtain ⟨hlength, hstarted, hothers, hmem, hguard, hnvm⟩ := passStarted_state (x := x) hn
  obtain ⟨hlast, hkept, hmemory⟩ := coreCycle_started hn h.2.1 hissue (hlength ▸ hn) (passStarted_justStarted hn h.2.1) hreads
  refine ⟨coreCycle s n.val (.given (vecBundle tag x)), by simp only [issueRow, h.2.1.1, if_true], fun m hm => (hkept m hm).trans (hothers m hm), fun hg => ?_, ?_⟩
  · obtain ⟨hmem', hguard', hnvm'⟩ := hmemory (hguard.trans hg) (slotPass_inCore h hop hr hchecks)
    exact ⟨hmem'.trans hmem, hguard'.trans hguard, hnvm'.trans hnvm⟩
  · rw [hlast, hstarted]
    exact cycleAside_afterStart _ _ _ s.cycles

end

/-- Settles O12: the slot's checks change nothing, the pass starts with the chain's occupancy, and its first load cycle gathers a vector; a pass that
has passed R206 reads the core's own stores alone, without effect where the codes are clean. -/
theorem passIssues : Obligations.PassIssues := by
  unfold Obligations.PassIssues
  intro s n tag r sb
  dsimp only
  intro h hi
  have hn := stillAt_len h
  obtain ⟨t, hrow, hothers, hmemory, hlast⟩ := issueRow_pass h rfl rfl hi
  obtain ⟨hpasses, hfree, hpc, hbundles, hcycle, hsregs, hmat⟩ := afterStart_fields hlast
  obtain ⟨-, -, -, -, -, hnone, -⟩ := still_fields h.2.1
  rw [hnone] at hpasses
  obtain ⟨x, hone, hx⟩ := List.map_eq_singleton_iff.mp hpasses
  refine ⟨t, hrow, hfree, ⟨x, hone, (congrArg Pass.recipe hx :), ?_, (congrArg Pass.issued hx :), (congrArg Pass.vectors hx :), (congrArg Pass.pc hx :)⟩,
    hpc, hbundles, hcycle, hsregs, hmat, hothers, hmemory⟩
  rw [← sreg_scalar]
  exact (congrArg Pass.base hx :)

end Sys2Proof.Machine
end

section
/-! SUPPORT. The values of the one-register operations of the sequencer, and the statement on them (O2). -/

namespace Sys2Proof.Machine

variable {s : State} {n : Fin 128} {tag : BitVec 16} {d a b : BitVec 5} {imm : BitVec 32}

/-! ### The value that each operation writes, R213 -/

/-- The value that an operation of the sequencer slot computes in a register, modulo 2^64. -/
def aluValue (s : State) (n : Fin 128) (op : BitVec 6) (d a b : BitVec 5) (imm : BitVec 32) : Word64 :=
  BitVec.ofNat 64 (aluResult s n.val (getCore s n.val) ⟨op, d, a, b, 0, imm⟩).1

theorem aluValue_add : aluValue s n 0x0A d a b imm = scalar s n a + scalar s n b := by
  simp only [aluValue, aluResult, sreg_scalar]
  exact BitVec.eq_of_toNat_eq (by simp)

theorem aluValue_sub : aluValue s n 0x0B d a b imm = scalar s n a - scalar s n b := by
  simp only [aluValue, aluResult, sreg_scalar]
  apply BitVec.eq_of_toNat_eq
  have hb := (scalar s n b).isLt
  rw [BitVec.toNat_ofNat, BitVec.toNat_sub]
  show ((scalar s n a).toNat + 2 ^ 64 - (scalar s n b).toNat) % 2 ^ 64 = _
  congr 1
  omega

theorem aluValue_and : aluValue s n 0x0C d a b imm = scalar s n a &&& scalar s n b := by
  simp only [aluValue, aluResult, sreg_scalar]
  exact BitVec.ofNat_toNat 64 (scalar s n a &&& scalar s n b) |>.trans (by simp)

theorem aluValue_or : aluValue s n 0x0D d a b imm = scalar s n a ||| scalar s n b := by
  simp only [aluValue, aluResult, sreg_scalar]
  exact BitVec.ofNat_toNat 64 (scalar s n a ||| scalar s n b) |>.trans (by simp)

theorem aluValue_xor : aluValue s n 0x0E d a b imm = scalar s n a ^^^ scalar s n b := by
  simp only [aluValue, aluResult, sreg_scalar]
  exact BitVec.ofNat_toNat 64 (scalar s n a ^^^ scalar s n b) |>.trans (by simp)

theorem aluValue_shl : aluValue s n 0x0F d a b imm = scalar s n a <<< ((scalar s n b).toNat % 64) := by
  simp only [aluValue, aluResult, sreg_scalar]
  apply BitVec.eq_of_toNat_eq
  rw [BitVec.toNat_shiftLeft, Nat.shiftLeft_eq, BitVec.toNat_ofNat]
  rfl

theorem aluValue_shr : aluValue s n 0x10 d a b imm = scalar s n a >>> ((scalar s n b).toNat % 64) := by
  simp only [aluValue, aluResult, sreg_scalar]
  apply BitVec.eq_of_toNat_eq
  rw [BitVec.toNat_ushiftRight, Nat.shiftRight_eq_div_pow, BitVec.toNat_ofNat]
  exact Nat.mod_eq_of_lt ((Nat.div_le_self _ _).trans_lt (scalar s n a).isLt)

theorem aluValue_sar : aluValue s n 0x11 d a b imm = (scalar s n a).sshiftRight ((scalar s n b).toNat % 64) := by
  simp only [aluValue, aluResult, sreg_scalar]
  exact sar_toNat ..

theorem aluValue_mul : aluValue s n 0x12 d a b imm = scalar s n a * scalar s n b := by
  simp only [aluValue, aluResult, sreg_scalar]
  exact BitVec.eq_of_toNat_eq (by simp)

theorem aluValue_minu : aluValue s n 0x13 d a b imm = if scalar s n a ≤ scalar s n b then scalar s n a else scalar s n b := by
  simp only [aluValue, aluResult, sreg_scalar, BitVec.le_def]
  show BitVec.ofNat 64 (min _ _) = _
  split <;> rename_i h
  · rw [min_eq_left h, BitVec.ofNat_toNat, BitVec.setWidth_eq]
  · rw [min_eq_right (by omega), BitVec.ofNat_toNat, BitVec.setWidth_eq]

theorem aluValue_maxu : aluValue s n 0x14 d a b imm = if scalar s n a ≤ scalar s n b then scalar s n b else scalar s n a := by
  simp only [aluValue, aluResult, sreg_scalar, BitVec.le_def]
  show BitVec.ofNat 64 (max _ _) = _
  split <;> rename_i h
  · rw [max_eq_right h, BitVec.ofNat_toNat, BitVec.setWidth_eq]
  · rw [max_eq_left (by omega), BitVec.ofNat_toNat, BitVec.setWidth_eq]

theorem aluValue_addi : aluValue s n 0x15 d a 0 imm = scalar s n a + imm.signExtend 64 := by
  simp only [aluValue, aluResult, sreg_scalar, imm32_eq]
  exact BitVec.eq_of_toNat_eq (by simp)

theorem aluValue_sltu : aluValue s n 0x16 d a b imm = if scalar s n a < scalar s n b then 1 else 0 := by
  simp only [aluValue, aluResult, sreg_scalar, BitVec.lt_def]
  show BitVec.ofNat 64 (b2n (decide _)) = _
  split <;> rename_i h <;> simp [h, b2n]

theorem aluValue_li : aluValue s n 0x08 d 0 0 imm = imm.signExtend 64 := by
  simp only [aluValue, aluResult, imm32_eq]
  exact BitVec.eq_of_toNat_eq (by simp)

theorem aluValue_lui : aluValue s n 0x09 d a 0 imm = imm ++ (scalar s n a).extractLsb' 0 32 := by
  simp only [aluValue, aluResult, sreg_scalar]
  show BitVec.ofNat 64 (imm.toNat * 2 ^ 32 + (scalar s n a).toNat % 2 ^ 32) = _
  apply BitVec.eq_of_toNat_eq
  have himm := imm.isLt
  have hlow : (scalar s n a).toNat % 2 ^ 32 < 2 ^ 32 := Nat.mod_lt _ (by decide)
  rw [BitVec.toNat_append, BitVec.extractLsb'_toNat, Nat.shiftRight_zero, ← Nat.shiftLeft_add_eq_or_of_lt hlow, Nat.shiftLeft_eq, BitVec.toNat_ofNat]
  omega

/-! ### The statement -/

/-- The operations on registers alone use D, A and B, and no immediate (R209, R213). -/
theorem alu_register {op : BitVec 6} (h : StillAt s n (seqBundle tag op d a b 0))
    (hop : op ∈ [0xA, 0xB, 0xC, 0xD, 0xE, 0xF, 0x10, 0x11, 0x12, 0x13, 0x14, 0x16]) :
    issueRow s n (seqBundle tag op d a b 0) = .next (writes s n d (aluValue s n op d a b 0)) := by
  refine alu_exec _ h ?_ ?_ rfl
  · simp only [List.mem_cons, List.not_mem_nil, or_false] at hop ⊢
    tauto
  · have huses : seqUses op.toNat = (true, true, true, 0) := by
      clear h
      revert op
      decide
    simp [slotReserved, seqBundle, huses]

/-- The operations with an immediate use no register B, and LI no register A. -/
theorem alu_immediate {op : BitVec 6} (h : StillAt s n (seqBundle tag op d a 0 imm)) (hop : op = 0x08 ∧ a = 0 ∨ op = 0x09 ∨ op = 0x15) :
    issueRow s n (seqBundle tag op d a 0 imm) = .next (writes s n d (aluValue s n op d a 0 imm)) := by
  have himm : imm.toNat < 4294967296 := imm.isLt
  refine alu_exec _ h ?_ ?_ rfl
  · obtain ⟨rfl, -⟩ | rfl | rfl := hop <;> decide
  · obtain ⟨rfl, rfl⟩ | rfl | rfl := hop <;> simp [slotReserved, seqBundle, seqUses, himm]

/-- Settles O2: the fifteen operations have one issue rule, and differ in the value that they write. -/
theorem seqResults : Obligations.SeqResults := by
  intro s n tag d a b imm x y sh B I
  refine ⟨fun h => ?add, fun h => ?sub, fun h => ?and, fun h => ?or, fun h => ?xor, fun h => ?shl, fun h => ?shr, fun h => ?sar, fun h => ?mul, fun h => ?minu,
    fun h => ?maxu, fun h => ?addi, fun h => ?sltu, fun h => ?li, fun h => ?lui⟩
  case add => exact aluValue_add ▸ alu_register h (by decide)
  case sub => exact aluValue_sub ▸ alu_register h (by decide)
  case and => exact aluValue_and ▸ alu_register h (by decide)
  case or => exact aluValue_or ▸ alu_register h (by decide)
  case xor => exact aluValue_xor ▸ alu_register h (by decide)
  case shl => exact aluValue_shl ▸ alu_register h (by decide)
  case shr => exact aluValue_shr ▸ alu_register h (by decide)
  case sar => exact aluValue_sar ▸ alu_register h (by decide)
  case mul => exact aluValue_mul ▸ alu_register h (by decide)
  case minu => exact aluValue_minu ▸ alu_register h (by decide)
  case maxu => exact aluValue_maxu ▸ alu_register h (by decide)
  case addi => exact aluValue_addi ▸ alu_immediate h (.inr (.inr rfl))
  case sltu => exact aluValue_sltu ▸ alu_register h (by decide)
  case li => exact aluValue_li ▸ alu_immediate h (.inl ⟨rfl, rfl⟩)
  case lui => exact aluValue_lui ▸ alu_immediate h (.inr (.inl rfl))

end Sys2Proof.Machine
end

section
/-! SUPPORT. The core cycle in which a scalar register write is due, and the statement on it (O7). -/

namespace Sys2Proof.Machine

variable {s : State} {n i : Nat} {v : Word64}

/-! ### The cycle's reads and writes -/

/-- All that a core has on its way is a scalar register write that is due in its current cycle. -/
structure WriteDue (c : Core) (i : Nat) (v : Word64) : Prop where
  events : c.events = [(c.cycle, .writeSreg i v)]
  passes : c.passes = []
  loaded : c.nextLoaded = []
  queues : c.queues = []
  waiting : c.waiting = []

theorem WriteDue.staticReads {c : Core} (h : WriteDue c i v) : staticReads c = [] := by simp [Machine.staticReads, h.events, h.passes]

theorem WriteDue.staticWrites {c : Core} (h : WriteDue c i v) : staticWrites c = [] := by simp [Machine.staticWrites, h.events]

theorem WriteDue.dueEvents {c : Core} (h : WriteDue c i v) : dueEvents c = [.writeSreg i v] := by simp [Machine.dueEvents, h.events]

/-- The write reads nothing and meets no other access. -/
theorem cycleReads_writeDue {hs : List HaltInfo} (h : WriteDue (getCore s n) i v) : cycleReads n (hs, s) = (hs, s) := by
  have hconflict : conflictHalt (getCore s n) = none := by simp [conflictHalt, h.staticReads, h.staticWrites, bankConflict]
  have hread : doRead n (.writeSreg i v) (hs, s) = (hs, s) := congrArg (·, s) (List.append_nil hs)
  have hhazards : writeHazards (getCore s n) n = [] := by rw [writeHazards, h.events]; simp only [List.flatMap_cons, List.flatMap_nil, ne_eq, not_true_eq_false, if_false, List.append_nil]
  simp only [cycleReads, hconflict, h.dueEvents, h.passes, List.foldl_cons, List.foldl_nil, List.map_nil, hread, hhazards, List.append_nil]
  rw [modCore_id n runVectors (runVectors_calm h.passes h.loaded)]

theorem usePorts_fields (hn : n < s.cores.length) (xs : List (Nat × Nat × Nat)) :
    (getCore (usePorts s n xs) n).sregs = (getCore s n).sregs ∧ (getCore (usePorts s n xs) n).queues = (getCore s n).queues ∧
      (getCore (usePorts s n xs) n).waiting = (getCore s n).waiting := by
  rw [usePorts, getCore_modCore _ _ _ hn, if_pos rfl]
  exact ⟨rfl, rfl, rfl⟩

theorem putSreg_queues (c : Core) (i : Nat) (v : Word64) : (putSreg c i v).queues = c.queues ∧ (putSreg c i v).waiting = c.waiting := by
  unfold putSreg; split <;> exact ⟨rfl, rfl⟩

theorem putSreg_sregs_congr {c d : Core} (h : c.sregs = d.sregs) (i : Nat) (v : Word64) : (putSreg c i v).sregs = (putSreg d i v).sregs := by
  simp only [putSreg]; split <;> simp only [h]

/-- At the end of the cycle the register file is as the write leaves it. -/
theorem cycleWrites_writeDue (hn : n < s.cores.length) (h : WriteDue (getCore s n) i v) :
    (getCore (cycleWrites s n) n).sregs = (putSreg (getCore s n) i v).sregs := by
  simp only [cycleWrites, h.dueEvents, h.staticReads, h.staticWrites, List.append_nil, List.flatMap_nil, List.eraseDups_nil, List.map_nil, List.filter_nil,
    List.foldl_cons, List.foldl_nil, doWrite, doEngineWrite]
  obtain ⟨hsregs, hqueues, hwaiting⟩ := usePorts_fields hn []
  have hput : getCore (modCore (usePorts s n []) n (fun c => putSreg c i v)) n = putSreg (getCore (usePorts s n []) n) i v := by
    rw [getCore_modCore _ _ _ (by rwa [usePorts, modCore_cores_length]), if_pos rfl]
  have hlen : n < (modCore (usePorts s n []) n (fun c => putSreg c i v)).cores.length := by rwa [modCore_cores_length, usePorts, modCore_cores_length]
  generalize modCore (usePorts s n []) n (fun c => putSreg c i v) = u at *
  obtain ⟨hsregs', -, hwaiting'⟩ := usePorts_fields hlen []
  obtain ⟨hkept, hkept'⟩ := putSreg_queues (getCore (usePorts s n []) n) i v
  rw [applyHeads_calm (by rw [hput, hkept, hqueues, h.queues]), joinWaiting_calm (by rw [hwaiting', hput, hkept', hwaiting, h.waiting]),
    getCore_modCore _ _ _ (by rwa [usePorts, modCore_cores_length]), if_pos rfl]
  exact hsregs'.trans (hput ▸ putSreg_sregs_congr hsregs i v)

/-! ### The statement -/

/-- A register file in canonical form after a write of register i, which S0 has not. -/
theorem sregs_putSreg {c : Core} {i j : BitVec 5} (h : twf 0 c.sregs = true) (hj : j ≠ 0) :
    tget 0 (putSreg c i.toNat v).sregs j.toNat = if j = i then v else tget 0 c.sregs j.toNat := by
  have hi : i.toNat % 32 = i.toNat := Nat.mod_eq_of_lt i.isLt
  by_cases h0 : i = 0
  · subst h0
    simp [putSreg, show j ≠ 0#5 from hj]
  · have h0' : i.toNat ≠ 0 := fun e => h0 (BitVec.eq_of_toNat_eq e)
    simp only [putSreg, hi, h0', if_false, tget_tset h, BitVec.toNat_inj]

/-- The cycle of a core in which only a scalar register write is due, and in which it issues nothing. -/
theorem coreCycle_writeDue {i : BitVec 5} (hn : n < s.cores.length) (hs : Still { getCore s n with events := [] })
    (he : (getCore s n).events = [((getCore s n).cycle, .writeSreg i.toNat v)]) :
    (getCore (coreCycle s n .none) n).sregs = (putSreg (getCore s n) i.toNat v).sregs := by
  obtain ⟨hrun, hended, hbrk, -, -, hpasses, hloaded, hqueues, hwaiting, hmoves0, hmoves1, hlines0, hlines1, -, -⟩ := still_fields hs
  have hclear := getCore_clear hn
  have hdue : WriteDue (getCore (clearPorts s n) n) i.toNat v := by rw [hclear]; exact ⟨he, hpasses, hloaded, hqueues, hwaiting⟩
  have hlines : requestLine (requestLine (clearPorts s n) n 0) n 1 = clearPorts s n := by
    rw [requestLine_calm 0 (by rw [hclear]; exact hmoves0), requestLine_calm 1 (by rw [hclear]; exact hmoves1)]
  have hfrozen : coreFrozen (getCore (clearPorts s n) n) = false := by rw [hclear]; exact (still_not_frozen hs :)
  have hissue : issueFrom (clearPorts s n) n .none = ([], clearPorts s n) := by unfold issueFrom; split <;> rfl
  simp only [coreCycle, show (getCore s n).run = .running from hrun, true_or, if_true, hlines, hfrozen, cycleReads_writeDue hdue, hissue]
  have hlen : n < (clearPorts s n).cores.length := by rwa [clearPorts, modCore_cores_length]
  refine (cycleWrites_writeDue hlen hdue).trans (putSreg_sregs_congr ?_ _ _)
  rw [hclear]

/-- Settles O7: nothing but the write is due in the cycle, so that the register file is as the write leaves it. -/
theorem registerWriteLands : Obligations.RegisterWriteLands := by
  intro s n i j v
  dsimp only
  intro hlen hs he hregs
  have hn : n.val < s.cores.length := by rw [hlen]; exact n.isLt
  by_cases hj : j = 0
  · simp [scalar, hj]
  · simp only [scalar, hj, if_false, coreCycle_writeDue hn hs he, sregs_putSreg hregs hj]

end Sys2Proof.Machine
end

section
/-! SUPPORT. The sequencer operations that access the tile store, on a still core, and the statement on SLD, SST, WDESC and WRCP (O6). -/

namespace Sys2Proof.Machine

variable {s : State} {n : Fin 128} {tag : BitVec 16} {op : BitVec 6} {d a b : BitVec 5} {imm : BitVec 32}

/-- A still core issues an operation whose slot effect is one event in the next core cycle. -/
theorem issueRow_event {e : CoreEvent} (h : StillAt s n (seqBundle tag op d a b imm)) (hop : op ≠ 1 ∧ op ≠ 3 ∧ op ≠ 4)
    (hu : slotUndefined (seqBundle tag op d a b imm) false 0 = false) (hr : slotReserved (seqBundle tag op d a b imm) false 0 = false)
    (hk : seqChecks (getCore (clearPorts s n.val) n.val) n.val (getCore s n.val).pc ⟨op, d, a, b, 0, imm⟩ = none)
    (he : seqEffect (clearPorts s n.val) n.val (getCore s n.val).pc ⟨op, d, a, b, 0, imm⟩ false =
      modCore (clearPorts s n.val) n.val (fun c => addEvents c [((getCore s n.val).cycle + 1, e)])) :
    issueRow s n (seqBundle tag op d a b imm) = .next (issued s n [((getCore s n.val).cycle + 1, e)]) := by
  have hn := stillAt_len h
  have hend := (still_fields h.2.1).2.1
  rw [issueRow_effect (u := s) (es := [((getCore s n.val).cycle + 1, e)]) (e := false) h hop hu hr hk rfl rfl (by simp)]
  · congr 1
    exact modCore_id _ _ (by simp [issued, getCore_setCore _ _ _ hn, hend])
  · rw [he]
    simp only [modCore, getCore_clear hn, addEvents, hend]

/-- A core with nothing on its way has no earlier write in the way of an operation (R228). -/
theorem seqCollision_none {c : Core} (h : c.events = []) (x : SeqSlot) : seqCollision c x = none := by
  simp [seqCollision, h]

/-- An aligned access inside the tile store passes the checks of its slot (R213, R214). -/
theorem seqChecks_access {c : Core} {m pc off len : Nat} {x : SeqSlot} (h : c.events = []) (hop : x.sop ≠ 1) (ha : seqAccess c x = some (off, len))
    (halign : off % len = 0) (hrange : off + len ≤ 0x400000) : seqChecks c m pc x = none := by
  have hloop : (x.sop == 1) = false := by simpa using hop
  simp only [seqChecks, seqCollision_none h, ha, hloop, Bool.false_and, Option.getD_some, halign]
  simp [firstStop, hrange]

/-- A still core issues an operation that accesses the tile store, aligned and inside it: the access is due in the next core cycle. -/
theorem issueRow_access {off len : Nat} {e : CoreEvent} (h : StillAt s n (seqBundle tag op d a b imm)) (hop : op = 0x18 ∨ op = 0x19 ∨ op = 0x1A ∨ op = 0x1B)
    (hr : slotReserved (seqBundle tag op d a b imm) false 0 = false) (ha : seqAccess (getCore s n.val) ⟨op, d, a, b, 0, imm⟩ = some (off, len))
    (halign : off % len = 0) (hrange : off + len ≤ 0x400000)
    (he : seqEffect (clearPorts s n.val) n.val (getCore s n.val).pc ⟨op, d, a, b, 0, imm⟩ false =
      modCore (clearPorts s n.val) n.val (fun c => addEvents c [((getCore s n.val).cycle + 1, e)])) :
    issueRow s n (seqBundle tag op d a b imm) = .next (issued s n [((getCore s n.val).cycle + 1, e)]) := by
  have hn := stillAt_len h
  have hevents : (getCore (clearPorts s n.val) n.val).events = [] := by rw [getCore_clear hn]; exact (still_fields h.2.1).2.2.2.2.1
  have hacc : seqAccess (getCore (clearPorts s n.val) n.val) ⟨op, d, a, b, 0, imm⟩ = some (off, len) := by rw [getCore_clear hn]; exact ha
  refine issueRow_event h ?_ ?_ hr (seqChecks_access hevents ?_ hacc halign hrange) he
  · obtain rfl | rfl | rfl | rfl := hop <;> decide
  · obtain rfl | rfl | rfl | rfl := hop <;> simp [slotUndefined, seqBundle, predBit, bit]
  · obtain rfl | rfl | rfl | rfl := hop <;> simp

/-- The address of SLD and SST is A + IMM modulo 2^64. -/
theorem offset_eq (op : BitVec 6) (d a b : BitVec 5) (imm : BitVec 32) :
    (sreg (getCore s n.val) a + imm32 ⟨op, d, a, b, 0, imm⟩) % 2 ^ 64 = (scalar s n a + imm.signExtend 64).toNat := by
  rw [sreg_scalar, imm32_eq, BitVec.toNat_add]

theorem clear_sreg (hn : n.val < s.cores.length) : sreg (getCore (clearPorts s n.val) n.val) = sreg (getCore s n.val) := by
  rw [getCore_clear hn]
  rfl

/-! ### The slot's effect, R213 -/

theorem seqEffect_sld (hn : n.val < s.cores.length) (d a : BitVec 5) (imm : BitVec 32) (pc : Nat) :
    seqEffect (clearPorts s n.val) n.val pc ⟨0x18, d, a, 0, 0, imm⟩ false =
      modCore (clearPorts s n.val) n.val (fun c => addEvents c [((getCore s n.val).cycle + 1, .readSld d.toNat (scalar s n a + imm.signExtend 64).toNat pc false)]) := by
  rw [← offset_eq 0x18 d a 0 imm, ← clear_sreg hn, ← clear_cycle hn]
  rfl

theorem seqEffect_sst (hn : n.val < s.cores.length) (a b : BitVec 5) (imm : BitVec 32) (pc : Nat) :
    seqEffect (clearPorts s n.val) n.val pc ⟨0x19, 0, a, b, 0, imm⟩ false =
      modCore (clearPorts s n.val) n.val
        (fun c => addEvents c [((getCore s n.val).cycle + 1, .writeSst (scalar s n a + imm.signExtend 64).toNat (scalar s n b) pc false)]) := by
  have hval : BitVec.ofNat 64 (sreg (getCore s n.val) b) = scalar s n b := by rw [sreg_scalar, BitVec.ofNat_toNat, BitVec.setWidth_eq]
  rw [← hval, ← offset_eq 0x19 0 a b imm, ← clear_sreg hn, ← clear_cycle hn]
  rfl

theorem seqEffect_wdesc (hn : n.val < s.cores.length) (a : BitVec 5) (e : BitVec 5) (pc : Nat) :
    seqEffect (clearPorts s n.val) n.val pc ⟨0x1A, 0, a, 0, 0, e.zeroExtend 32⟩ false =
      modCore (clearPorts s n.val) n.val
        (fun c => addEvents c [((getCore s n.val).cycle + 1, .readFile (e.toNat / 16) (e.toNat % 16) (scalar s n a).toNat pc false)]) := by
  have himm : (e.zeroExtend 32).toNat = e.toNat := by simpa using Nat.mod_eq_of_lt (show e.toNat < 4294967296 by omega)
  have hkind : e.toNat / 16 = fld (e.zeroExtend 32).toNat 4 4 := by simp only [himm, fld]; omega
  have hentry : e.toNat % 16 = fld (e.zeroExtend 32).toNat 3 0 := by simp only [himm, fld]; omega
  rw [hkind, hentry, ← sreg_scalar, ← clear_sreg hn, ← clear_cycle hn]
  rfl

theorem seqEffect_wrcp (hn : n.val < s.cores.length) (a : BitVec 5) (r : BitVec 4) (pc : Nat) :
    seqEffect (clearPorts s n.val) n.val pc ⟨0x1B, 0, a, 0, 0, r.zeroExtend 32⟩ false =
      modCore (clearPorts s n.val) n.val (fun c => addEvents c [((getCore s n.val).cycle + 1, .readFile 2 r.toNat (scalar s n a).toNat pc false)]) := by
  have himm : (r.zeroExtend 32).toNat = r.toNat := by simpa using Nat.mod_eq_of_lt (show r.toNat < 4294967296 by omega)
  have hentry : r.toNat = fld (r.zeroExtend 32).toNat 3 0 := by simp only [himm, fld]; omega
  rw [hentry, ← sreg_scalar, ← clear_sreg hn, ← clear_cycle hn]
  rfl

/-! ### The statement -/

/-- Settles O6: each of the four accesses the tile store at its address, and is issued by one rule. -/
theorem seqMemoryIssues : Obligations.SeqMemoryIssues := by
  intro s n tag d a b imm e r
  refine ⟨fun h halign hrange => ?sld, fun h halign hrange => ?sst, fun h halign hrange => ?wdesc, fun h halign hrange => ?wrcp⟩
  case sld =>
    refine issueRow_access (off := (scalar s n a + imm.signExtend 64).toNat) h (by decide) ?_ ?_ halign hrange (seqEffect_sld (stillAt_len h) d a imm _)
    · simpa [slotReserved, seqBundle, seqUses] using imm.isLt
    · exact congrArg (fun x => some (x, 8)) (offset_eq 0x18 d a 0 imm)
  case sst =>
    refine issueRow_access (off := (scalar s n a + imm.signExtend 64).toNat) h (by decide) ?_ ?_ halign hrange (seqEffect_sst (stillAt_len h) a b imm _)
    · simpa [slotReserved, seqBundle, seqUses] using imm.isLt
    · exact congrArg (fun x => some (x, 8)) (offset_eq 0x19 0 a b imm)
  case wdesc =>
    refine issueRow_access h (by decide) ?_ ?_ halign hrange (seqEffect_wdesc (stillAt_len h) a e _)
    · simpa [slotReserved, seqBundle, seqUses] using Nat.mod_le e.toNat 4294967296 |>.trans_lt e.isLt
    · exact congrArg (fun x => some (x, 32)) (sreg_scalar s n a)
  case wrcp =>
    refine issueRow_access h (by decide) ?_ ?_ halign hrange (seqEffect_wrcp (stillAt_len h) a r _)
    · simpa [slotReserved, seqBundle, seqUses] using Nat.mod_le r.toNat 4294967296 |>.trans_lt r.isLt
    · exact congrArg (fun x => some (x, 256)) (sreg_scalar s n a)

end Sys2Proof.Machine
end

section
/-! SUPPORT. The cycle of a still core in which a bundle issues and leaves it calm, and the statement on FORAGE and FPRIME (O5). -/

namespace Sys2Proof.Machine

variable {s : State} {n : Fin 128}

/-! ### The end of the cycle -/

/-- Core c at the end of a cycle in which it has used no bank of a shared port and nothing of it is due. -/
def cycleEnd (v : State) (c : Core) : Core := { c with ports := portsNow v c, portsAt := v.cycles, cycle := c.cycle + 1 }

/-- The cycle of a still core in which what issues leaves it calm. -/
theorem coreCycle_calm {src : Source} {v : State} {k : Nat} (hs : k < s.cores.length) (hstill : Still (getCore s k)) (hi : issueFrom (clearPorts s k) k src = ([], v))
    (hn : k < v.cores.length) (hc : Calm (getCore v k)) : coreCycle s k src = modCore v k (cycleEnd v) := by
  have hreads : cycleReads k ([], v) = ([], v) := cycleReads_calm hc.later hc.passes hc.loaded
  simp only [coreCycle_still hs hstill, hi, hreads, cycleWrites_calm hc.later hn hc.passes hc.queues hc.waiting, modCore, cycleEnd]
  rw [dropMoves_calm (by exact hc.moves0) (by exact hc.moves1)]

/-- The cycle in which a still core is given a bundle that issues and leaves it calm. -/
theorem issueRow_calm {b : Bundle} {v : State} (h : StillAt s n b) (hi : issueBundle (clearPorts s n.val) n.val b none = ([], v)) (hn : n.val < v.cores.length)
    (hc : Calm (getCore v n.val)) : issueRow s n b = .next (modCore v n.val (cycleEnd v)) := by
  have hissue : issueFrom (clearPorts s n.val) n.val (.given b) = ([], v) := by
    simp only [issueFrom, (still_clear (stillAt_len h) h.2.1).1, if_true, breakAt_still (stillAt_clear h), hi]
  simp only [issueRow, h.2.1.1, if_true, coreCycle_calm (stillAt_len h) h.2.1 hissue hn hc]

theorem memoryKept_modCore (s : State) (n : Nat) (f : Core → Core) : memoryKept s (modCore s n f) := ⟨rfl, rfl, rfl⟩

/-- What the end of a cycle leaves of a state: the other cores, the memories and the units. -/
theorem cycleEnd_frame {v : State} (hn : n.val < v.cores.length) :
    let t := modCore v n.val (cycleEnd v)
    getCore t n.val = cycleEnd v (getCore v n.val) ∧ othersKept v t n.val ∧ memoryKept v t ∧ unitsKept v t ∧ t.forage = v.forage ∧ t.barriers = v.barriers := by
  refine ⟨?_, fun m hm => ?_, memoryKept_modCore .., unitsKept_modCore .., rfl, rfl⟩
  · rw [getCore_modCore _ _ _ hn, if_pos rfl]
  · rw [getCore_modCore _ _ _ hn, if_neg hm]

theorem memoryKept.trans {s t u : State} (h : memoryKept s t) (g : memoryKept t u) : memoryKept s u :=
  ⟨g.1.trans h.1, g.2.1.trans h.2.1, g.2.2.trans h.2.2⟩

theorem othersKept.trans {s t u : State} {n : Nat} (h : othersKept s t n) (g : othersKept t u n) : othersKept s u n := fun m hm => (g m hm).trans (h m hm)

theorem clearPorts_frame (hn : n.val < s.cores.length) :
    othersKept s (clearPorts s n.val) n.val ∧ memoryKept s (clearPorts s n.val) ∧ unitsKept s (clearPorts s n.val) := by
  refine ⟨fun m hm => ?_, memoryKept_modCore .., unitsKept_modCore ..⟩
  rw [clearPorts, getCore_modCore _ _ _ hn, if_neg hm]

/-! ### Mailboxes and requests, R238 -/

variable {tag : BitVec 16} {op : BitVec 6} {d : BitVec 5} {l : BitVec 2}

/-- Slot effects of FORAGE and FPRIME: of the core, the events to come and the mailboxes; no memory and no other core. -/
structure Forages (n : Nat) (es : List (Nat × CoreEvent)) (mb : Table Mailbox) (u v : State) : Prop where
  cores : v.cores = (modCore u n (fun c => { c with events := es, mailboxes := mb })).cores
  memory : memoryKept u v

/-- FORAGE and FPRIME as R238 encodes them: FORAGE names four registers from a multiple of 4 other than S0. -/
def ForageOp (op : BitVec 6) (d : BitVec 5) : Prop := op = 5 ∧ d.toNat % 4 = 0 ∧ d ≠ 0 ∨ op = 6 ∧ d = 0

theorem forage_defined (hop : ForageOp op d) : slotUndefined (seqBundle tag op d 0 0 (l.zeroExtend 32)) false 0 = false := by
  obtain ⟨rfl, h4, h0⟩ | ⟨rfl, -⟩ := hop
  · have h0' : d.toNat ≠ 0 := fun e => h0 (BitVec.eq_of_toNat_eq e)
    simp [slotUndefined, seqBundle, predBit, bit, h4, h0']
  · simp [slotUndefined, seqBundle, predBit, bit]

theorem forage_imm (l : BitVec 2) : (l.zeroExtend 32).toNat = l.toNat := by simpa using Nat.mod_eq_of_lt (show l.toNat < 4294967296 by omega)

/-- What a still core does with FORAGE or FPRIME: the slot's effect, and the move to the next bundle. -/
theorem forage_issue (h : StillAt s n (seqBundle tag op d 0 0 (l.zeroExtend 32))) (hop : ForageOp op d) :
    issueBundle (clearPorts s n.val) n.val (seqBundle tag op d 0 0 (l.zeroExtend 32)) none =
      ([], modCore (seqEffect (clearPorts s n.val) n.val (getCore s n.val).pc ⟨op, d, 0, 0, 0, l.zeroExtend 32⟩ false) n.val
        (movedOn (getCore s n.val).loops (getCore s n.val).pc)) := by
  have hclear := getCore_clear (stillAt_len h)
  have hpc : (getCore (clearPorts s n.val) n.val).pc = (getCore s n.val).pc := by rw [hclear]
  have hloops : (getCore (clearPorts s n.val) n.val).loops = (getCore s n.val).loops := by rw [hclear]
  have hfree : (getCore (clearPorts s n.val) n.val).events = [] := by rw [hclear]; exact (still_fields h.2.1).2.2.2.2.1
  have hsmall : l.toNat % 4294967296 < 4 := (Nat.mod_le ..).trans_lt l.isLt
  have hloop : op ≠ 1 := by obtain ⟨rfl, -⟩ | ⟨rfl, -⟩ := hop <;> decide
  rw [seq_issue (stillAt_clear h) (by obtain ⟨rfl, -⟩ | ⟨rfl, -⟩ := hop <;> decide) (forage_defined hop) ?reserved ?checks]
  case reserved => obtain ⟨rfl, -⟩ | ⟨rfl, rfl⟩ := hop <;> simp [slotReserved, seqBundle, seqUses, hsmall]
  case checks => apply seqChecks_alu hfree <;> obtain ⟨rfl, -⟩ | ⟨rfl, -⟩ := hop <;> simp [seqAccess]
  simp only [nextBundle, hloop, if_false, hpc, hloops]
  rfl

/-- A still core issues FORAGE or FPRIME. -/
theorem issueRow_forage {v : State} {es : List (Nat × CoreEvent)} {mb : Table Mailbox} (h : StillAt s n (seqBundle tag op d 0 0 (l.zeroExtend 32)))
    (hop : ForageOp op d) (hv : seqEffect (clearPorts s n.val) n.val (getCore s n.val).pc ⟨op, d, 0, 0, 0, l.zeroExtend 32⟩ false = v)
    (hes : ∀ e ∈ es, (getCore s n.val).cycle < e.1) (hf : Forages n.val es mb (clearPorts s n.val) v) :
    ∃ t, issueRow s n (seqBundle tag op d 0 0 (l.zeroExtend 32)) = .next t ∧ (getCore t n.val).events = es ∧ (getCore t n.val).mailboxes = mb ∧
      ((getCore t n.val).sregs = (getCore s n.val).sregs ∧ (getCore t n.val).wf = (getCore s n.val).wf ∧ othersKept s t n.val ∧ memoryKept s t) ∧
      t.forage = v.forage ∧ (unitsKept s v → unitsKept s t) := by
  have hn := stillAt_len h
  have hn' := stillAt_len (stillAt_clear h)
  obtain ⟨-, -, -, -, -, hpasses, hloaded, hqueues, hwaiting, hmoves0, hmoves1, -⟩ := still_fields (still_clear hn h.2.1)
  have hlen : n.val < v.cores.length := by rw [hf.cores, modCore_cores_length]; exact hn'
  have hcore : getCore v n.val = { getCore (clearPorts s n.val) n.val with events := es, mailboxes := mb } := by
    rw [getCore_of_cores hf.cores, getCore_modCore _ _ _ hn', if_pos rfl]
  have hothers : othersKept (clearPorts s n.val) v n.val := fun m hm => by rw [getCore_of_cores hf.cores, getCore_modCore _ _ _ hn', if_neg hm]
  have hissue := forage_issue h hop
  rw [hv] at hissue
  have hmoved : getCore (modCore v n.val (movedOn (getCore s n.val).loops (getCore s n.val).pc)) n.val = _ := getCore_modCore _ _ _ hlen
  rw [if_pos rfl, hcore] at hmoved
  have hmlen : n.val < (modCore v n.val (movedOn (getCore s n.val).loops (getCore s n.val).pc)).cores.length := by rwa [modCore_cores_length]
  have hcalm : Calm (getCore (modCore v n.val (movedOn (getCore s n.val).loops (getCore s n.val).pc)) n.val) := by
    rw [hmoved]
    refine ⟨?_, hpasses, hloaded, hqueues, hwaiting, hmoves0, hmoves1⟩
    rw [getCore_clear hn]
    exact hes
  obtain ⟨hend, hendOthers, hendMemory, hendUnits, hendForage, -⟩ := cycleEnd_frame hmlen
  obtain ⟨hclearOthers, hclearMemory, -⟩ := clearPorts_frame hn
  rw [hmoved] at hend
  refine ⟨_, issueRow_calm h hissue hmlen hcalm, ?_⟩
  generalize modCore (modCore v n.val (movedOn (getCore s n.val).loops (getCore s n.val).pc)) n.val _ = t at *
  have hmemory : memoryKept v t := hendMemory
  have hunits : unitsKept v t := hendUnits
  have hforage : t.forage = v.forage := hendForage
  have hcoreT := congrArg portsAside hend
  rw [getCore_clear hn] at hcoreT
  refine ⟨(congrArg Core.events hend :), (congrArg Core.mailboxes hend :), ⟨?_, ?_, ?_, (hclearMemory.trans hf.memory).trans hmemory⟩, hforage, fun hu => unitsKept_trans hu hunits⟩
  · exact (congrArg Core.sregs hcoreT :)
  · exact (congrArg Core.wf hcoreT :)
  · refine (hclearOthers.trans hothers).trans fun m hm => ?_
    rw [hendOthers m hm, getCore_modCore _ _ _ hlen, if_neg hm]

/-! ### The slot's effect by the state of the mailbox -/

section
variable {u : State} {n d l : Nat} (hn : n < u.cores.length) (hevents : (getCore u n).events = [])

theorem Forages.of_core {v : State} {f : Core → Core} {es : List (Nat × CoreEvent)} {mb : Table Mailbox} (hv : v.cores = (modCore u n f).cores)
    (hm : memoryKept u v) (hf : f (getCore u n) = { getCore u n with events := es, mailboxes := mb }) : Forages n es mb u v :=
  ⟨by rw [hv]; simp only [modCore, hf], hm⟩

/-- The list l with one more request of core n on its way (R238). -/
def askedList (u : State) (n l : Nat) : List ForageList := u.forage.set l { getList u l with requests := (getList u l).requests ++ [n] }

theorem sendRequestTo_frame (u : State) (n l : Nat) :
    (sendRequestTo u n l).cores = (modCore u n (fun c => setMailbox c l .pending)).cores ∧ memoryKept u (sendRequestTo u n l) ∧
      unitsKept u (sendRequestTo u n l) ∧ (sendRequestTo u n l).forage = askedList u n l :=
  ⟨rfl, ⟨rfl, rfl, rfl⟩, ⟨rfl, rfl, rfl, rfl, rfl, rfl, rfl, rfl, rfl, rfl, rfl, rfl, rfl⟩, rfl⟩

include hevents

/-- FORAGE with a full mailbox takes the answer. -/
theorem doForage_full {a : BitVec 256} (hm : mailbox (getCore u n) l = .full a) :
    Forages n [((getCore u n).cycle + 1, .writeForage d a)] (tset .empty (getCore u n).mailboxes l .empty) u (doForage u n d l) ∧ (doForage u n d l).forage = u.forage := by
  have hcore : addEvents (setMailbox (getCore u n) l .empty) [((getCore u n).cycle + 1, .writeForage d a)] =
      { getCore u n with events := [((getCore u n).cycle + 1, .writeForage d a)], mailboxes := tset .empty (getCore u n).mailboxes l .empty } := by
    simp [addEvents, setMailbox, hevents]
  simp only [doForage, hm]
  split
  · exact ⟨.of_core (f := fun c => addEvents (setMailbox c l .empty) _) rfl ⟨rfl, rfl, rfl⟩ hcore, rfl⟩
  · split <;> exact ⟨.of_core (f := fun c => addEvents (setMailbox c l .empty) _) rfl ⟨rfl, rfl, rfl⟩ hcore, rfl⟩

/-- FORAGE with a pending mailbox writes NOT_READY. -/
theorem doForage_pending (hm : mailbox (getCore u n) l = .pending) :
    Forages n [((getCore u n).cycle + 1, .writeForage d 0)] (getCore u n).mailboxes u (doForage u n d l) ∧ (doForage u n d l).forage = u.forage := by
  have hcore : addEvents (getCore u n) [((getCore u n).cycle + 1, .writeForage d 0)] =
      { getCore u n with events := [((getCore u n).cycle + 1, .writeForage d 0)], mailboxes := (getCore u n).mailboxes } := by
    simp [addEvents, hevents]
  simp only [doForage, hm]
  exact ⟨.of_core (f := fun c => addEvents c _) rfl ⟨rfl, rfl, rfl⟩ hcore, rfl⟩

include hn

/-- FORAGE with an empty mailbox writes NOT_READY and sends a request. -/
theorem doForage_empty (hm : mailbox (getCore u n) l = .empty) :
    Forages n [((getCore u n).cycle + 1, .writeForage d 0)] (tset .empty (getCore u n).mailboxes l .pending) u (doForage u n d l) ∧
      (doForage u n d l).forage = askedList u n l := by
  have hcore : setMailbox (addEvents (getCore u n) [((getCore u n).cycle + 1, .writeForage d 0)]) l .pending =
      { getCore u n with events := [((getCore u n).cycle + 1, .writeForage d 0)], mailboxes := tset .empty (getCore u n).mailboxes l .pending } := by
    simp [addEvents, setMailbox, hevents]
  have hcores := (sendRequestTo_frame (modCore u n (fun c => addEvents c [(c.cycle + 1, .writeForage d 0)])) n l).1
  rw [modCore_modCore _ _ _ hn] at hcores
  simp only [doForage, hm]
  exact ⟨.of_core hcores ⟨rfl, rfl, rfl⟩ hcore, rfl⟩

end

/-! ### The statement -/

theorem exec_forage (h : StillAt s n (seqBundle tag 0x05 d 0 0 (l.zeroExtend 32))) (h4 : d.toNat % 4 = 0) (h0 : d ≠ 0) {es : List (Nat × CoreEvent)} {mb : Table Mailbox}
    {g : List ForageList} (hes : ∀ e ∈ es, (getCore s n.val).cycle < e.1)
    (hf : Forages n.val es mb (clearPorts s n.val) (doForage (clearPorts s n.val) n.val d.toNat l.toNat) ∧ (doForage (clearPorts s n.val) n.val d.toNat l.toNat).forage = g) :
    ∃ t, exec (.forage n (seqBundle tag 0x05 d 0 0 (l.zeroExtend 32))) s = .next t ∧ (getCore t n.val).events = es ∧ (getCore t n.val).mailboxes = mb ∧ t.forage = g ∧
      ((getCore t n.val).sregs = (getCore s n.val).sregs ∧ (getCore t n.val).wf = (getCore s n.val).wf ∧ othersKept s t n.val ∧ memoryKept s t) := by
  have heffect : seqEffect (clearPorts s n.val) n.val (getCore s n.val).pc ⟨0x05, d, 0, 0, 0, l.zeroExtend 32⟩ false =
      doForage (clearPorts s n.val) n.val d.toNat l.toNat := by
    have himm : (l.zeroExtend 32).toNat % 4 = l.toNat := by rw [forage_imm]; omega
    rw [← himm]
    rfl
  obtain ⟨t, ht, hevents, hmailboxes, hrest, hforage, -⟩ := issueRow_forage h (.inl ⟨rfl, h4, h0⟩) heffect hes hf.1
  exact ⟨t, ht, hevents, hmailboxes, hforage.trans hf.2, hrest⟩

theorem clear_mailboxes (hn : n.val < s.cores.length) : (getCore (clearPorts s n.val) n.val).mailboxes = (getCore s n.val).mailboxes := by rw [getCore_clear hn]

theorem exec_fprime_asks (h : StillAt s n (seqBundle tag 0x06 0 0 0 (l.zeroExtend 32))) (hm : mailbox (getCore s n.val) l.toNat = .empty) :
    ∃ t, exec (.fprime n (seqBundle tag 0x06 0 0 0 (l.zeroExtend 32))) s = .next t ∧ (getCore t n.val).events = [] ∧
      (getCore t n.val).mailboxes = tset .empty (getCore s n.val).mailboxes l.toNat .pending ∧ t.forage = askedList s n.val l.toNat ∧
      ((getCore t n.val).sregs = (getCore s n.val).sregs ∧ (getCore t n.val).wf = (getCore s n.val).wf ∧ othersKept s t n.val ∧ memoryKept s t) ∧ unitsKept s t := by
  have hn := stillAt_len h
  have hboxes := clear_mailboxes hn
  have hevents : (getCore (clearPorts s n.val) n.val).events = [] := by rw [getCore_clear hn]; exact (still_fields h.2.1).2.2.2.2.1
  have heffect : seqEffect (clearPorts s n.val) n.val (getCore s n.val).pc ⟨0x06, 0, 0, 0, 0, l.zeroExtend 32⟩ false = sendRequestTo (clearPorts s n.val) n.val l.toNat := by
    have himm : (l.zeroExtend 32).toNat % 4 = l.toNat := by rw [forage_imm]; omega
    have hempty : mailbox (getCore (clearPorts s n.val) n.val) l.toNat = .empty := by rwa [mailbox, hboxes]
    simp only [seqEffect, himm]
    exact if_pos hempty
  obtain ⟨hcores, hmemory, hunits, hlist⟩ := sendRequestTo_frame (clearPorts s n.val) n.val l.toNat
  have hf : Forages n.val [] (tset .empty (getCore s n.val).mailboxes l.toNat .pending) (clearPorts s n.val) (sendRequestTo (clearPorts s n.val) n.val l.toNat) := by
    refine .of_core hcores hmemory ?_
    rw [← hboxes, ← hevents]
    rfl
  obtain ⟨t, ht, hcalm, hmailboxes, hrest, hforage, hkeep⟩ := issueRow_forage h (.inr ⟨rfl, rfl⟩) heffect (by simp) hf
  exact ⟨t, ht, hcalm, hmailboxes, hforage.trans hlist, hrest, hkeep (unitsKept_trans (clearPorts_frame hn).2.2 hunits)⟩

/-- FPRIME with a mailbox that is not empty has no effect. -/
theorem exec_fprime_nothing (h : StillAt s n (seqBundle tag 0x06 0 0 0 (l.zeroExtend 32))) (hm : mailbox (getCore s n.val) l.toNat ≠ .empty) :
    exec (.fprime n (seqBundle tag 0x06 0 0 0 (l.zeroExtend 32))) s = .next (issued s n []) := by
  have hn := stillAt_len h
  have hn' := stillAt_len (stillAt_clear h)
  obtain ⟨-, -, -, -, hevents, hpasses, hloaded, hqueues, hwaiting, hmoves0, hmoves1, -⟩ := still_fields h.2.1
  have heffect : seqEffect (clearPorts s n.val) n.val (getCore s n.val).pc ⟨0x06, 0, 0, 0, 0, l.zeroExtend 32⟩ false = clearPorts s n.val := by
    have himm : (l.zeroExtend 32).toNat % 4 = l.toNat := by rw [forage_imm]; omega
    simp only [seqEffect, himm]
    exact if_neg (by rwa [mailbox, clear_mailboxes hn])
  have hissue := forage_issue h (.inr ⟨rfl, rfl⟩)
  rw [heffect, clearPorts, modCore_modCore _ _ _ hn] at hissue
  have hcore := getCore_modCore n.val n.val (fun c => movedOn (getCore s n.val).loops (getCore s n.val).pc { c with ports := [], portsAt := s.cycles }) hn
  rw [if_pos rfl] at hcore
  refine (issueRow_calm h hissue (by rwa [modCore_cores_length]) ?_).trans ?_
  · rw [hcore]
    exact ⟨by simp [Later, movedOn, hevents], hpasses, hloaded, hqueues, hwaiting, hmoves0, hmoves1⟩
  · rw [modCore_modCore _ _ _ hn, issued]
    simp only [modCore]
    congr 2
    simp [cycleEnd, movedOn, portsNow, hevents]

/-- Settles O5: by the state of the mailbox. -/
theorem forageTakes : Obligations.ForageTakes := by
  intro s n tag d l ans
  dsimp only
  intro hboxes h4 h0
  have hset {t : State} {m : Mailbox} (hm : (getCore t n.val).mailboxes = tset .empty (getCore s n.val).mailboxes l.toNat m) : mailbox (getCore t n.val) l.toNat = m := by
    rw [mailbox, hm, tget_tset_eq hboxes]
  refine ⟨fun h hm => ?full, fun h hm => ?empty, fun h hm => ?pending, fun h hm => ?asks, fun h hm => exec_fprime_nothing h hm⟩
  case asks =>
    obtain ⟨t, ht, hevents, hmailboxes, hforage, hrest, hunits⟩ := exec_fprime_asks h hm
    exact ⟨t, ht, hevents, ⟨hset hmailboxes, hforage⟩, hrest, hunits⟩
  all_goals
    have hn := stillAt_len h
    have hbox := clear_mailboxes hn
    have hcycle := clear_cycle hn
    have hevents : (getCore (clearPorts s n.val) n.val).events = [] := by rw [getCore_clear hn]; exact (still_fields h.2.1).2.2.2.2.1
    rw [mailbox, ← hbox] at hm
  case full =>
    have hf := doForage_full (d := d.toNat) hevents hm
    rw [hcycle, hbox] at hf
    obtain ⟨t, ht, hevents, hmailboxes, hforage, hrest⟩ := exec_forage h h4 h0 (by simp) hf
    exact ⟨t, ht, hevents, hset hmailboxes, hforage, hrest⟩
  case empty =>
    have hf := doForage_empty (d := d.toNat) (stillAt_len (stillAt_clear h)) hevents hm
    rw [hcycle, hbox] at hf
    obtain ⟨t, ht, hevents, hmailboxes, hforage, hrest⟩ := exec_forage h h4 h0 (by simp) hf
    exact ⟨t, ht, hevents, ⟨hset hmailboxes, hforage⟩, hrest⟩
  case pending =>
    have hf := doForage_pending (d := d.toNat) hevents hm
    rw [hcycle, hbox] at hf
    obtain ⟨t, ht, hevents, hmailboxes, hforage, hrest⟩ := exec_forage h h4 h0 (by simp) hf
    exact ⟨t, ht, hevents, hforage, by rw [mailbox, hmailboxes, ← hbox]; exact hm, hrest⟩

end Sys2Proof.Machine
end

section
/-! SUPPORT. What a halt leaves: its core, with its lines and its launch stopped; the books of the launch's end; and nothing else but what its passes' writers report. -/

namespace Sys2Proof.Machine

variable {s : State} {n : Nat} {h : HaltInfo} {multiple isBreak : Bool}

/-! ### The end of a launch, 01_architecture.md R613 -/

/-- A state without its cores and what the end of a launch touches: launches, the work that waits for them, and broadcasts. -/
def launchAside (s : State) : State :=
  { s with cores := [], broadcasts := [], launches := [], ended := [], dispatches := [], collectives := [], heads := [] }

theorem endLaunch_cores (s : State) (id : Nat) (halted : Bool) : (endLaunch s id halted).cores = s.cores := by
  unfold endLaunch; split <;> rfl

theorem endLaunch_launchAside (s : State) (id : Nat) (halted : Bool) : launchAside (endLaunch s id halted) = launchAside s := by
  unfold endLaunch; split <;> rfl

theorem endLaunch_broadcasts (s : State) (id : Nat) (halted : Bool) : (endLaunch s id halted).broadcasts = s.broadcasts := by
  unfold endLaunch; split <;> rfl

theorem launchAside_modCore (s : State) (n : Nat) (f : Core → Core) : launchAside (modCore s n f) = launchAside s := rfl

/-- What two states have in common that differ in cores and launches alone. -/
theorem unitsKept_of_launchAside {s t : State} (h : launchAside t = launchAside s) : unitsKept s t :=
  ⟨(congrArg State.regs h :), (congrArg State.blocks h :), (congrArg State.steward h :), (congrArg State.dma h :), (congrArg State.chains h :),
    (congrArg State.lanes h :), (congrArg State.units h :), (congrArg State.cacheLines h :), (congrArg State.wcb h :), (congrArg State.host h :),
    (congrArg State.boot h :), (congrArg State.keeper h :), (congrArg State.power h :)⟩

/-! ### Reports of a halting core's writers, R201 -/

/-- A state without the steward, its counters and the step driver. -/
def reportAside (s : State) : State := { s with steward := [], regs := [], driver := {}, disables := [], slotRejected := none }

theorem reportAside_of_countsOnly {s t : State} (h : CountsOnly s t) : reportAside t = reportAside s :=
  (congrArg (fun u : State => { u with steward := [], disables := [], slotRejected := none }) h :)

theorem disableIf_aside (s : State) (p : Bool) (k : Nat) : reportAside (if p then disableSlot s k else s) = reportAside s := by
  cases p <;> rfl

theorem reportWriter_aside (s : State) (w : Writer) : reportAside (reportWriter s w) = reportAside s := by
  rw [reportWriter_eq]
  dsimp only
  rw [disableIf_aside, reportAside_of_countsOnly (countIf_only _ w.nan 0x088), reportAside_of_countsOnly (countIf_only _ w.ovf 0x080),
    reportAside_of_countsOnly (noteWritten_only ..)]
  rfl

theorem foldl_reportAside {β : Type} {f : State → β → State} (hf : ∀ s b, reportAside (f s b) = reportAside s) (l : List β) (s : State) :
    reportAside (l.foldl f s) = reportAside s := by
  induction l generalizing s with
  | nil => rfl
  | cons b l ih => rw [List.foldl_cons, ih, hf]

/-- The state after the reports of every writer of a core's passes. -/
def reported (s : State) (n : Nat) : State := (getCore s n).passes.foldl (fun s x => x.writers.foldl (fun s w => reportWriter s w.2) s) s

theorem reportPasses_eq (s : State) (n : Nat) : reportPasses s n = modCore (reported s n) n (fun c => { c with passes := [] }) := rfl

theorem reported_aside (s : State) (n : Nat) : reportAside (reported s n) = reportAside s := by
  rw [reported, foldl_reportAside]
  intro u x
  rw [foldl_reportAside]
  exact fun v w => reportWriter_aside v w.2

theorem reported_cores (s : State) (n : Nat) : (reported s n).cores = s.cores := (congrArg State.cores (reported_aside s n) :)

/-- A core without passes has nothing to report. -/
theorem reportPasses_none (h : (getCore s n).passes = []) : reportPasses s n = s := by
  simp only [reportPasses, h, List.foldl_nil]
  exact modCore_id _ _ (by simp [← h])

/-! ### The halt, R255 -/

/-- Core c once it has halted with reason h. -/
def coreHalted (h : HaltInfo) (multiple isBreak : Bool) (c : Core) : Core :=
  { c with passes := [], run := .halted, halt := h, haltMultiple := multiple, recordPending := true, events := [],
           matOps := if isBreak then c.matOps.filter (fun o => c.lastTile.map (·.2) == some o.id) else [],
           lastTile := if isBreak then c.lastTile else none, nextLoaded := [], capturesInFlight := 0,
           mover0 := stopMover isBreak c.mover0, mover1 := stopMover isBreak c.mover1, brk := none, breakRequest := none,
           resumeAtBarrier := c.run == .atBarrier && isBreak }

/-- The broadcast of a halt leaves, where the core's settings say so (R264, R265). -/
def withBroadcast (s : State) (n : Nat) (h : HaltInfo) (isBreak : Bool) : State :=
  let out := fld (getReg s (CORE n) 0x0D0) 3 2
  let own := isBreak && (fld h.detail.toNat 57 56 == 0)
  if isCsf1 (getCore s n) = false ∧ (out = 2 ∨ (out = 1 ∧ own = true)) then
    { s with broadcasts := s.broadcasts ++ ((List.range 128).filter (· != n)).map (fun d => (n, d)) } else s

/-- The core's launch ends halted, where it has one. -/
def endOwnLaunch (s : State) (n : Nat) : State :=
  match (getCore s n).launch with
  | some l => endLaunch s l.id true
  | none => s

theorem withBroadcast_frame (s : State) (n : Nat) (h : HaltInfo) (isBreak : Bool) :
    (withBroadcast s n h isBreak).cores = s.cores ∧ launchAside (withBroadcast s n h isBreak) = launchAside s := by
  unfold withBroadcast
  dsimp only
  split <;> exact ⟨rfl, rfl⟩

theorem endOwnLaunch_frame (s : State) (n : Nat) : (endOwnLaunch s n).cores = s.cores ∧ launchAside (endOwnLaunch s n) = launchAside s := by
  unfold endOwnLaunch
  split
  · exact ⟨endLaunch_cores .., endLaunch_launchAside ..⟩
  · exact ⟨rfl, rfl⟩

theorem haltCore_eq (hn : n < s.cores.length) :
    haltCore s n h multiple isBreak = endOwnLaunch (withBroadcast (modCore (reported s n) n (coreHalted h multiple isBreak)) n h isBreak) n := by
  have hlen : n < (reported s n).cores.length := by rwa [reported_cores]
  have hrun : (getCore (reportPasses s n) n).run = (getCore (reported s n) n).run := by
    rw [reportPasses_eq, getCore_modCore _ _ _ hlen, if_pos rfl]
  have hcore : modCore (reported s n) n (coreHalted h multiple isBreak) = modCore (reportPasses s n) n (fun c =>
      { c with run := .halted, halt := h, haltMultiple := multiple, recordPending := true, events := [],
               matOps := if isBreak then c.matOps.filter (fun o => c.lastTile.map (·.2) == some o.id) else [],
               lastTile := if isBreak then c.lastTile else none, nextLoaded := [], capturesInFlight := 0,
               mover0 := stopMover isBreak c.mover0, mover1 := stopMover isBreak c.mover1, brk := none, breakRequest := none,
               resumeAtBarrier := (getCore (reportPasses s n) n).run == .atBarrier && isBreak }) := by
    rw [hrun, reportPasses_eq, modCore_modCore _ _ _ hlen]
    rfl
  rw [hcore]
  rfl

/-- A halt sets its core, after its writers' reports, and ends the launch. -/
theorem haltCore_cores (hn : n < s.cores.length) : (haltCore s n h multiple isBreak).cores = (modCore s n (coreHalted h multiple isBreak)).cores := by
  rw [haltCore_eq hn, (endOwnLaunch_frame ..).1, (withBroadcast_frame ..).1]
  simp only [modCore, setCore, getCore, reported_cores]

theorem haltCore_aside (hn : n < s.cores.length) : reportAside (launchAside (haltCore s n h multiple isBreak)) = reportAside (launchAside s) := by
  have hcomm (u : State) : reportAside (launchAside u) = launchAside (reportAside u) := rfl
  rw [haltCore_eq hn, (endOwnLaunch_frame ..).2, (withBroadcast_frame ..).2, launchAside_modCore, hcomm, hcomm, reported_aside]

/-- A halt of a core without passes leaves all but cores and launches. -/
theorem haltCore_launchAside (hn : n < s.cores.length) (hp : (getCore s n).passes = []) : launchAside (haltCore s n h multiple isBreak) = launchAside s := by
  rw [haltCore_eq hn, (endOwnLaunch_frame ..).2, (withBroadcast_frame ..).2, launchAside_modCore, reported, hp]
  rfl

theorem getCore_haltCore (hn : n < s.cores.length) (m : Nat) :
    getCore (haltCore s n h multiple isBreak) m = if m = n then coreHalted h multiple isBreak (getCore s n) else getCore s m := by
  rw [getCore_of_cores (haltCore_cores hn), getCore_modCore _ _ _ hn]

theorem memoryKept_of_haltAside {s t : State} (h : reportAside (launchAside t) = reportAside (launchAside s)) : memoryKept s t :=
  ⟨(congrArg State.mem h :), (congrArg State.guard h :), (congrArg State.nvm h :)⟩

theorem haltCore_memory (hn : n < s.cores.length) : memoryKept s (haltCore s n h multiple isBreak) := memoryKept_of_haltAside (haltCore_aside hn)

theorem haltCore_units (hn : n < s.cores.length) (hp : (getCore s n).passes = []) : unitsKept s (haltCore s n h multiple isBreak) :=
  unitsKept_of_launchAside (haltCore_launchAside hn hp)

end Sys2Proof.Machine
end

section
/-! SUPPORT. LOOP, HALT and BARRIER on a still core, and the statement on the three (O4). -/

namespace Sys2Proof.Machine

variable {s : State} {n : Fin 128} {tag : BitVec 16}

/-! ### LOOP, R234 and R235 -/

section
variable {a : BitVec 5} {body : BitVec 11}

theorem loop_body (body : BitVec 11) : (body.zeroExtend 32).toNat % 2048 = body.toNat := by
  have := body.isLt
  simp only [BitVec.truncate_eq_setWidth, BitVec.toNat_setWidth]
  omega

/-- A body that is not empty, ends inside the innermost loop and is one of at most four levels, run less than 2^32 times, passes the checks of R235. -/
theorem seqChecks_loop {c : Core} {m pc : Nat} (hevents : c.events = []) (hbody : body ≠ 0) (hdepth : c.loops.length < 4)
    (hfits : ∀ f, c.loops.head? = some f → pc + body.toNat ≤ f.last) (hcount : sreg c a < 2 ^ 32) :
    seqChecks c m pc ⟨0x01, 0, a, 0, 0, body.zeroExtend 32⟩ = none := by
  have hbody' : body.toNat ≠ 0 := fun e => hbody (BitVec.eq_of_toNat_eq e)
  have hdepth' : decide (4 ≤ c.loops.length) = false := by simpa using hdepth
  have hcount' : decide (2 ^ 32 ≤ sreg c a) = false := by simpa using hcount
  simp only [seqChecks, seqCollision_none hevents, loop_body, hdepth', hcount']
  cases hl : c.loops with
  | nil => simp [firstStop, seqAccess, hbody']
  | cons f fs =>
    have hin : ¬ f.last < pc + body.toNat := Nat.not_lt.mpr (hfits f (by simp [hl]))
    simp [firstStop, seqAccess, hbody', hin]

/-- The bundle after a LOOP and its loops (R234). -/
theorem nextBundle_loop (c : Core) (pc : Nat) :
    nextBundle c pc ⟨0x01, 0, a, 0, 0, body.zeroExtend 32⟩ =
      if sreg c a = 0 then afterBundle c.loops (pc + body.toNat) else (pc + 1, ⟨pc + 1, pc + body.toNat, sreg c a, 0⟩ :: c.loops) := by
  simp only [nextBundle, loop_body]
  rfl

theorem exec_loop_still (h : StillAt s n (seqBundle tag 0x01 0 a 0 (body.zeroExtend 32))) (hbody : body ≠ 0) (hdepth : (getCore s n.val).loops.length < 4)
    (hfits : ∀ f, (getCore s n.val).loops.head? = some f → (getCore s n.val).pc + body.toNat ≤ f.last) (hcount : (scalar s n a).toNat < 2 ^ 32) :
    let c := getCore s n.val
    let k := (scalar s n a).toNat
    exec (.loop n (seqBundle tag 0x01 0 a 0 (body.zeroExtend 32))) s = .next (setCore s n.val
      { c with pc := if k = 0 then (afterBundle c.loops (c.pc + body.toNat)).1 else c.pc + 1,
               loops := if k = 0 then (afterBundle c.loops (c.pc + body.toNat)).2 else ⟨c.pc + 1, c.pc + body.toNat, k, 0⟩ :: c.loops,
               bundles := c.bundles + 1, cycle := c.cycle + 1, breakExempt := false, ports := [], portsAt := s.cycles }) := by
  have hn := stillAt_len h
  have hclear := getCore_clear hn
  have hpc : (getCore (clearPorts s n.val) n.val).pc = (getCore s n.val).pc := by rw [hclear]
  have hloops : (getCore (clearPorts s n.val) n.val).loops = (getCore s n.val).loops := by rw [hclear]
  obtain ⟨-, -, -, -, hevents, hpasses, hloaded, hqueues, hwaiting, hmoves0, hmoves1, -⟩ := still_fields h.2.1
  have hissue := seq_issue (stillAt_clear h) (by decide) ?undefined ?reserved ?checks
  case undefined => simp [slotUndefined, seqBundle, predBit, bit]
  case reserved => simpa [slotReserved, seqBundle, seqUses] using (Nat.mod_le body.toNat 4294967296).trans_lt body.isLt
  case checks =>
    have hcount' : sreg (getCore (clearPorts s n.val) n.val) a < 2 ^ 32 := by rwa [clear_sreg hn, sreg_scalar]
    exact seqChecks_loop (by rw [hclear]; exact hevents) hbody (by rwa [hloops]) (by rwa [hloops, hpc]) hcount'
  rw [nextBundle_loop, hpc, hloops, clear_sreg hn, sreg_scalar] at hissue
  have heffect : seqEffect (clearPorts s n.val) n.val (getCore s n.val).pc ⟨0x01, 0, a, 0, 0, body.zeroExtend 32⟩ false = clearPorts s n.val := rfl
  rw [heffect, clearPorts, modCore_modCore _ _ _ hn] at hissue
  refine (issueRow_calm h hissue (by rwa [modCore_cores_length]) ?calm).trans ?state
  case calm =>
    rw [getCore_modCore _ _ _ hn, if_pos rfl]
    exact ⟨by simp [Later, hevents], hpasses, hloaded, hqueues, hwaiting, hmoves0, hmoves1⟩
  case state =>
    rw [modCore_modCore _ _ _ hn]
    simp only [modCore, cycleEnd]
    congr 2
    by_cases hk : (scalar s n a).toNat = 0 <;> simp [hk, portsNow]

end

/-! ### HALT, R213, R255 and R257 -/

/-- The cycle of a still core that is given a bundle for which it halts. -/
theorem issueRow_halts {b : Bundle} {x : HaltInfo} {v : State} (h : StillAt s n b) (hi : issueBundle (clearPorts s n.val) n.val b none = ([x], v))
    (hc : Calm (getCore v n.val)) (hbrk : (getCore v n.val).brk = none) : issueRow s n b = .next (haltCore v n.val x false false) := by
  have hissue : issueFrom (clearPorts s n.val) n.val (.given b) = ([x], v) := by
    simp only [issueFrom, (still_clear (stillAt_len h) h.2.1).1, if_true, breakAt_still (stillAt_clear h), hi]
  have hreads : cycleReads n.val ([x], v) = ([x], v) := cycleReads_calm hc.later hc.passes hc.loaded
  simp only [issueRow, h.2.1.1, if_true, coreCycle_still (stillAt_len h) h.2.1, hissue, hreads]
  simp [haltAmong, hbrk]

/-- Core c has counted the bundle that halts it, and used no bank in the cycle. -/
def counted (cycles : Nat) (c : Core) : Core := { c with bundles := c.bundles + 1, breakExempt := false, ports := [], portsAt := cycles }

section
variable {imm : BitVec 16}

theorem halt_issue (h : StillAt s n (seqBundle tag 0x03 0 0 0 (imm.zeroExtend 32))) :
    issueBundle (clearPorts s n.val) n.val (seqBundle tag 0x03 0 0 0 (imm.zeroExtend 32)) none =
      ([⟨0x62, (getCore s n.val).pc, 0, imm.zeroExtend 64⟩],
        modCore (clearPorts s n.val) n.val (fun c => { c with bundles := c.bundles + 1, breakExempt := false })) := by
  have hclear := getCore_clear (stillAt_len h)
  have hpc : (getCore (clearPorts s n.val) n.val).pc = (getCore s n.val).pc := by rw [hclear]
  obtain ⟨-, ⟨-, -, -, -, -, hcsf, hfiles⟩, -, haudit⟩ := stillAt_clear h
  have hevents : (getCore (clearPorts s n.val) n.val).events = [] := by rw [hclear]; exact (still_fields h.2.1).2.2.2.2.1
  have hchecks := bundleChecks_seq (tag := tag) (op := 0x03) (d := 0) (a := 0) (b := 0) (imm := imm.zeroExtend 32) (pc := (getCore s n.val).pc) hcsf ?undefined ?reserved ?checks
  case undefined => simp [slotUndefined, seqBundle, predBit, bit]
  case reserved => simpa [slotReserved, seqBundle, seqUses] using (Nat.mod_le imm.toNat 4294967296).trans_lt imm.isLt
  case checks => apply seqChecks_alu hevents <;> simp [seqAccess]
  have hdetail : BitVec.ofNat 64 ((imm.zeroExtend 32).toNat % 65536) = imm.zeroExtend 64 := by
    apply BitVec.eq_of_toNat_eq
    have := imm.isLt
    simp
    omega
  simp only [issueBundle, meetFiles_none hfiles, hpc, hchecks, haudit]
  rw [← hdetail]
  rfl

theorem exec_halt_still (h : StillAt s n (seqBundle tag 0x03 0 0 0 (imm.zeroExtend 32))) :
    let c := getCore s n.val
    ∃ t, exec (.halt n (seqBundle tag 0x03 0 0 0 (imm.zeroExtend 32))) s = .next t ∧ (getCore t n.val).run = .halted ∧ (getCore t n.val).halt = ⟨0x62, c.pc, 0, imm.zeroExtend 64⟩ ∧
      (getCore t n.val).bundles = c.bundles + 1 ∧ (getCore t n.val).recordPending = true ∧ (getCore t n.val).haltMultiple = false ∧
      (getCore t n.val).sregs = c.sregs ∧ (getCore t n.val).wf = c.wf ∧ othersKept s t n.val ∧ memoryKept s t ∧ unitsKept s t := by
  have hn := stillAt_len h
  obtain ⟨-, -, hbrk, -, hevents, hpasses, hloaded, hqueues, hwaiting, hmoves0, hmoves1, -⟩ := still_fields h.2.1
  have hissue := halt_issue h
  rw [clearPorts, modCore_modCore _ _ _ hn] at hissue
  change _ = (_, modCore s n.val (counted s.cycles)) at hissue
  have hcore := getCore_modCore n.val n.val (counted s.cycles) hn
  rw [if_pos rfl] at hcore
  have hlen : n.val < (modCore s n.val (counted s.cycles)).cores.length := by rwa [modCore_cores_length]
  have hcalm : Calm (getCore (modCore s n.val (counted s.cycles)) n.val) := by
    rw [hcore]
    exact ⟨by simp [Later, counted, hevents], hpasses, hloaded, hqueues, hwaiting, hmoves0, hmoves1⟩
  refine ⟨_, issueRow_halts h hissue hcalm (by rw [hcore]; exact hbrk), ?_⟩
  have hhalted := getCore_haltCore (h := ⟨0x62, (getCore s n.val).pc, 0, imm.zeroExtend 64⟩) (multiple := false) (isBreak := false) hlen
  have hlast := hhalted n.val
  rw [if_pos rfl, hcore] at hlast
  rw [hlast]
  refine ⟨rfl, rfl, rfl, rfl, rfl, rfl, rfl, fun m hm => ?_, (memoryKept_modCore ..).trans (haltCore_memory hlen), ?_⟩
  · rw [hhalted, if_neg hm, getCore_modCore _ _ _ hn, if_neg hm]
  · exact unitsKept_trans (unitsKept_modCore ..) (haltCore_units hlen (by rw [hcore]; exact hpasses))

end

/-! ### BARRIER, R241 and R243 -/

section
variable {mask : BitVec 4} {l : CoreLaunch}

/-- A barrier that a core reaches first (R241, R243). -/
def newBarrier (l : CoreLaunch) (k n : Nat) (mask : BitVec 4) (t : Nat) : Barrier :=
  { launch := l.id, number := k, group := bitList (fld l.record.toNat 511 384) 128, arrived := [n], mask := mask, firstArrival := t }

/-- Core c waits at a barrier that it has reached with the bundle at pc. -/
def arrived (pc : Nat) (c : Core) : Core := { c with barrierCount := c.barrierCount + 1, barrierPc := pc, run := .atBarrier }

/-- The state with a barrier that core n of launch l has reached first, with the bundle's mask; the unit has read the timebase. -/
def withBarrier (u : State) (n : Nat) (mask : BitVec 4) (l : CoreLaunch) : State :=
  { (readTime u FORAGE).2 with barriers := u.barriers ++ [newBarrier l (getCore u n).barrierCount n mask (readTime u FORAGE).1] }

theorem withBarrier_frame (u : State) (n : Nat) (mask : BitVec 4) (l : CoreLaunch) :
    (withBarrier u n mask l).cores = u.cores ∧ memoryKept u (withBarrier u n mask l) ∧ unitsKept u (withBarrier u n mask l) :=
  ⟨rfl, ⟨rfl, rfl, rfl⟩, ⟨rfl, rfl, rfl, rfl, rfl, rfl, rfl, rfl, rfl, rfl, rfl, rfl, rfl⟩⟩

/-- A core that is the first at its launch's next barrier waits there. -/
theorem arriveBarrier_first {u : State} (hn : n.val < u.cores.length) (hl : (getCore u n.val).launch = some l)
    (hfirst : ∀ b ∈ u.barriers, ¬(b.launch = l.id ∧ b.number = (getCore u n.val).barrierCount)) (pc : Nat) :
    arriveBarrier u n.val pc mask = (false, modCore (withBarrier u n.val mask l) n.val (arrived pc)) := by
  have hnone : u.barriers.find? (fun b => b.launch == l.id && b.number == (getCore u n.val).barrierCount) = none := by
    rw [List.find?_eq_none]
    intro b hb
    simpa using hfirst b hb
  have hsteps : arriveBarrier u n.val pc mask = (false, modCore (modCore (withBarrier u n.val mask l) n.val
      (fun c => { c with barrierCount := (getCore u n.val).barrierCount + 1, barrierPc := pc })) n.val (fun c => { c with run := .atBarrier })) := by
    simp only [arriveBarrier, hl, modCore_barriers, hnone]
    rfl
  have hlen : n.val < (withBarrier u n.val mask l).cores.length := hn
  rw [hsteps, modCore_modCore _ _ _ hlen]
  rfl

/-- A bundle of BARRIER takes effect on a core that is the first there: the core moves on and waits (R207, R241). -/
theorem performBundle_barrier {u : State} (hn : n.val < u.cores.length) (hl : (getCore u n.val).launch = some l)
    (hfirst : ∀ b ∈ u.barriers, ¬(b.launch = l.id ∧ b.number = (getCore u n.val).barrierCount)) (pc : Nat) :
    performBundle u n.val pc (seqBundle tag 0x04 0 0 0 (mask.zeroExtend 32)) =
      (false, modCore (withBarrier (modCore u n.val (movedOn (getCore u n.val).loops pc)) n.val mask l) n.val (arrived pc)) := by
  have hsuppressed : ∀ k, suppressed (getCore u n.val) (seqBundle tag 0x04 0 0 0 (mask.zeroExtend 32)) k = false := by
    intro k
    simp [suppressed, predBit, seqBundle, bit]
  have hmoved : getCore (modCore u n.val (movedOn (getCore u n.val).loops pc)) n.val = movedOn (getCore u n.val).loops pc (getCore u n.val) := by
    rw [getCore_modCore _ _ _ hn, if_pos rfl]
  rw [← arriveBarrier_first (by rwa [modCore_cores_length]) (by rw [hmoved]; exact hl) (by rw [hmoved]; exact hfirst) pc]
  simp only [performBundle, hsuppressed]
  have hmask : BitVec.ofNat 4 (mask.toNat % 16) = mask := by
    rw [Nat.mod_eq_of_lt mask.isLt, BitVec.ofNat_toNat, BitVec.setWidth_eq]
  simp [seqBundle, nextBundle, seqEffect, hmask]
  rfl

/-- The state in which still core n has moved on from a BARRIER and waits there as the first of its launch l. -/
def atBarrier (s : State) (n : Fin 128) (mask : BitVec 4) (l : CoreLaunch) : State :=
  modCore (withBarrier (modCore (clearPorts s n.val) n.val (movedOn (getCore s n.val).loops (getCore s n.val).pc)) n.val mask l) n.val (arrived (getCore s n.val).pc)

theorem getCore_atBarrier (hn : n.val < s.cores.length) (m : Nat) : getCore (atBarrier s n mask l) m =
    if m = n.val then arrived (getCore s n.val).pc (movedOn (getCore s n.val).loops (getCore s n.val).pc { getCore s n.val with ports := [], portsAt := s.cycles })
    else getCore s m := by
  have hlen : n.val < (clearPorts s n.val).cores.length := by rwa [clearPorts, modCore_cores_length]
  have hbarrier (u : State) (k : Nat) : getCore (withBarrier u n.val mask l) k = getCore u k := rfl
  have hlen' : n.val < (withBarrier (modCore (clearPorts s n.val) n.val (movedOn (getCore s n.val).loops (getCore s n.val).pc)) n.val mask l).cores.length :=
    (modCore_cores_length ..).symm ▸ hlen
  rw [atBarrier, getCore_modCore _ _ _ hlen', hbarrier, hbarrier, getCore_modCore _ _ _ hlen, if_pos rfl, getCore_clear hn]
  split
  · rfl
  · rename_i hm
    rw [getCore_modCore _ _ _ hlen, if_neg hm, clearPorts, getCore_modCore _ _ _ hn, if_neg hm]

/-- Besides the core, the barrier is new, and the unit's reading of the timebase. -/
theorem atBarrier_frame (hn : n.val < s.cores.length) : memoryKept s (atBarrier s n mask l) ∧ unitsKept s (atBarrier s n mask l) ∧
    (atBarrier s n mask l).barriers = s.barriers ++ [newBarrier l (getCore s n.val).barrierCount n.val mask (readTime s FORAGE).1] := by
  have hcount : (getCore (modCore (clearPorts s n.val) n.val (movedOn (getCore s n.val).loops (getCore s n.val).pc)) n.val).barrierCount = (getCore s n.val).barrierCount := by
    rw [getCore_modCore _ _ _ (by rwa [clearPorts, modCore_cores_length]), if_pos rfl, getCore_clear hn]
    rfl
  obtain ⟨-, hmemory, hunits⟩ := withBarrier_frame (modCore (clearPorts s n.val) n.val (movedOn (getCore s n.val).loops (getCore s n.val).pc)) n.val mask l
  obtain ⟨-, hcmemory, hcunits⟩ := clearPorts_frame hn
  refine ⟨((hcmemory.trans (memoryKept_modCore ..)).trans hmemory).trans (memoryKept_modCore ..),
    unitsKept_trans (unitsKept_trans (unitsKept_trans hcunits (unitsKept_modCore ..)) hunits) (unitsKept_modCore ..), ?_⟩
  rw [← hcount]
  rfl

/-- What a still core does with BARRIER where it is the first there. -/
theorem barrier_issue (h : StillAt s n (seqBundle tag 0x04 0 0 0 (mask.zeroExtend 32))) (hl : (getCore s n.val).launch = some l)
    (hfirst : ∀ b ∈ s.barriers, ¬(b.launch = l.id ∧ b.number = (getCore s n.val).barrierCount)) :
    issueBundle (clearPorts s n.val) n.val (seqBundle tag 0x04 0 0 0 (mask.zeroExtend 32)) none =
      ([], atBarrier s n mask l) := by
  have hn := stillAt_len h
  have hclear := getCore_clear hn
  have hpc : (getCore (clearPorts s n.val) n.val).pc = (getCore s n.val).pc := by rw [hclear]
  have hloops : (getCore (clearPorts s n.val) n.val).loops = (getCore s n.val).loops := by rw [hclear]
  obtain ⟨-, ⟨-, -, -, -, -, hcsf, hfiles⟩, -, haudit⟩ := stillAt_clear h
  have hevents : (getCore (clearPorts s n.val) n.val).events = [] := by rw [hclear]; exact (still_fields h.2.1).2.2.2.2.1
  have hchecks := bundleChecks_seq (tag := tag) (op := 0x04) (d := 0) (a := 0) (b := 0) (imm := mask.zeroExtend 32) (pc := (getCore s n.val).pc) hcsf ?undefined ?reserved ?checks
  case undefined => simp [slotUndefined, seqBundle, predBit, bit]
  case reserved => simpa [slotReserved, seqBundle, seqUses] using (Nat.mod_le mask.toNat 4294967296).trans_lt mask.isLt
  case checks => apply seqChecks_alu hevents <;> simp [seqAccess]
  have hperform := performBundle_barrier (tag := tag) (mask := mask) (stillAt_len (stillAt_clear h)) (by rw [hclear]; exact hl) (by rw [hclear]; exact hfirst) (getCore s n.val).pc
  rw [hloops] at hperform
  have hsop : (seqBundle tag 0x04 0 0 0 (mask.zeroExtend 32)).seq.sop ≠ 3 := by simp [seqBundle]
  simp only [issueBundle, meetFiles_none hfiles, hpc, hchecks, haudit, hperform]
  simp only [Bool.false_eq_true, if_false, Option.toList_none, List.append_nil, if_neg hsop]
  rw [List.find?_eq_none.mpr (by simp), atBarrier]

theorem exec_barrier_still (h : StillAt s n (seqBundle tag 0x04 0 0 0 (mask.zeroExtend 32))) (hl : (getCore s n.val).launch = some l)
    (hfirst : ∀ b ∈ s.barriers, ¬(b.launch = l.id ∧ b.number = (getCore s n.val).barrierCount)) :
    let c := getCore s n.val
    ∃ t v, exec (.barrier n (seqBundle tag 0x04 0 0 0 (mask.zeroExtend 32))) s = .next t ∧ (getCore t n.val).run = .atBarrier ∧ (getCore t n.val).barrierCount = c.barrierCount + 1 ∧
      (getCore t n.val).barrierPc = c.pc ∧ (getCore t n.val).bundles = c.bundles + 1 ∧ (getCore t n.val).sregs = c.sregs ∧
      v ≤ max (tget 0 s.readings FORAGE) s.time ∧ t.barriers = s.barriers ++ [newBarrier l c.barrierCount n.val mask v] ∧
      othersKept s t n.val ∧ memoryKept s t ∧ unitsKept s t := by
  have hn := stillAt_len h
  obtain ⟨-, -, -, -, hevents, hpasses, hloaded, hqueues, hwaiting, hmoves0, hmoves1, -⟩ := still_fields h.2.1
  have hcore := getCore_atBarrier (mask := mask) (l := l) hn
  have hlast := hcore n.val
  rw [if_pos rfl] at hlast
  have hlen : n.val < (atBarrier s n mask l).cores.length := by simpa [atBarrier, withBarrier, clearPorts] using hn
  have hcalm : Calm (getCore (atBarrier s n mask l) n.val) := by
    rw [hlast]
    exact ⟨by simp [Later, arrived, movedOn, hevents], hpasses, hloaded, hqueues, hwaiting, hmoves0, hmoves1⟩
  obtain ⟨hmemory, hunits, hbarriers⟩ := atBarrier_frame (mask := mask) (l := l) hn
  obtain ⟨hend, hothers, hendMemory, hendUnits, -, hendBarriers⟩ := cycleEnd_frame hlen
  refine ⟨_, (readTime s FORAGE).1, issueRow_calm h (barrier_issue h hl hfirst) hlen hcalm, ?_⟩
  generalize modCore (atBarrier s n mask l) n.val _ = t at *
  rw [hend, hlast]
  refine ⟨rfl, rfl, rfl, rfl, rfl, (readTime_bounds s FORAGE).2.2, hendBarriers.trans hbarriers, fun m hm => ?_, hmemory.trans hendMemory, unitsKept_trans hunits hendUnits⟩
  rw [hothers m hm, hcore, if_neg hm]

end

/-! ### The statement -/

/-- Settles O4: LOOP moves on by its own rule; HALT's bundle counts as issued, and the core halts; the first core at a barrier opens it and waits. -/
theorem seqControl : Obligations.SeqControl :=
  ⟨fun _ _ _ _ _ h hbody hdepth hfits hcount => exec_loop_still h hbody hdepth hfits hcount, fun _ _ _ _ h => exec_halt_still h,
    fun _ _ _ _ _ h hl hfirst => exec_barrier_still h hl hfirst⟩

end Sys2Proof.Machine
end

section
/-! SUPPORT. Bundles whose only operation is in the slot of a data mover, on a still core, and the statement on MOVE and GATHER (O10). -/

namespace Sys2Proof.Machine

/-! ### The checks of a data mover's slot alone -/

section
variable {s : State} {n : Nat} {tag : BitVec 16} {m : Fin 2} {x : DmSlot} {pc : Nat}

theorem dmBundle_not_suppressed (c : Core) (tag : BitVec 16) (m : Fin 2) (x : DmSlot) (k : Nat) : suppressed c (dmBundle tag m x) k = false := by
  simp [suppressed, predBit, dmBundle, bit]

/-- A MOVE or GATHER that passes the checks of its slot on core c of a CSF-2 launch (R209, R223, R226). -/
structure PassesMover (c : Core) (n : Nat) (m : Fin 2) (x : DmSlot) : Prop where
  op : x.dop = 1 ∨ x.dop = 2
  rsvd : x.rsvd = 0
  csf2 : isCsf1 c = false
  checks : moveChecks c n m.val false x (sreg c x.crg) (dmBits x) = none

theorem PassesMover.starts {c : Core} (h : PassesMover c n m x) : ¬ x.dop = 0 := by obtain h | h := h.op <;> simp [h]

/-- No slot's checks stop the bundle: the slots beside the mover's are empty. -/
theorem slotChecks_dm (h : PassesMover (getCore s n) n m x) (k : Nat) : slotChecks s n pc (dmBundle tag m x) k = (none, s) := by
  have hseq : seqChecks (getCore s n) n pc ⟨0, 0, 0, 0, 0, 0⟩ = none := by
    simp [seqChecks, seqCollision, seqWrites, seqAccess, firstStop]
  have hstarts : ¬ x.dop = 0 := h.starts
  have hchecks := h.checks
  simp only [slotChecks, dmBundle_not_suppressed, h.csf2]
  obtain rfl | rfl : m = 0 ∨ m = 1 := by omega
  · match k with
    | 0 => exact congrArg (·, s) hseq
    | 3 => exact congrArg (·, s) ((if_neg hstarts).trans hchecks)
    | 1 | 2 | 4 | _ + 5 => rfl
  · match k with
    | 0 => exact congrArg (·, s) hseq
    | 4 => exact congrArg (·, s) ((if_neg hstarts).trans hchecks)
    | 1 | 2 | 3 | _ + 5 => rfl

/-- A MOVE or GATHER alone in its bundle passes the bundle's checks where it passes its slot's (R209). -/
theorem bundleChecks_dm (h : PassesMover (getCore s n) n m x) : bundleChecks s n pc (dmBundle tag m x) = (none, s) := by
  have hop : ¬ 3 ≤ x.dop.toNat := by obtain h | h := h.op <;> simp [h]
  have hstarts : ¬ x.dop = 0#3 := h.starts
  have hundefined : (List.range 6).find? (slotUndefined (dmBundle tag m x) false) = none := by
    obtain rfl | rfl : m = 0 ∨ m = 1 := by omega
    all_goals simp [range6, slotUndefined, dmBundle, predBit, bit, hop]
  have hreserved : (List.range 6).find? (fun k => (!suppressed (getCore s n) (dmBundle tag m x) k || false) && slotReserved (dmBundle tag m x) false k) = none := by
    obtain rfl | rfl : m = 0 ∨ m = 1 := by omega
    all_goals simp [range6, slotReserved, dmBundle, seqUses, h.rsvd, hstarts, matBits, vecBits, dmBits, accBits, at_]
  have hbits : (dmBundle tag m x).rsvd = 0 := rfl
  simp only [bundleChecks, h.csf2, hundefined, hbits, hreserved, ne_eq, not_true_eq_false, if_false]
  exact foldl_fixed _ _ _ fun k _ => by simp only [slotChecks_dm h, Option.map_none]

end

/-! ### The issue of a mover's slot on a still core -/

section
variable {s : State} {n : Fin 128} {tag : BitVec 16} {m : Fin 2} {x : DmSlot}

/-- A bundle of the mover's slot takes effect: the move starts, and the core moves on (R207). -/
theorem performBundle_dm (pc : Nat) (h : PassesMover (getCore s n.val) n.val m x) :
    performBundle s n.val pc (dmBundle tag m x) =
      (false, modCore (issueMove s n.val m.val pc x (sreg (getCore s n.val) x.xr) (sreg (getCore s n.val) x.crg)) n.val (movedOn (getCore s n.val).loops pc)) := by
  have hstarts : ¬ x.dop = 0#3 := h.starts
  simp only [performBundle, dmBundle_not_suppressed]
  obtain rfl | rfl : m = 0 ∨ m = 1 := by omega
  all_goals
    simp [dmBundle, hstarts, nextBundle, seqEffect]
    rfl

/-- What a still core does with a bundle of a mover's slot that passes its checks. -/
theorem dm_issue (h : StillAt s n (dmBundle tag m x)) (hx : PassesMover (getCore s n.val) n.val m x) :
    issueBundle s n.val (dmBundle tag m x) none =
      ([], modCore (issueMove s n.val m.val (getCore s n.val).pc x (sreg (getCore s n.val) x.xr) (sreg (getCore s n.val) x.crg)) n.val
        (movedOn (getCore s n.val).loops (getCore s n.val).pc)) := by
  obtain ⟨-, ⟨-, -, -, -, -, -, hfiles⟩, -, haudit⟩ := h
  have hsop : (dmBundle tag m x).seq.sop ≠ 3 := by simp [dmBundle]
  simp only [issueBundle, meetFiles_none hfiles, bundleChecks_dm hx, haudit, performBundle_dm _ hx]
  simp only [Bool.false_eq_true, if_false, Option.toList_none, List.append_nil, if_neg hsop]
  rw [List.find?_eq_none.mpr (by simp)]

/-- The move that slot x starts on core c from the bundle at pc (R223). -/
def startedMove (c : Core) (x : DmSlot) : Move :=
  let v := (tget 0 c.moveFile x.e.toNat).toNat
  { id := c.nextId, pc := c.pc, gather := x.dop == 2, issued := c.cycle, desc := v, ext := sreg c x.xr, coreOff := sreg c x.crg, lines := (moveDesc v).lines }

/-- Mover m of core c with the move that slot x starts. -/
def startedMover (c : Core) (m : Nat) (x : DmSlot) : Mover :=
  let d := moveDesc (tget 0 c.moveFile x.e.toNat).toNat
  { getMover c m with nextIssue := c.cycle + 1 + d.lines * (d.pace + 1), moves := (getMover c m).moves ++ [startedMove c x] }

/-- Core c with the move that slot x starts on its mover m. -/
def withMove (m : Nat) (x : DmSlot) (c : Core) : Core := setMover { c with nextId := c.nextId + 1 } m (startedMover c m x)

theorem issueMove_eq (s : State) (n m : Nat) (x : DmSlot) :
    issueMove s n m (getCore s n).pc x (sreg (getCore s n) x.xr) (sreg (getCore s n) x.crg) = modCore s n (withMove m x) := rfl

/-- A move that passes its checks has a line to request. -/
theorem PassesMover.lines_pos {c : Core} {n : Nat} (h : PassesMover c n m x) : 0 < (startedMove c x).lines := by
  have hrows : ¬ (moveDesc (tget 0 c.moveFile x.e.toNat).toNat).rows = 0 ∧ ¬ (moveDesc (tget 0 c.moveFile x.e.toNat).toNat).rowLines = 0 := by
    have := h.checks
    simp only [moveChecks, firstStop] at this
    split at this
    · simp at this
    · simp_all
  exact Nat.mul_pos (Nat.pos_of_ne_zero hrows.1) (Nat.pos_of_ne_zero hrows.2)

/-- The move is not past in its first cycle, and the other mover has none: the end of the cycle drops nothing. -/
theorem dropMoves_withMove {c : Core} {n : Nat} (h : PassesMover c n m x) (hmoves0 : c.mover0.moves = []) (hmoves1 : c.mover1.moves = []) {d : Core}
    (hd : d.mover0 = (withMove m.val x c).mover0 ∧ d.mover1 = (withMove m.val x c).mover1) : dropMoves d = d := by
  have hpast (y : Mover) (k : Nat) : (startedMove c x).past y k = false := by
    have hnext : ¬ (startedMove c x).lines ≤ (startedMove c x).next := Nat.not_le.mpr h.lines_pos
    simp [Move.past, hnext]
  have hstarted (y : Mover) (k : Nat) : [startedMove c x].filter (fun v => !v.past y k) = [startedMove c x] := by simp [hpast]
  obtain ⟨hd0, hd1⟩ := hd
  obtain rfl | rfl : m = 0 ∨ m = 1 := by omega
  · have hm0 : d.mover0.moves = [startedMove c x] := by rw [hd0]; simp [withMove, setMover, startedMover, getMover, hmoves0]
    have hm1 : d.mover1.moves = [] := by rw [hd1]; exact hmoves1
    simp only [dropMoves, mover_filter hm1, hm0, hstarted]
    simp only [← hm0]
  · have hm0 : d.mover0.moves = [] := by rw [hd0]; exact hmoves0
    have hm1 : d.mover1.moves = [startedMove c x] := by rw [hd1]; simp [withMove, setMover, startedMover, getMover, hmoves1]
    simp only [dropMoves, mover_filter hm0, hm1, hstarted]
    simp only [← hm1]

theorem later_of_no_events {c : Core} (h : c.events = []) : Later c := by simp [Later, h]

theorem withMove_fields (c : Core) (m : Nat) (x : DmSlot) :
    (withMove m x c).events = c.events ∧ (withMove m x c).passes = c.passes ∧ (withMove m x c).nextLoaded = c.nextLoaded ∧
      (withMove m x c).queues = c.queues ∧ (withMove m x c).waiting = c.waiting := by
  simp only [withMove, setMover]
  split <;> exact ⟨rfl, rfl, rfl, rfl, rfl⟩

theorem issueRow_dm (h : StillAt s n (dmBundle tag m x)) (hx : PassesMover (getCore s n.val) n.val m x) :
    issueRow s n (dmBundle tag m x) = .next (modCore (issued s n []) n.val (fun c => setMover { c with nextId := (getCore s n.val).nextId + 1 } m.val
      (startedMover (getCore s n.val) m.val x))) := by
  have hn := stillAt_len h
  have hclear := getCore_clear hn
  obtain ⟨-, -, -, -, hevents, hpasses, hloaded, hqueues, hwaiting, hmoves0, hmoves1, -⟩ := still_fields h.2.1
  have hx' : PassesMover (getCore (clearPorts s n.val) n.val) n.val m x := by rw [hclear]; exact ⟨hx.op, hx.rsvd, hx.csf2, hx.checks⟩
  have hissue := dm_issue (stillAt_clear h) hx'
  have hlen : n.val < (clearPorts s n.val).cores.length := stillAt_len (stillAt_clear h)
  rw [issueMove_eq, modCore_modCore _ _ _ hlen, hclear, clearPorts, modCore_modCore _ _ _ hn] at hissue
  have hcore := getCore_modCore n.val n.val (fun c => movedOn (getCore s n.val).loops (getCore s n.val).pc (withMove m.val x { c with ports := [], portsAt := s.cycles })) hn
  rw [if_pos rfl] at hcore
  obtain ⟨hwevents, hwpasses, hwloaded, hwqueues, hwwaiting⟩ := withMove_fields { getCore s n.val with ports := [], portsAt := s.cycles } m.val x
  refine (issueRow_still h hissue (by rwa [modCore_cores_length]) ?later ?passes ?loaded ?queues ?waiting).trans ?state
  case later => rw [hcore]; exact later_of_no_events (hwevents.trans hevents)
  case passes => rw [hcore]; exact hwpasses.trans hpasses
  case loaded => rw [hcore]; exact hwloaded.trans hloaded
  case queues => rw [hcore]; exact hwqueues.trans hqueues
  case waiting => rw [hcore]; exact hwwaiting.trans hwaiting
  case state =>
    rw [modCore_modCore _ _ _ hn, issued]
    simp only [modCore, setCore_setCore, getCore_setCore _ _ _ hn, if_true]
    rw [dropMoves_withMove hx hmoves0 hmoves1]
    · congr 2
      obtain rfl | rfl : m = 0 ∨ m = 1 := by omega
      all_goals simp [movedOn, withMove, startedMover, startedMove, setMover, getMover, portsNow, hevents, sreg]
    · obtain rfl | rfl : m = 0 ∨ m = 1 := by omega
      all_goals exact ⟨rfl, rfl⟩

theorem withDop_dmBundle (hop : BitVec 3) (hx : x.dop = hop) : withDop (dmBundle tag m x) m hop = dmBundle tag m x := by
  subst hx
  obtain rfl | rfl : m = 0 ∨ m = 1 := by omega
  all_goals rfl

theorem startedMover_still {c : Core} (h : Still c) (m : Nat) (x : DmSlot) :
    startedMover c m x =
      let d := moveDesc (tget 0 c.moveFile x.e.toNat).toNat
      { getMover c m with nextIssue := c.cycle + 1 + d.lines * (d.pace + 1), moves := [startedMove c x] } := by
  obtain ⟨-, -, -, -, -, -, -, -, -, hmoves0, hmoves1, -⟩ := still_fields h
  have hmoves : (getMover c m).moves = [] := by
    unfold getMover
    split
    · exact hmoves0
    · exact hmoves1
  simp only [startedMover, hmoves, List.nil_append]

/-- Settles O10: the slot's checks pass, the move starts with all its lines to request, and the core moves on. -/
theorem movesIssue : Obligations.MovesIssue := by
  intro s n m tag e xr cr
  refine ⟨fun h hchecks => ?move, fun h hchecks => ?gather⟩
  all_goals
    rw [← sreg_scalar] at hchecks
  case move =>
    have hissue := issueRow_dm h ⟨.inl rfl, rfl, h.2.1.2.2.2.2.2.1, hchecks⟩
    rw [startedMover_still h.2.1] at hissue
    simp only [startedMove, sreg_scalar] at hissue
    exact (congrArg (fun b => issueRow s n b) (withDop_dmBundle 1 rfl)).trans hissue
  case gather =>
    have hissue := issueRow_dm h ⟨.inr rfl, rfl, h.2.1.2.2.2.2.2.1, hchecks⟩
    rw [startedMover_still h.2.1] at hissue
    simp only [startedMove, sreg_scalar] at hissue
    exact (congrArg (fun b => issueRow s n b) (withDop_dmBundle 2 rfl)).trans hissue

end

end Sys2Proof.Machine
end

section
/-! SUPPORT. The commands of the instruction memory banks, and the statement on LOAD, SEAL and the plain writes of CORE.IMEM_CMD (O17). -/

namespace Sys2Proof.Machine

variable {s : State} {n : Fin 128}

/-! ### The commands, R246 -/

/-- The state of a bank of core c. -/
def bankOf (c : Core) (b : Fin 2) : BankState := if b = 0 then c.bank0 else c.bank1

/-- Core c with another state of a bank. -/
def putBank (c : Core) (b : Fin 2) (x : BankState) : Core := if b = 0 then { c with bank0 := x } else { c with bank1 := x }

theorem imemCommand_load (s : State) (n : Nat) (b : Fin 2) : imemCommand s n (2 + b.val) =
    setCore s n (if bankOf (getCore s n) b = .ready then putBank { getCore s n with imemReject := false } b .loading else { getCore s n with imemReject := true }) := by
  obtain rfl | rfl : b = 0 ∨ b = 1 := by omega
  all_goals
    simp only [imemCommand, bankOf, putBank, modCore, fld]
    simp
    split <;> rfl

theorem imemCommand_seal (s : State) (n : Nat) (b : Fin 2) : imemCommand s n (4 + b.val) =
    setCore s n (if bankOf (getCore s n) b = .loading then putBank { getCore s n with imemReject := false } b .ready else { getCore s n with imemReject := true }) := by
  obtain rfl | rfl : b = 0 ∨ b = 1 := by omega
  all_goals
    simp only [imemCommand, bankOf, putBank, modCore, fld]
    simp
    split <;> rfl

theorem imemCommand_none {v : Nat} (h : fld v 2 1 = 0) : imemCommand s n.val v = s := by
  simp [imemCommand, h]

theorem imemCommand_reserved {v : Nat} (h : fld v 2 1 = 3) : imemCommand s n.val v = setCore s n.val { getCore s n.val with imemReject := true } := by
  simp [imemCommand, h, modCore]

/-! ### A plain write of the register, R560 and R564 -/

theorem blockMap_core (n : Fin 128) : blockMap (CORE n.val) = some (0x3F8, regsCORE) := by
  revert n
  decide

/-- IMEM_CMD stands at offset 0x060 of a core's block and is write-only. -/
theorem reachedAt_imem (n : Fin 128) : reachedAt (CORE n.val) 0x060 = some 0x060 := by
  rw [reachedAt, blockMap_core]
  decide

theorem writeUnit_imem (m : Master) (s : State) (n : Fin 128) (d : RegDef) (v : Nat) : writeUnit m s (CORE n.val) 0x060 d v = imemCommand s n.val (v % 8) := by
  have hcore : CORE n.val - 0x100 = n.val := by simp only [CORE]; omega
  have hblocks : CORE n.val ≠ POOL ∧ CORE n.val ≠ COLL ∧ CORE n.val ≠ DMA ∧ CORE n.val ≠ FABRIC ∧ CORE n.val ≠ NUMERIC := by
    simp only [CORE, POOL, COLL, DMA, FABRIC, NUMERIC]
    omega
  have hcores : 0x100 ≤ CORE n.val := by simp only [CORE]; omega
  simp [writeUnit, hblocks, hcores, hcore]

theorem regWrite_imem (m : Master) (s : State) (n : Fin 128) (v : Nat) : regWrite m s (CORE n.val) 0x060 v = imemCommand s n.val (v % 2 ^ 64 % 8) := by
  have hoff : decodeOffset 0x3F8 regsCORE 0x060 = 0x060 := by decide
  have hreg : findReg regsCORE 0x060 = some ⟨0x060, 8, 1, .wo, ones 3, 0⟩ := by decide
  have hcores : ¬ CORE n.val ≤ TIMEBASE := by simp only [CORE, TIMEBASE]; omega
  simp only [regWrite, blockMap_core, hoff, hreg, if_neg hcores, writeUnit_imem]
  rfl

/-- A write of the whole register is that command, after the master's capture of the block has ended (R561). -/
theorem writeWindow_imem (m : Master) (s : State) (n : Fin 128) {data : List Byte} (hdata : data.length = 8) :
    writeWindow m s (CORE n.val) 0x060 data = imemCommand (dropCapture s m (CORE n.val)) n.val (ofBytes data % 2 ^ 64 % 8) := by
  have hport : inPort (CORE n.val) 0x060 = false := by simp [inPort]
  have hchunks : chunks 8 8 data = [data] := by
    cases data with
    | nil => simp at hdata
    | cons b bs =>
      have htake : (b :: bs).take 8 = b :: bs := List.take_of_length_le (by omega)
      have hdrop : (b :: bs).drop 8 = [] := List.drop_of_length_le (by omega)
      rw [chunks, htake, hdrop]
      · rfl
      · simp
  simp [writeWindow, reachedAt_imem, hport, hdata, hchunks, regWrite_imem]

theorem getCore_dropCapture (s : State) (m : Master) (b k : Nat) : getCore (dropCapture s m b) k = getCore s k := rfl

theorem exec_registerWrite_imem {m : Master} (hr : running s = true) (hm : m ≠ .host) {data : List Byte} (hdata : data.length = 8) :
    exec (.registerWrite m (BitVec.ofNat 10 (CORE n.val)) 0x060 data) s =
      .next (imemCommand (dropCapture s m (CORE n.val)) n.val (ofBytes data % 2 ^ 64 % 8)) := by
  have hblock : (BitVec.ofNat 10 (CORE n.val)).toNat = CORE n.val := by
    rw [BitVec.toNat_ofNat]
    exact Nat.mod_eq_of_lt (by simp only [CORE]; omega)
  have hwrite : masterWrite m s (CORE n.val) 0x060 data = writeWindow m s (CORE n.val) 0x060 data := by
    unfold masterWrite
    split
    · exact absurd rfl hm
    · rfl
  refine congrArg Host.Outcome.next ((powered_running hr _).trans ?_)
  rw [hblock]
  exact hwrite.trans (writeWindow_imem m s n hdata)

/-! ### The statement -/

/-- Settles O17: LOAD and SEAL are commands of the register, which a plain write gives too. -/
theorem bankCommands : Obligations.BankCommands := by
  intro s n b _ hr
  have hload : exec (.load n b) s = .next (imemCommand s n.val (2 + b.val)) := congrArg Host.Outcome.next (powered_running hr _)
  have hseal : exec (.seal n b) s = .next (imemCommand s n.val (4 + b.val)) := congrArg Host.Outcome.next (powered_running hr _)
  refine ⟨?loads, ?seals, fun m data hm hdata => ⟨fun h => ?none, fun h => ?reserved⟩⟩
  case loads => rw [hload, imemCommand_load]; rfl
  case seals => rw [hseal, imemCommand_seal]; rfl
  all_goals
    have hfield : fld (ofBytes data % 2 ^ 64 % 8) 2 1 = fld (ofBytes data) 2 1 := by simp only [fld]; omega
    rw [← hfield] at h
    rw [exec_registerWrite_imem hr hm hdata]
  case none => rw [imemCommand_none h]
  case reserved => rw [imemCommand_reserved h, getCore_dropCapture]

end Sys2Proof.Machine
end

section
/-! SUPPORT. Breaks: taken at a bundle, ending in a halt, and asked for from outside; the statement on the four commands (O15). -/

namespace Sys2Proof.Machine

/-! ### A break taken instead of a bundle, R260, R261 and R263 -/

section
variable {s : State} {n : Fin 128} {b : Bundle}

/-- A still core whose bundle matches its settings takes the break, and the core cycle passes. -/
theorem coreCycle_breaks {k : BreakInfo} (hn : n.val < s.cores.length) (h : Still (getCore s n.val)) (hb : breakAt (clearPorts s n.val) n.val b = some k) :
    coreCycle s n.val (.given b) =
      setCore s n.val { getCore s n.val with brk := some k, cycle := (getCore s n.val).cycle + 1, ports := [], portsAt := s.cycles } := by
  obtain ⟨-, -, -, hrequest, hevents, hpasses, hloaded, hqueues, hwaiting, hmoves0, hmoves1, -⟩ := still_fields h
  have hissue : issueFrom (clearPorts s n.val) n.val (.given b) =
      ([], modCore s n.val (fun c => { c with brk := some k, breakRequest := none, ports := [], portsAt := s.cycles })) := by
    simp only [issueFrom, (still_clear hn h).1, if_true, hb, issueBundle]
    rw [clearPorts, modCore_modCore _ _ _ hn]
  have hcore := getCore_modCore n.val n.val (fun c : Core => { c with brk := some k, breakRequest := none, ports := [], portsAt := s.cycles }) hn
  rw [if_pos rfl] at hcore
  rw [coreCycle_calm hn h hissue (by rwa [modCore_cores_length]), modCore_modCore _ _ _ hn]
  · simp only [modCore, cycleEnd]
    congr 1
    simp [portsNow, hrequest]
  · rw [hcore]
    exact ⟨by simp [Later, hevents], hpasses, hloaded, hqueues, hwaiting, hmoves0, hmoves1⟩

theorem breakMatch_clear (hn : n.val < s.cores.length) : breakMatch (clearPorts s n.val) n.val b = breakMatch s n.val b := by
  simp only [breakMatch, getCore_clear hn]
  rfl

/-- The break that a still core takes on count, or on tag alone (R260). -/
theorem breakAt_match (hn : n.val < s.cores.length) (h : Still (getCore s n.val)) (he : (getCore s n.val).breakExempt = false)
    (hm : (breakMatch s n.val b).1 = true ∨ (breakMatch s n.val b).2 = true) :
    breakAt (clearPorts s n.val) n.val b =
      some ⟨(breakMatch s n.val b).2, (breakMatch s n.val b).1, 0, n.val, (getCore s n.val).bundles, (getCore s n.val).pc⟩ := by
  obtain ⟨-, -, -, hrequest, -, -, -, -, -, -, -, -, -, hcsf, -⟩ := still_fields (still_clear hn h)
  have hclear := getCore_clear hn
  have hexempt : (getCore (clearPorts s n.val) n.val).breakExempt = false := by rw [hclear]; exact he
  have hbundles : (getCore (clearPorts s n.val) n.val).bundles = (getCore s n.val).bundles := by rw [hclear]
  have hpc : (getCore (clearPorts s n.val) n.val).pc = (getCore s n.val).pc := by rw [hclear]
  simp only [breakAt, hcsf, hexempt, breakMatch_clear hn, hrequest, hbundles, hpc, Bool.false_eq_true, if_false]
  by_cases hcount : (breakMatch s n.val b).1 = true
  · simp [hcount]
  · have htag := hm.resolve_left hcount
    simp [hcount, htag]

theorem exec_break_taken (hn : n.val < s.cores.length) (h : Still (getCore s n.val)) (he : (getCore s n.val).breakExempt = false) {wanted : Bool × Bool → Bool}
    (hw : wanted (breakMatch s n.val b) = true) (hm : (breakMatch s n.val b).1 = true ∨ (breakMatch s n.val b).2 = true) :
    breakRow s n b wanted = setCore s n.val
      { getCore s n.val with
        brk := some ⟨(breakMatch s n.val b).2, (breakMatch s n.val b).1, 0, n.val, (getCore s n.val).bundles, (getCore s n.val).pc⟩,
        cycle := (getCore s n.val).cycle + 1, ports := [], portsAt := s.cycles } := by
  rw [← coreCycle_breaks hn h (breakAt_match hn h he hm)]
  simp [breakRow, h.1, (still_fields h).2.2.2.2.2.2.2.2.2.2.2.2.2.1, he, hw]

end

/-! ### The halt that a break ends in, R256, R261 and R263 -/

section
variable {s : State} {n : Fin 128} {k : BreakInfo}

/-- A cause beside the core's own tag match. -/
def otherCause (k : BreakInfo) : Prop := k.countHit = true ∨ k.source ≠ 0

theorem breakHaltInfo_eq (k : BreakInfo) : (breakHaltInfo k).1.pc = k.pc ∧ ((breakHaltInfo k).1.reason = 0x61 ↔ k.tagHit = true ∧ ¬ otherCause k) ∧
    ((breakHaltInfo k).1.reason = 0x60 ↔ ¬(k.tagHit = true ∧ ¬ otherCause k)) ∧ ((breakHaltInfo k).2 = true ↔ k.tagHit = true ∧ otherCause k) := by
  have hother : (k.countHit || k.source != 0) = true ↔ otherCause k := by simp [otherCause]
  by_cases ho : otherCause k
  · simp only [breakHaltInfo, hother.mpr ho, ho]
    cases k.tagHit <;> simp
  · have hnone : (k.countHit || k.source != 0) = false := by rwa [← Bool.not_eq_true, hother]
    simp only [breakHaltInfo, hnone, ho]
    cases k.tagHit <;> simp

theorem exec_breakHalt (hrun : (getCore s n.val).run = .running ∨ (getCore s n.val).run = .atBarrier)
    (hbrk : (getCore s n.val).brk = some k) (hq : quiescent (getCore s n.val) = true) :
    exec (.breakHalt n) s = .next (haltCore s n.val (breakHaltInfo k).1 (breakHaltInfo k).2 true) := by
  refine congrArg Host.Outcome.next ?_
  simp only [breakHalt, hbrk]
  exact if_pos ⟨hrun, hq⟩

theorem passes_of_quiescent {c : Core} (h : quiescent c = true) : c.passes = [] := by
  simp only [quiescent, Bool.and_eq_true, List.isEmpty_iff] at h
  exact h.1.1.1.1.1.2

end

/-! ### Breaks asked for from outside, R264, R266 and R268 -/

section
variable {s : State} {n : Nat}

/-- A broadcast or request is accepted by core n: its acceptance bit is set, it runs a CSF-2 launch, and neither takes nor is asked for a break. -/
def acceptsBreak (s : State) (n : Nat) (c : Core) : Prop :=
  bit (getReg s (CORE n) 0x0D0) 4 = true ∧ isCsf1 c = false ∧ c.run = .running ∧ c.brk = none ∧ c.breakRequest = none

theorem acceptBreak_accepted (h : acceptsBreak s n (getCore s n)) (source : BitVec 2) (src : Nat) :
    acceptBreak s n source src = setCore s n { getCore s n with breakRequest := some (source, src, s.cycles) } := by
  obtain ⟨hbit, hcsf, hrun, hbrk, hrequest⟩ := h
  simp [acceptBreak, hbit, hcsf, hrun, hbrk, hrequest, modCore]

/-- A request leaves a core as it is that does not accept it and does not wait at a barrier. -/
theorem acceptBreak_refused (h : ¬ acceptsBreak s n (getCore s n)) (hrun : (getCore s n).run ≠ .atBarrier) : acceptBreak s n 2 0 = s := by
  simp only [acceptBreak]
  by_cases hset : (bit (getReg s (CORE n) 0x0D0) 4 && !isCsf1 (getCore s n)) = true
  · rw [if_pos hset, if_neg fun ⟨_, he, _⟩ => absurd he (by decide)]
    obtain ⟨hbit, hcsf⟩ := Bool.and_eq_true_iff.mp hset
    cases hr : (getCore s n).run with
    | atBarrier => exact absurd hr hrun
    | idle | halted => rfl
    | running =>
      cases hbrk : (getCore s n).brk with
      | some k => rfl
      | none =>
        cases hrequest : (getCore s n).breakRequest with
        | none => exact absurd ⟨hbit, by simpa using hcsf, hr, hbrk, hrequest⟩ h
        | some old =>
          have hold : earlierSource s.cycles old 2 0 = old := if_neg fun ⟨_, he, _⟩ => absurd he (by decide)
          simp only [Option.isSome_none, Bool.false_eq_true, if_false]
          refine modCore_id n _ ?_
          simp only [hold, hrequest]
          rw [← hrequest]
  · exact if_neg hset

/-- What a request leaves, once it has reached the cores of a list. -/
structure RequestReached (s : State) (l : List Nat) (t : State) : Prop where
  memory : memoryKept s t
  units : unitsKept s t
  asked : ∀ k ∈ l, acceptsBreak s k (getCore s k) → getCore t k = { getCore s k with breakRequest := some (2, 0, s.cycles) }
  kept : ∀ k, k ∉ l ∨ ¬ acceptsBreak s k (getCore s k) → getCore t k = getCore s k

theorem foldl_acceptBreak {l : List Nat} (hl : l.Nodup) (s : State) (hlen : ∀ n ∈ l, n < s.cores.length) (hrun : ∀ n ∈ l, (getCore s n).run ≠ .atBarrier) :
    RequestReached s l (l.foldl (fun s n => acceptBreak s n 2 0) s) := by
  induction l generalizing s with
  | nil => exact ⟨⟨rfl, rfl, rfl⟩, ⟨rfl, rfl, rfl, rfl, rfl, rfl, rfl, rfl, rfl, rfl, rfl, rfl, rfl⟩, fun k hk => absurd hk List.not_mem_nil, fun k _ => rfl⟩
  | cons n l ih =>
    obtain ⟨hnl, hl⟩ := List.nodup_cons.mp hl
    have hn := hlen n List.mem_cons_self
    rw [List.foldl_cons]
    by_cases ha : acceptsBreak s n (getCore s n)
    · rw [acceptBreak_accepted ha]
      have hget (m : Nat) := getCore_setCore (s := s) n m { getCore s n with breakRequest := some (2, 0, s.cycles) } hn
      have hother {m : Nat} (hm : m ≠ n) := (hget m).trans (if_neg hm)
      have hne {m : Nat} (hm : m ∈ l) : m ≠ n := fun he => hnl (he ▸ hm)
      obtain ⟨hmem, hunits, hasked, hkept⟩ := ih hl (setCore s n { getCore s n with breakRequest := some (2, 0, s.cycles) })
        (fun m hm => by rw [setCore_cores_length]; exact hlen m (List.mem_cons_of_mem _ hm))
        (fun m hm => by rw [hother (hne hm)]; exact hrun m (List.mem_cons_of_mem _ hm))
      refine ⟨hmem, unitsKept_trans (unitsKept_modCore s n fun c => { c with breakRequest := some (2, 0, s.cycles) }) hunits, fun k hk hacc => ?_, fun k hk => ?_⟩
      · by_cases hkn : k = n
        · subst hkn
          rw [hkept k (.inl hnl), hget, if_pos rfl]
        · rw [hasked k (List.mem_of_ne_of_mem hkn hk) (by rw [hother hkn]; exact hacc), hother hkn]
          rfl
      · have hkn : k ≠ n := by
          rintro rfl
          exact hk.elim (fun h => h List.mem_cons_self) (fun h => h ha)
        rw [hkept k (hk.imp (fun h hm => h (List.mem_cons_of_mem _ hm)) (fun h => by rw [hother hkn]; exact h)), hother hkn]
    · rw [acceptBreak_refused ha (hrun n List.mem_cons_self)]
      obtain ⟨hmem, hunits, hasked, hkept⟩ := ih hl s (fun m hm => hlen m (List.mem_cons_of_mem _ hm)) (fun m hm => hrun m (List.mem_cons_of_mem _ hm))
      refine ⟨hmem, hunits, fun k hk hacc => ?_, fun k hk => hkept k ?_⟩
      · rcases List.mem_cons.mp hk with rfl | hk
        · exact absurd hacc ha
        · exact hasked k hk hacc
      · exact hk.imp (fun h hm => h (List.mem_cons_of_mem _ hm)) id

theorem exec_breakBroadcast {src n : Fin 128} (hmem : (src.val, n.val) ∈ s.broadcasts) (ha : acceptsBreak s n.val (getCore s n.val)) :
    exec (.breakBroadcast src n) s = .next (setCore { s with broadcasts := s.broadcasts.erase (src.val, n.val) } n.val
      { getCore s n.val with breakRequest := some (1, src.val, s.cycles) }) := by
  refine congrArg Host.Outcome.next ?_
  rw [if_pos (List.contains_iff_mem.mpr hmem)]
  exact acceptBreak_accepted (s := { s with broadcasts := s.broadcasts.erase (src.val, n.val) }) ha 1 src.val

theorem exec_breakRequest {v : Word64} (hrun : running s = true) (hv : bit v.toNat 0 = true) :
    exec (.breakRequest v) s = .next ((List.range 128).foldl (fun s n => acceptBreak s n 2 0) s) := by
  refine congrArg Host.Outcome.next ?_
  rw [powered_running hrun, requestBreak, if_pos hv]

end

/-- Settles O15: a core that matches takes its break in place of the bundle; a drained break halts the core with the reason of its cause; a request from outside is noted by each
core that accepts it, in the order of the cores, none of which another's answer reaches. -/
theorem breaks : Obligations.Breaks := by
  refine ⟨fun s n b hlen hs he => ?_, fun s n k hlen hrun hbrk hq => ?_, fun s hlen => ⟨fun src n hmem ha => ?_, fun v hrun hv hno => ?_⟩⟩
  · have hn : n.val < s.cores.length := by rw [hlen]; exact n.isLt
    refine ⟨fun hcount => congrArg Host.Outcome.next (exec_break_taken hn hs he hcount (.inl hcount)), fun hcount htag => ?_⟩
    exact congrArg Host.Outcome.next (exec_break_taken (wanted := fun m => m.2 && !m.1) hn hs he (by rw [hcount, htag]; rfl) (.inr htag))
  · have hn : n.val < s.cores.length := by rw [hlen]; exact n.isLt
    obtain ⟨hpc, htag, hother, hmultiple⟩ := breakHaltInfo_eq k
    have hcore := (getCore_haltCore (h := (breakHaltInfo k).1) (multiple := (breakHaltInfo k).2) (isBreak := true) hn n.val).trans (if_pos rfl)
    refine ⟨_, exec_breakHalt hrun hbrk hq, ?_⟩
    rw [hcore]
    exact ⟨rfl, hpc, htag, hother, hmultiple, rfl, rfl, Bool.and_true _, rfl, fun m hm => (getCore_haltCore hn m).trans (if_neg hm), haltCore_memory hn,
      haltCore_units hn (passes_of_quiescent hq)⟩
  · have hn : n.val < s.cores.length := by rw [hlen]; exact n.isLt
    have hget (m : Nat) := getCore_setCore (s := { s with broadcasts := s.broadcasts.erase (src.val, n.val) }) n.val m
      { getCore s n.val with breakRequest := some (1, src.val, s.cycles) } hn
    exact ⟨_, exec_breakBroadcast hmem ha, rfl, (hget n.val).trans (if_pos rfl), fun m hm => (hget m).trans (if_neg hm), ⟨rfl, rfl, rfl⟩,
      unitsKept_modCore { s with broadcasts := s.broadcasts.erase (src.val, n.val) } n.val fun c => { c with breakRequest := some (1, src.val, s.cycles) }⟩
  · obtain ⟨hmem, hunits, hasked, hkept⟩ := foldl_acceptBreak List.nodup_range s (fun n hn => hlen ▸ List.mem_range.mp hn)
      (fun n hn => hno ⟨n, List.mem_range.mp hn⟩)
    exact ⟨_, exec_breakRequest hrun hv, hmem, hunits, fun n => ⟨hasked n.val (List.mem_range.mpr n.isLt), fun h => hkept n.val (.inr h)⟩⟩

end Sys2Proof.Machine
end

section
/-! SUPPORT. A launch at a core: its start, the record that cannot run, and its boundary; the statement on the two commands (O19). -/

namespace Sys2Proof.Machine

section
variable {s : State} {n : Nat}

/-! ### The start of a launch, R249 and R250 -/

/-- Core n as it starts its oldest record at time t, before it takes the bank: what R249 and R250 clear and set. -/
def launchStarted (s : State) (n : Nat) (id : Nat) (r : BitVec 512) (rest : List (Nat × BitVec 512)) (t : Nat) (c : Core) : Core :=
  let l : CoreLaunch := ⟨id, r, recordCsf1 r, t⟩
  { c with
    run := .running, launch := some l, ordinal := BitVec.ofNat 48 (recOrdinal l), deliveries := rest, pc := recEntry l, cycle := 0, bundles := 0, ended := false,
    sregs := startSregs n (if recordCsf1 r then fld r.toNat 383 320 else fld r.toNat 255 192) (fld r.toNat 319 256),
    fileErrors := c.fileErrors.filter (fun e => e.1 != 1 && e.1 != 6),
    wf := false, loops := [], mailboxes := [], generators := startGenerators (if recordCsf1 r then 0 else fld r.toNat 383 320) n,
    sentryGen := BitVec.ofNat 32 (sentrySeed s n (recOrdinal l)), productOps := 0,
    lossSum := 0, lossComp := 0, lossRows := 0, lossNonfinite := 0, halt := ⟨0, 0, 0, 0⟩, haltMultiple := false,
    matFree := 0, lastTile := none, matOps := [], vecFree := 0, accFree := 0, events := [],
    mover0 := stopMover false { c.mover0 with nextIssue := 0 }, mover1 := stopMover false { c.mover1 with nextIssue := 0 },
    brk := none, breakRequest := none, breakExempt := false, barrierCount := 0, guardUncorr := 0, guardCorr := 0, wrotePoison := false, resumed := false }

/-- A good record takes the bank that it names; another leaves the banks. -/
def withBank (r : BitVec 512) (c : Core) : Core :=
  if recordGood r then takeBank c (recBank ⟨0, r, recordCsf1 r, 0⟩) else c

theorem takeBank_frame (c : Core) (b : Nat) : ∃ x y ok, takeBank c b = { c with bank0 := x, bank1 := y, bankOk := ok } := by
  simp only [takeBank]
  generalize (if b = 0 then c.bank0 else c.bank1) = named
  cases named with
  | active => exact ⟨c.bank0, c.bank1, true, rfl⟩
  | loading => exact ⟨c.bank0, c.bank1, false, rfl⟩
  | ready =>
    by_cases hb : b = 0
    · exact ⟨_, _, true, if_pos hb⟩
    · exact ⟨_, _, true, if_neg hb⟩

theorem withBank_frame (r : BitVec 512) (c : Core) : ∃ x y ok, withBank r c = { c with bank0 := x, bank1 := y, bankOk := ok } := by
  unfold withBank
  split
  · exact takeBank_frame c _
  · exact ⟨c.bank0, c.bank1, c.bankOk, rfl⟩

theorem startLaunch_eq {id : Nat} {r : BitVec 512} {rest : List (Nat × BitVec 512)} (hrun : (getCore s n).run = .idle) (hdel : (getCore s n).deliveries = (id, r) :: rest) :
    let v := readTime s (CORE n)
    let u := modCore v.2 n (fun c => withBank r (launchStarted v.2 n id r rest v.1 c))
    startLaunch s n = if recordGood r then u else haltCore u n ⟨0x70, (getCore u n).pc, 6, BitVec.ofNat 64 (r.toNat % 256)⟩ false false := by
  simp only [startLaunch, hrun, hdel]
  rfl

/-- The state in which core n has started its oldest record, the bank taken where the record is good. -/
def launchBegun (s : State) (n : Nat) (id : Nat) (r : BitVec 512) (rest : List (Nat × BitVec 512)) : State :=
  modCore (readTime s (CORE n)).2 n (fun c => withBank r (launchStarted (readTime s (CORE n)).2 n id r rest (readTime s (CORE n)).1 c))

theorem getCore_launchBegun (hn : n < s.cores.length) {id : Nat} {r : BitVec 512} {rest : List (Nat × BitVec 512)} (m : Nat) :
    ∃ x y ok, getCore (launchBegun s n id r rest) m = if m = n then
      { launchStarted (readTime s (CORE n)).2 n id r rest (readTime s (CORE n)).1 (getCore s n) with bank0 := x, bank1 := y, bankOk := ok } else getCore s m := by
  obtain ⟨x, y, ok, h⟩ := withBank_frame r (launchStarted (readTime s (CORE n)).2 n id r rest (readTime s (CORE n)).1 (getCore s n))
  exact ⟨x, y, ok, (getCore_modCore (s := (readTime s (CORE n)).2) n m _ hn).trans (if_congr Iff.rfl h rfl)⟩

theorem launchBegun_memory {id : Nat} {r : BitVec 512} {rest : List (Nat × BitVec 512)} : memoryKept s (launchBegun s n id r rest) := ⟨rfl, rfl, rfl⟩

theorem launchBegun_units {id : Nat} {r : BitVec 512} {rest : List (Nat × BitVec 512)} : unitsKept s (launchBegun s n id r rest) :=
  ⟨rfl, rfl, rfl, rfl, rfl, rfl, rfl, rfl, rfl, rfl, rfl, rfl, rfl⟩

/-- The registers of a core that starts: S1 and S2 hold the arguments, S3 the core number, and the others zero (R250). -/
theorem tget_startSregs (n arg0 arg1 j : Nat) : tget 0 (startSregs n arg0 arg1) j =
    if j = 3 then BitVec.ofNat 64 n else if j = 2 then BitVec.ofNat 64 arg1 else if j = 1 then BitVec.ofNat 64 arg0 else 0 := by
  have h1 := twf_tset (d := (0 : Word64)) (t := []) rfl 1 (BitVec.ofNat 64 arg0)
  rw [startSregs, tget_tset (twf_tset h1 2 _), tget_tset h1, tget_tset rfl]
  rfl

theorem tget_startSregs_scalar (n arg0 arg1 : Nat) (i : BitVec 5) : (if i = 0 then 0 else tget 0 (startSregs n arg0 arg1) i.toNat) =
    if i = 1 then BitVec.ofNat 64 arg0 else if i = 2 then BitVec.ofNat 64 arg1 else if i = 3 then BitVec.ofNat 64 n else 0 := by
  have h1 : i.toNat = 1 ↔ i = 1 := BitVec.toNat_inj (y := 1)
  have h2 : i.toNat = 2 ↔ i = 2 := BitVec.toNat_inj (y := 2)
  have h3 : i.toNat = 3 ↔ i = 3 := BitVec.toNat_inj (y := 3)
  rw [tget_startSregs, if_congr h3 rfl (if_congr h2 rfl (if_congr h1 rfl rfl))]
  by_cases hi0 : i = 0
  · subst hi0; rfl
  by_cases hi1 : i = 1
  · subst hi1; rfl
  by_cases hi2 : i = 2
  · subst hi2; rfl
  rw [if_neg hi0, if_neg hi1, if_neg hi2, if_neg hi2, if_neg hi1]

/-! ### The boundary of a launch, R251 -/

theorem coreDone_cores (s : State) (id n : Nat) : (coreDone s id n).cores = s.cores := by
  simp only [coreDone]
  split
  · exact endLaunch_cores _ id false
  · rfl

/-- A quiescent core that has ended is idle after its boundary, and otherwise as before. -/
theorem getCore_reachBoundary (hn : n < s.cores.length) {l : CoreLaunch} (hrun : (getCore s n).run = .running) (hl : (getCore s n).launch = some l)
    (hended : (getCore s n).ended = true) (hq : quiescent (getCore s n) = true) (m : Nat) :
    getCore (reachBoundary s n) m = if m = n then { getCore s n with run := .idle, ended := false } else getCore s m := by
  have hcores := (writeLaunchRecord_frame s n (if (getCore s n).wrotePoison then 3 else 0) 0 (getCore s n).bundles 0).1
  have hkept (k : Nat) := getCore_of_cores hcores k
  have hreach : reachBoundary s n = coreDone (modCore (writeLaunchRecord s n (if (getCore s n).wrotePoison then 3 else 0) 0 (getCore s n).bundles 0) n
      (fun c => { c with run := .idle, ended := false })) l.id n := by
    simp only [reachBoundary, hl, hrun, hended, hq, decide_true, Bool.and_true, if_true]
  rw [hreach, getCore_of_cores (coreDone_cores _ l.id n), getCore_modCore n m _ (by rw [hcores]; exact hn), hkept, hkept]

end

/-- Settles O19: the start writes the core that R249 and R250 describe, which a record that cannot run then halts; the boundary writes the record and leaves the core idle. -/
theorem launchesRun : Obligations.LaunchesRun := by
  refine ⟨fun s n id r rest hlen hrun hdel => ?_, fun s n l hlen hrun hl hended hq => ?_⟩
  · have hn : n.val < s.cores.length := by rw [hlen]; exact n.isLt
    have hstart : startLaunch s n.val = if recordGood r then launchBegun s n.val id r rest else
      haltCore (launchBegun s n.val id r rest) n.val ⟨0x70, (getCore (launchBegun s n.val id r rest) n.val).pc, 6, BitVec.ofNat 64 (r.toNat % 256)⟩ false false :=
      startLaunch_eq hrun hdel
    have hothers : othersKept s (launchBegun s n.val id r rest) n.val := fun m hm => by
      obtain ⟨x, y, ok, h⟩ := getCore_launchBegun hn (id := id) (r := r) (rest := rest) m
      rw [h, if_neg hm]
    obtain ⟨x, y, ok, hcore⟩ := getCore_launchBegun hn (id := id) (r := r) (rest := rest) n.val
    rw [if_pos rfl] at hcore
    refine ⟨fun hgood => ⟨launchBegun s n.val id r rest, congrArg Host.Outcome.next (hstart.trans (if_pos hgood)), ?_⟩, fun hbad => ?_⟩
    · simp only [scalar, hcore]
      exact ⟨rfl, rfl, rfl, rfl, rfl, rfl, fun i => tget_startSregs_scalar n.val _ _ i, rfl, hothers, launchBegun_memory, launchBegun_units⟩
    · have hlen' : n.val < (launchBegun s n.val id r rest).cores.length := by
        rw [launchBegun, modCore_cores_length]; exact hn
      have hhalt := getCore_haltCore (h := ⟨0x70, (getCore (launchBegun s n.val id r rest) n.val).pc, 6, BitVec.ofNat 64 (r.toNat % 256)⟩) (multiple := false) (isBreak := false) hlen'
      refine ⟨_, congrArg Host.Outcome.next (hstart.trans (if_neg (by rw [hbad]; decide))), ?_⟩
      rw [hhalt n.val, if_pos rfl]
      refine ⟨rfl, rfl, ?_, fun m hm => ?_, launchBegun_memory.trans (haltCore_memory hlen')⟩
      · rw [coreHalted, hcore]
        rfl
      · rw [hhalt m, if_neg hm, hothers m hm]
  · have hn : n.val < s.cores.length := by rw [hlen]; exact n.isLt
    have hget := getCore_reachBoundary hn hrun hl hended hq
    refine ⟨reachBoundary s n.val, rfl, ?_⟩
    rw [hget n.val, if_pos rfl]
    exact ⟨rfl, rfl, rfl, rfl, rfl, rfl, fun m hm => (hget m).trans (if_neg hm)⟩

end Sys2Proof.Machine
end

section
/-! SUPPORT. A forage list: the requests that reach the unit, and the answers that reach a core; the statement on the two commands (O21). -/

namespace Sys2Proof.Machine

section
variable {s : State} {l : Nat} {f : ForageList}

theorem getList_setList (h : l < s.forage.length) (m : Nat) (f : ForageList) : getList (setList s l f) m = if m = l then f else getList s m := by
  simp only [getList, setList]
  split
  · next hm => subst hm; simp [h]
  · next hm => rw [List.getElem?_set_ne (Ne.symm hm)]

theorem setList_setList (f g : ForageList) : setList (setList s l f) l g = setList s l g := by
  simp only [setList, List.set_set]

/-! ### The held requests of a list, R239 -/

/-- With no request held, the unit answers none. -/
theorem serveHeld_none (h : f.held = []) (fuel : Nat) : serveHeld fuel f = f := by
  cases fuel with
  | zero => rfl
  | succ fuel => simp only [serveHeld, h]

theorem takeAppend_held (f : ForageList) (d : BitVec 256) : (takeAppend f d).held = f.held := by
  simp only [takeAppend]
  split <;> rfl

theorem admitAppend_held (f : ForageList) : (admitAppend f).held = f.held := by
  unfold admitAppend
  split
  · split
    · exact takeAppend_held _ _
    · rfl
  · rfl

variable {n : Nat}

/-- The only held request takes the oldest descriptor of a list that is not IDLE, after which a held append enters. -/
theorem serveHeld_descriptor {d : BitVec 256} {ds : List (BitVec 256)} (h : f.held = [n]) (hstate : f.state ≠ 0) (hd : f.descs = d :: ds) :
    serveHeld 2 f = admitAppend { f with held := [], descs := ds, taken := f.taken + 1, answers := f.answers ++ [(n, d)] } := by
  rw [serveHeld]
  simp only [h, hd, hstate, if_false]
  exact serveHeld_none (admitAppend_held _) 1

theorem serveHeld_done (h : f.held = [n]) (hstate : f.state = 2) (hd : f.descs = []) :
    serveHeld 2 f = { f with held := [], answers := f.answers ++ [(n, 2)] } := by
  rw [serveHeld]
  simp only [h, hd, hstate, if_true]
  exact serveHeld_none rfl 1

theorem serveHeld_holds (h : f.held = [n]) (hstate : f.state ≠ 2) (hd : f.descs = []) : serveHeld 2 f = f := by
  rw [serveHeld]
  simp only [h, hd, hstate, if_false]

/-! ### A request that reaches the unit, R237 and R239 -/

/-- A list with the request of core n held, which was on its way. -/
def heldRequest (n : Nat) (f : ForageList) : ForageList := { f with requests := f.requests.erase n, held := [n] }

/-- A request that reaches the unit with none held: the list that serves it, and the appends that enter by it counted. -/
theorem arriveRequest_eq (hl : l < s.forage.length) (hn : n ∈ (getList s l).requests) (hheld : (getList s l).held = []) :
    let g := serveHeld 2 (heldRequest n (getList s l))
    arriveRequest s n l = countN (setList s l g) EXCH 0x060 32 (g.appended - (getList s l).appended) := by
  have hset : arriveRequest s n l = serveList (setList s l (heldRequest n (getList s l))) l := by
    simp only [arriveRequest, List.contains_iff_mem.mpr hn, if_true, hheld]
    rfl
  have hget := (getList_setList hl l (heldRequest n (getList s l))).trans (if_pos rfl)
  rw [hset, serveList, hget, setList_setList]
  rfl

/-- Where no append enters, the request changes its list alone. -/
theorem exec_forageRequest {n : Fin 128} {l : Fin 4} {g : ForageList} (hl : l.val < s.forage.length) (hn : n.val ∈ (getList s l.val).requests) (hheld : (getList s l.val).held = [])
    (hg : serveHeld 2 (heldRequest n.val (getList s l.val)) = g) (happended : g.appended = (getList s l.val).appended) :
    exec (.forageRequest n l) s = .next (setList s l.val g) := by
  refine congrArg Host.Outcome.next ((arriveRequest_eq hl hn hheld).trans ?_)
  simp only [hg, happended, Nat.sub_self]
  rfl

theorem countN_frame (s : State) (b off w k : Nat) :
    (countN s b off w k).cores = s.cores ∧ memoryKept s (countN s b off w k) ∧ (countN s b off w k).forage = s.forage := by
  unfold countN
  split <;> exact ⟨rfl, ⟨rfl, rfl, rfl⟩, rfl⟩

/-! ### An answer that reaches a core, R238 -/

/-- The first answer of a list, which is core n's, fills its mailbox. -/
theorem landAnswer_eq {a : BitVec 256} {rest : List (Nat × BitVec 256)} (h : (getList s l).answers = (n, a) :: rest) :
    landAnswer s n l = modCore (setList s l { getList s l with answers := rest }) n (fun c => setMailbox (mendFile c 6 l) l (.full a)) := by
  simp [landAnswer, h]

end

/-- Settles O21: the request is the only held one, which the unit answers or keeps held; the first answer of the list fills the mailbox. -/
theorem forageAnswers : Obligations.ForageAnswers := by
  intro s n l hlen hforage
  have hl : l.val < s.forage.length := by rw [hforage]; exact l.isLt
  have hn : n.val < s.cores.length := by rw [hlen]; exact n.isLt
  refine ⟨fun d ds hreq hheld hstate hd hw => ?_, fun d ds w ws hreq hheld hstate hd hroom hw htotal => ?_, fun hreq hheld hstate hd => ?_,
    fun hreq hheld hstate hd => ?_, fun a rest ha hwf => ?_⟩
  · refine exec_forageRequest hl hreq hheld ((serveHeld_descriptor (f := heldRequest n.val (getList s l.val)) rfl hstate hd).trans ?_) rfl
    simp only [admitAppend, heldRequest, hw, hheld]
  · have hserve : serveHeld 2 (heldRequest n.val (getList s l.val)) = { getList s l.val with
        requests := (getList s l.val).requests.erase n.val, descs := ds ++ [w], waiting := ws, taken := (getList s l.val).taken + 1,
        appended := (getList s l.val).appended + 1, answers := (getList s l.val).answers ++ [(n.val, d)] } := by
      rw [serveHeld_descriptor (f := heldRequest n.val (getList s l.val)) rfl hstate hd]
      simp [admitAppend, heldRequest, hw, hheld, takeAppend, listRoom, hroom, htotal]
    obtain ⟨hcores, hmem, hlists⟩ := countN_frame (setList s l.val (serveHeld 2 (heldRequest n.val (getList s l.val)))) EXCH 0x060 32
      ((serveHeld 2 (heldRequest n.val (getList s l.val))).appended - (getList s l.val).appended)
    refine ⟨_, congrArg Host.Outcome.next (arriveRequest_eq hl hreq hheld), hcores, hmem, ?_⟩
    rw [getList, hlists, ← hserve]
    exact (getList_setList hl l.val _).trans (if_pos rfl)
  · refine exec_forageRequest hl hreq hheld ((serveHeld_done (f := heldRequest n.val (getList s l.val)) rfl hstate hd).trans ?_) rfl
    simp only [heldRequest, hheld]
  · exact exec_forageRequest hl hreq hheld (serveHeld_holds rfl hstate hd) rfl
  · have hget (m : Nat) := getCore_modCore (s := setList s l.val { getList s l.val with answers := rest }) n.val m
      (fun c => setMailbox (mendFile c 6 l.val) l.val (.full a)) hn
    refine ⟨_, congrArg Host.Outcome.next (landAnswer_eq ha), ?_, (getList_setList hl l.val _).trans (if_pos rfl) ▸ rfl, fun m hm => (hget m).trans (if_neg hm),
      ⟨rfl, rfl, rfl⟩, unitsKept_modCore ..⟩
    rw [hget n.val, if_pos rfl]
    exact tget_tset_eq hwf

end Sys2Proof.Machine
end

section
/-! SUPPORT. The release of a hive barrier and its time-out; the statement on the two commands (O20). -/

namespace Sys2Proof.Machine

/-- Memory, barriers and the DMA channels are as before. -/
def barrierAside (s t : State) : Prop := memoryKept s t ∧ t.barriers = s.barriers ∧ t.dma = s.dma

theorem barrierAside.refl (s : State) : barrierAside s s := ⟨⟨rfl, rfl, rfl⟩, rfl, rfl⟩

theorem barrierAside.trans {s t u : State} (h : barrierAside s t) (g : barrierAside t u) : barrierAside s u :=
  ⟨h.1.trans g.1, g.2.1.trans h.2.1, g.2.2.trans h.2.2⟩

/-! ### Every core of a list changed alike -/

theorem getCore_modCore_in {s : State} {m : Nat} (hm : m < s.cores.length) (n : Nat) (f : Core → Core) :
    getCore (modCore s n f) m = if m = n then f (getCore s n) else getCore s m := by
  by_cases hn : n < s.cores.length
  · exact getCore_modCore n m f hn
  · have hne : m ≠ n := by omega
    rw [if_neg hne]
    simp only [getCore, modCore, setCore, List.getElem?_set_ne (Ne.symm hne)]

theorem foldl_modCore_aside (f : Core → Core) (l : List Nat) (s : State) :
    let t := l.foldl (fun s n => modCore s n f) s
    barrierAside s t ∧ t.forage = s.forage ∧ t.cores.length = s.cores.length := by
  dsimp only
  have hlen : (l.foldl (fun s n => modCore s n f) s).cores.length = s.cores.length := by
    induction l generalizing s with
    | nil => rfl
    | cons n l ih => rw [List.foldl_cons, ih, modCore_cores_length]
  rw [foldl_modCore_frame f l s]
  exact ⟨⟨⟨rfl, rfl, rfl⟩, rfl, rfl⟩, rfl, hlen⟩

/-- A list of distinct numbers, of which only those of cores matter. -/
theorem getCore_foldl_modCore_in (f : Core → Core) {l : List Nat} (hl : l.Nodup) (s : State) {m : Nat} (hm : m < s.cores.length) :
    getCore (l.foldl (fun s n => modCore s n f) s) m = if m ∈ l then f (getCore s m) else getCore s m := by
  induction l generalizing s with
  | nil => rfl
  | cons n l ih =>
    obtain ⟨hn, hl⟩ := List.nodup_cons.mp hl
    rw [List.foldl_cons, ih hl _ (by rwa [modCore_cores_length]), getCore_modCore_in hm]
    by_cases hmn : m = n
    · simp [hmn, hn]
    · simp [hmn]

theorem getCore_out {s : State} {m : Nat} (hm : s.cores.length ≤ m) : getCore s m = {} := by
  simp only [getCore, List.getElem?_eq_none hm, Option.getD_none]

/-! ### The cores of a list that a test selects halt -/

theorem barrierAside_of_haltAside {s t : State} (h : reportAside (launchAside t) = reportAside (launchAside s)) : barrierAside s t ∧ t.forage = s.forage :=
  ⟨⟨memoryKept_of_haltAside h, (congrArg State.barriers h :), (congrArg State.dma h :)⟩, (congrArg State.forage h :)⟩

theorem haltCore_cores_length {s : State} {n : Nat} (hn : n < s.cores.length) (h : HaltInfo) (multiple isBreak : Bool) :
    (haltCore s n h multiple isBreak).cores.length = s.cores.length := by rw [haltCore_cores hn, modCore_cores_length]

/-- Core n halts where a test of it says so, with the reason that g makes of it. -/
def haltIf (p : Core → Bool) (g : Core → HaltInfo) (s : State) (n : Nat) : State :=
  if p (getCore s n) then haltCore s n (g (getCore s n)) false false else s

/-- A core after haltIf. -/
def haltedIf (p : Core → Bool) (g : Core → HaltInfo) (c : Core) : Core := if p c then coreHalted (g c) false false c else c

section
variable {p : Core → Bool} {g : Core → HaltInfo}

theorem haltIf_frame {s : State} {n : Nat} (hp : p (getCore s n) = true → n < s.cores.length) :
    (barrierAside s (haltIf p g s n) ∧ (haltIf p g s n).forage = s.forage) ∧ (haltIf p g s n).cores.length = s.cores.length := by
  unfold haltIf
  split
  · next h => exact ⟨barrierAside_of_haltAside (haltCore_aside (hp h)), haltCore_cores_length (hp h) ..⟩
  · exact ⟨⟨.refl s, rfl⟩, rfl⟩

theorem getCore_haltIf {s : State} {n : Nat} (hp : p (getCore s n) = true → n < s.cores.length) (m : Nat) :
    getCore (haltIf p g s n) m = if m = n then haltedIf p g (getCore s n) else getCore s m := by
  unfold haltIf haltedIf
  split
  · next h => exact getCore_haltCore (hp h) m
  · split
    · next hm => rw [hm]
    · rfl

theorem foldl_haltIf {l : List Nat} (hl : l.Nodup) (s : State) (hp : ∀ n ∈ l, p (getCore s n) = true → n < s.cores.length) :
    let t := l.foldl (haltIf p g) s
    (barrierAside s t ∧ t.forage = s.forage) ∧ ∀ m, getCore t m = if m ∈ l then haltedIf p g (getCore s m) else getCore s m := by
  dsimp only
  induction l generalizing s with
  | nil => exact ⟨⟨.refl s, rfl⟩, fun m => rfl⟩
  | cons n l ih =>
    obtain ⟨hn, hl⟩ := List.nodup_cons.mp hl
    have hpn := hp n List.mem_cons_self
    have hget := getCore_haltIf (g := g) hpn
    obtain ⟨⟨haside, hforage⟩, hlen⟩ := haltIf_frame (g := g) hpn
    obtain ⟨⟨iaside, iforage⟩, icores⟩ := ih hl (haltIf p g s n) fun m hm hpm => by
      have hne : m ≠ n := fun he => hn (he ▸ hm)
      rw [hget, if_neg hne] at hpm
      rw [hlen]
      exact hp m (List.mem_cons_of_mem _ hm) hpm
    rw [List.foldl_cons]
    refine ⟨⟨haside.trans iaside, iforage.trans hforage⟩, fun m => ?_⟩
    rw [icores, hget]
    by_cases hmn : m = n
    · simp [hmn, hn]
    · simp [hmn]

end

/-! ### The lists of a released barrier, R237 and R242 -/

/-- The requests of a group are cancelled: what the lists have appended, taken and answered stays. -/
theorem cancelRequests_frame {s : State} {l : Nat} (hl : l < s.forage.length) (group : List Nat) :
    let t := cancelRequests s group l
    t = { s with forage := t.forage } ∧ t.forage.length = s.forage.length ∧ (∀ m, m ≠ l → getList t m = getList s m) ∧
      ∀ m, (getList t m).state = (getList s m).state ∧ (getList t m).descs = (getList s m).descs ∧ (getList t m).answers = (getList s m).answers := by
  refine ⟨rfl, List.length_set .., fun m hm => (getList_setList hl m _).trans (if_neg hm), fun m => ?_⟩
  rw [cancelRequests, getList_setList hl]
  split
  · next hm => rw [hm]; exact ⟨rfl, rfl, rfl⟩
  · exact ⟨rfl, rfl, rfl⟩

theorem foldl_cancelRequests (group : List Nat) {lists : List Nat} (s : State) (hl : ∀ l ∈ lists, l < s.forage.length) :
    let t := lists.foldl (fun s l => cancelRequests s group l) s
    t = { s with forage := t.forage } ∧ t.forage.length = s.forage.length ∧ (∀ m, m ∉ lists → getList t m = getList s m) ∧
      ∀ m, (getList t m).state = (getList s m).state ∧ (getList t m).descs = (getList s m).descs ∧ (getList t m).answers = (getList s m).answers := by
  dsimp only
  induction lists generalizing s with
  | nil => exact ⟨rfl, rfl, fun m _ => rfl, fun m => ⟨rfl, rfl, rfl⟩⟩
  | cons l lists ih =>
    obtain ⟨hrest, hlen, hother, hkept⟩ := cancelRequests_frame (hl l List.mem_cons_self) group
    obtain ⟨irest, ilen, iother, ikept⟩ := ih (cancelRequests s group l) fun m hm => by rw [hlen]; exact hl m (List.mem_cons_of_mem _ hm)
    rw [List.foldl_cons]
    refine ⟨?_, ilen.trans hlen, fun m hm => ?_, fun m => ?_⟩
    · rw [irest, hrest]
    · obtain ⟨hne, hm⟩ := List.ne_and_not_mem_of_not_mem_cons hm
      exact (iother m hm).trans (hother m hne)
    · obtain ⟨h1, h2, h3⟩ := hkept m
      obtain ⟨i1, i2, i3⟩ := ikept m
      exact ⟨i1.trans h1, i2.trans h2, i3.trans h3⟩

theorem undrained_congr {s t : State} (hcores : t.cores = s.cores) {l : Nat}
    (h : (getList t l).state = (getList s l).state ∧ (getList t l).descs = (getList s l).descs ∧ (getList t l).answers = (getList s l).answers) (group : List Nat) :
    undrained t group l = undrained s group l := by
  obtain ⟨h1, h2, h3⟩ := h
  simp only [undrained, holdsTile, getCore_of_cores hcores, h1, h2, h3]

theorem countN_aside (s : State) (b off w n : Nat) : barrierAside s (countN s b off w n) := by
  unfold countN
  split <;> exact ⟨⟨rfl, rfl, rfl⟩, rfl, rfl⟩

/-- A list is IDLE with nothing in it. -/
def listEmpty (f : ForageList) : Prop := f.state = 0 ∧ f.descs = [] ∧ f.waiting = []

/-- What the closing of some lists leaves: they are empty, as are the group's mailboxes of them. -/
structure Closed (s : State) (group lists : List Nat) (t : State) : Prop where
  aside : barrierAside s t
  lengths : t.cores.length = s.cores.length ∧ t.forage.length = s.forage.length
  named : ∀ l ∈ lists, listEmpty (getList t l)
  unnamed : ∀ l, l ∉ lists → getList t l = getList s l
  cores : ∀ m < s.cores.length, getCore t m =
    if m ∈ group then { getCore s m with mailboxes := lists.foldl (fun mb l => tset .empty mb l .empty) (getCore s m).mailboxes } else getCore s m

theorem PoolOnly.barrierAside {s t : State} (h : PoolOnly s t) : barrierAside s t :=
  ⟨⟨h.mem, h.guard, (congrArg State.nvm h :)⟩, (congrArg State.barriers h :), (congrArg State.dma h :)⟩

/-- FORAGE with its last list closed counts as disabled. -/
def forageIdle (s : State) : State :=
  if s.forage.all (fun x => x.state == 0) then setBlk s FORAGE { blk s FORAGE with rejected := false, rejectSlot := 0 } else s

theorem forageIdle_frame (s : State) : barrierAside s (forageIdle s) ∧ (forageIdle s).forage = s.forage ∧ (forageIdle s).cores = s.cores := by
  unfold forageIdle
  split <;> exact ⟨⟨⟨rfl, rfl, rfl⟩, rfl, rfl⟩, rfl, rfl⟩

/-- A list once it is closed. -/
def closedList (group : List Nat) (f : ForageList) : ForageList :=
  { f with state := 0, descs := [], waiting := [], answers := f.answers.filter (fun a => !group.contains a.1) }

theorem closeList_closed {s : State} {l : Nat} (hl : l < s.forage.length) {group : List Nat} (hgroup : group.Nodup) : Closed s group [l] (closeList s group l) := by
  let u := setList s l (closedList group (getList s l))
  have heq : closeList s group l = group.foldl (fun s n => modCore s n (fun c => setMailbox c l .empty)) (forageIdle (freeDispatchCells u l)) := rfl
  have hpool := freeDispatchCells_only u l
  obtain ⟨iaside, iforage, icores⟩ := forageIdle_frame (freeDispatchCells u l)
  obtain ⟨faside, fforage, flen⟩ := foldl_modCore_aside (fun c => setMailbox c l .empty) group (forageIdle (freeDispatchCells u l))
  have hcores : (forageIdle (freeDispatchCells u l)).cores = s.cores := icores.trans hpool.cores
  have hforage : (closeList s group l).forage = u.forage := (heq ▸ fforage).trans (iforage.trans (congrArg State.forage hpool :))
  have hget (m : Nat) : getList (closeList s group l) m = if m = l then closedList group (getList s l) else getList s m := by
    rw [getList, hforage]
    exact getList_setList hl m _
  refine ⟨?_, ⟨?_, ?_⟩, fun m hm => ?_, fun m hm => ?_, fun m hm => ?_⟩
  · have hu : barrierAside s u := ⟨⟨rfl, rfl, rfl⟩, rfl, rfl⟩
    exact heq ▸ ((hu.trans hpool.barrierAside).trans iaside).trans faside
  · rw [heq, flen, hcores]
  · rw [hforage]
    exact List.length_set ..
  · rw [hget, if_pos (List.mem_singleton.mp hm)]
    exact ⟨rfl, rfl, rfl⟩
  · rw [hget, if_neg (fun he => hm (List.mem_singleton.mpr he))]
  · rw [heq, getCore_foldl_modCore_in _ hgroup _ (by rwa [hcores]), getCore_of_cores hcores]
    rfl

theorem foldl_closeList {group : List Nat} (hgroup : group.Nodup) (lists : List Nat) (s : State) (hl : ∀ l ∈ lists, l < s.forage.length) :
    Closed s group lists (lists.foldl (fun s l => closeList s group l) s) := by
  induction lists generalizing s with
  | nil =>
    refine ⟨.refl s, ⟨rfl, rfl⟩, fun l hl => absurd hl List.not_mem_nil, fun l _ => rfl, fun m _ => ?_⟩
    split <;> rfl
  | cons l lists ih =>
    obtain ⟨haside, ⟨hcl, hfl⟩, hnamed, hunnamed, hcores⟩ := closeList_closed (hl l List.mem_cons_self) hgroup
    obtain ⟨iaside, ⟨icl, ifl⟩, inamed, iunnamed, icores⟩ := ih (closeList s group l) fun m hm => by rw [hfl]; exact hl m (List.mem_cons_of_mem _ hm)
    rw [List.foldl_cons]
    refine ⟨haside.trans iaside, ⟨icl.trans hcl, ifl.trans hfl⟩, fun m hm => ?_, fun m hm => ?_, fun m hm => ?_⟩
    · by_cases hml : m ∈ lists
      · exact inamed m hml
      · rw [iunnamed m hml]
        exact hnamed m (List.mem_singleton.mpr ((List.mem_cons.mp hm).resolve_right hml))
    · obtain ⟨hne, hml⟩ := List.ne_and_not_mem_of_not_mem_cons hm
      rw [iunnamed m hml, hunnamed m (fun h => hne (List.mem_singleton.mp h))]
    · rw [icores m (by rwa [hcl]), hcores m hm]
      split <;> rfl

/-- Entries set to empty one after another are empty, in a canonical table. -/
theorem tget_foldl_empty {lists : List Nat} {mb : Table Mailbox} (h : twf .empty mb = true) {l : Nat} (hl : l ∈ lists ∨ tget .empty mb l = .empty) :
    tget .empty (lists.foldl (fun mb l => tset .empty mb l .empty) mb) l = .empty := by
  induction lists generalizing mb with
  | nil => exact hl.resolve_left List.not_mem_nil
  | cons k lists ih =>
    refine ih (twf_tset h k _) ?_
    by_cases hk : l = k
    · exact .inr (hk ▸ tget_tset_eq h)
    · exact hl.imp (fun hm => (List.mem_cons.mp hm).resolve_left hk) (fun he => (tget_tset_ne hk h).trans he)

/-! ### The release of a barrier, R241 and R242 -/

section
variable {s : State} {b : Barrier}

/-- The lists that a barrier names, and those of them that are undrained. -/
def namedLists (b : Barrier) : List Nat := bitList b.mask.toNat 4

def undrainedLists (s : State) (b : Barrier) : List Nat := (namedLists b).filter (undrained s b.group)

theorem lt_of_mem_namedLists {l : Nat} (h : l ∈ namedLists b) : l < 4 := List.mem_range.mp (List.mem_filter.mp h).1

/-- The state of a release with the group's requests cancelled and the undrained lists counted. -/
def releaseCounted (s : State) (b : Barrier) : State :=
  countN ((namedLists b).foldl (fun s l => cancelRequests s b.group l) s) FORAGE 0x010 32 (undrainedLists s b).length

/-- The state of a release before its cores go on. -/
def releaseClosed (s : State) (b : Barrier) : State :=
  let u := (namedLists b).foldl (fun s l => closeList s b.group l) (releaseCounted s b)
  { u with barriers := u.barriers.filter (fun x => !(x.launch == b.launch && x.number == b.number)) }

/-- The cores of a group that wait at their barrier. -/
def coresWaiting (s : State) (b : Barrier) : List Nat := b.group.filter (fun n => waitsAt (getCore s n) b)

/-- The halt of a core at a barrier with undrained lists (R242). -/
def undrainedHalt (bad : List Nat) (c : Core) : HaltInfo := ⟨0x50, c.barrierPc, 0, BitVec.ofNat 64 (bitsOf 4 (fun l => bad.contains l))⟩

theorem releaseBarrier_eq (hforage : s.forage.length = 4) : releaseBarrier s b =
    if (undrainedLists s b).isEmpty then (coresWaiting (releaseClosed s b) b).foldl (fun s n => modCore s n (fun c => { c with run := .running })) (releaseClosed s b)
    else (coresWaiting (releaseClosed s b) b).foldl (haltIf (fun _ => true) (undrainedHalt (undrainedLists s b))) (releaseClosed s b) := by
  obtain ⟨hrest, -, -, hkept⟩ := foldl_cancelRequests b.group s fun l hl => hforage ▸ lt_of_mem_namedLists hl
  have hcores : _ = s.cores := (congrArg State.cores hrest :)
  have hbad : (namedLists b).filter (undrained ((namedLists b).foldl (fun s l => cancelRequests s b.group l) s) b.group) = undrainedLists s b :=
    List.filter_congr fun l _ => undrained_congr hcores (hkept l) b.group
  have heq : releaseBarrier s b =
      let bad := (namedLists b).filter (undrained ((namedLists b).foldl (fun s l => cancelRequests s b.group l) s) b.group)
      let u := (namedLists b).foldl (fun s l => closeList s b.group l) (countN ((namedLists b).foldl (fun s l => cancelRequests s b.group l) s) FORAGE 0x010 32 bad.length)
      let v := { u with barriers := u.barriers.filter (fun x => !(x.launch == b.launch && x.number == b.number)) }
      if bad.isEmpty then (coresWaiting v b).foldl (fun s n => modCore s n (fun c => { c with run := .running })) v
      else (coresWaiting v b).foldl (haltIf (fun _ => true) (undrainedHalt bad)) v := rfl
  rw [heq, hbad]
  rfl

theorem releaseCounted_frame (hforage : s.forage.length = 4) :
    barrierAside s (releaseCounted s b) ∧ (releaseCounted s b).cores = s.cores ∧ (releaseCounted s b).forage.length = 4 ∧
      ∀ l, l ∉ namedLists b → getList (releaseCounted s b) l = getList s l := by
  obtain ⟨hrest, hlen, hother, -⟩ := foldl_cancelRequests b.group s fun l hl => hforage ▸ lt_of_mem_namedLists hl
  have hcancel : barrierAside s ((namedLists b).foldl (fun s l => cancelRequests s b.group l) s) := by
    rw [hrest]
    exact ⟨⟨rfl, rfl, rfl⟩, rfl, rfl⟩
  obtain ⟨hcores, -, hlists⟩ := countN_frame ((namedLists b).foldl (fun s l => cancelRequests s b.group l) s) FORAGE 0x010 32 (undrainedLists s b).length
  refine ⟨hcancel.trans (countN_aside ..), hcores.trans (congrArg State.cores hrest :), ?_, fun l hl => ?_⟩
  · rw [releaseCounted, hlists, hlen, hforage]
  · rw [releaseCounted, getList, hlists]
    exact hother l hl

/-- A core's mailboxes of the named lists, emptied. -/
def mailboxesEmptied (b : Barrier) (c : Core) : Core := { c with mailboxes := (namedLists b).foldl (fun mb l => tset .empty mb l .empty) c.mailboxes }

/-- What stands before the cores of a released barrier go on: the lists are closed, the barrier is gone, and of a core of the group only its mailboxes have changed. -/
structure ReleaseClosed (s : State) (b : Barrier) (t : State) : Prop where
  memory : memoryKept s t
  dma : t.dma = s.dma
  barriers : t.barriers = s.barriers.filter (fun x => !(x.launch == b.launch && x.number == b.number))
  named : ∀ l ∈ namedLists b, listEmpty (getList t l)
  unnamed : ∀ l, l ∉ namedLists b → getList t l = getList s l
  length : t.cores.length = s.cores.length
  group : ∀ m ∈ b.group, m < s.cores.length → getCore t m = mailboxesEmptied b (getCore s m)
  apart : ∀ m, m ∉ b.group ∨ s.cores.length ≤ m → getCore t m = getCore s m

theorem releaseClosed_closed (hforage : s.forage.length = 4) (hgroup : b.group.Nodup) : ReleaseClosed s b (releaseClosed s b) := by
  obtain ⟨caside, ccores, cforage, cunnamed⟩ := releaseCounted_frame (b := b) hforage
  obtain ⟨haside, ⟨hlen, -⟩, hnamed, hunnamed, hcores⟩ := foldl_closeList hgroup (namedLists b) (releaseCounted s b) fun l hl => cforage ▸ lt_of_mem_namedLists hl
  obtain ⟨hmem, hbarriers, hdma⟩ := caside.trans haside
  have hlen' : (releaseClosed s b).cores.length = s.cores.length := hlen.trans (congrArg List.length ccores)
  have hget (m : Nat) : getCore (releaseCounted s b) m = getCore s m := getCore_of_cores ccores m
  have hcore {m : Nat} (hm : m < s.cores.length) := hcores m (ccores ▸ hm)
  refine ⟨hmem, hdma, congrArg (List.filter _) hbarriers, hnamed, fun l hl => (hunnamed l hl).trans (cunnamed l hl), hlen', fun m hm hlt => ?_, fun m hm => ?_⟩
  · refine (hcore hlt).trans ((if_pos hm).trans ?_)
    rw [hget]
    rfl
  · by_cases hlt : m < s.cores.length
    · exact (hcore hlt).trans ((if_neg (hm.resolve_right (by omega))).trans (hget m))
    · rw [getCore_out (by omega), getCore_out (by omega)]

/-- Only a core waits at a barrier. -/
theorem lt_of_waitsAt {m : Nat} (h : waitsAt (getCore s m) b = true) : m < s.cores.length := by
  by_contra hm
  rw [getCore_out (by omega)] at h
  exact Bool.noConfusion h

theorem waitsAt_releaseClosed {t : State} (h : ReleaseClosed s b t) (m : Nat) : waitsAt (getCore t m) b = waitsAt (getCore s m) b := by
  by_cases hm : m ∈ b.group ∧ m < s.cores.length
  · rw [h.group m hm.1 hm.2]
    rfl
  · rw [h.apart m (by rw [not_and_or] at hm; exact hm.imp_right Nat.le_of_not_lt)]

theorem mem_coresWaiting {t : State} (h : ReleaseClosed s b t) {m : Nat} : m ∈ coresWaiting t b ↔ m ∈ b.group ∧ waitsAt (getCore s m) b = true := by
  rw [coresWaiting, List.mem_filter, waitsAt_releaseClosed h]

theorem mailbox_mailboxesEmptied {c : Core} (hwf : twf .empty c.mailboxes = true) {l : Nat} (hl : l ∈ namedLists b) : mailbox (mailboxesEmptied b c) l = .empty :=
  tget_foldl_empty hwf (.inl hl)

theorem coresWaiting_nodup (h : b.group.Nodup) (t : State) : (coresWaiting t b).Nodup := h.filter _

theorem lt_of_mem_coresWaiting {t : State} (h : ReleaseClosed s b t) {m : Nat} (hm : m ∈ coresWaiting t b) : m < t.cores.length :=
  h.length.symm ▸ lt_of_waitsAt ((mem_coresWaiting h).mp hm).2

/-- The lists of a release, which its cores leave as they are. -/
theorem lists_releaseClosed {t u : State} (h : ReleaseClosed s b t) (hu : u.forage = t.forage) (l : Nat) :
    if l ∈ namedLists b then listEmpty (getList u l) else getList u l = getList s l := by
  have hget : getList u l = getList t l := by simp only [getList, hu]
  rw [hget]
  split
  · next hl => exact h.named l hl
  · next hl => exact h.unnamed l hl

/-- With every named list drained, the waiting cores run again. -/
theorem runAgain_frame {t : State} (h : ReleaseClosed s b t) (hgroup : b.group.Nodup) :
    let u := (coresWaiting t b).foldl (fun s n => modCore s n (fun c => { c with run := .running })) t
    (barrierAside t u ∧ u.forage = t.forage) ∧
      (∀ m, m ∈ b.group → waitsAt (getCore s m) b = true → getCore u m = { mailboxesEmptied b (getCore s m) with run := .running }) ∧
      (∀ m, m ∉ b.group → getCore u m = getCore s m) := by
  obtain ⟨haside, hforage, -⟩ := foldl_modCore_aside (fun c => { c with run := .running }) (coresWaiting t b) t
  have hcore := getCore_foldl_modCore (fun c => { c with run := .running }) (coresWaiting_nodup hgroup t) t (fun m hm => lt_of_mem_coresWaiting h hm)
  refine ⟨⟨haside, hforage⟩, fun m hm hwaits => ?_, fun m hm => ?_⟩
  · rw [hcore m, if_pos ((mem_coresWaiting h).mpr ⟨hm, hwaits⟩), h.group m hm (lt_of_waitsAt hwaits)]
  · rw [hcore m, if_neg (fun hin => hm ((mem_coresWaiting h).mp hin).1), h.apart m (.inl hm)]

/-- With a named list undrained, the waiting cores halt. -/
theorem haltUndrained_frame {t : State} (h : ReleaseClosed s b t) (hgroup : b.group.Nodup) (bad : List Nat) :
    let u := (coresWaiting t b).foldl (haltIf (fun _ => true) (undrainedHalt bad)) t
    (barrierAside t u ∧ u.forage = t.forage) ∧
      (∀ m, m ∈ b.group → waitsAt (getCore s m) b = true → getCore u m = coreHalted (undrainedHalt bad (getCore s m)) false false (mailboxesEmptied b (getCore s m))) ∧
      (∀ m, m ∉ b.group → getCore u m = getCore s m) := by
  obtain ⟨haside, hcore⟩ := foldl_haltIf (p := fun _ => true) (g := undrainedHalt bad) (coresWaiting_nodup hgroup t) t
    (fun m hm _ => lt_of_mem_coresWaiting h hm)
  refine ⟨haside, fun m hm hwaits => ?_, fun m hm => ?_⟩
  · rw [hcore m, if_pos ((mem_coresWaiting h).mpr ⟨hm, hwaits⟩), h.group m hm (lt_of_waitsAt hwaits)]
    rfl
  · rw [hcore m, if_neg (fun hin => hm ((mem_coresWaiting h).mp hin).1), h.apart m (.inl hm)]

theorem exec_barrierRelease {n : Fin 128} (hb : barrierOf s n.val = some b) (hready : barrierReady s b = true) :
    exec (.barrierRelease n) s = .next (releaseBarrier s b) := by
  refine congrArg Host.Outcome.next ?_
  simp only [hb, hready, if_true]

/-! ### The time-out of a barrier, R243 -/

/-- The state in which a barrier is noted as failed. -/
def barrierFailed (s : State) (b : Barrier) : State :=
  { (readTime s FORAGE).2 with barriers := mapIf (fun x => x.launch == b.launch && x.number == b.number) (fun x => { x with failed := true }) (readTime s FORAGE).2.barriers }

theorem exec_barrierTimeout {n : Fin 128} (hb : barrierOf s n.val = some b) : exec (.barrierTimeout n) s = .next
    (if getReg s FORAGE 0x008 ≠ 0 ∧ b.group.any (fun n => !b.arrived.contains n) = true ∧ getReg s FORAGE 0x008 < (readTime s FORAGE).1 - b.firstArrival - b.pausedFor then
      b.arrived.foldl (haltIf (fun c => waitsAt c b) (fun c => barrierHalt b c.barrierPc)) (barrierFailed s b) else s) := by
  refine congrArg Host.Outcome.next ?_
  simp only [hb]
  rfl

end

/-- Settles O20: the release closes the named lists before each waiting core goes on or halts; the time-out halts each waiting core, the counter read being within four
units of the time. -/
theorem barriers : Obligations.Barriers := by
  refine ⟨fun s n b hlen hforage hb hready hgroup hwf => ?_, fun s n b hlen hb => ⟨fun hmissing harrived hlimit htime => ?_, fun hin => ?_⟩⟩
  · have hclosed := releaseClosed_closed hforage hgroup
    have hexec := (exec_barrierRelease hb hready).trans (congrArg Host.Outcome.next (releaseBarrier_eq hforage))
    by_cases hbad : undrainedLists s b = []
    · obtain ⟨⟨⟨hmemory, hbarriers, hdma⟩, hlists⟩, hwaiting, hothers⟩ := runAgain_frame hclosed hgroup
      refine ⟨_, hexec.trans (congrArg Host.Outcome.next (if_pos (List.isEmpty_iff.mpr hbad))), hbarriers.trans hclosed.barriers,
        fun l _ => lists_releaseClosed hclosed hlists l, fun m hm hwaits => Eq.mpr (if_pos hbad) ?_, hothers, hclosed.memory.trans hmemory, hdma.trans hclosed.dma⟩
      rw [hwaiting m hm hwaits]
      exact ⟨rfl, rfl, fun l hl => mailbox_mailboxesEmptied (hwf m hm) hl⟩
    · obtain ⟨⟨⟨hmemory, hbarriers, hdma⟩, hlists⟩, hwaiting, hothers⟩ := haltUndrained_frame hclosed hgroup (undrainedLists s b)
      refine ⟨_, hexec.trans (congrArg Host.Outcome.next (if_neg (mt List.isEmpty_iff.mp hbad))), hbarriers.trans hclosed.barriers,
        fun l _ => lists_releaseClosed hclosed hlists l, fun m hm hwaits => Eq.mpr (if_neg hbad) ?_, hothers, hclosed.memory.trans hmemory, hdma.trans hclosed.dma⟩
      rw [hwaiting m hm hwaits]
      exact ⟨rfl, rfl⟩
  · have hcounter := (readTime_bounds s FORAGE).2.1
    have hlate : getReg s FORAGE 0x008 + 4 < s.time - b.firstArrival - b.pausedFor := htime
    have hany : b.group.any (fun n => !b.arrived.contains n) = true := by simpa using hmissing
    obtain ⟨⟨⟨hmemory, -⟩, -⟩, hcore⟩ := foldl_haltIf (p := fun c => waitsAt c b) (g := fun c => barrierHalt b c.barrierPc) harrived (barrierFailed s b)
      (fun m _ hwaits => lt_of_waitsAt (s := barrierFailed s b) hwaits)
    refine ⟨_, (exec_barrierTimeout hb).trans (congrArg Host.Outcome.next (if_pos ⟨hlimit, hany, by omega⟩)), hmemory, fun m => ?_⟩
    have hkept : getCore (barrierFailed s b) m = getCore s m := rfl
    rw [hcore m, hkept, haltedIf]
    split
    · next h =>
      rw [if_pos h.1, if_pos h.2]
      exact ⟨rfl, rfl⟩
    · next h =>
      split
      · next hm => exact if_neg fun hw => h ⟨hm, hw⟩
      · rfl
  · have hcounter := (readTime_bounds s FORAGE).2.2
    have hearly : getReg s FORAGE 0x008 = 0 ∨ max (tget 0 s.readings FORAGE) s.time - b.firstArrival - b.pausedFor ≤ getReg s FORAGE 0x008 := hin
    exact (exec_barrierTimeout hb).trans (congrArg Host.Outcome.next (if_neg fun h => by omega))

end Sys2Proof.Machine
end

section
/-! SUPPORT. Operations on memory count in no register of the exchange, the forage lists or the collectives. -/

namespace Sys2Proof.Machine

/-- The blocks EXCH, FORAGE and COLL: no operation on memory counts in a register of theirs. -/
def unitBlock (b : Nat) : Bool := b == EXCH || b == FORAGE || b == COLL

/-- The registers of those blocks. -/
def unitRegs (s : State) (b : { b : Nat // unitBlock b = true }) (off : Fin 4096) : Nat := getReg s b.val off.val

/-- A step after which every register of those blocks is as before. -/
def UnitRegsKept (s t : State) : Prop := unitRegs t = unitRegs s

theorem UnitRegsKept.refl (s : State) : UnitRegsKept s s := rfl

theorem UnitRegsKept.trans {s t u : State} (h : UnitRegsKept s t) (g : UnitRegsKept t u) : UnitRegsKept s u := Eq.trans g h

theorem UnitRegsKept.of_regs {s t : State} (h : t.regs = s.regs) : UnitRegsKept s t := by
  funext b off
  simp only [unitRegs, getReg, h]

theorem UnitRegsKept.getReg {s t : State} (h : UnitRegsKept s t) {b off : Nat} (hb : unitBlock b = true) (ho : off < 4096) : getReg t b off = getReg s b off :=
  congrFun (congrFun h ⟨b, hb⟩) ⟨off, ho⟩

theorem UnitRegsKept.ite {p : Prop} [Decidable p] {s t u : State} (h : UnitRegsKept s t) (g : UnitRegsKept s u) : UnitRegsKept s (if p then t else u) := by
  split
  · exact h
  · exact g

theorem UnitRegsKept.foldl {β : Type} {f : State → β → State} (h : ∀ s b, UnitRegsKept s (f s b)) (l : List β) (s : State) : UnitRegsKept s (l.foldl f s) := by
  induction l generalizing s with
  | nil => exact .refl s
  | cons b l ih => exact (h s b).trans (ih _)

theorem UnitRegsKept.foldl_fst {α β : Type} {f : State × α → β → State × α} (h : ∀ a s b, UnitRegsKept s (f (s, a) b).1) (l : List β) (a : α) (s : State) :
    UnitRegsKept s (l.foldl f (s, a)).1 := by
  induction l generalizing a s with
  | nil => exact .refl s
  | cons b l ih => exact (h a s b).trans (ih (f (s, a) b).2 (f (s, a) b).1)

section
variable {s : State} {b off : Nat}

theorem setReg_unitRegs (hb : unitBlock b = false) (ho : off < 4096) (v : Nat) : UnitRegsKept s (setReg s b off v) := by
  funext ⟨b', hb'⟩ off'
  have hne : regKey b' off'.val ≠ regKey b off := fun h => by
    rw [((regKey_inj off'.isLt ho).mp h).1, hb] at hb'
    exact Bool.noConfusion hb'
  rw [unitRegs, getReg, setReg, tget_tset_other _ _ hne, unitRegs, getReg]

theorem count_unitRegs (hb : unitBlock b = false) (ho : off < 4096) (w : Nat) : UnitRegsKept s (count s b off w) :=
  .ite (.refl s) (setReg_unitRegs hb ho _)

/-- Counters of the memory controllers and of the cores are registers of other blocks. -/
theorem memc_not_unit {a : Nat} : unitBlock (MEMC ((hbmMap s a).1 / 32)) = false := by
  have := hbmMap_channel_lt s a
  simp only [unitBlock, MEMC, EXCH, FORAGE, COLL, Bool.or_eq_false_iff, beq_eq_false_iff_ne]
  omega

theorem core_not_unit (n : Nat) : unitBlock (CORE n) = false := by
  simp only [unitBlock, CORE, EXCH, FORAGE, COLL, Bool.or_eq_false_iff, beq_eq_false_iff_ne]
  omega

end

/-! ### The Keeper's log and the check points -/

theorem storeBytes_unitRegs (s : State) (g off : Nat) (bs : List Byte) (p : Bool) : UnitRegsKept s (storeBytes s g off bs p) :=
  .of_regs (congrArg State.regs (storeBytes_only s g off bs p) :)

theorem logEntry_unitRegs (s : State) (b cls code d : Nat) : UnitRegsKept s (logEntry s b cls code d) := by
  unfold logEntry
  dsimp only
  split
  · exact count_unitRegs (by decide) (by decide) _
  · exact .trans (.of_regs (readTime_regs s KEEPER)) (.trans (.of_regs (storeGranule_regs ..)) (setReg_unitRegs (by decide) (by decide) _))

theorem noteUnmapped_unitRegs (m : Master) (s : State) (a : Nat) : UnitRegsKept s (noteUnmapped m s a) :=
  .trans (setReg_unitRegs (by decide) (by decide) _) (logEntry_unitRegs ..)

section
variable {s : State} {point : Nat}

theorem guardLast_unitRegs (s : State) (v : Word64) : UnitRegsKept s { s with guardLast := v } := rfl

theorem noteUncorr_unitRegs (hp : point < 0x16) (b g : Nat) : UnitRegsKept s (noteUncorr s point b g) := by
  unfold noteUncorr
  dsimp only
  exact (((count_unitRegs (by decide) (by omega) _).trans (count_unitRegs (by decide) (by decide) _)).trans (guardLast_unitRegs _ _)).trans (logEntry_unitRegs ..)

theorem noteCorr_unitRegs (hp : point < 0x16) : UnitRegsKept s (noteCorr s point) :=
  (count_unitRegs (by decide) (by omega) _).trans (count_unitRegs (by decide) (by decide) _)

theorem crossHop_unitRegs (hp : point < 0x16) (g : Nat) (p : Guard × State) : UnitRegsKept p.2 (crossHop g p point).2 := by
  have herase (x : List (Nat × Nat × BitVec 32)) : UnitRegsKept p.2 { p.2 with hopErrors := x } := .of_regs rfl
  unfold crossHop
  split
  · exact .refl _
  · dsimp only
    split
    · exact (herase _).trans (noteCorr_unitRegs hp)
    · exact (herase _).trans (noteUncorr_unitRegs hp ..)
    · exact herase _
    · exact herase _

theorem foldl_crossHop_unitRegs {l : List Nat} (hl : ∀ point ∈ l, point < 0x16) (g : Nat) (p : Guard × State) : UnitRegsKept p.2 (l.foldl (crossHop g) p).2 := by
  induction l generalizing p with
  | nil => exact .refl _
  | cons point l ih => exact (crossHop_unitRegs (hl point List.mem_cons_self) g p).trans (ih (fun q hq => hl q (List.mem_cons_of_mem _ hq)) _)

/-- A dispatch stands, as a DMA channel does, on neither die of cores: the same hops lie on its way. -/
theorem hopPoints_dispatch (l : Fin 4) (s : State) (a : Nat) : hopPoints (.dispatch l) s a = hopPoints (.dma 0) s a := rfl

theorem crossHops_unitRegs (l : Fin 4) (s : State) (g : Nat) (r : Guard) : UnitRegsKept s (crossHops (.dispatch l) s g r).2 := by
  unfold crossHops
  split
  · exact .refl s
  · exact foldl_crossHop_unitRegs (hopPoints_dispatch l s _ ▸ hopPoints_dma_lt 0 s (32 * g)) g (r, s)

end

/-! ### The books of HBM, the shared cache and the write-combining buffers -/

theorem stackAccess_unitRegs (s : State) (a : Nat) (w r : Bool) : UnitRegsKept s (stackAccess s a w r) := by
  have hcount (o : Nat) (ho : o < 4096) (u : State) : UnitRegsKept u (count u (MEMC ((hbmMap s a).1 / 32)) o 48) := count_unitRegs memc_not_unit ho _
  have hif (p : Prop) [Decidable p] (o : Nat) (ho : o < 4096) (u : State) : UnitRegsKept u (if p then count u (MEMC ((hbmMap s a).1 / 32)) o 48 else u) :=
    .ite (hcount o ho u) (.refl u)
  have hdir : (if w = true then 0x028 else 0x020) < 4096 := by split <;> decide
  exact ((hcount _ hdir s).trans (hif _ _ (by decide) _)).trans (hif _ _ (by decide) _)

theorem drainGranule_unitRegs {k : Nat} (hk : unitBlock (MEMC k) = false) (e : WcbEntry) (p : State × OpenRows) (i : Nat) : UnitRegsKept p.1 (drainGranule k e p i).1 := by
  unfold drainGranule
  dsimp only
  split
  · exact .refl _
  · split
    · exact stackAccess_unitRegs ..
    · exact ((stackAccess_unitRegs ..).trans (count_unitRegs hk (by decide) _)).trans (stackAccess_unitRegs ..)

theorem drainBatch_unitRegs {k : Nat} (hk : unitBlock (MEMC k) = false) (s : State) (pc : Nat) : UnitRegsKept s (drainBatch s k pc) :=
  .foldl_fst (fun rows s e => .foldl_fst (fun rows s i => drainGranule_unitRegs hk e (s, rows) i) _ rows s) _ _ s

theorem stackReads_unitRegs (s : State) (as : List Nat) (r : Bool) : UnitRegsKept s (stackReads s as r) :=
  .foldl_fst (fun r s a => by dsimp only; split; exacts [.refl s, stackAccess_unitRegs ..]) as r s

theorem wcbWrite_unitRegs (s : State) (a off len : Nat) : UnitRegsKept s (wcbWrite s a off len) := by
  unfold wcbWrite
  dsimp only
  split
  · exact .of_regs rfl
  · refine .trans ?_ (.of_regs rfl)
    split
    · exact .refl s
    · split
      · exact drainBatch_unitRegs memc_not_unit ..
      · exact .refl s

theorem evictLine_unitRegs (s : State) (l : Nat) (d : Bool) : UnitRegsKept s (evictLine s l d) := by
  have hlines : UnitRegsKept s { s with cacheLines := s.cacheLines.filter (fun x => x.1 != l), reserved := s.reserved.filter (fun r => r.2 != l + 1) } := .of_regs rfl
  unfold evictLine
  dsimp only
  split
  · exact (hlines.trans (count_unitRegs (by decide) (by decide) _)).trans (wcbWrite_unitRegs ..)
  · exact hlines

theorem allocLine_unitRegs (s : State) (l : Nat) (d : Bool) : UnitRegsKept s (allocLine s l d) := by
  unfold allocLine
  dsimp only
  refine .ite (.refl s) (.trans (.ite (.refl s) (.trans (t := (fresh s).2) (.of_regs rfl) ?_)) (.of_regs rfl))
  generalize (fresh s).2 = t
  generalize (if s.cacheLines.isEmpty = true then [] else s.cacheLines.filter (fun x => Config.cacheSet x.1 == Config.cacheSet l)) = mine
  split
  · exact evictLine_unitRegs ..
  · exact .refl _

theorem hit_unitRegs (p : Prop) [Decidable p] (s : State) {o : Nat} (ho : o < 4096) : UnitRegsKept s (if p then count s SCACHE o 48 else s) :=
  .ite (count_unitRegs (by decide) ho _) (.refl s)

theorem hbmWriteNote_unitRegs (s : State) (a off len : Nat) (f at' : Bool) : UnitRegsKept s (hbmWriteNote s a off len f at') :=
  .ite (.ite ((hit_unitRegs _ s (by decide)).trans (.of_regs rfl))
    ((hit_unitRegs _ s (by decide)).trans (.ite ((stackReads_unitRegs ..).trans (allocLine_unitRegs ..)) (wcbWrite_unitRegs ..)))) (wcbWrite_unitRegs ..)

/-! ### The records of a dispatch, and the chains that it gives up -/

theorem writePiece_unitRegs (l : Fin 4) (s : State) (g off : Nat) (bs : List Byte) (p f : Bool) : UnitRegsKept s (writePiece (.dispatch l) s g off bs p f) := by
  unfold writePiece
  dsimp only
  generalize regionOf s (32 * g + off) = r
  cases r <;> dsimp only
  case unmapped => exact .refl s
  case regs => exact .of_regs rfl
  case imem n b o => exact .ite (storeBytes_unitRegs ..) (.ite (count_unitRegs (core_not_unit n) (by decide) _) (.refl s))
  case solverStore => exact .ite (.ite (count_unitRegs (by decide) (by decide) _) (.refl s)) (storeBytes_unitRegs ..)
  case hbm => exact .ite (count_unitRegs memc_not_unit (by decide) _) ((hbmWriteNote_unitRegs ..).trans (storeBytes_unitRegs ..))
  all_goals exact storeBytes_unitRegs ..

theorem writeSpan_unitRegs (l : Fin 4) (s : State) (a : Nat) (bs : List Byte) (p : List Nat) : UnitRegsKept s (writeSpan (.dispatch l) s a bs p).2 := by
  unfold writeSpan
  dsimp only
  refine .trans ?_ (.foldl_fst (fun _ _ _ => (crossHops_unitRegs ..).trans (writePiece_unitRegs ..)) _ _ _)
  split
  · exact noteUnmapped_unitRegs ..
  · exact .refl s

theorem writeRecord_unitRegs (l : Fin 4) (s : State) (a : Nat) (r : Record) : UnitRegsKept s (writeRecord (.dispatch l) s a r) := by
  unfold writeRecord
  dsimp only
  have htime : UnitRegsKept s (readTime s (masterId (.dispatch l)).2.2).2 := .of_regs rfl
  split
  · exact htime.trans (writeSpan_unitRegs ..)
  · exact (htime.trans (writeSpan_unitRegs ..)).trans (writeSpan_unitRegs ..)

/-- A step that only operations on memory and the pool make, and that keeps the registers of the unit blocks. -/
structure ReleasesOnly (s t : State) : Prop where
  rest : poolAside (aside t) = poolAside (aside s)
  regs : UnitRegsKept s t

theorem ReleasesOnly.of_pool {s t : State} (h : PoolOnly s t) : ReleasesOnly s t := ⟨(congrArg aside h :), .of_regs (congrArg State.regs h :)⟩

theorem ReleasesOnly.of_tidy {s t : State} (h : Tidy s t) (hr : UnitRegsKept s t) : ReleasesOnly s t := ⟨congrArg poolAside h.rest, hr⟩

theorem ReleasesOnly.trans {s t u : State} (h : ReleasesOnly s t) (g : ReleasesOnly t u) : ReleasesOnly s u := ⟨g.rest.trans h.rest, h.regs.trans g.regs⟩

theorem ReleasesOnly.cores {s t : State} (h : ReleasesOnly s t) : t.cores = s.cores := (congrArg State.cores h.rest :)
theorem ReleasesOnly.forage {s t : State} (h : ReleasesOnly s t) : t.forage = s.forage := (congrArg State.forage h.rest :)
theorem ReleasesOnly.dispatches {s t : State} (h : ReleasesOnly s t) : t.dispatches = s.dispatches := (congrArg State.dispatches h.rest :)
theorem ReleasesOnly.lastDispatchFault {s t : State} (h : ReleasesOnly s t) : t.lastDispatchFault = s.lastDispatchFault := (congrArg State.lastDispatchFault h.rest :)

theorem releaseChain_only (kind : Nat) (s : State) (a : Nat) : ReleasesOnly s (releaseChain kind s a) := by
  unfold releaseChain
  split
  · exact .of_pool (poolOnly_ite (.trans (t := { s with chains := _, freedHeads := _ }) rfl (poolServe_only _)) rfl)
  · exact .of_tidy ((count_tidy ..).trans (logEntry_tidy ..)) ((count_unitRegs (by decide) (by decide) _).trans (logEntry_unitRegs ..))

theorem foldl_releaseChain_only (kind : Nat) (l : List Nat) (s : State) : ReleasesOnly s (l.foldl (fun s c => releaseChain kind s c) s) := by
  induction l generalizing s with
  | nil => exact ⟨rfl, .refl s⟩
  | cons c l ih => exact (releaseChain_only kind s c).trans (ih _)

end Sys2Proof.Machine
end

section
/-! SUPPORT. A dispatch that EXCH takes from its ring, or that it refuses; the statement on the command (O30). -/

namespace Sys2Proof.Machine

section
variable {s u : State} {rd : Rd}

/-- The dispatch that a descriptor makes, as it is taken at time t. -/
def takenDispatch (rd : Rd) (t : Nat) : Dispatch :=
  { list := (dispDesc (ofBytes rd.data)).list, desc := BitVec.ofNat 1024 (ofBytes rd.data), taken := t, poisonReads := rd.bad, corrReads := rd.corr }

/-- The launch that a dispatch waits for, and whether it has ended halted (R282). -/
def armOf (s : State) (d : DispDesc) : Option Nat × Bool :=
  if d.arm then (match endedAs s d.ordinal with | some h => (none, h) | none => (some d.ordinal, false)) else (none, false)

/-- The state after the descriptor has been read: its time taken, and TAIL advanced. -/
def exchTailAdvanced (u : State) (tail : Nat) : State := setReg (readTime u EXCH).2 EXCH 0x028 ((tail + 1) % 2 ^ 32)

/-- The dispatch is active, and its list is OPEN (R244, R282). -/
def dispatchTaken (v : State) (x : Dispatch) (d : DispDesc) : State :=
  openList { v with dispatches := v.dispatches ++ [{ x with waits := (armOf v d).1, armFail := (armOf v d).2 }] } d.list

/-- The fault of a refused descriptor is counted. -/
def refusalCounted (v : State) : State := { count v EXCH 0x070 32 with lastDispatchFault := 1 }

/-- The descriptor is refused: its fault is counted, the messages held for it are given up, and its record is written (R281). -/
def dispatchRefused (v : State) (x : Dispatch) (d : DispDesc) : State :=
  writeRecord (dispMaster d.list) (dropHeld (refusalCounted v) d.id) d.record (dispatchRecord { x with fault := 1, faultRank := ownRank (refusalCounted v) } 0)

/-- EXCH may take the descriptor at its ring's tail (R279). -/
structure MayTakeDispatch (s : State) : Prop where
  ready : isReady s = true
  works : takesWork s EXCH = true
  enabled : (blk s EXCH).disabling = false
  filled : getReg s EXCH 0x028 ≠ getReg s EXCH 0x020
  size : getReg s EXCH 0x018 ≠ 0 ∧ getReg s EXCH 0x018 ≤ 12

/-- The descriptor at the ring's tail has been read, and its list and its id are free (R279, R282). -/
structure DescriptorRead (s : State) (rd : Rd) (u : State) : Prop where
  may : MayTakeDispatch s
  read : readSpan (.dispatch 0) s (ringAddr (getReg s EXCH 0x010) (getReg s EXCH 0x018) (getReg s EXCH 0x028) 128) 128 = (rd, u)
  state : (getList s (dispDesc (ofBytes rd.data)).list).state = 0
  list : byList s (dispDesc (ofBytes rd.data)).list = none
  id : byId s (dispDesc (ofBytes rd.data)).id = none

theorem takeDispatch_eq (h : DescriptorRead s rd u) :
    let v := exchTailAdvanced u (getReg s EXCH 0x028)
    let x := takenDispatch rd (readTime u EXCH).1
    let d := dispDesc (ofBytes rd.data)
    takeDispatch s = if dispatchBad v d || !rd.poison.isEmpty then dispatchRefused v x d else dispatchTaken v x d := by
  obtain ⟨⟨hready, hworks, hdisabling, hfilled, hsize, hsize'⟩, hread, hstate, hlist, hid⟩ := h
  obtain ⟨henabled, hstopped⟩ : (blk s EXCH).enabled = true ∧ (blk s EXCH).errorStopped = false := by simpa [takesWork] using hworks
  have hmay : (!isReady s || !(blk s EXCH).enabled || (blk s EXCH).disabling || (blk s EXCH).errorStopped || getReg s EXCH 0x028 == getReg s EXCH 0x020 ||
      getReg s EXCH 0x018 == 0 || decide (12 < getReg s EXCH 0x018)) = false := by
    simp [hready, henabled, hdisabling, hstopped, hfilled, hsize, hsize']
  simp only [takeDispatch, hmay, hread, Bool.false_eq_true, if_false, hstate, hlist, hid, ne_eq, not_true_eq_false, Option.isSome_none, or_self]
  rfl

/-! ### What the taking leaves -/

theorem getReg_exchTailAdvanced (hregs : twf 0 u.regs = true) (tail : Nat) : getReg (exchTailAdvanced u tail) EXCH 0x028 = (tail + 1) % 2 ^ 32 := by
  have hlt : (tail + 1) % 2 ^ 32 < 2 ^ 64 := by omega
  exact (getReg_setReg (s := (readTime u EXCH).2) hregs EXCH 0x028 EXCH 0x028 _ hlt).trans (if_pos rfl)

/-- TAIL is no part of what a descriptor is checked against. -/
theorem dispatchBad_exchTailAdvanced (u : State) (tail : Nat) (d : DispDesc) : dispatchBad (exchTailAdvanced u tail) d = dispatchBad u d := by
  have hne : regKey FABRIC 0x018 ≠ regKey EXCH 0x028 := by decide
  have hrank : ownRank (exchTailAdvanced u tail) = ownRank u := by
    rw [ownRank, getReg, exchTailAdvanced, setReg, tget_tset_other _ _ hne]
    rfl
  simp only [dispatchBad, hrank]

theorem dispDesc_list_lt (v : Nat) : (dispDesc v).list < 4 := Nat.mod_lt _ (by decide)

theorem dispatchTaken_memory (u : State) (tail : Nat) (x : Dispatch) (d : DispDesc) : memoryKept u (dispatchTaken (exchTailAdvanced u tail) x d) := ⟨rfl, rfl, rfl⟩

/-- Given-up messages leave the registers of EXCH and all but memory, the pool and what was held. -/
theorem dropHeld_only (s : State) (id : Nat) : ∃ held, ReleasesOnly { s with heldMessages := held } (dropHeld s id) :=
  ⟨_, foldl_releaseChain_only 3 _ _⟩

theorem dropHeld_kept (s : State) (id : Nat) : UnitRegsKept s (dropHeld s id) ∧ (dropHeld s id).lastDispatchFault = s.lastDispatchFault ∧
    (dropHeld s id).dispatches = s.dispatches ∧ (dropHeld s id).forage = s.forage ∧ (dropHeld s id).cores = s.cores := by
  obtain ⟨held, h⟩ := dropHeld_only s id
  exact ⟨h.regs, h.lastDispatchFault, h.dispatches, h.forage, h.cores⟩

/-- What a refused descriptor's fault leaves of the state in which it is found. -/
structure RefusalKept (v t : State) : Prop where
  tail : getReg t EXCH 0x028 = getReg v EXCH 0x028
  fault : t.lastDispatchFault = 1
  dispatches : t.dispatches = v.dispatches
  forage : t.forage = v.forage
  cores : t.cores = v.cores

theorem dispatchRefused_kept (v : State) (x : Dispatch) (d : DispDesc) : RefusalKept v (dispatchRefused v x d) := by
  obtain ⟨hcount, htidy⟩ : getReg (refusalCounted v) EXCH 0x028 = getReg v EXCH 0x028 ∧ Tidy v (count v EXCH 0x070 32) :=
    ⟨getReg_count_other (s := v) 32 (by decide), count_tidy ..⟩
  obtain ⟨hregs, hfault, hdispatches, hforage, hcores⟩ := dropHeld_kept (refusalCounted v) d.id
  rw [dispatchRefused]
  generalize dispatchRecord { x with fault := 1, faultRank := ownRank (refusalCounted v) } 0 = r
  generalize dropHeld (refusalCounted v) d.id = w at *
  have hrecord := ReleasesOnly.of_tidy (writeRecord_tidy (dispMaster d.list) w d.record r) (writeRecord_unitRegs _ w d.record r)
  exact ⟨((hregs.trans hrecord.regs).getReg (by decide) (by decide)).trans hcount, hrecord.lastDispatchFault.trans hfault,
    hrecord.dispatches.trans (hdispatches.trans htidy.dispatches), hrecord.forage.trans (hforage.trans htidy.forage),
    hrecord.cores.trans (hcores.trans htidy.cores)⟩

theorem armOf_unarmed {d : DispDesc} (h : d.arm = false) : armOf s d = (none, false) := if_neg (ne_true_of_eq_false h)

/-- A good descriptor that arrives whole is taken. -/
theorem exec_dispatchTake_taken (h : DescriptorRead s rd u) (hclean : rd.poison = []) (hgood : dispatchBad u (dispDesc (ofBytes rd.data)) = false) :
    exec .dispatchTake s =
      .next (dispatchTaken (exchTailAdvanced u (getReg s EXCH 0x028)) (takenDispatch rd (readTime u EXCH).1) (dispDesc (ofBytes rd.data))) := by
  refine congrArg Host.Outcome.next ((takeDispatch_eq h).trans (if_neg (ne_true_of_eq_false ?_)))
  rw [dispatchBad_exchTailAdvanced, hgood, hclean]
  rfl

/-- A poisoned descriptor, or one that R281 refuses, faults. -/
theorem exec_dispatchTake_refused (h : DescriptorRead s rd u) (hbad : rd.poison ≠ [] ∨ dispatchBad u (dispDesc (ofBytes rd.data)) = true) :
    exec .dispatchTake s =
      .next (dispatchRefused (exchTailAdvanced u (getReg s EXCH 0x028)) (takenDispatch rd (readTime u EXCH).1) (dispDesc (ofBytes rd.data))) := by
  refine congrArg Host.Outcome.next ((takeDispatch_eq h).trans (if_pos ?_))
  rw [dispatchBad_exchTailAdvanced]
  rcases hbad with hbad | hbad
  · simp [hbad]
  · rw [hbad, Bool.true_or]

/-- The list of a dispatch that is taken is OPEN with its counts at zero, and the others are as before. -/
theorem getList_dispatchTaken {v : State} (hv : v.forage = s.forage) (x : Dispatch) {d : DispDesc} (hd : d.list < s.forage.length) (k : Nat) :
    getList (dispatchTaken v x d) k =
      if k = d.list then { getList s d.list with state := 1, descs := [], waiting := [], total := 0, totalKnown := false, appended := 0, taken := 0 } else getList s k := by
  have hget (k : Nat) : getList v k = getList s k := by simp only [getList, hv]
  rw [← hget, ← hget]
  exact getList_setList (s := v) (hv ▸ hd) k _

end

/-- Settles O30: the descriptor read at the tail either opens its list as an active dispatch, or leaves its fault and its record; TAIL has advanced before either. -/
theorem exchangeTakes : Obligations.ExchangeTakes := by
  intro s tail size rd u d hready hregs hforage hworks hdisabling hfilled hsize hsize' hstate hlist hid
  have hread : DescriptorRead s rd u := ⟨⟨hready, hworks, hdisabling, hfilled, hsize, hsize'⟩, rfl, hstate, hlist, hid⟩
  have htidy : Tidy s u := readSpan_tidy (.dispatch 0) s _ 128
  have hd : d = dispDesc (ofBytes rd.data) := rfl
  clear_value d rd u
  subst hd
  have htail := getReg_exchTailAdvanced hregs tail
  refine ⟨fun hclean hgood => ?_, fun hbad => ?_⟩
  · have hlists := getList_dispatchTaken (v := exchTailAdvanced u tail) htidy.forage (takenDispatch rd (readTime u EXCH).1) (hforage ▸ dispDesc_list_lt (ofBytes rd.data))
    have hunarmed := armOf_unarmed (s := exchTailAdvanced u tail) (d := dispDesc (ofBytes rd.data))
    exact ⟨_, _, exec_dispatchTake_taken hread hclean hgood, htail, congrArg (· ++ _) htidy.dispatches, rfl, rfl, rfl, rfl,
      fun harm => ⟨congrArg Prod.fst (hunarmed harm), congrArg Prod.snd (hunarmed harm)⟩, (hlists _).trans (if_pos rfl), fun k hk => (hlists k).trans (if_neg hk),
      htidy.cores, dispatchTaken_memory ..⟩
  · obtain ⟨ktail, kfault, kdispatches, kforage, kcores⟩ :=
      dispatchRefused_kept (exchTailAdvanced u tail) (takenDispatch rd (readTime u EXCH).1) (dispDesc (ofBytes rd.data))
    exact ⟨_, exec_dispatchTake_refused hread hbad, ktail.trans htail, kdispatches.trans htidy.dispatches, kfault, kforage.trans htidy.forage,
      kcores.trans htidy.cores⟩

end Sys2Proof.Machine
end

section
/-! SUPPORT. The grants that an owner computes: their order, and what each takes of its slot's capacity; the statement on them (O33). -/

namespace Sys2Proof.Machine

/-! ### The grants of one slot -/

section
variable {counts : List (Nat × List (Nat × Nat × Nat))} {slot cap : Nat}

/-- One count is granted what the slot has left: the grants so far and what is left of its capacity (R291). -/
def grantStep (counts : List (Nat × List (Nat × Nat × Nat))) (slot cap : Nat) (acc : List Granted × Nat) (p : Nat × Nat) : List Granted × Nat :=
  let c := countOf counts p.2 slot p.1
  let g := min c acc.2
  (acc.1 ++ [{ src := p.2, slot := slot, rank := p.1, cnt := c, got := g, base := cap - acc.2 }], acc.2 - g)

/-- The choice ranks and source ranks of a slot's counts, in the order in which they are granted. -/
def grantOrder (d : DispDesc) : List (Nat × Nat) := (List.range d.kc).flatMap (fun r => (List.range d.size).map (fun m => (r, d.base + (d.rot + m) % d.size)))

theorem slotGrants_eq (d : DispDesc) : slotGrants d counts slot cap = ((grantOrder d).foldl (grantStep counts slot cap) ([], cap)).1 := rfl

/-- What a list of grants has given away. -/
def gotten (gs : List Granted) : Nat := sumNat (gs.map (·.got))

theorem gotten_append (gs hs : List Granted) : gotten (gs ++ hs) = gotten gs + gotten hs := by
  simp only [gotten, sumNat, ← List.sum_eq_foldl, List.map_append, List.sum_append]

/-- A grant of a slot behind others of that slot: what it counts, gets and starts from. -/
structure GrantedBehind (counts : List (Nat × List (Nat × Nat × Nat))) (slot cap : Nat) (before : List Granted) (g : Granted) : Prop where
  place : g.slot = slot
  room : gotten before ≤ cap
  cnt : g.cnt = countOf counts g.src slot g.rank
  got : g.got = min g.cnt (cap - gotten before)
  base : g.base = gotten before

theorem foldl_grantStep (ps : List (Nat × Nat)) :
    let r := ps.foldl (grantStep counts slot cap) ([], cap)
    r.1.map (fun g => (g.slot, g.rank, g.src)) = ps.map (fun p => (slot, p.1, p.2)) ∧ gotten r.1 + r.2 = cap ∧
      ∀ before g after, r.1 = before ++ g :: after → GrantedBehind counts slot cap before g := by
  induction ps using List.reverseRecOn with
  | nil => exact ⟨rfl, Nat.zero_add _, fun before g after h => by simp at h⟩
  | append_singleton ps p ih =>
    rw [List.foldl_append]
    generalize ps.foldl (grantStep counts slot cap) ([], cap) = acc at ih
    obtain ⟨hmap, hsum, hbehind⟩ := ih
    refine ⟨by simp [grantStep, hmap], ?_, fun before g after h => ?_⟩
    · simp only [List.foldl_cons, List.foldl_nil, grantStep, gotten_append]
      simp only [gotten, sumNat, List.map_cons, List.map_nil, List.foldl_cons, List.foldl_nil] at hsum ⊢
      omega
    · rcases List.eq_nil_or_concat after with rfl | ⟨after, z, rfl⟩
      · obtain ⟨rfl, hg⟩ := List.append_inj' h rfl
        obtain rfl := (List.cons.inj hg).1
        exact ⟨rfl, by omega, rfl, by simp only; congr 1; omega, by simp only; omega⟩
      · rw [List.concat_eq_append, ← List.cons_append, ← List.append_assoc] at h
        exact hbehind before g after (List.append_inj' h rfl).1

end

/-! ### The grants of all slots -/

/-- Where an element of a concatenation stands. -/
theorem flatMap_split {α β : Type} {f : α → List β} {xs : List α} {before after : List β} {b : β} (h : xs.flatMap f = before ++ b :: after) :
    ∃ l x r p q, xs = l ++ x :: r ∧ f x = p ++ b :: q ∧ before = l.flatMap f ++ p := by
  induction xs generalizing before with
  | nil => simp at h
  | cons x xs ih =>
    rw [List.flatMap_cons, List.append_eq_append_iff] at h
    rcases h with ⟨c, rfl, hc⟩ | ⟨c, hc, hrest⟩
    · obtain ⟨l, y, r, p, q, rfl, hy, rfl⟩ := ih hc
      exact ⟨x :: l, y, r, p, q, rfl, hy, by simp⟩
    · cases c with
      | nil =>
        obtain ⟨l, y, r, p, q, rfl, hy, hp⟩ := ih (before := []) hrest.symm
        exact ⟨x :: l, y, r, p, q, rfl, hy, by simp_all⟩
      | cons c cs =>
        obtain ⟨rfl, -⟩ := List.cons.inj hrest
        exact ⟨[], x, xs, before, cs, rfl, hc, rfl⟩

/-- The grants of a slot that its number is paired with. -/
def slotShare (x : Dispatch) (p : SlotSnap × Nat) : List Granted := if p.1.valid then slotGrants x.d x.counts p.2 p.1.capacity else []

theorem allGrants_eq (x : Dispatch) : allGrants x = x.slots.zipIdx.flatMap (slotShare x) := rfl

theorem slotShare_order (x : Dispatch) (p : SlotSnap × Nat) : (slotShare x p).map (fun g => (g.slot, g.rank, g.src)) =
    if p.1.valid then (List.range x.d.kc).flatMap (fun r => (List.range x.d.size).map (fun m => (p.2, r, x.d.base + (x.d.rot + m) % x.d.size))) else [] := by
  unfold slotShare
  split
  · rw [slotGrants_eq, (foldl_grantStep _).1, grantOrder, List.map_flatMap]
    simp only [List.map_map, Function.comp_def]
  · rfl

theorem slotShare_behind {x : Dispatch} {p : SlotSnap × Nat} {before after : List Granted} {g : Granted} (h : slotShare x p = before ++ g :: after) :
    GrantedBehind x.counts p.2 p.1.capacity before g := by
  unfold slotShare at h
  split at h
  · exact (foldl_grantStep (grantOrder x.d)).2.2 before g after h
  · simp at h

theorem slot_of_mem_slotShare {x : Dispatch} {p : SlotSnap × Nat} {g : Granted} (h : g ∈ slotShare x p) : g.slot = p.2 := by
  obtain ⟨before, after, hsplit⟩ := List.append_of_mem h
  exact (slotShare_behind hsplit).place

/-- The grants of one slot are those of its own share. -/
theorem filter_slot {x : Dispatch} {l r : List (SlotSnap × Nat)} {p : SlotSnap × Nat} {before after : List Granted} {g : Granted}
    (hslots : x.slots.zipIdx = l ++ p :: r) (hshare : slotShare x p = before ++ g :: after) :
    (l.flatMap (slotShare x) ++ before).filter (fun h => h.slot == p.2) = before := by
  have hnodup : ((l ++ p :: r).map Prod.snd).Nodup := by
    rw [← hslots, List.zipIdx_map_snd]
    exact List.nodup_range'
  have hother : (l.flatMap (slotShare x)).filter (fun h => h.slot == p.2) = [] := by
    refine List.filter_eq_nil_iff.mpr fun h hh heq => ?_
    obtain ⟨q, hq, hmem⟩ := List.mem_flatMap.mp hh
    rw [slot_of_mem_slotShare hmem, beq_iff_eq] at heq
    rw [List.map_append, List.nodup_append] at hnodup
    exact hnodup.2.2 q.2 (List.mem_map_of_mem hq) p.2 List.mem_cons_self heq
  have hown : before.filter (fun h => h.slot == p.2) = before :=
    List.filter_eq_self.mpr fun h hh => beq_iff_eq.mpr (slot_of_mem_slotShare (hshare ▸ List.mem_append_left _ hh))
  rw [List.filter_append, hother, hown, List.nil_append]

/-- Settles O33: slot by slot, each grant takes what the ones before it in its slot have left. -/
theorem grantsFill : Obligations.GrantsFill := by
  refine fun x => ⟨?_, fun before after g h => ?_⟩
  · rw [allGrants_eq, List.map_flatMap]
    exact congrArg (List.flatMap · _) (funext (slotShare_order x))
  · obtain ⟨l, p, r, own, rest, hslots, hshare, rfl⟩ := flatMap_split (allGrants_eq x ▸ h)
    obtain ⟨hslot, hroom, hcnt, hgot, hbase⟩ := slotShare_behind hshare
    have hsnap : x.slots[p.2]? = some p.1 := List.mem_zipIdx_iff_getElem?.mp (hslots ▸ List.mem_append_right _ List.mem_cons_self)
    simp only [hslot, hsnap, Option.elim_some, filter_slot hslots hshare]
    exact ⟨hroom, hcnt, hgot, hbase⟩

end Sys2Proof.Machine
end

section
/-! SUPPORT. The dispatch of a list: what updates, reads, writes, faults, messages and requests for cells leave of it, of the cores and of what is held. -/

namespace Sys2Proof.Machine

/-! ### Updates of the elements of a list that a test selects -/

section
variable {α β : Type} {p q : α → Bool} {f : α → α}

theorem find?_mapIf (hf : ∀ x, q (f x) = q x) (xs : List α) : (mapIf p f xs).find? q = (xs.find? q).map (fun x => if p x then f x else x) := by
  have hq (x : α) : q (if p x then f x else x) = q x := by
    split
    · exact hf x
    · rfl
  simp only [mapIf, List.find?_map, Function.comp_def, hq]

theorem map_mapIf {g : α → β} (hg : ∀ x, g (f x) = g x) (xs : List α) : (mapIf p f xs).map g = xs.map g := by
  rw [mapIf, List.map_map]
  refine List.map_congr_left fun x _ => ?_
  simp only [Function.comp]
  split
  · exact hg x
  · rfl

theorem mem_mapIf {x : α} {xs : List α} (hx : x ∈ xs) (hp : p x = true) : f x ∈ mapIf p f xs := List.mem_map.mpr ⟨x, hx, if_pos hp⟩

end

section
variable {s t u : State} {l : Nat} {x : Dispatch}

/-! ### The dispatch of a list -/

theorem list_of_byList (h : byList s l = some x) : x.list = l := by
  simpa using List.find?_some h

theorem byList_congr (h : t.dispatches = s.dispatches) (l : Nat) : byList t l = byList s l := by rw [byList, byList, h]

theorem byList_updDispatch {f : Dispatch → Dispatch} (s : State) (hf : ∀ y, (f y).list = y.list) : byList (updDispatch s l f) l = (byList s l).map f := by
  have hlist (y : Dispatch) : ((f y).list == l) = (y.list == l) := by rw [hf]
  refine (find?_mapIf hlist s.dispatches).trans (Option.map_congr fun y hy => if_pos (beq_iff_eq.mpr (list_of_byList hy)))

theorem byList_updDispatch_self {f : Dispatch → Dispatch} (hx : byList s l = some x) (hf : ∀ y, (f y).list = y.list := by intro; rfl) :
    byList (updDispatch s l f) l = some (f x) := by
  rw [byList_updDispatch s hf, hx]
  rfl

theorem byList_updDispatch_ne {f : Dispatch → Dispatch} {k : Nat} (hk : k ≠ l) (s : State) (hf : ∀ y, (f y).list = y.list) :
    byList (updDispatch s l f) k = byList s k := by
  have hlist (y : Dispatch) : ((f y).list == k) = (y.list == k) := by rw [hf]
  refine (find?_mapIf hlist s.dispatches).trans ((Option.map_congr fun y hy => if_neg ?_).trans (Option.map_id_apply ..))
  simpa [list_of_byList hy] using hk

/-! ### Steps that keep part of the dispatch of a list -/

/-- A step that keeps what p shows of the dispatch of list l, the cores, and the messages that are held. -/
structure DispKeeps {α : Type} (l : Nat) (p : Dispatch → α) (s t : State) : Prop where
  own : (byList t l).map p = (byList s l).map p
  cores : t.cores = s.cores
  held : t.heldMessages = s.heldMessages

section
variable {α : Type} {p : Dispatch → α}

theorem DispKeeps.refl (s : State) : DispKeeps l p s s := ⟨rfl, rfl, rfl⟩

theorem DispKeeps.trans (h : DispKeeps l p s t) (g : DispKeeps l p t u) : DispKeeps l p s u :=
  ⟨g.own.trans h.own, g.cores.trans h.cores, g.held.trans h.held⟩

/-- Two steps, the second named first: it fixes the state between them. -/
theorem DispKeeps.after (g : DispKeeps l p t u) (h : DispKeeps l p s t) : DispKeeps l p s u := h.trans g

theorem DispKeeps.ite {c : Prop} [Decidable c] (h : DispKeeps l p s t) (g : DispKeeps l p s u) : DispKeeps l p s (if c then t else u) := by
  split
  · exact h
  · exact g

theorem DispKeeps.of_dispatches (h : t.dispatches = s.dispatches) (hc : t.cores = s.cores) (hh : t.heldMessages = s.heldMessages) : DispKeeps l p s t :=
  ⟨by rw [byList_congr h], hc, hh⟩

theorem DispKeeps.updDispatch {f : Dispatch → Dispatch} (s : State) (hf : ∀ y, (f y).list = y.list := by intro; rfl)
    (hp : ∀ y, p (f y) = p y := by intro; rfl) : DispKeeps l p s (updDispatch s l f) := by
  refine ⟨?_, rfl, rfl⟩
  rw [byList_updDispatch s hf, Option.map_map]
  exact congrArg (fun g => (byList s l).map g) (funext hp)

theorem DispKeeps.foldl {β : Type} {f : State → β → State} (h : ∀ s b, DispKeeps l p s (f s b)) (bs : List β) (s : State) :
    DispKeeps l p s (bs.foldl f s) := by
  induction bs generalizing s with
  | nil => exact .refl s
  | cons b bs ih => exact (h s b).trans (ih _)

theorem DispKeeps.weaken {β : Type} (h : DispKeeps l p s t) {q : Dispatch → β} (f : α → β) (hq : ∀ y, q y = f (p y) := by intro; rfl) :
    DispKeeps l q s t := by
  have hqp : q = f ∘ p := funext hq
  exact ⟨by rw [hqp, ← Option.map_map, ← Option.map_map, h.own], h.cores, h.held⟩

/-- The dispatch after such a step. -/
theorem DispKeeps.some (h : DispKeeps l p s t) (hx : byList s l = some x) : ∃ y, byList t l = some y ∧ p y = p x := by
  have hown := h.own
  rw [hx, Option.map_some] at hown
  exact Option.map_eq_some_iff.mp hown

theorem Tidy.keeps (h : Tidy s t) : DispKeeps l p s t := .of_dispatches h.dispatches h.cores (congrArg State.heldMessages h.rest :)

theorem NetTidy.keeps (h : NetTidy s t) : DispKeeps l p s t := .of_dispatches h.dispatches h.cores h.heldMessages

theorem PoolOnly.keeps (h : PoolOnly s t) : DispKeeps l p s t := .of_dispatches h.dispatches h.cores (congrArg State.heldMessages h :)

end

/-! ### What reads, writes, faults and requests change of it -/

/-- A tile without what a request for cells and its append set. -/
def TileState.standing (t : TileState) : TileState := { t with request := none, seq := none }

/-- A dispatch without what reads count and requests for cells set. -/
def Dispatch.unread (x : Dispatch) : Dispatch := { x with tiles := x.tiles.map TileState.standing, poisonReads := 0, corrReads := 0 }

/-- A dispatch without what faults, appended tiles and sent returns change beside that. -/
def Dispatch.standing (x : Dispatch) : Dispatch :=
  { x.unread with phase := 0, returnsSent := 0, fault := 0, faultRank := 0, faultSlot := 0, faultPos := 0 }

theorem DispKeeps.standing (h : DispKeeps l Dispatch.unread s t) : DispKeeps l Dispatch.standing s t :=
  h.weaken (fun y => { y with phase := 0, returnsSent := 0, fault := 0, faultRank := 0, faultSlot := 0, faultPos := 0 })

theorem dispRead_keeps (s : State) (l a n : Nat) : DispKeeps l Dispatch.unread s (dispRead s l a n).2.2 := (readSpan_tidy ..).keeps.trans (.updDispatch _)

section
variable {α : Type} {p : Dispatch → α}

theorem dispSend_keeps (s : State) (k dst : Nat) (w : Message) : DispKeeps l p s (dispSend s k dst w) := by
  unfold dispSend
  split
  · exact .ite (sendMessage_net ..).keeps (.refl s)
  · exact .refl s

theorem setList_keeps (s : State) (k : Nat) (f : ForageList) : DispKeeps l p s (setList s k f) := .of_dispatches rfl rfl rfl

theorem serveList_keeps (s : State) (k : Nat) : DispKeeps l p s (serveList s k) := (countN_tidy ..).keeps.after (setList_keeps ..)

theorem setTotal_keeps (s : State) (k total : Nat) : DispKeeps l p s (setTotal s k total) := (serveList_keeps ..).after (setList_keeps ..)

theorem appendDesc_keeps (s : State) (k : Nat) (d : BitVec 256) : DispKeeps l p s (appendDesc s k d) :=
  .ite (((serveList_keeps ..).after (count_tidy ..).keeps).after (setList_keeps ..)) (setList_keeps ..)

end

theorem updTile_keeps {f : TileState → TileState} (s : State) (i : Nat) (hf : ∀ t, (f t).standing = t.standing := by intro; rfl) :
    DispKeeps l Dispatch.unread s (updTile s l i f) :=
  .updDispatch s (fun _ => rfl) fun y => by simp only [Dispatch.unread, map_mapIf hf]

theorem requestTile_keeps (s : State) (l : Nat) : DispKeeps l Dispatch.unread s (requestTile s l) := by
  unfold requestTile
  split
  · exact .refl s
  · split
    · exact .ite (.refl s) ((updTile_keeps _ _).after (requestCells_only ..).keeps)
    · exact .refl s

theorem notePhase_keeps (s : State) (l : Nat) : DispKeeps l Dispatch.standing s (notePhase s l) :=
  .updDispatch s (fun y => by split <;> rfl) fun y => by split <;> rfl

theorem appendTile_keeps (s : State) (l i : Nat) : DispKeeps l Dispatch.standing s (appendTile s l i) := by
  unfold appendTile
  split
  · exact .refl s
  · split
    · exact .refl s
    · dsimp only
      refine .ite (.refl s) ((((notePhase_keeps ..).after (appendDesc_keeps ..)).after (DispKeeps.standing (updTile_keeps _ _))).after ?_)
      split
      · exact (dropRequest_only ..).keeps
      · exact .refl s

/-! ### Faults and writes -/

/-- What a fault makes of a dispatch (R312). -/
def Dispatch.faulted (x : Dispatch) (code rank slot pos : Nat) : Dispatch := { x with fault := code, faultRank := rank, faultSlot := slot, faultPos := pos }

/-- The fault is counted and noted as the last one. -/
def faultNoted (s : State) (l code rank slot pos : Nat) : State :=
  { count (updDispatch s l (fun x => x.faulted code rank slot pos)) EXCH 0x070 32 with lastDispatchFault := code }

/-- A first fault is noted; but for a refused descriptor, the dispatch's unsent messages are given up and aborts are sent (R313). -/
theorem faultDispatch_noted (hx : byList s l = some x) (h0 : x.fault = 0) (code rank slot pos : Nat) :
    ∃ v, (v = faultNoted s l code rank slot pos ∨ v = dropUnsent (faultNoted s l code rank slot pos) 1 x.d.id) ∧
      NetTidy v (faultDispatch s l code rank slot pos) := by
  unfold faultDispatch
  simp only [hx, h0, ne_eq, not_true_eq_false, if_false]
  split
  · exact ⟨_, .inl rfl, .refl _⟩
  · exact ⟨_, .inr rfl, netTidy_foldl (fun s r => sendMessage_net ..) _ _⟩

/-- A first fault stands (R312). -/
theorem faultDispatch_stands (hx : byList s l = some x) (h0 : x.fault ≠ 0) (code rank slot pos : Nat) : faultDispatch s l code rank slot pos = s := by
  simp only [faultDispatch, hx, ne_eq, h0, not_false_eq_true, if_true]

theorem faultDispatch_none (hx : byList s l = none) (code rank slot pos : Nat) : faultDispatch s l code rank slot pos = s := by
  simp only [faultDispatch, hx]

/-- A dispatch's first fault: its code and place, and EXCH's last fault. -/
theorem faultDispatch_faults (hx : byList s l = some x) (h0 : x.fault = 0) (code rank slot pos : Nat) :
    byList (faultDispatch s l code rank slot pos) l = some (x.faulted code rank slot pos) ∧ (faultDispatch s l code rank slot pos).lastDispatchFault = code := by
  obtain ⟨v, hv, hnet⟩ := faultDispatch_noted hx h0 code rank slot pos
  have hnoted : v.dispatches = (updDispatch s l (fun x => x.faulted code rank slot pos)).dispatches ∧ v.lastDispatchFault = code := by
    rcases hv with rfl | rfl <;> exact ⟨rfl, rfl⟩
  exact ⟨(byList_congr (hnet.dispatches.trans hnoted.1) l).trans (byList_updDispatch_self hx), (congrArg State.lastDispatchFault hnet.rest :).trans hnoted.2⟩

theorem faultDispatch_keeps (s : State) (l code rank slot pos : Nat) : DispKeeps l Dispatch.standing s (faultDispatch s l code rank slot pos) := by
  cases hx : byList s l with
  | none => rw [faultDispatch_none hx]; exact .refl s
  | some x =>
    by_cases h0 : x.fault = 0
    · obtain ⟨v, hv, hnet⟩ := faultDispatch_noted hx h0 code rank slot pos
      have hnoted : DispKeeps l Dispatch.standing s (faultNoted s l code rank slot pos) :=
        (DispKeeps.updDispatch (f := fun x => x.faulted code rank slot pos) s).trans (.of_dispatches rfl rfl rfl)
      refine hnet.keeps.after ?_
      rcases hv with rfl | rfl
      · exact hnoted
      · exact hnoted.trans (.of_dispatches rfl rfl rfl)
    · rw [faultDispatch_stands hx h0]
      exact .refl s

/-- A write to the stores of the cores faults nothing. -/
theorem dispWrite_mapped (s : State) (l : Nat) {a : Nat} {bs : List Byte} (h : CoreSpan a bs.length) (poison : List Nat) :
    dispWrite s l a bs poison = (writeSpan (dispMaster l) s a bs (poison.map (· + a / 32))).2 := by
  have hmapped : (writeSpan (dispMaster l) s a bs (poison.map (· + a / 32))).1 = false := by
    simp only [writeSpan, pieces_mapped h, Option.isSome_none]
  simp only [dispWrite, hmapped, Bool.false_eq_true, if_false]

theorem dispWrite_keeps (s : State) (l a : Nat) (bs : List Byte) (poison : List Nat) : DispKeeps l Dispatch.standing s (dispWrite s l a bs poison) :=
  (DispKeeps.ite (faultDispatch_keeps ..) (.refl _)).after (writeSpan_tidy ..).keeps

end

end Sys2Proof.Machine
end

section
/-! SUPPORT. Scout, grant and abort messages that reach a started dispatch; the statement on scouts and grants (O32). -/

namespace Sys2Proof.Machine

/-- A message whose frames are accepted acts on the state of its arrival (R469). -/
theorem receive_accepted {s : State} {via : Via} (ha : accepted s via) (kind flow src : Nat) (act : State → State) :
    receive s via kind flow src act = act (arrivalOf s via kind flow src) := by
  have hpair : acceptFrames s via = (true, (acceptFrames s via).2) := Prod.ext ha rfl
  rw [receive, hpair]
  rfl

section
variable {u : State} {x : Dispatch} {h : DispatchHeader}

/-- The state in which a message of a started dispatch arrives, where no message of it is deferred. -/
structure Reached (u : State) (h : DispatchHeader) (x : Dispatch) : Prop where
  id : byId u h.dispatchId.toNat = some x
  list : byList u x.list = some x
  live : x.live = true
  awaited : u.awaited = []
  gen : h.gen.toNat = x.d.gen

/-- A message of a started dispatch applies at once (R290). -/
theorem dispMessage_reached (hr : Reached u h x) (bs : List Byte) (mk : Nat → HeldMessage) (apply : State → Nat → State) :
    dispMessage u h bs mk apply = apply u x.list := by
  obtain ⟨hstarted, -⟩ : x.started.isSome = true ∧ x.fault = 0 := by simpa [Dispatch.live] using hr.live
  simp only [dispMessage, hr.id, hstarted, Bool.true_or, if_true, directMessage, hr.awaited, List.find?_nil]

/-! ### Scouts, R290 -/

/-- A scout of the dispatch's group, the first of its source, with the dispatch's own placement table, and which is not the last one. -/
structure KeptScout (x : Dispatch) (h : DispatchHeader) (es : List ScoutEntry) : Prop where
  forward : x.d.back = false
  source : x.d.base ≤ h.srcRank.toNat ∧ h.srcRank.toNat < x.d.base + x.d.size
  first : x.counts.any (fun c => c.1 == h.srcRank.toNat) = false
  digest : h.digest = x.digest
  slots : ∀ e ∈ es, ∃ t, x.slots[e.slot.toNat]? = some t ∧ t.valid = true
  more : x.counts.length + 1 ≠ x.d.size

theorem takeScout_kept {es : List ScoutEntry} (hr : Reached u h x) (hk : KeptScout x h es) :
    takeScout u x.list h es = updDispatch u x.list (fun y =>
      { y with counts := x.counts ++ [(h.srcRank.toNat, es.map (fun e => (e.slot.toNat, e.rank.toNat, e.count.toNat)))] }) := by
  obtain ⟨hforward, ⟨hlo, hhi⟩, hfirst, hdigest, hslots, hmore⟩ := hk
  have hvalid : es.find? (fun e => !((x.slots[e.slot.toNat]?).map (·.valid)).getD false) = none := List.find?_eq_none.mpr fun e he => by
    obtain ⟨t, ht, hv⟩ := hslots e he
    simp [ht, hv]
  have hnew : (x.counts ++ [(h.srcRank.toNat, es.map (fun e => (e.slot.toNat, e.rank.toNat, e.count.toNat)))]).length ≠ x.d.size := by
    simpa only [List.length_append, List.length_singleton] using hmore
  simp only [takeScout, hr.list, hr.live, hr.gen, hforward, Nat.not_lt.mpr hlo, Nat.not_le.mpr hhi, hfirst, hdigest, hvalid, hnew, Bool.not_true, Bool.false_eq_true,
    ne_eq, not_true_eq_false, or_self, if_false]

/-! ### Grants, R292 -/

/-- A choice waits for a grant of an owner's count. -/
def waitsFor (src : Nat) (e : GrantEntry) (c : Choice) : Bool := decide (c.status = 3 ∧ c.owner = src ∧ c.slot = e.slot.toNat ∧ c.rank = e.rank.toNat)

/-- The choice that the count reaches after `before` others: admitted while the grant lasts, and skipped behind it. -/
def decided (e : GrantEntry) (before : Nat) (c : Choice) : Choice :=
  if before < e.granted.toNat then { c with status := 1, pos := e.base.toNat + before } else { c with status := 2 }

/-- A grant goes along the choices, counting those that wait for it. -/
def grantChoice (src : Nat) (e : GrantEntry) (acc : List Choice × Nat) (c : Choice) : List Choice × Nat :=
  if c.status = 3 ∧ c.owner = src ∧ c.slot = e.slot.toNat ∧ c.rank = e.rank.toNat then (acc.1 ++ [decided e acc.2 c], acc.2 + 1) else (acc.1 ++ [c], acc.2)

theorem grantChoice_eq (src : Nat) (e : GrantEntry) (acc : List Choice × Nat) (c : Choice) :
    grantChoice src e acc c = (acc.1 ++ [if waitsFor src e c then decided e acc.2 c else c], acc.2 + if waitsFor src e c then 1 else 0) := by
  simp only [grantChoice, waitsFor, decide_eq_true_eq]
  split <;> rfl

/-- The k-th choice after a grant: decided by the number of those before it that waited, where it waited itself. -/
theorem getElem?_foldl_grantChoice (src : Nat) (e : GrantEntry) (cs : List Choice) :
    let r := cs.foldl (grantChoice src e) ([], 0)
    r.1.length = cs.length ∧ r.2 = cs.countP (waitsFor src e) ∧
      ∀ k : Nat, r.1[k]? = (cs[k]?).map (fun c => if waitsFor src e c then decided e ((cs.take k).countP (waitsFor src e)) c else c) := by
  induction cs using List.reverseRecOn with
  | nil => exact ⟨rfl, rfl, fun k => rfl⟩
  | append_singleton cs c ih =>
    rw [List.foldl_append]
    generalize cs.foldl (grantChoice src e) ([], 0) = acc at ih
    obtain ⟨hlen, hcount, hget⟩ := ih
    simp only [List.foldl_cons, List.foldl_nil, grantChoice_eq]
    refine ⟨by simp [hlen], by rw [List.countP_append, hcount, List.countP_singleton], fun k => ?_⟩
    rcases Nat.lt_trichotomy k cs.length with hk | rfl | hk
    · rw [List.getElem?_append_left (by omega), List.getElem?_append_left hk, List.take_append_of_le_length (by omega)]
      exact hget k
    · rw [← hlen, List.getElem?_concat_length, hlen, List.getElem?_concat_length, List.take_left, ← hcount]
      rfl
    · rw [List.getElem?_eq_none (by simp; omega), List.getElem?_eq_none (by simp; omega)]
      rfl

/-- A grant message of one count that is not the last decides its choices, and nothing else (R292). -/
theorem takeGrant_one {e : GrantEntry} (hr : Reached u h x) (hforward : x.d.back = false) (hlo : x.d.base ≤ h.srcRank.toNat)
    (hhi : h.srcRank.toNat < x.d.base + x.d.size) (hfirst : x.grantsFrom.contains h.srcRank.toNat = false) (hmore : x.grantsFrom.length + 1 ≠ x.d.size) :
    takeGrant u x.list h [e] = updDispatch u x.list (fun y =>
      { y with choices := (y.choices.foldl (grantChoice h.srcRank.toNat e) ([], 0)).1, grantsFrom := x.grantsFrom ++ [h.srcRank.toNat] }) := by
  have hnew : (x.grantsFrom ++ [h.srcRank.toNat]).length ≠ x.d.size := by simpa only [List.length_append, List.length_singleton] using hmore
  simp only [takeGrant, hr.list, hr.live, hr.gen, hforward, Nat.not_lt.mpr hlo, Nat.not_le.mpr hhi, hfirst, hnew, Bool.not_true, Bool.false_eq_true,
    ne_eq, not_true_eq_false, or_self, if_false, List.foldl_cons, List.foldl_nil]
  rfl

end

/-- Settles O32: both messages act at once on the dispatch that has started, and a grant counts the choices that wait for it from the front. -/
theorem exchangeCounts : Obligations.ExchangeCounts := by
  intro s via x h src u ha hid hlist hlive hawaited hgen hforward hlo hhi
  have hr : Reached u h x := ⟨hid, hlist, hlive, hawaited, hgen⟩
  refine ⟨fun es hfirst hdigest hslots hmore => ?_, fun e hfirst hmore => ?_⟩
  · have hkept : KeptScout x h es := ⟨hforward, ⟨hlo, hhi⟩, hfirst, hdigest, hslots, hmore⟩
    exact congrArg Host.Outcome.next ((receive_accepted ha ..).trans ((dispMessage_reached hr ..).trans (takeScout_kept hr hkept)))
  · exact ⟨_, _, congrArg Host.Outcome.next ((receive_accepted ha ..).trans ((dispMessage_reached hr ..).trans (takeGrant_one hr hforward hlo hhi hfirst hmore))),
      byList_updDispatch_self hlist, rfl, rfl, ⟨rfl, rfl, rfl⟩, (getElem?_foldl_grantChoice src e x.choices).2.2⟩

end Sys2Proof.Machine
end

section
/-! SUPPORT. Aborts, time-outs and ends of dispatches; the statement on the three commands (O35). -/

namespace Sys2Proof.Machine

section
variable {s t u : State} {l : Nat} {x : Dispatch}

theorem Dispatch.fault_of_live (h : x.live = true) : x.fault = 0 := by
  simp only [Dispatch.live, Bool.and_eq_true, beq_iff_eq] at h
  exact h.2

/-! ### Aborts and time-outs -/

theorem takeAbort_reached {h : DispatchHeader} (hr : Reached u h x) : takeAbort u x.list h = faultDispatch u x.list 0xD h.srcRank.toNat 0 0 := by
  simp only [takeAbort, hr.list, hr.live, hr.gen, Bool.not_true, Bool.false_eq_true, ne_eq, not_true_eq_false, if_false]

/-- The first fault of a dispatch stands, and a dispatch without one takes the new one (R312). -/
theorem faultDispatch_first (hx : byList s l = some x) (code rank slot pos : Nat) :
    ∃ y, byList (faultDispatch s l code rank slot pos) l = some y ∧ y.fault = (if x.fault = 0 then code else x.fault) ∧
      (x.fault = 0 → (faultDispatch s l code rank slot pos).lastDispatchFault = code) := by
  by_cases h0 : x.fault = 0
  · obtain ⟨hfault, hlast⟩ := faultDispatch_faults hx h0 code rank slot pos
    exact ⟨_, hfault, (if_pos h0).symm, fun _ => hlast⟩
  · rw [faultDispatch_stands hx h0]
    exact ⟨x, hx, (if_neg h0).symm, fun h => absurd h h0⟩

/-- A dispatch that has started is late by EXCH's reading of the timebase. -/
theorem exec_dispatchTimeout {k : Fin 4} {st : Nat} (hx : byList s k.val = some x) (hst : x.started = some st) :
    exec (.dispatchTimeout k) s = .next (
      if getReg s EXCH 0x030 ≠ 0 ∧ getReg s EXCH 0x030 < (readTime s EXCH).1 - st then
        faultDispatch (readTime s EXCH).2 k.val 0xC (ownRank (readTime s EXCH).2) 0 0
      else (readTime s EXCH).2) := by
  refine congrArg Host.Outcome.next ?_
  simp only [hx, hst]

/-! ### Ends -/

/-- A write of a dispatch that is mapped, or whose dispatch has faulted before, is an operation on memory alone. -/
theorem dispWrite_tidy (hx : byList s l = some x) {a : Nat} {bs : List Byte} (h : x.fault ≠ 0 ∨ CoreSpan a bs.length) (poison : List Nat) :
    Tidy s (dispWrite s l a bs poison) := by
  have hspan := writeSpan_tidy (dispMaster l) s a bs (poison.map (· + a / 32))
  rcases h with hfault | hin
  · have hstands := faultDispatch_stands ((byList_congr hspan.dispatches l).trans hx) hfault
    unfold dispWrite
    dsimp only
    rw [hstands, ite_self]
    exact hspan
  · rw [dispWrite_mapped s l hin]
    exact hspan

/-- The return slot of a token's choice of a rank. -/
def Dispatch.returnSlot (x : Dispatch) (token rank : Nat) : Nat := x.d.ret + 32 * x.d.retPitch * (token * x.d.kc + rank)

/-- The zeros in the return slots of choices that were not admitted touch memory alone, where those are mapped or the dispatch has faulted (R307). -/
theorem zeroSlots_tidy (hx : byList s l = some x) (h : x.fault ≠ 0 ∨ ∀ c ∈ x.choices, c.status ≠ 1 → inTile (x.returnSlot c.token c.rank) x.d.rowBytes) :
    Tidy s (zeroSlots s l x) := by
  have hall (cs : List Choice) (hcs : ∀ c ∈ cs, x.fault ≠ 0 ∨ inTile (x.returnSlot c.token c.rank) x.d.rowBytes) (u : State) (hu : byList u l = some x) :
      Tidy u (cs.foldl (fun s c => dispWrite s l (x.returnSlot c.token c.rank) (List.replicate x.d.rowBytes 0) []) u) := by
    induction cs generalizing u with
    | nil => exact .refl u
    | cons c cs ih =>
      have hfirst : Tidy u (dispWrite u l (x.returnSlot c.token c.rank) (List.replicate x.d.rowBytes 0) []) :=
        dispWrite_tidy hu ((hcs c List.mem_cons_self).imp_right fun hin => coreSpan_inTile hin le_rfl (by simp)) []
      exact hfirst.trans (ih (fun d hd => hcs d (List.mem_cons_of_mem _ hd)) _ ((byList_congr hfirst.dispatches l).trans hu))
  unfold zeroSlots
  split
  · refine hall _ (fun c hc => ?_) s hx
    obtain ⟨hmem, hstatus⟩ := List.mem_filter.mp hc
    exact h.imp_right fun hin => hin c hmem (by simpa using hstatus)
  · exact .refl s

/-- What is in flight of a dispatch is no matter of memory. -/
theorem dispatchOver_tidy (h : Tidy s t) (x : Dispatch) : dispatchOver t x = dispatchOver s x := by
  have hmessages : t.messages = s.messages := (congrArg State.messages h.rest :)
  have hdeferred : t.deferred = s.deferred := (congrArg State.deferred h.rest :)
  have hlooped : t.looped = s.looped := (congrArg State.looped h.rest :)
  have hack : acknowledged t = acknowledged s := by
    funext m
    simp only [acknowledged, hdeferred, hlooped, h.lanes]
  have hflight : inFlight t = inFlight s := by
    funext m
    simp only [inFlight, hack]
  simp only [dispatchOver, dispatchDone, dispMessages, hmessages, hflight, hack]

/-- The phase of a dispatch whose every row has come and gone (R314). -/
def Dispatch.completed (x : Dispatch) : Dispatch := if x.fault = 0 then { x with phase := 4 } else x

theorem Dispatch.completed_list (x : Dispatch) : x.completed.list = x.list := by
  unfold Dispatch.completed
  split <;> rfl

theorem dispatchOver_completed (s : State) (x : Dispatch) : dispatchOver s x.completed = dispatchOver s x := by
  unfold Dispatch.completed
  split <;> rfl

/-- A deferred disable of EXCH changes nothing but block states. -/
theorem settle_exch (s : State) : ∃ bs, settle s EXCH = { s with blocks := bs } := by
  have hon (u : State) : onDisable u EXCH = u := rfl
  unfold settle disableNow
  simp only [hon]
  split
  · split
    · exact ⟨_, rfl⟩
    · exact ⟨_, rfl⟩
  · exact ⟨_, rfl⟩

theorem dropAwaited_dispatches (s : State) (kind flow : Nat) : (dropAwaited s kind flow).dispatches = s.dispatches := by
  have hall (ws : List Awaited) (u : State) :
      (ws.foldl (fun s w => match w.request with | some id => dropRequest s id | none => s) u).dispatches = u.dispatches := by
    induction ws generalizing u with
    | nil => rfl
    | cons w ws ih =>
      rw [List.foldl_cons, ih]
      split
      · exact (dropRequest_only ..).dispatches
      · rfl
  exact hall _ s

/-- The end of a dispatch that is over: its record, and the messages of its flow that end with it (R308, R314). -/
def endedDispatch (v : State) (l : Nat) (y : Dispatch) : State :=
  let w := writeRecord (dispMaster l) (dropAwaited (dropHeld v y.d.id) 1 y.d.id) y.d.record (dispatchRecord y (ackedReturns v y.d.id))
  settle (endFlow { w with dispatches := w.dispatches.filter (fun z => z.list != l) } 1 y.d.id) EXCH

theorem endedDispatch_dispatches (v : State) (l : Nat) (y : Dispatch) : (endedDispatch v l y).dispatches = v.dispatches.filter (fun z => z.list != l) := by
  unfold endedDispatch
  dsimp only
  generalize hw : writeRecord (dispMaster l) (dropAwaited (dropHeld v y.d.id) 1 y.d.id) y.d.record (dispatchRecord y (ackedReturns v y.d.id)) = w
  have hrecord : w.dispatches = v.dispatches := by
    rw [← hw]
    exact (writeRecord_tidy ..).dispatches.trans ((dropAwaited_dispatches ..).trans (dropHeld_kept v y.d.id).2.2.1)
  obtain ⟨bs, hsettle⟩ := settle_exch (endFlow { w with dispatches := w.dispatches.filter (fun z => z.list != l) } 1 y.d.id)
  rw [hsettle, ← hrecord]
  rfl

/-- A dispatch of which nothing remains ends (R308, R313). -/
theorem endDispatch_ends (hx : byList s l = some x) (hover : dispatchOver s x = true) (hzero : Tidy s (zeroSlots s l x)) :
    endDispatch s l = endedDispatch (updDispatch (zeroSlots s l x) l Dispatch.completed) l x.completed := by
  have hdone : byList (updDispatch (zeroSlots s l x) l Dispatch.completed) l = some x.completed :=
    byList_updDispatch_self ((byList_congr hzero.dispatches l).trans hx) Dispatch.completed_list
  have hstill : dispatchOver (updDispatch (zeroSlots s l x) l Dispatch.completed) x.completed = true :=
    (dispatchOver_completed _ x).trans ((dispatchOver_tidy hzero x).trans hover)
  have hend : endDispatch s l = (byList (updDispatch (zeroSlots s l x) l Dispatch.completed) l).elim (updDispatch (zeroSlots s l x) l Dispatch.completed) fun y =>
      if !dispatchOver (updDispatch (zeroSlots s l x) l Dispatch.completed) y then updDispatch (zeroSlots s l x) l Dispatch.completed
      else endedDispatch (updDispatch (zeroSlots s l x) l Dispatch.completed) l y := by
    simp only [endDispatch, hx, hover, if_true]
    change (match byList (updDispatch (zeroSlots s l x) l Dispatch.completed) l with | none => _ | some y => _) = _
    cases byList (updDispatch (zeroSlots s l x) l Dispatch.completed) l <;> rfl
  rw [hend, hdone, Option.elim_some, hstill]
  rfl

/-- The dispatches after an end: the list's own has gone, and the others stay. -/
theorem byList_endedDispatch (v : State) (l : Nat) (y : Dispatch) :
    byList (endedDispatch v l y) l = none ∧ ∀ k, k ≠ l → byList (endedDispatch v l y) k = byList v k := by
  have hfind (k : Nat) : byList (endedDispatch v l y) k = v.dispatches.find? (fun z => (z.list != l) && (z.list == k)) := by
    rw [byList, endedDispatch_dispatches, List.find?_filter]
    simp only [Bool.decide_and, Bool.decide_eq_true]
  refine ⟨(hfind l).trans (List.find?_eq_none.mpr fun z _ => by simp), fun k hk => (hfind k).trans (congrArg (List.find? · _) (funext fun z => ?_))⟩
  by_cases hz : z.list = k
  · simp [hz, hk]
  · simp [hz]

end

/-- Settles O35: an abort or a late reading is a first fault, and a dispatch that is over leaves the active ones with its record. -/
theorem exchangeEnds : Obligations.ExchangeEnds := by
  refine ⟨?_, ?_⟩
  · intro s via h x u ha hid hlist hlive hawaited hgen
    have hr : Reached u h x := ⟨hid, hlist, hlive, hawaited, hgen⟩
    obtain ⟨hfault, hlast⟩ := faultDispatch_faults hlist (Dispatch.fault_of_live hlive) 0xD h.srcRank.toNat 0 0
    exact ⟨_, _, congrArg Host.Outcome.next ((receive_accepted ha ..).trans ((dispMessage_reached hr ..).trans (takeAbort_reached hr))), hfault, rfl, rfl, hlast⟩
  intro s l x hx limit
  refine ⟨fun st hst hlimit hlate => ?_, fun st hst hin => ?_, fun hover hslots => ?_⟩
  · have hcounter := (readTime_bounds s EXCH).2.1
    obtain ⟨y, hy, hfault, hlast⟩ := faultDispatch_first (s := (readTime s EXCH).2) hx 0xC (ownRank (readTime s EXCH).2) 0 0
    exact ⟨_, y, (exec_dispatchTimeout hx hst).trans (congrArg Host.Outcome.next (if_pos ⟨hlimit, by omega⟩)), hy, hfault, hlast⟩
  · have hcounter := (readTime_bounds s EXCH).2.2
    exact ⟨_, (exec_dispatchTimeout hx hst).trans (congrArg Host.Outcome.next (if_neg fun h => by omega)), rfl, rfl, rfl, rfl, rfl, rfl⟩
  · have hzero := zeroSlots_tidy hx hslots
    obtain ⟨hgone, hothers⟩ := byList_endedDispatch (updDispatch (zeroSlots s l.val x) l.val Dispatch.completed) l.val x.completed
    refine ⟨_, congrArg Host.Outcome.next (endDispatch_ends hx hover hzero), hgone, fun k hk => (hothers k hk).trans ?_⟩
    rw [byList_updDispatch_ne hk _ Dispatch.completed_list, byList_congr hzero.dispatches]

end Sys2Proof.Machine
end

section
/-! SUPPORT. Bytes that a master writes to the cores' stores over clean codes, whatever poison arrives with them. -/

namespace Sys2Proof.Machine

/-- The bytes of a write are stored, poisoned or not. -/
theorem writeSpan_mem_clean {s : State} (m : Master) {a : Nat} {bs : List Byte} (poison : List Nat) (ha : CoreSpan a bs.length) (hs : CleanCodes s) :
    (writeSpan m s a bs poison).2.mem = tsetList 0 s.mem a bs := by
  obtain ⟨hm, hw, hg, hh⟩ := hs
  unfold writeSpan
  simp only [pieces_mapped ha]
  refine foldl_pieces (b := (s, bs, none)) (motive := fun a n (b r : State × List Byte × Option Nat) => CoreSpan a n → b.2.1.length = n →
    twf 0 b.1.mem = true → twf 0 b.1.guard = true → (∀ g, a ≤ 32 * g + 31 → 0 < n → tget 0 b.1.guard g = 0) → b.1.hopErrors = [] →
      r.1.mem = tsetList 0 b.1.mem a b.2.1) ?_ ?_ ha rfl hm hw (fun g _ _ => hg g) hh
  · rintro a ⟨u, bs, key⟩ - hl - - - -
    obtain rfl : bs = [] := List.length_eq_zero_iff.mp hl
    rfl
  · rintro a n ⟨u, bs, key⟩ ⟨r, rest⟩ hn ih ha hl hm hw hg hh
    have hlen : (bs.take (min n (32 - a % 32))).length = min n (32 - a % 32) := by rw [List.length_take]; dsimp only at hl; omega
    have hx : InCore (32 * (a / 32) + a % 32) := ha _ (by omega) (by omega)
    simp only [crossHops_none _ _ hh, writePiece_inCore _ _ _ _ hx] at ih
    generalize poison.contains (a / 32) = p at ih
    obtain ⟨hmem, hguardWf, hguard⟩ := storeBytes_clean (off := a % 32) (bs := bs.take (min n (32 - a % 32))) hm hw p (hg (a / 32) (by omega) hn) (by omega)
    have honly := storeBytes_only u (a / 32) (a % 32) (bs.take (min n (32 - a % 32))) p
    rw [Nat.div_add_mod] at hmem
    have hclean (g : Nat) (hle : a + min n (32 - a % 32) ≤ 32 * g + 31) (hpos : 0 < n - min n (32 - a % 32)) :
        tget 0 (storeBytes u (a / 32) (a % 32) (bs.take (min n (32 - a % 32))) p).guard g = 0 := by
      rw [hguard, if_neg (by omega)]
      exact hg g (by omega) hn
    have hmemWf : twf 0 (storeBytes u (a / 32) (a % 32) (bs.take (min n (32 - a % 32))) p).mem = true := by rw [hmem]; exact twf_tsetList hm _ _
    have hrest : r.mem =
        tsetList 0 (storeBytes u (a / 32) (a % 32) (bs.take (min n (32 - a % 32))) p).mem (a + min n (32 - a % 32)) (bs.drop (min n (32 - a % 32))) := by
      cases p <;> exact ih (ha.rest (Nat.min_le_left _ _)) (by simp [hl]) hmemWf hguardWf hclean (honly.hopErrors.trans hh)
    dsimp only at hmem ⊢
    rw [hrest, hmem]
    conv_rhs => rw [← List.take_append_drop (min n (32 - a % 32)) bs, tsetList_append, hlen]

end Sys2Proof.Machine
end

section
/-! SUPPORT. The tiles of a dispatch: reserved cells, landed rows, posts and returned rows; the statement on the four commands (O34). -/

namespace Sys2Proof.Machine

section
variable {s t u : State} {l : Nat} {x : Dispatch}

/-! ### Resumes, chains and entries leave the dispatch alone -/

section
variable {α : Type} {p : Dispatch → α}

theorem sendControl_keeps (s : State) (type kind flow dst msg : Nat) : DispKeeps l p s (sendControl s type kind flow dst msg) := by
  unfold sendControl
  dsimp only
  refine .trans (rankEntry_tidy s dst).keeps ?_
  split
  · exact .refl _
  · exact .ite (.refl _) ((fresh_tidy _).keeps.trans (sendVia_net ..).keeps)

theorem resumeFlow_keeps (s : State) (kind flow dst : Nat) : DispKeeps l p s (resumeFlow s kind flow dst) := by
  unfold resumeFlow
  split
  · exact .refl s
  · exact (netTidy_foldl launchMessage_net _ _).keeps.after (.of_dispatches rfl rfl rfl)

theorem sendResume_keeps (s : State) (w : Awaited) : DispKeeps l p s (sendResume s w) :=
  (DispKeeps.ite (resumeFlow_keeps ..) (sendControl_keeps ..)).after (.of_dispatches rfl rfl rfl)

theorem sendResumes_keeps (s : State) : DispKeeps l p s (sendResumes s) := by
  refine .foldl (fun s w => ?_) _ s
  exact (sendResume_keeps ..).after (.of_dispatches rfl rfl rfl)

end

theorem writeEntry_keeps (s : State) (l cell pos head : Nat) : DispKeeps l Dispatch.standing s (writeEntry s l cell pos head) := dispWrite_keeps ..

/-- Cells that have been granted make a chain (R441, R447). -/
theorem makeChain_makes {id n : Nat} {r : Reservation} (hr : granted s id = some r) (hn : n ≠ 0) (hc : n ≤ r.cells) (refs : Nat) :
    ∃ head v, makeChain s id n refs = (some head, v) := by
  unfold makeChain
  simp only [hr, Nat.not_lt.mpr hc, hn, or_self, if_false]
  exact ⟨_, _, rfl⟩

theorem poolOnly_of_makeChain {id n refs : Nat} {head : Option Nat} {v : State} (h : makeChain s id n refs = (head, v)) : PoolOnly s v := by
  have honly := makeChain_only s id n refs
  rwa [h] at honly

/-! ### The tiles of the dispatch of a list -/

/-- Tiles that stand in a dispatch stand in what keeps it. -/
theorem mem_tiles_standing {y : Dispatch} (h : y.standing = x.standing) {k : TileState} (hk : k ∈ x.tiles) : ∃ j ∈ y.tiles, j.standing = k.standing := by
  have htiles : y.tiles.map TileState.standing = x.tiles.map TileState.standing := (congrArg Dispatch.tiles h :)
  exact List.mem_map.mp (htiles ▸ List.mem_map_of_mem hk)

/-- An update of one tile, between steps that keep the dispatch. -/
theorem updTile_updates {f : TileState → TileState} {v w : State} {k : TileState} (hx : byList s l = some x) (hk : k ∈ x.tiles)
    (hf : ∀ a b : TileState, a.standing = b.standing → (f a).standing = (f b).standing) (hbefore : DispKeeps l Dispatch.standing s v)
    (hafter : DispKeeps l Dispatch.standing (updTile v l k.index f) w) :
    ∃ y, byList w l = some y ∧ y.desc = x.desc ∧ ∃ j ∈ y.tiles, j.standing = (f k).standing := by
  obtain ⟨x', hx', hkeep⟩ := hbefore.some hx
  obtain ⟨k', hk', hstand⟩ := mem_tiles_standing hkeep hk
  obtain ⟨y, hy, hkeep'⟩ := hafter.some (byList_updDispatch_self hx')
  have hindex : k'.index = k.index := (congrArg TileState.index hstand :)
  obtain ⟨j, hj, hjk⟩ := mem_tiles_standing hkeep' (mem_mapIf hk' (beq_iff_eq.mpr hindex))
  exact ⟨y, hy, (congrArg Dispatch.desc hkeep' :).trans (congrArg Dispatch.desc hkeep :), j, hj, hjk.trans (hf _ _ hstand)⟩

/-! ### Reservations, R300 -/

/-- The next tile of a running dispatch, with its granted cells. -/
structure NextTile (s : State) (l : Nat) (x : Dispatch) (k : TileState) (id : Nat) : Prop where
  list : byList s l = some x
  live : x.live = true
  next : x.tiles.find? (fun t => t.rowList.isNone) = some k
  request : k.request = some id

/-- The row-list cell of a tile, all zero but for the rows that have landed already. -/
def cellWritten (v : State) (l : Nat) (k : TileState) (cell : Nat) : State :=
  k.landed.foldl (fun s p => writeEntry s l cell p.1 p.2) (dispWrite v l cell (List.replicate 256 0) [])

theorem cellWritten_keeps (v : State) (l : Nat) (k : TileState) (cell : Nat) : DispKeeps l Dispatch.standing v (cellWritten v l k cell) :=
  (dispWrite_keeps ..).trans (.foldl (fun _ _ => writeEntry_keeps ..) _ _)

theorem reserveTile_eq {k : TileState} {id cell : Nat} {v : State} (h : NextTile s l x k id) (hchain : makeChain s id 1 1 = (some cell, v)) :
    reserveTile s l = requestTile (appendTile (updTile (cellWritten v l k cell) l k.index (fun t => { t with rowList := some cell })) l k.index) l := by
  simp only [reserveTile, h.list, h.next, h.request, h.live, hchain, Bool.not_true, Bool.false_eq_true, if_false]
  rfl

/-- The cells of the next tile make its row-list cell. -/
theorem reserveTile_reserves {k : TileState} {id : Nat} {r : Reservation} (h : NextTile s l x k id) (hr : granted s id = some r) (hcells : r.cells ≠ 0) :
    ∃ y, byList (sendResumes (reserveTile s l)) l = some y ∧ y.desc = x.desc ∧
      ∃ j ∈ y.tiles, j.index = k.index ∧ j.slot = k.slot ∧ j.rowList.isSome = true ∧ j.rowList = (makeChain s id 1 1).1 := by
  obtain ⟨cell, v, hchain⟩ := makeChain_makes hr one_ne_zero (Nat.one_le_iff_ne_zero.mpr hcells) 1
  have honly : PoolOnly s v := poolOnly_of_makeChain hchain
  rw [reserveTile_eq h hchain, hchain]
  obtain ⟨y, hy, hdesc, j, hj, hstand⟩ := updTile_updates (f := fun t => { t with rowList := some cell }) h.list (List.mem_of_find?_eq_some h.next)
    (fun a b hab => congrArg (fun t : TileState => ({ t with rowList := some cell } : TileState)) hab) (honly.keeps.trans (cellWritten_keeps v l k cell))
    (((appendTile_keeps ..).trans (requestTile_keeps ..).standing).trans (sendResumes_keeps _))
  have hrow : j.rowList = some cell := (congrArg TileState.rowList hstand :)
  exact ⟨y, hy, hdesc, j, hj, (congrArg TileState.index hstand :), (congrArg TileState.slot hstand :), by rw [hrow]; rfl, hrow⟩

/-! ### Carry rows, R299 -/

/-- The dispatch of list l has a tile of an index in which rows have landed. -/
def HasLanded (l i : Nat) (rows : List (Nat × Nat)) (s : State) : Prop :=
  ∃ y, byList s l = some y ∧ ∃ j ∈ y.tiles, j.index = i ∧ ∀ p ∈ rows, p ∈ j.landed

/-- A step after which the tiles of the dispatch of list l have all rows that they had. -/
def LandedKept (l : Nat) (s t : State) : Prop := ∀ i rows, HasLanded l i rows s → HasLanded l i rows t

theorem LandedKept.refl (s : State) : LandedKept l s s := fun _ _ hs => hs

theorem LandedKept.trans (h : LandedKept l s t) (g : LandedKept l t u) : LandedKept l s u := fun i rows hs => g i rows (h i rows hs)

theorem DispKeeps.landed (h : DispKeeps l Dispatch.standing s t) : LandedKept l s t := by
  rintro i rows ⟨x, hx, k, hk, hi, hrows⟩
  obtain ⟨y, hy, hkeep⟩ := h.some hx
  obtain ⟨j, hj, hstand⟩ := mem_tiles_standing hkeep hk
  have hlanded : j.landed = k.landed := (congrArg TileState.landed hstand :)
  exact ⟨y, hy, j, hj, (congrArg TileState.index hstand :).trans hi, fun p hp => hlanded ▸ hrows p hp⟩

theorem LandedKept.foldl {β : Type} {f : State → β → State} (h : ∀ s b, LandedKept l s (f s b)) (bs : List β) (s : State) :
    LandedKept l s (bs.foldl f s) := by
  induction bs generalizing s with
  | nil => exact .refl s
  | cons b bs ih => exact (h s b).trans (ih _)

/-- A row joins those of a tile. -/
def withRow (p : Nat × Nat) (t : TileState) : TileState := { t with landed := t.landed ++ [p] }

theorem updTile_landed (s : State) (l i : Nat) (p : Nat × Nat) : LandedKept l s (updTile s l i (withRow p)) := by
  rintro i' rows ⟨x, hx, k, hk, hi, hrows⟩
  refine ⟨_, byList_updDispatch_self hx, _, List.mem_map_of_mem hk, ?_⟩
  split
  · exact ⟨hi, fun q hq => List.mem_append_left _ (hrows q hq)⟩
  · exact ⟨hi, hrows⟩

theorem updTile_lands {i : Nat} (h : HasLanded l i [] s) (p : Nat × Nat) : HasLanded l i [p] (updTile s l i (withRow p)) := by
  obtain ⟨x, hx, k, hk, hi, -⟩ := h
  exact ⟨_, byList_updDispatch_self hx, _, mem_mapIf hk (beq_iff_eq.mpr hi), hi, fun q hq => List.mem_append_right _ hq⟩

/-- One target of a carry row: its row-list entry, its landing in the tile, and its origin entry (R296, R299). -/
def landTarget (l : Nat) (x : Dispatch) (tag : RowTag) (head : Nat) (s : State) (g : Nat × Nat × Nat) : State :=
  match tileOf x g.2.1 g.2.2 with
  | none => s
  | some k =>
    let s := match k.rowList with | some cell => writeEntry s l cell g.2.2 head | none => s
    let s := updTile s l k.index (withRow (g.2.2, head))
    if x.d.back then s
    else dispWrite s l (x.d.origin + 8 * (((x.slots.getD g.2.1 { valid := false, capacity := 0, expert := 0 }).base) + g.2.2))
      (bytesOf (originBits tag.srcRank.toNat tag.token.toNat g.1) 8) []

/-- The tile of a target is appended where it is full. -/
def appendTarget (l : Nat) (x : Dispatch) (s : State) (g : Nat × Nat × Nat) : State :=
  match tileOf x g.2.1 g.2.2 with | some k => appendTile s l k.index | none => s

theorem landTarget_landed (tag : RowTag) (head : Nat) (s : State) (g : Nat × Nat × Nat) :
    LandedKept l s (landTarget l x tag head s g) ∧
      ∀ k, tileOf x g.2.1 g.2.2 = some k → HasLanded l k.index [] s → HasLanded l k.index [(g.2.2, head)] (landTarget l x tag head s g) := by
  unfold landTarget
  split
  · next hnone => exact ⟨.refl s, fun k hk => absurd (hnone.symm.trans hk) nofun⟩
  · next k hk =>
    have hentry : DispKeeps l Dispatch.standing s (match k.rowList with | some cell => writeEntry s l cell g.2.2 head | none => s) := by
      split
      · exact writeEntry_keeps ..
      · exact .refl s
    have horigin (v : State) (a : Nat) (bs : List Byte) : LandedKept l v (if x.d.back then v else dispWrite v l a bs []) :=
      (DispKeeps.ite (.refl v) (dispWrite_keeps ..)).landed
    refine ⟨(hentry.landed.trans (updTile_landed _ _ _ _)).trans (horigin _ _ _), fun k' hk' hs => ?_⟩
    obtain rfl : k = k' := Option.some.inj (hk.symm.trans hk')
    exact horigin _ _ _ _ _ (updTile_lands (hentry.landed _ _ hs) _)

theorem appendTarget_landed (s : State) (g : Nat × Nat × Nat) : LandedKept l s (appendTarget l x s g) := by
  unfold appendTarget
  split
  · exact (appendTile_keeps ..).landed
  · exact .refl s

/-- A row lands in the tile of each of its targets. -/
theorem foldl_landTarget (tag : RowTag) (head : Nat) (gs : List (Nat × Nat × Nat)) (s : State)
    (hs : ∀ g ∈ gs, ∀ k, tileOf x g.2.1 g.2.2 = some k → HasLanded l k.index [] s) :
    ∀ g ∈ gs, ∀ k, tileOf x g.2.1 g.2.2 = some k → HasLanded l k.index [(g.2.2, head)] (gs.foldl (landTarget l x tag head) s) := by
  induction gs generalizing s with
  | nil => exact fun g hg => absurd hg List.not_mem_nil
  | cons g gs ih =>
    obtain ⟨hkept, hlands⟩ := landTarget_landed (l := l) (x := x) tag head s g
    intro g' hg' k hk
    rcases List.mem_cons.mp hg' with rfl | hg'
    · exact LandedKept.foldl (fun s b => (landTarget_landed tag head s b).1) gs _ _ _ (hlands k hk (hs _ List.mem_cons_self k hk))
    · exact ih _ (fun b hb i hi => hkept _ _ (hs b (List.mem_cons_of_mem _ hb) i hi)) g' hg' k hk

/-- A row in its chain, before its targets: it is counted, and no longer awaited. -/
def rowStored (v : State) (x : Dispatch) (tag : RowTag) (head : Nat) (row : List Byte) (poison : List Nat) : State :=
  let v := match chainAt v head with | some c => writeChain v c (row.take x.d.rowBytes) poison | none => v
  { count v EXCH 0x058 32 with awaited := v.awaited.filter (fun w => !(w.kind == 1 && w.flow == x.d.id && w.src == tag.srcRank.toNat && w.target.isSome)) }

theorem rowStored_keeps (v : State) (tag : RowTag) (head : Nat) (row : List Byte) (poison : List Nat) :
    DispKeeps l Dispatch.standing v (rowStored v x tag head row poison) := by
  have hchain : Tidy v (match chainAt v head with | some c => writeChain v c (row.take x.d.rowBytes) poison | none => v) := by
    split
    · exact writeChain_tidy ..
    · exact .refl v
  exact (hchain.trans (count_tidy _ EXCH 0x058 32)).keeps.trans (.of_dispatches rfl rfl rfl)

theorem landRow_eq {low : TileState} {tag : RowTag} {id head : Nat} {v : State} (hreq : low.request = some id)
    (hchain : makeChain s id x.d.rowCells tag.targets.length = (some head, v)) (row : List Byte) (poison : List Nat) :
    landRow s l x low tag row poison = tag.targets.foldl (appendTarget l x) (tag.targets.foldl (landTarget l x tag head) (rowStored v x tag head row poison)) := by
  simp only [landRow, hreq, Option.map_some, hchain]
  rfl

theorem landRow_lands {low : TileState} {tag : RowTag} {id head : Nat} {v : State} (hx : byList s l = some x) (hreq : low.request = some id)
    (hchain : makeChain s id x.d.rowCells tag.targets.length = (some head, v)) (row : List Byte) (poison : List Nat) :
    ∀ g ∈ tag.targets, ∀ k, tileOf x g.2.1 g.2.2 = some k → HasLanded l k.index [(g.2.2, head)] (landRow s l x low tag row poison) := by
  have honly : PoolOnly s v := poolOnly_of_makeChain hchain
  have hstored : LandedKept l s (rowStored v x tag head row poison) := (honly.keeps.trans (rowStored_keeps ..)).landed
  rw [landRow_eq hreq hchain]
  intro g hg k hk
  refine LandedKept.foldl appendTarget_landed _ _ _ _ (foldl_landTarget tag head tag.targets _ (fun b _ i hi => hstored _ _ ?_) g hg k hk)
  exact ⟨x, hx, i, List.mem_of_find?_eq_some hi, rfl, fun p hp => absurd hp List.not_mem_nil⟩

/-- The order of places: by slot, then by position. -/
def PlaceLe (a b : Nat × Nat) : Prop := a.1 < b.1 ∨ (a.1 = b.1 ∧ a.2 ≤ b.2)

theorem PlaceLe.antisymm {a b : Nat × Nat} (h : PlaceLe a b) (g : PlaceLe b a) : a = b := by
  simp only [PlaceLe] at h g
  exact Prod.ext (by omega) (by omega)

/-- The lower of the lowest place so far and a target's. -/
def lowerPlace (a : Option (Nat × Nat)) (g : Nat × Nat × Nat) : Option (Nat × Nat) :=
  match a with
  | none => some (g.2.1, g.2.2)
  | some b => if g.2.1 < b.1 ∨ (g.2.1 = b.1 ∧ g.2.2 < b.2) then some (g.2.1, g.2.2) else a

theorem foldl_lowerPlace (gs : List (Nat × Nat × Nat)) (b : Nat × Nat) :
    ∃ m, gs.foldl lowerPlace (some b) = some m ∧ (m = b ∨ ∃ g ∈ gs, m = g.2) ∧ PlaceLe m b ∧ ∀ g ∈ gs, PlaceLe m g.2 := by
  induction gs generalizing b with
  | nil => exact ⟨b, rfl, .inl rfl, .inr ⟨rfl, le_rfl⟩, fun g hg => absurd hg List.not_mem_nil⟩
  | cons g gs ih =>
    obtain ⟨c, hc, hcb, hle, hle'⟩ : ∃ c, lowerPlace (some b) g = some c ∧ (c = b ∨ c = g.2) ∧ PlaceLe c b ∧ PlaceLe c g.2 := by
      simp only [lowerPlace, PlaceLe]
      split
      · exact ⟨g.2, rfl, .inr rfl, by omega, by omega⟩
      · exact ⟨b, rfl, .inl rfl, by omega, by omega⟩
    obtain ⟨m, hm, hmem, hmc, hall⟩ := ih c
    have hlower {d : Nat × Nat} (h : PlaceLe c d) : PlaceLe m d := by
      simp only [PlaceLe] at *
      omega
    rw [List.foldl_cons, hc]
    refine ⟨m, hm, ?_, hlower hle, List.forall_mem_cons.mpr ⟨hlower hle', hall⟩⟩
    rcases hmem with rfl | ⟨d, hd, rfl⟩
    · exact hcb.imp_right fun h => ⟨g, List.mem_cons_self, h⟩
    · exact .inr ⟨d, List.mem_cons_of_mem _ hd, rfl⟩

/-- The lowest place of a row's targets is that of a target before which no other stands. -/
theorem lowest_target {gs : List (Nat × Nat × Nat)} {g : Nat × Nat × Nat} (hg : g ∈ gs) (hle : ∀ d ∈ gs, PlaceLe g.2 d.2) :
    gs.foldl lowerPlace none = some g.2 := by
  cases gs with
  | nil => exact absurd hg List.not_mem_nil
  | cons a gs =>
    obtain ⟨m, hm, hmem, hma, hall⟩ := foldl_lowerPlace gs a.2
    have hmin : PlaceLe m g.2 := by
      rcases List.mem_cons.mp hg with rfl | hg
      · exact hma
      · exact hall g hg
    have hown : PlaceLe g.2 m := by
      rcases hmem with rfl | ⟨d, hd, rfl⟩
      · exact hle a List.mem_cons_self
      · exact hle d (List.mem_cons_of_mem _ hd)
    rw [← hmin.antisymm hown]
    exact hm

/-- A carry row with its targets in order, whose lowest tile has its cells, lands (R299, R311). -/
theorem carryRow_eq {tag : RowTag} {low : TileState} {g : Nat × Nat × Nat} (hid : byId u tag.dispatchId.toNat = some x) (hlive : x.live = true)
    (hgen : tag.gen.toNat = x.d.gen) (hgrants : x.grantsDone = true) (hrow : rowFault x tag.targets = none) (hg : g ∈ tag.targets)
    (hle : ∀ d ∈ tag.targets, PlaceLe g.2 d.2) (hlow : tileOf x g.2.1 g.2.2 = some low) (hcell : low.rowList.isSome = true)
    (row : List Byte) (poison : List Nat) : carryRow u tag row poison = landRow u x.list x low tag row poison := by
  have hlowest := lowest_target hg hle
  obtain ⟨hstarted, h0⟩ : x.started.isSome = true ∧ x.fault = 0 := by simpa [Dispatch.live] using hlive
  unfold carryRow
  generalize hm : List.foldl _ none tag.targets = m
  obtain rfl : m = some g.2 := hm.symm.trans hlowest
  simp only [hid, h0, hstarted, hgen, hgrants, hrow, hlow, hcell, ne_eq, not_true_eq_false, Bool.not_true, Bool.false_eq_true, if_false, if_true]

/-! ### Posts, R304, R306 -/

theorem sendReturns_keeps (s : State) (l : Nat) (x : Dispatch) (k : TileState) : DispKeeps l Dispatch.standing s (sendReturns s l x k) := by
  refine .foldl (fun s i => ?_) _ s
  dsimp only
  refine .trans ((dispRead_keeps ..).standing.trans (dispRead_keeps ..).standing) (.ite (faultDispatch_keeps ..) ?_)
  split
  · exact .ite (.refl _) (((count_tidy ..).keeps.trans (dispSend_keeps ..)).trans (.updDispatch _))
  · exact .refl _

/-- A line of a running dispatch's done array posts its tile. -/
theorem postSeq_eq {seq : Nat} {k : TileState} (hx : byList s l = some x) (hlive : x.live = true) (hk : x.tiles.find? (fun t => t.seq == some seq) = some k)
    (hpost : k.posted = false) : postSeq s l seq = sendReturns (updTile s l k.index (fun t => { t with posted := true })) l x k := by
  simp only [postSeq, hx, hlive, hk, hpost, Bool.not_true, Bool.false_eq_true, if_false]

/-- A write of one whole line of an active done array is one post. -/
theorem notePosts_line {a : Nat} (ha : a % 64 = 0)
    (hx : s.dispatches.find? (fun x => x.live && decide (x.doneRange.1 ≤ a ∧ a < x.doneRange.1 + x.doneRange.2)) = some x) :
    notePosts s a 64 = postSeq s x.list ((a - x.d.done) / 64) := by
  have hsome : s.dispatches.isEmpty = false := by
    cases hd : s.dispatches with
    | nil => rw [hd] at hx; simp at hx
    | cons d ds => rfl
  have hline : (a + 63) / 64 * 64 = a := by omega
  have hrange : List.range (64 / 64 + 1) = [0, 1] := rfl
  simp only [notePosts, hsome, hrange, List.foldl_cons, List.foldl_nil, hline, Nat.mul_zero, Nat.add_zero, Nat.lt_irrefl, Bool.false_eq_true, if_false, hx,
    Nat.mul_one, Nat.lt_add_right_iff_pos, Nat.zero_lt_succ, if_true]

/-- A post of a whole line writes it, and looks for its tile. -/
theorem exec_post {addr : BitVec 42} {line : List Byte} (hr : running s = true) (m : Master) (ha : addr.toNat % 64 = 0) (hlen : line.length = 64) :
    exec (.post m addr line) s = .next (notePosts (writeSpan m s addr.toNat line []).2 addr.toNat 64) := by
  have hline : line.take 64 = line := List.take_of_length_le hlen.le
  have hstart : addr.toNat / 64 * 64 = addr.toNat := by omega
  refine congrArg Host.Outcome.next ((powered_running hr _).trans ?_)
  simp only [hstart, hline, hlen]

/-! ### Returned rows, R306 -/

/-- A returned row is stored in its slot, and its choice counts as returned. -/
theorem returnRow_eq {tag : RowTag} {g : Nat × Nat × Nat} {more : List (Nat × Nat × Nat)} (hid : byId u tag.dispatchId.toNat = some x)
    (hlive : x.live = true) (hgen : tag.gen.toNat = x.d.gen) (htargets : tag.targets = g :: more) (row : List Byte) (poison : List Nat) :
    returnRow u tag row poison =
      updDispatch (dispWrite u x.list (x.returnSlot tag.token.toNat g.1) (row.take x.d.rowBytes) poison) x.list
        (fun x => if x.fault ≠ 0 then x else { x with returned := x.returned ++ [(tag.token.toNat, g.1)], poisoned := x.poisoned || !poison.isEmpty }) := by
  simp only [returnRow, hid, htargets, hlive, hgen, Bool.not_true, Bool.false_eq_true, ne_eq, not_true_eq_false, if_false]
  rfl

/-- A write of a dispatch to a tile store over clean codes stores its bytes, and leaves the dispatches alone. -/
theorem dispWrite_stores {a : Nat} {bs : List Byte} (hin : inTile a bs.length) (hc : clean u) (hmem : twf 0 u.mem = true) (l : Nat) (poison : List Nat) :
    (dispWrite u l a bs poison).mem = tsetList 0 u.mem a bs ∧ (dispWrite u l a bs poison).dispatches = u.dispatches := by
  have hspan : CoreSpan a bs.length := coreSpan_inTile hin le_rfl le_rfl
  have hcodes : CleanCodes u := ⟨hmem, by rw [hc.1]; rfl, fun g => by rw [hc.1]; rfl, hc.2⟩
  rw [dispWrite_mapped u l hspan]
  exact ⟨writeSpan_mem_clean _ _ hspan hcodes, (writeSpan_tidy ..).dispatches⟩

end

/-- Settles O34: cells and posts reach one tile of the dispatch, a carry row reaches the tile of each of its targets, and a returned row reaches its slot. -/
theorem exchangeRows : Obligations.ExchangeRows := by
  refine ⟨?_, ?_, ?_, ?_⟩
  · intro s l x k id r hx hlive hnext hrequest hr hcells
    obtain ⟨y, hy, hdesc, hj⟩ := reserveTile_reserves ⟨hx, hlive, hnext, hrequest⟩ hr hcells
    exact ⟨_, y, rfl, hy, hdesc, hj⟩
  · intro s via tag row poison x low id r u ha hid hx hlive hgen hgrants hrow htiles hlow hcell hrequest hr hn hcells
    obtain ⟨g, hg, hlow, hle⟩ := hlow
    obtain ⟨head, v, hchain⟩ := makeChain_makes hr hn hcells tag.targets.length
    have hlands := landRow_lands hx hrequest hchain row poison
    obtain ⟨y, hy, -⟩ := hlands g hg low hlow
    refine ⟨_, y, head, congrArg Host.Outcome.next ((receive_accepted ha ..).trans (carryRow_eq hid hlive hgen hgrants hrow hg hle hlow hcell row poison)), hy,
      by rw [hchain], fun d hd => ?_⟩
    obtain ⟨k, hk⟩ := Option.isSome_iff_exists.mp (htiles d hd)
    obtain ⟨y', hy', j, hj, hindex, hrows⟩ := hlands d hd k hk
    obtain rfl : y = y' := Option.some.inj (hy.symm.trans hy')
    exact ⟨j, hj, by rw [hk, hindex]; rfl, hrows _ List.mem_cons_self⟩
  · intro s m addr line x k a hrun hx hfind hlen ha hk hpost
    have hdispatches := (writeSpan_tidy m s a line []).dispatches
    have hfound := List.find?_some hfind
    have hlive : x.live = true := (Bool.and_eq_true_iff.mp hfound).1
    have hx' : byList (writeSpan m s a line []).2 x.list = some x := (byList_congr hdispatches _).trans hx
    have hseq := (notePosts_line ha (hdispatches ▸ hfind)).trans (postSeq_eq hx' hlive hk hpost)
    obtain ⟨y, hy, -, j, hj, hstand⟩ := updTile_updates (f := fun t => { t with posted := true }) hx' (List.mem_of_find?_eq_some hk)
      (fun a b hab => congrArg (fun t : TileState => ({ t with posted := true } : TileState)) hab) (.refl _) (sendReturns_keeps _ _ x k)
    exact ⟨_, y, (exec_post hrun m ha hlen).trans (congrArg Host.Outcome.next hseq), hy, j, hj, (congrArg TileState.index hstand :),
      (congrArg TileState.posted hstand :)⟩
  · intro s via tag row poison x g more u n a ha hid hx hlive hgen htargets hrow hin hclean hmem
    have hlen : (row.take n).length = n := by rw [List.length_take]; omega
    have hslot : x.returnSlot tag.token.toNat g.1 = a := rfl
    obtain ⟨hstored, hdispatches⟩ :=
      dispWrite_stores (a := x.returnSlot tag.token.toNat g.1) (bs := row.take x.d.rowBytes) (hlen.symm ▸ hin) hclean hmem x.list poison
    have h0 : x.fault = 0 := Dispatch.fault_of_live hlive
    refine ⟨_, _, congrArg Host.Outcome.next ((receive_accepted ha ..).trans (returnRow_eq hid hlive hgen htargets row poison)),
      byList_updDispatch_self ((byList_congr hdispatches _).trans hx) (fun y => by split <;> rfl), ?_⟩
    simp only [h0, ne_eq, not_true_eq_false, if_false]
    refine ⟨trivial, trivial, ?_, fun b hb => ?_⟩
    · rw [memBytes, updDispatch_mem, hstored, hslot]
      exact (congrArg (tgetList 0 _ a) hlen.symm).trans (tgetList_tsetList hmem a _)
    · rw [updDispatch_mem, hstored, hslot]
      exact tget_tsetList_out hmem _ _ _ (by rw [hlen]; omega)

end Sys2Proof.Machine
end

section
/-! SUPPORT. The starts of forward dispatches and backward replays; the statement on both (O31). -/

namespace Sys2Proof.Machine

section
variable {s t u : State} {l : Nat} {x : Dispatch}

/-! ### Reads of clean codes -/

theorem updDispatch_self (s : State) (l : Nat) : updDispatch s l (fun x => x) = s := by
  simp only [updDispatch, mapIf, ite_self, List.map_id']

/-- A dispatch's read of clean codes brings the stored bytes and changes nothing. -/
theorem dispRead_clean (hc : clean s) {a n : Nat} (ha : CoreSpan a n) : dispRead s l a n = (memBytes s a n, [], s) := by
  have hread := readSpan_clean (s := s) (dispMaster l) ha (fun g => by rw [hc.1]; rfl) hc.2
  simp only [dispRead, hread, List.map_nil]
  exact congrArg (fun v => (memBytes s a n, [], v)) (updDispatch_self s l)

/-- A fold of reads that all succeed and leave the state. -/
theorem foldl_reads {α β : Type} {f : (α ⊕ β) × State → Nat → (α ⊕ β) × State} {n : Nat}
    (h : ∀ a i, i < n → ∃ b, f (.inl a, s) i = (.inl b, s)) (a : α) : ∃ b, (List.range n).foldl f (.inl a, s) = (.inl b, s) := by
  induction n with
  | zero => exact ⟨a, rfl⟩
  | succ n ih =>
    obtain ⟨b, hb⟩ := ih fun a i hi => h a i (by omega)
    obtain ⟨c, hc⟩ := h b n (Nat.lt_succ_self n)
    exact ⟨c, by rw [List.range_succ, List.foldl_append, hb]; exact hc⟩

/-- Part i of consecutive parts of a range in a tile store. -/
theorem coreSpan_part {a w n i : Nat} (h : inTile a (w * n)) (hi : i < n) : CoreSpan (a + w * i) w := by
  have hle : w * i + w ≤ w * n := Nat.mul_succ w i ▸ Nat.mul_le_mul_left w hi
  exact coreSpan_inTile h (by omega) (by omega)

/-- Clean choice records that all pass R288 give their choices. -/
theorem scanChoices_clean (hc : clean s) {d : DispDesc} {ept : List Nat} (hin : inTile d.choices (64 * d.tokens))
    (hgood : ∀ t, t < d.tokens → ∃ cs, recordChoices d (ownRank s) t ept (ofBytes (memBytes s (d.choices + 64 * t) 64)) = .inl cs) :
    ∃ cs, scanChoices s l d ept = (.inl cs, s) := by
  refine foldl_reads (fun cs t ht => ?_) []
  obtain ⟨more, hmore⟩ := hgood t ht
  exact ⟨cs ++ more, by simp only [dispRead_clean hc (coreSpan_part hin ht), List.isEmpty_nil, Bool.not_true, Bool.false_eq_true, if_false, hmore]⟩

/-- Clean waggle entries give their choices. -/
theorem readWaggle_clean (hc : clean s) {d : DispDesc} (hin : inTile d.waggle (16 * (d.tokens * d.kc))) : ∃ cs, readWaggle s l d = (.inl cs, s) := by
  refine foldl_reads (fun cs i hi => ⟨cs ++ [waggleChoice (i / d.kc) (i % d.kc) (ofBytes (memBytes s (d.waggle + 16 * i) 16))], ?_⟩) []
  simp only [dispRead_clean hc (coreSpan_part hin hi), List.isEmpty_nil, Bool.not_true, Bool.false_eq_true, if_false]

/-- The done array of a list is checked against those of other lists (R304). -/
theorem doneBad_updDispatch {f : Dispatch → Dispatch} (s : State) (base tiles : Nat) (hf : ∀ y, (f y).list = y.list := by intro; rfl) :
    doneBad (updDispatch s l f) l base tiles = doneBad s l base tiles := by
  simp only [doneBad, updDispatch, mapIf, List.any_map]
  congr 3
  funext y
  simp only [Function.comp]
  split
  · next hy => simp [hf, beq_iff_eq.mp hy]
  · rfl

/-! ### A forward start, R283 to R289 -/

/-- EXCH reads the timebase, and the dispatch has started. -/
def begun (s : State) (l : Nat) : State := updDispatch (readTime s EXCH).2 l (fun x => { x with started := some (readTime s EXCH).1 })

theorem begun_clean (hc : clean s) (l : Nat) : clean (begun s l) := hc

theorem doneBad_begun (s : State) (l base tiles : Nat) : doneBad (begun s l) l base tiles = doneBad s l base tiles :=
  doneBad_updDispatch (readTime s EXCH).2 base tiles

/-- The scout of a forward dispatch to one rank of its group (R289). -/
def sendScout (l : Nat) (cs : List Choice) (s : State) (r : Nat) : State :=
  match byList s l with
  | some x => dispSend s l r (.scout (dispHeader s x) (scoutEntries cs r))
  | none => s

theorem sendScout_keeps {α : Type} {p : Dispatch → α} (cs : List Choice) (s : State) (r : Nat) : DispKeeps l p s (sendScout l cs s r) := by
  unfold sendScout
  split
  · exact dispSend_keeps ..
  · exact .refl s

/-- The slot table and the placement table of a forward dispatch as memory holds them. -/
def tableSlots (s : State) (d : DispDesc) : List SlotSnap := slotSnaps ((chunks 8 d.nslots (memBytes s d.slotTable (8 * d.nslots))).map ofBytes)

def tableEpt (s : State) (d : DispDesc) : List Nat := (chunks 32 d.experts (memBytes s d.ept (32 * d.experts))).map ofBytes

/-- Tables and choice records that lie clean in tile stores and pass the checks of R286, R288 and R304. -/
structure GoodTables (s : State) (l : Nat) (d : DispDesc) : Prop where
  clean : clean s
  slotTable : inTile d.slotTable (8 * d.nslots)
  ept : inTile d.ept (32 * d.experts)
  choices : inTile d.choices (64 * d.tokens)
  done : doneBad s l d.done (maxTiles (tableSlots s d)) = false
  placed : placementBad d (ownRank s) (tableEpt s d) (tableSlots s d) = false
  records : ∀ t, t < d.tokens → ∃ cs, recordChoices d (ownRank s) t (tableEpt s d) (ofBytes (memBytes s (d.choices + 64 * t) 64)) = .inl cs

def tableDigest (s : State) (d : DispDesc) : BitVec 64 := BitVec.ofNat 64 (ofBytes (shake256 (memBytes s d.ept (32 * d.experts)) 8))

/-- The tables of a forward dispatch have been read. -/
def tablesTaken (s : State) (l : Nat) (d : DispDesc) : State :=
  updDispatch (begun s l) l (fun x => { x with digest := tableDigest s d, ept := tableEpt s d, slots := tableSlots s d })

/-- Its choice records have been read: it is in its scout phase. -/
def choicesTaken (s : State) (l : Nat) (d : DispDesc) (cs : List Choice) : State :=
  updDispatch (tablesTaken s l d) l (fun x => { x with choices := cs, phase := 1 })

theorem choicesTaken_frame (s : State) (l : Nat) (d : DispDesc) (cs : List Choice) :
    (choicesTaken s l d cs).cores = s.cores ∧ (choicesTaken s l d cs).heldMessages = s.heldMessages := by
  simp only [choicesTaken, tablesTaken, begun, updDispatch_cores, updDispatch_heldMessages, readTime_cores, readTime_heldMessages, and_self]

/-- A good forward dispatch takes its snapshot and its choices, and sends its scouts (R287 to R289). -/
theorem startForward_eq (h : GoodTables s l x.d) : ∃ cs, startForward s l x = x.d.group.foldl (sendScout l cs) (choicesTaken s l x.d cs) := by
  obtain ⟨hc, hslots, hept, hchoices, hdone, hplaced, hrecords⟩ := h
  have hread {a n : Nat} (hin : inTile a n) : dispRead (begun s l) l a n = (memBytes s a n, [], begun s l) :=
    dispRead_clean (begun_clean hc l) (coreSpan_inTile hin le_rfl le_rfl)
  obtain ⟨cs, hscan⟩ := scanChoices_clean (s := tablesTaken s l x.d) (l := l) hc hchoices hrecords
  have hfree : doneBad (tablesTaken s l x.d) l x.d.done (maxTiles (tableSlots s x.d)) = false :=
    (doneBad_updDispatch (begun s l) ..).trans ((doneBad_begun ..).trans hdone)
  have hrank : ownRank (begun s l) = ownRank s := rfl
  simp only [tablesTaken, begun, tableSlots, tableEpt, tableDigest] at hread hscan hfree hplaced hrank
  refine ⟨cs, ?_⟩
  simp only [startForward, hread hslots, hread hept, hfree, hrank, hplaced, hscan, List.isEmpty_nil, Bool.not_true, Bool.or_self, Bool.false_eq_true, if_false]
  rfl

theorem startForward_starts (hx : byList s l = some x) (h0 : x.fault = 0) (h : GoodTables s l x.d) :
    (∃ y, byList (startForward s l x) l = some y ∧ y.desc = x.desc ∧ y.started.isSome = true ∧ y.fault = 0 ∧ y.phase = 1 ∧
      y.slots = tableSlots s x.d) ∧
      (startForward s l x).cores = s.cores ∧ (startForward s l x).heldMessages = s.heldMessages := by
  obtain ⟨cs, heq⟩ := startForward_eq h
  have hread : byList (readTime s EXCH).2 l = some x := hx
  have hown := byList_updDispatch_self (f := fun x => { x with choices := cs, phase := 1 }) (byList_updDispatch_self (f := fun y =>
    { y with digest := tableDigest s x.d, ept := tableEpt s x.d, slots := tableSlots s x.d })
      (byList_updDispatch_self (f := fun x => { x with started := some (readTime s EXCH).1 }) hread))
  have hkeeps := DispKeeps.foldl (l := l) (p := id) (sendScout_keeps cs) x.d.group (choicesTaken s l x.d cs)
  obtain ⟨y, hy, hsame⟩ := hkeeps.some hown
  rw [heq]
  obtain rfl : y = _ := hsame
  obtain ⟨hcores, hheld⟩ := choicesTaken_frame s l x.d cs
  exact ⟨⟨_, hy, rfl, rfl, h0, rfl, rfl⟩, hkeeps.cores.trans hcores, hkeeps.held.trans hheld⟩

/-! ### A replay's start, R309, R310 -/

/-- A dispatch without what its reads count, its requests for cells set, and its phase of sending carries shows. -/
def Dispatch.carried (x : Dispatch) : Dispatch := { x.unread with carrySent := true, phase := 0 }

theorem DispKeeps.carried (h : DispKeeps l Dispatch.unread s t) : DispKeeps l Dispatch.carried s t :=
  h.weaken (fun y => { y with carrySent := true, phase := 0 })

/-- The carry rows of a source to one owner. -/
def carryTo (l : Nat) (x : Dispatch) (s : State) (owner : Nat) : State :=
  (carriesTo x.d x.choices owner).foldl (fun s r =>
    let (bs, p, s) := dispRead s l (x.d.rows + 32 * x.d.rowPitch * r.1) x.d.rowBytes
    let t : RowTag := { dispatchId := BitVec.ofNat 16 x.d.id, gen := BitVec.ofNat 16 x.d.gen, srcRank := BitVec.ofNat 12 (ownRank s),
                        token := BitVec.ofNat 20 r.2.1, targets := r.2.2 }
    dispSend s l owner (.carry t bs p)) s

theorem carryTo_keeps (s : State) (owner : Nat) : DispKeeps l Dispatch.unread s (carryTo l x s owner) :=
  .foldl (fun _ _ => (dispRead_keeps ..).trans (dispSend_keeps ..)) _ s

/-- The carries of a dispatch begin (R295). -/
def carryBegun (s : State) (l : Nat) : State := updDispatch s l (fun x => { x with carrySent := true, phase := 2 })

theorem sendCarries_eq (hx : byList s l = some x) : sendCarries s l = notePhase (x.d.group.foldl (carryTo l x) (carryBegun s l)) l := by
  simp only [sendCarries, hx]
  rfl

/-- A source that knows its grants sends its carries; its phase is 3 where no tile of it waits to be appended, else 2 (R314; log 28). -/
theorem sendCarries_sends (hx : byList s l = some x) (hg : x.grantsDone = true) :
    DispKeeps l Dispatch.carried s (sendCarries s l) ∧
      ∃ y, byList (sendCarries s l) l = some y ∧ y.carrySent = true ∧ y.phase = (if y.tiles.all (fun k => k.seq.isSome) then 3 else 2) := by
  have hsent := DispKeeps.foldl (carryTo_keeps (l := l) (x := x)) x.d.group (carryBegun s l)
  obtain ⟨y, hy, hkeep⟩ := hsent.some (byList_updDispatch_self hx)
  have hcarry : y.carrySent = true := (congrArg Dispatch.carrySent hkeep :)
  have hphase : y.phase = 2 := (congrArg Dispatch.phase hkeep :)
  have hgrants : y.grantsDone = true := (congrArg Dispatch.grantsDone hkeep :).trans hg
  rw [sendCarries_eq hx]
  refine ⟨((DispKeeps.updDispatch s).trans hsent.carried).trans (.updDispatch _ (fun y => by split <;> rfl) fun y => ?_), _,
    byList_updDispatch_self hy (fun y => by split <;> rfl), ?_⟩
  · split <;> rfl
  · simp only [hcarry, hgrants, Bool.and_self, Bool.true_and]
    split
    · exact ⟨rfl, by simp [hphase]⟩
    · exact ⟨hcarry, by simp [hphase]⟩

/-- The header and the slots of a replay's summary as memory holds them. -/
def summaryHead (s : State) (d : DispDesc) : Nat := ofBytes (memBytes s d.summary 32)

def summarySeen (s : State) (d : DispDesc) : List SlotSnap := summarySlots ((chunks 16 d.nslots (memBytes s (d.summary + 32) (16 * d.nslots))).map ofBytes)

/-- A summary and waggle entries that lie clean in tile stores and fit their replay (R304, R309, R310). -/
structure GoodSummary (s : State) (l : Nat) (d : DispDesc) : Prop where
  clean : clean s
  summary : inTile d.summary (32 + 16 * d.nslots)
  waggle : inTile d.waggle (16 * (d.tokens * d.kc))
  forward : fld (summaryHead s d) 191 176 = d.fwdId
  gen : fld (summaryHead s d) 175 160 = d.gen
  nslots : fld (summaryHead s d) 135 127 = d.nslots
  done : doneBad s l d.done (fld (summaryHead s d) 159 136) = false

/-- What each slot of a replay was granted. -/
def seenGrants (s : State) (d : DispDesc) : List Nat := (summarySeen s d).map (fun t => if t.valid then t.capacity else 0)

/-- The summary of a replay has been read: it has its slots, grants and tiles. -/
def summaryTaken (s : State) (l : Nat) (d : DispDesc) : State :=
  updDispatch (begun s l) l (fun x =>
    { x with digest := BitVec.ofNat 64 (fld (summaryHead s d) 255 192), slots := summarySeen s d, granted := seenGrants s d,
             tiles := buildTiles (summarySeen s d) (seenGrants s d), grantsDone := true })

/-- The total of its list is known with it (R310). -/
def totalTaken (s : State) (l : Nat) (d : DispDesc) : State := setTotal (summaryTaken s l d) l (fld (summaryHead s d) 159 136)

/-- Its waggle entries have been read. -/
def waggleTaken (s : State) (l : Nat) (d : DispDesc) (cs : List Choice) : State := updDispatch (totalTaken s l d) l (fun x => { x with choices := cs })

theorem summaryTaken_frame (s : State) (l : Nat) (d : DispDesc) :
    (summaryTaken s l d).cores = s.cores ∧ (summaryTaken s l d).heldMessages = s.heldMessages := by
  simp only [summaryTaken, begun, updDispatch_cores, updDispatch_heldMessages, readTime_cores, readTime_heldMessages, and_self]

theorem countN_memory (s : State) (b off w n : Nat) :
    (countN s b off w n).mem = s.mem ∧ (countN s b off w n).guard = s.guard ∧ (countN s b off w n).hopErrors = s.hopErrors := by
  unfold countN
  split <;> exact ⟨rfl, rfl, rfl⟩

theorem setTotal_memory (s : State) (k total : Nat) :
    (setTotal s k total).mem = s.mem ∧ (setTotal s k total).guard = s.guard ∧ (setTotal s k total).hopErrors = s.hopErrors := by
  unfold setTotal serveList
  exact countN_memory ..

/-- A good replay takes its summary and its choices, and sends its carries. -/
theorem startReplay_eq (h : GoodSummary s l x.d) : ∃ cs, startReplay s l x = sendCarries (requestTile (waggleTaken s l x.d cs) l) l := by
  obtain ⟨hc, hsummary, hwaggle, hforward, hgen, hnslots, hdone⟩ := h
  have hread {a n : Nat} (ha : CoreSpan a n) : dispRead (begun s l) l a n = (memBytes s a n, [], begun s l) := dispRead_clean (begun_clean hc l) ha
  have hhead := hread (coreSpan_inTile hsummary le_rfl (Nat.add_le_add_left (Nat.le_add_right 32 (16 * x.d.nslots)) _))
  have hslots := hread (coreSpan_inTile hsummary (Nat.le_add_right _ 32) (Nat.add_assoc _ 32 _).le)
  have hfree : doneBad (summaryTaken s l x.d) l x.d.done (fld (summaryHead s x.d) 159 136) = false :=
    (doneBad_updDispatch (begun s l) ..).trans ((doneBad_begun ..).trans hdone)
  obtain ⟨-, hguard, hhops⟩ := setTotal_memory (summaryTaken s l x.d) l (fld (summaryHead s x.d) 159 136)
  obtain ⟨cs, hwag⟩ := readWaggle_clean (s := totalTaken s l x.d) (l := l) ⟨hguard.trans hc.1, hhops.trans hc.2⟩ hwaggle
  simp only [totalTaken, summaryTaken, begun, summarySeen, seenGrants, summaryHead] at hhead hslots hfree hwag hforward hgen hnslots
  refine ⟨cs, ?_⟩
  simp only [startReplay, hhead, hslots, hfree, hforward, hgen, hnslots, hwag, List.isEmpty_nil, Bool.not_true, Bool.false_eq_true, ne_eq,
    not_true_eq_false, or_self, if_false]
  rfl

theorem startReplay_starts (hx : byList s l = some x) (h0 : x.fault = 0) (h : GoodSummary s l x.d) :
    (∃ y, byList (startReplay s l x) l = some y ∧ y.desc = x.desc ∧ y.started.isSome = true ∧ y.fault = 0 ∧ y.carrySent = true ∧
      y.slots = summarySeen s x.d ∧ y.phase = (if y.tiles.all (fun k => k.seq.isSome) then 3 else 2)) ∧
      (startReplay s l x).cores = s.cores ∧ (startReplay s l x).heldMessages = s.heldMessages := by
  obtain ⟨cs, heq⟩ := startReplay_eq h
  have hread : byList (readTime s EXCH).2 l = some x := hx
  have htaken := byList_updDispatch_self (f := fun y =>
    { y with digest := BitVec.ofNat 64 (fld (summaryHead s x.d) 255 192), slots := summarySeen s x.d, granted := seenGrants s x.d,
             tiles := buildTiles (summarySeen s x.d) (seenGrants s x.d), grantsDone := true })
    (byList_updDispatch_self (f := fun x => { x with started := some (readTime s EXCH).1 }) hread)
  have htotal : DispKeeps l id (summaryTaken s l x.d) (totalTaken s l x.d) := setTotal_keeps ..
  obtain ⟨v, hv, hsame⟩ := htotal.some htaken
  obtain rfl : v = _ := hsame
  have hchosen := byList_updDispatch_self (f := fun x => { x with choices := cs }) hv
  have hasked := requestTile_keeps (waggleTaken s l x.d cs) l
  obtain ⟨w, hw, hwkeep⟩ := hasked.some hchosen
  obtain ⟨hsent, y, hy, hcarry, hphase⟩ := sendCarries_sends hw (congrArg Dispatch.grantsDone hwkeep :)
  obtain ⟨y', hy', hkeep⟩ := (hasked.carried.trans hsent).some hchosen
  obtain rfl : y = y' := Option.some.inj (hy.symm.trans hy')
  obtain ⟨hcores, hheld⟩ := summaryTaken_frame s l x.d
  rw [heq]
  exact ⟨⟨y, hy, (congrArg Dispatch.desc hkeep :), (congrArg (fun z : Dispatch => z.started.isSome) hkeep :), (congrArg Dispatch.fault hkeep :).trans h0, hcarry,
    (congrArg Dispatch.slots hkeep :), hphase⟩, (hasked.carried.trans hsent).cores.trans ((updDispatch_cores ..).trans (htotal.cores.trans hcores)),
    (hasked.carried.trans hsent).held.trans ((updDispatch_heldMessages ..).trans (htotal.held.trans hheld))⟩

/-! ### The start of a taken dispatch -/

/-- A taken dispatch of a direction that waits for no launch and has no fault. -/
structure MayStart (s : State) (l : Nat) (x : Dispatch) (back : Bool) : Prop where
  list : byList s l = some x
  back : x.d.back = back
  waits : x.waits = none
  started : x.started = none
  fault : x.fault = 0

theorem startDispatch_eq {back : Bool} (h : MayStart s l x back) : startDispatch s l back =
    if x.armFail then faultDispatch s l 2 (ownRank s) 0 0 else applyAllHeld (if back then startReplay s l x else startForward s l x) l x.d.id := by
  simp only [startDispatch, h.list, h.back, h.waits, h.started, h.fault, ne_eq, not_true_eq_false, Option.isSome_none, Bool.false_eq_true, or_self, if_false]

theorem applyAllHeld_none (h : s.heldMessages = []) (l id : Nat) : applyAllHeld s l id = s := by
  obtain ⟨⟩ := s
  simp only at h
  subst h
  rfl

end

theorem exec_start {l : Fin 4} (s : State) (back : Bool) :
    exec (if back then .backwardReplayStart l else .forwardDispatchStart l) s = .next (startDispatch s l.val back) := by
  cases back <;> rfl

/-- Settles O31: clean tables or summaries are read as they stand, and what a start then sends leaves the dispatch as the reads have made it. -/
theorem exchangeStarts : Obligations.ExchangeStarts := by
  intro s l x back i d slots ept h seen hx hback hwaits hstarted h0
  have hmay : MayStart s l.val x back := ⟨hx, hback, hwaits, hstarted, h0⟩
  have hexec : exec i s = .next (startDispatch s l.val back) := exec_start s back
  rw [startDispatch_eq hmay] at hexec
  refine ⟨?_, ?_, ?_⟩
  · intro harm hheld hc hfwd hslots hept hchoices hdone hplaced hrecords
    obtain ⟨⟨y, hy, hdesc, hrun, hfault, hphase, hsnap⟩, hcores, hsame⟩ :=
      startForward_starts hx h0 ⟨hc, hslots, hept, hchoices, hdone, hplaced, hrecords⟩
    rw [harm, hfwd, if_neg Bool.false_ne_true, if_neg Bool.false_ne_true, applyAllHeld_none (hsame.trans hheld)] at hexec
    exact ⟨_, y, hexec, hy, hdesc, hrun, hfault, hphase, hsnap, hcores⟩
  · intro harm hheld hc hbwd hsummary hwaggle hfwdId hgen hnslots hdone
    obtain ⟨⟨y, hy, hdesc, hrun, hfault, hcarry, hsnap, hphase⟩, hcores, hsame⟩ :=
      startReplay_starts hx h0 ⟨hc, hsummary, hwaggle, hfwdId, hgen, hnslots, hdone⟩
    rw [harm, hbwd, if_neg Bool.false_ne_true, if_pos rfl, applyAllHeld_none (hsame.trans hheld)] at hexec
    exact ⟨_, y, hexec, hy, hdesc, hrun, hfault, hcarry, hsnap, hphase, hcores⟩
  · intro harm
    obtain ⟨hfault, hlast⟩ := faultDispatch_faults hx h0 2 (ownRank s) 0 0
    rw [if_pos harm] at hexec
    exact ⟨_, _, hexec, hfault, rfl, hstarted, rfl, hlast⟩

end Sys2Proof.Machine
end

section
/-! SUPPORT. The step driver: what it sees and copies, how a step and its stages begin and end, and the statement on its stages and entries (O52). -/

namespace Sys2Proof.Machine

variable {s : State} {a : StepStartArgs}

/-! ### What the driver sees, R524 and R525 -/

/-- No copy that has been issued has ended. -/
def NoCopyEnded (s : State) : Prop := ∀ c ∈ s.driver.copies, c.issued = true → recordWritten s (dmaDesc c.desc.toNat).record = false

theorem lookCopies_noneEnded (h : NoCopyEnded s) : lookCopies s = s := by
  have hpart : s.driver.copies.partition (fun c => c.issued && recordWritten s (dmaDesc c.desc.toNat).record) = ([], s.driver.copies) := by
    have hnone (c : DriverCopy) (hc : c ∈ s.driver.copies) : (c.issued && recordWritten s (dmaDesc c.desc.toNat).record) = false := by
      cases hi : c.issued
      case false => rfl
      case true => rw [h c hc hi, Bool.and_false]
    rw [List.partition_eq_filter_filter, List.filter_eq_nil_iff.mpr fun c hc => by simp [hnone c hc],
      List.filter_eq_self.mpr fun c hc => by simp only [Function.comp_apply, hnone c hc, Bool.not_false]]
  simp only [lookCopies, hpart, List.map_nil, List.filter_nil, List.append_nil, List.foldl_nil]

theorem lookBeside_nil (h : s.driver.beside = []) : lookBeside s = s := by
  have hpart : s.driver.beside.partition (recordWritten s) = ([], s.driver.beside) := by rw [h]; rfl
  simp only [lookBeside, hpart, List.map_nil, List.foldl_nil]

/-- A driver that has issued nothing and of whose copies none has ended sees nothing new. -/
theorem driverLook_nothing (hissued : s.driver.issued = []) (hbeside : s.driver.beside = []) (hcopies : NoCopyEnded s) : driverLook s = s := by
  unfold driverLook
  split
  case h_1 => rfl
  case h_2 a _ =>
    have hnew : s.driver.issued.filter (fun x => !s.driver.ended.contains x && issueDone s a x) = [] := by rw [hissued]; rfl
    simp only [lookCopies_noneEnded hcopies, lookBeside_nil hbeside, hnew, List.foldl_nil, List.append_nil]

theorem pushCopies_allIssued (h : ∀ c ∈ s.driver.copies, c.issued = true) : pushCopies s = s := by
  have hpart : s.driver.copies.partition (·.issued) = (s.driver.copies, []) := by
    rw [List.partition_eq_filter_filter, List.filter_eq_self.mpr h, List.filter_eq_nil_iff.mpr fun c hc => by simp [h c hc]]
  simp only [pushCopies, hpart, List.foldl_nil]

/-! ### The two commands of a driver that runs -/

/-- The driver has started, with the arguments of its STEP_START, and its step is not abandoned. -/
structure DriverStarted (s : State) (a : StepStartArgs) : Prop where
  runs : keeperRuns s = true
  ready : isReady s = true
  mode : s.driver.mode = 1
  args : s.driver.args = some a
  kept : s.driver.abandoned = false

/-- Before stage 1 a driver with nothing new to see comes to its step. -/
theorem exec_stepStage_enters (h : DriverStarted s a) (hlook : pushCopies (driverLook s) = s) (hstage : s.driver.stage = 0) :
    exec .stepStage s = .next (enterStep s a s.driver.step) := by
  refine congrArg Host.Outcome.next ?_
  simp [stepStage, h.runs, h.ready, h.mode, hlook, h.args, hstage]

/-- A stage with nothing left to issue. -/
theorem exec_stepStage_advances (h : DriverStarted s a) (hlook : pushCopies (driverLook s) = s) (hstage : s.driver.stage ≠ 0) (hissue : toIssue s a = []) :
    exec .stepStage s = .next (nextStage s a) := by
  refine congrArg Host.Outcome.next ?_
  simp [stepStage, h.runs, h.ready, h.mode, hlook, h.args, hstage, h.kept, hissue]

/-- The next entry of a stage, where what it waits for has ended. -/
theorem exec_stepPlanEntry_issues (h : DriverStarted s a) (hlook : pushCopies (driverLook s) = s) (hstage : 1 ≤ s.driver.stage) {i m : Nat} {rest : List (Nat × Nat)}
    (hissue : toIssue s a = (i, m) :: rest) (h1 : afterEnded s a (planAt s a i) m (planAt s a i).after1 = true)
    (h2 : afterEnded s a (planAt s a i) m (planAt s a i).after2 = true) (hrange : rangeWritten s a (planAt s a i) = true) (hhealth : reducesHealth s a i = false) :
    exec (.stepPlanEntry i) s = .next (issueEntry s a i m) := by
  have hruns : driverRuns s = true := by simp [driverRuns, h.runs, h.ready, h.mode, h.kept, hstage]
  refine congrArg Host.Outcome.next ?_
  simp [stepPlanEntry, h.runs, h.mode, hlook, h.args, hruns, hissue, h1, h2, hrange, hhealth]

/-- An entry whose plan entry and record are clean is issued where its queue or ring has room (R524). -/
theorem issueEntry_pushed {i m : Nat} {p q : Rd × State} {w : State} (hp : readSpan (.keeper 0) s (a.plan.toNat + 32 * i) 32 = p)
    (hq : readSpan (.keeper 0) p.2 (planEntryOf (ofBytes p.1.data)).addr (recordBytes (planEntryOf (ofBytes p.1.data)).kind) = q)
    (hpclean : p.1.poison = []) (hqclean : q.1.poison = [])
    (hw : pushRecord (clearTypes q.2 (recordTargets (planEntryOf (ofBytes p.1.data)).kind (ofBytes q.1.data))) (planEntryOf (ofBytes p.1.data)).kind
      (planEntryOf (ofBytes p.1.data)).target q.1.data = some w) :
    issueEntry s a i m = { w with driver := { w.driver with issued := w.driver.issued ++ [(i, m)] } } := by
  simp only [issueEntry, hp, hq, hpclean, hqclean, List.append_nil, hw]

/-! ### The beginning of a step, R525 -/

theorem writeHeaders_tidy (s : State) (a : StepStartArgs) (gen : Nat) : Tidy s (writeHeaders s a gen) :=
  (tidy_foldl (fun _ _ => writeSpan_tidy ..) _ s).trans (tidy_foldl (fun _ _ => writeSpan_tidy ..) _ _)

/-- Pulling data only adds copies to those that the driver has. -/
theorem pullThrough_frame (s : State) (k : Nat) : ∃ p c, pullThrough s k = { s with driver := { s.driver with pulled := p, copies := c } } := ⟨_, _, rfl⟩

/-- Step n is at stage 1 with nothing issued, and the counts of its health vector are those of s. -/
structure StepBegun (s : State) (n : Nat) (t : State) : Prop where
  stage : t.driver.stage = 1
  step : t.driver.step = n
  micro : t.driver.micro = 0
  issued : t.driver.issued = []
  ended : t.driver.ended = []
  keep : t.driver.keep = true
  health : t.driver.health = healthCounts s
  written : t.driver.written = []
  cores : t.cores = s.cores
  nvm : t.nvm = s.nvm

theorem beginStep_begun (s : State) (a : StepStartArgs) (n : Nat) : StepBegun s n (beginStep s a n) := by
  unfold beginStep
  dsimp only
  generalize hu : { s with driver := _ } = u
  have htidy := writeHeaders_tidy u a (((List.range a.entries).findSome? (entryGen s a)).getD 0)
  obtain ⟨p, c, heq⟩ := pullThrough_frame (writeHeaders u a (((List.range a.entries).findSome? (entryGen s a)).getD 0)) (n + 2)
  rw [heq, htidy.driver]
  subst hu
  exact ⟨rfl, rfl, rfl, rfl, rfl, rfl, rfl, rfl, htidy.cores, htidy.nvm⟩

theorem dataReady_noCopies (h : s.driver.copies = []) (n : Nat) : dataReady s n = true := by simp [dataReady, h]

/-- A driver with no copy of its own waits for no data. -/
theorem enterStep_begun (h : s.driver.copies = []) (a : StepStartArgs) (n : Nat) : StepBegun s n (enterStep s a n) := by
  rw [enterStep, if_pos (dataReady_noCopies h n)]
  exact beginStep_begun s a n

/-- A copy of the step's data that has not ended holds the driver before stage 1. -/
theorem enterStep_waits {c : DriverCopy} {n : Nat} (h : s.driver.copies = [c]) (hdata : c.checkpoint = false) (hstep : c.step = n) (a : StepStartArgs) :
    enterStep s a n = { s with driver := { s.driver with step := n, stage := 0, abandoned := false, rerun := false } } := by
  have hready : dataReady s n = false := by simp [dataReady, h, hdata, hstep]
  rw [enterStep, hready, if_neg Bool.false_ne_true]

/-! ### The stages, R317 -/

theorem nextStage_first (h : s.driver.stage = 1) (hended : stageEnded s a 1 = true) : nextStage s a = { s with driver := { s.driver with stage := 2 } } := by
  simp only [nextStage, h, hended, if_true]

theorem nextStage_loss (h : s.driver.stage = 2) (hended : lossEnded s a = true) : nextStage s a = { s with driver := { s.driver with stage := 3 } } := by
  simp only [nextStage, h, hended, if_true]

theorem nextStage_microBatch (h : s.driver.stage = 3) (hmore : s.driver.micro + 1 < a.microBatches) (hended : stageEnded s a 3 = true) :
    nextStage s a = { s with driver := { s.driver with stage := 2, micro := s.driver.micro + 1 } } := by
  simp only [nextStage, h, hmore, hended, if_true]

theorem nextStage_lastMicroBatch (h : s.driver.stage = 3) (hlast : a.microBatches ≤ s.driver.micro + 1) :
    nextStage s a = { s with driver := { s.driver with stage := 4 } } := by
  simp only [nextStage, h, Nat.not_lt.mpr hlast, if_false]

theorem nextStage_reduced (h : s.driver.stage = 4) (hended : stageEnded s a 4 = true) : nextStage s a = { s with driver := { s.driver with stage := 5 } } := by
  simp only [nextStage, h, hended, if_true]

/-- Stage 6 begins where no checkpoint is under way; the plan has reduced the health vector. -/
theorem nextStage_decides (h : s.driver.stage = 5) (hended : stageEnded s a 5 = true) (hcopies : ∀ c ∈ s.driver.copies, c.checkpoint = false)
    (hreduces : ∃ i, i < a.entries ∧ reducesHealth s a i = true) {u : State} (hu : decideStep s a = u) :
    nextStage s a = { u with driver := { u.driver with stage := 6 } } := by
  have hall : s.driver.copies.all (fun c => !c.checkpoint) = true := List.all_eq_true.mpr fun c hc => by simp [hcopies c hc]
  have hany : (List.range a.entries).any (reducesHealth s a) = true := by simpa using hreduces
  simp only [nextStage, h, hended, hall, hany, Bool.and_self, if_true, hu]

theorem nextStage_commits (h : s.driver.stage = 6) (hended : stageEnded s a 6 = true) {u : State} (hu : commitStep s = u) :
    nextStage s a = { u with driver := { u.driver with stage := 7 } } := by
  simp only [nextStage, h, hended, if_true, hu]

theorem nextStage_after (h : s.driver.stage = 7) (hended : (List.range 8).all (stageEnded s a) = true) : nextStage s a = afterStep s a := by
  simp only [nextStage, h, hended, if_true]

/-! ### Keeping a step, R337 -/

theorem logNoted_tidy (s : State) (b c : Nat) (kind : Config.LogKind) (fields : List Nat) : Tidy s (logNoted s b c kind fields) := logEntry_tidy ..

/-- The decision, by the vector that was read and the state that its entry in the log leaves. -/
theorem decideStep_logged {rd : Rd} {u v : State} (hread : readSpan (.keeper 0) s a.health.toNat 32 = (rd, u))
    (hlog : logNoted u KEEPER 1 .stepSentry [u.driver.step, fld (ofBytes rd.data) 159 128] = v) :
    ∃ n, decideStep s a =
      { v with driver := { v.driver with keep := v.driver.keep && (rd.poison.isEmpty && fld (ofBytes rd.data) 127 0 == 0), skipped := n } } := by
  simp only [decideStep, hread, hlog]
  exact ⟨_, rfl⟩

/-- The reduced vector keeps a step where it is read clean, with its norms and flags zero. -/
theorem decideStep_keep (s : State) (a : StepStartArgs) : let rd := (readSpan (.keeper 0) s a.health.toNat 32).1
    (decideStep s a).driver.keep = (s.driver.keep && rd.poison.isEmpty && fld (ofBytes rd.data) 127 0 == 0) ∧ (decideStep s a).cores = s.cores := by
  obtain ⟨rd, u, hread⟩ : ∃ rd u, readSpan (.keeper 0) s a.health.toNat 32 = (rd, u) := ⟨_, _, rfl⟩
  obtain ⟨v, hlog⟩ : ∃ v, logNoted u KEEPER 1 .stepSentry [u.driver.step, fld (ofBytes rd.data) 159 128] = v := ⟨_, rfl⟩
  have htidy : Tidy s v := (hread ▸ readSpan_tidy (.keeper 0) s a.health.toNat 32 : Tidy s (rd, u).2).trans (hlog ▸ logNoted_tidy ..)
  obtain ⟨n, heq⟩ := decideStep_logged hread hlog
  rw [heq, hread]
  exact ⟨by rw [htidy.driver, Bool.and_assoc], htidy.cores⟩

/-! ### Committing the slots written, R317 and R338 -/

/-- A step that changes the steward's slots alone. -/
def SlotsOnly (s t : State) : Prop := { t with steward := [] } = { s with steward := [] }

theorem SlotsOnly.trans {s t u : State} (h : SlotsOnly s t) (g : SlotsOnly t u) : SlotsOnly s u := Eq.trans g h
theorem SlotsOnly.driver {s t : State} (h : SlotsOnly s t) : t.driver = s.driver := (congrArg State.driver h :)
theorem SlotsOnly.cores {s t : State} (h : SlotsOnly s t) : t.cores = s.cores := (congrArg State.cores h :)
theorem SlotsOnly.memory {s t : State} (h : SlotsOnly s t) : memoryKept s t :=
  ⟨(congrArg State.mem h :), (congrArg State.guard h :), (congrArg State.nvm h :)⟩

/-- The request that the driver makes for one slot. -/
def requestSlot (s : State) (k : Nat) : State := requestCommits s (at_ 1 12 + k)

/-- A slot after a request of its commit, which a disabled slot does not take. -/
def askedSlot (v : Nat) : Nat := if slotEnabled v then requestedSlot v else v

theorem requestedSlot_lt {v : Nat} (hv : v < 2 ^ 128) : requestedSlot v < 2 ^ 128 := by
  unfold requestedSlot
  split
  · exact commitSlot_lt hv
  · exact setFld_lt (by decide) (by decide) hv

/-- A request that names one disabled slot does nothing. -/
theorem requestCommits_disabled (hst : twf 0 s.steward = true) {w k : Nat} (hk : fld w 11 0 = k) (hn : fld w 24 12 = 1)
    (hoff : slotEnabled (slotBits s k) = false) : requestCommits s w = s := by
  unfold requestCommits
  simp only [hn, hk]
  refine foldl_fixed _ s s.steward fun e he => if_neg fun ⟨hge, hlt, hon⟩ => ?_
  obtain rfl : e.1 = k := by omega
  rw [slotBits, tget_of_mem hst he, hon] at hoff
  exact absurd hoff (by decide)

theorem requestSlot_eq (hst : twf 0 s.steward = true) {k : Nat} (hk : k < 4096) :
    requestSlot s k = if slotEnabled (slotBits s k) then setSlot s k (requestedSlot (slotBits s k)) else s := by
  have hfirst : fld (at_ 1 12 + k) 11 0 = k := by simp only [fld, at_]; omega
  have hcount : fld (at_ 1 12 + k) 24 12 = 1 := by simp only [fld, at_]; omega
  split
  case isTrue hon => exact requestCommits_one hst hfirst hcount hon
  case isFalse hoff => exact requestCommits_disabled hst hfirst hcount (by simpa using hoff)

theorem requestSlot_only (hst : twf 0 s.steward = true) {k : Nat} (hk : k < 4096) : SlotsOnly s (requestSlot s k) := by
  rw [requestSlot_eq hst hk]
  split <;> rfl

theorem requestSlot_wf (hst : twf 0 s.steward = true) {k : Nat} (hk : k < 4096) : twf 0 (requestSlot s k).steward = true := by
  rw [requestSlot_eq hst hk]
  split
  · exact twf_tset hst _ _
  · exact hst

theorem slotBits_requestSlot (hst : twf 0 s.steward = true) {k : Nat} (hk : k < 4096) (j : Nat) :
    slotBits (requestSlot s k) j = if j = k then askedSlot (slotBits s k) else slotBits s j := by
  rw [requestSlot_eq hst hk, askedSlot]
  split
  · exact slotBits_setSlot hst (requestedSlot_lt (slotBits_lt s k)) j
  · split
    case isTrue h => rw [h]
    case isFalse => rfl

/-- Requests for slots that differ ask each of them once, and no other. -/
theorem foldl_requestSlot {l : List Nat} (hl : l.Nodup) (hlt : ∀ k ∈ l, k < 4096) (s : State) (hst : twf 0 s.steward = true) :
    SlotsOnly s (l.foldl requestSlot s) ∧ ∀ j, slotBits (l.foldl requestSlot s) j = if j ∈ l then askedSlot (slotBits s j) else slotBits s j := by
  induction l generalizing s with
  | nil => exact ⟨rfl, fun j => by simp⟩
  | cons k l ih =>
    obtain ⟨hnot, hl⟩ := List.nodup_cons.mp hl
    have hk := hlt k List.mem_cons_self
    obtain ⟨honly, hslots⟩ := ih hl (fun j hj => hlt j (List.mem_cons_of_mem _ hj)) (requestSlot s k) (requestSlot_wf hst hk)
    refine ⟨(requestSlot_only hst hk).trans honly, fun j => ?_⟩
    rw [List.foldl_cons, hslots, slotBits_requestSlot hst hk]
    by_cases hjk : j = k
    · simp [hjk, hnot]
    · simp [hjk]

theorem commitStep_eq (s : State) : commitStep s =
    { s.driver.written.foldl requestSlot s with driver := { (s.driver.written.foldl requestSlot s).driver with written := [] } } := rfl

/-- CURRENT of an enabled slot that no writer holds, once its commit is requested (R92). -/
theorem slotCurrent_askedSlot {v : Nat} (hon : slotEnabled v = true) (hfree : slotWriters v = 0) : slotCurrent (askedSlot v) = (commitValues v).2 := by
  rw [askedSlot, if_pos hon, requestedSlot, if_pos hfree]
  exact (commitSlot_committed v).current

/-- Stage 7's commits: the slots written, and no others, where no writer holds them. -/
theorem commitStep_commits (hst : twf 0 s.steward = true) (hl : s.driver.written.Nodup) (hlt : ∀ k ∈ s.driver.written, k < 4096) : let t := commitStep s
    t.driver = { s.driver with written := [] } ∧ t.cores = s.cores ∧ memoryKept s t ∧ ∀ k, slotEnabled (slotBits s k) = true → slotWriters (slotBits s k) = 0 →
      slotCurrent (slotBits t k) = if k ∈ s.driver.written then (commitValues (slotBits s k)).2 else slotCurrent (slotBits s k) := by
  obtain ⟨honly, hslots⟩ := foldl_requestSlot hl hlt s hst
  rw [commitStep_eq]
  obtain ⟨u, hu⟩ : ∃ u, s.driver.written.foldl requestSlot s = u := ⟨_, rfl⟩
  rw [hu] at honly hslots ⊢
  refine ⟨by rw [honly.driver], honly.cores, honly.memory, fun k hon hfree => ?_⟩
  have hslot : slotBits { u with driver := { u.driver with written := [] } } k = slotBits u k := rfl
  rw [hslot, hslots]
  split
  · exact slotCurrent_askedSlot hon hfree
  · rfl

/-! ### The end of a step, R317, R338 and R527 -/

theorem closeStep_logged {u : State} (hu : logNoted s KEEPER 1 .stepLoss [s.driver.step, s.driver.lossSum.toNat] = u) (a : StepStartArgs) :
    ∃ b, closeStep s a = { u with driver := { u.driver with beside := b, lossSum := 0 } } := by
  subst hu
  exact ⟨_, rfl⟩

/-- What closing a step leaves: the driver's own account of losses and of jobs that run on, and the log, alone change. -/
theorem closeStep_frame (s : State) (a : StepStartArgs) :
    (∃ b, (closeStep s a).driver = { s.driver with beside := b, lossSum := 0 }) ∧ (closeStep s a).keeper = s.keeper ∧ (closeStep s a).cores = s.cores := by
  obtain ⟨u, hu⟩ : ∃ u, logNoted s KEEPER 1 .stepLoss [s.driver.step, s.driver.lossSum.toNat] = u := ⟨_, rfl⟩
  have hlog : Tidy s u := hu ▸ logNoted_tidy ..
  obtain ⟨b, heq⟩ := closeStep_logged hu a
  rw [heq]
  exact ⟨⟨b, by rw [hlog.driver]⟩, hlog.keeper, hlog.cores⟩

/-- The copies of a checkpoint leave a request to stop, and the cores, as they are. -/
theorem checkpointAfter_frame (s : State) (k : Nat) :
    (checkpointAfter s k).driver.stopAsked = s.driver.stopAsked ∧ (checkpointAfter s k).cores = s.cores := by
  unfold checkpointAfter
  dsimp only
  split
  · exact ⟨rfl, rfl⟩
  · exact ⟨rfl, rfl⟩

theorem checkpointAfter_never (h : s.keeper.checkpointInterval = 0) (k : Nat) : checkpointAfter s k = s := if_pos (.inl h)

theorem afterStep_asked {u : State} (hu : checkpointAfter (closeStep s a) s.driver.step = u) (hstop : u.driver.stopAsked = true) :
    afterStep s a = { u with driver := { u.driver with mode := 0, stage := 0, stopAsked := false } } := by
  simp only [afterStep, hu, hstop, true_or, if_true]

/-- A driver that was asked to stop stops. -/
theorem afterStep_stops (hstop : s.driver.stopAsked = true) (a : StepStartArgs) : let t := afterStep s a
    t.driver.mode = 0 ∧ t.driver.stage = 0 ∧ t.driver.stopAsked = false ∧ t.cores = s.cores := by
  obtain ⟨⟨b, hdriver⟩, -, hcores⟩ := closeStep_frame s a
  obtain ⟨hasked, hkept⟩ := checkpointAfter_frame (closeStep s a) s.driver.step
  rw [hdriver] at hasked
  rw [hcores] at hkept
  obtain ⟨u, hu⟩ : ∃ u, checkpointAfter (closeStep s a) s.driver.step = u := ⟨_, rfl⟩
  rw [hu] at hasked hkept
  rw [afterStep_asked hu (hasked.trans hstop)]
  exact ⟨rfl, rfl, rfl, hkept⟩

/-- A driver without a last step or a checkpoint goes on to its next step. -/
theorem afterStep_goesOn (hstop : s.driver.stopAsked = false) (hcount : a.stepCount = 0) (hnever : s.keeper.checkpointInterval = 0) (hcopies : s.driver.copies = []) :
    ∃ u, u.cores = s.cores ∧ StepBegun u (s.driver.step + 1) (afterStep s a) := by
  obtain ⟨⟨b, hdriver⟩, hkeeper, hcores⟩ := closeStep_frame s a
  have hcheck : checkpointAfter (closeStep s a) s.driver.step = closeStep s a := checkpointAfter_never (by rw [hkeeper, hnever]) _
  have heq : afterStep s a = enterStep (closeStep s a) a (s.driver.step + 1) := by
    simp [afterStep, hcheck, hdriver, hstop, hcount]
  refine ⟨closeStep s a, hcores, heq ▸ enterStep_begun ?_ a _⟩
  rw [hdriver]
  exact hcopies

/-! ### The statement -/

/-- Settles O52: what the driver sees and pushes changes nothing, so that a stage goes by what it waits for, and the next entry by whether its record goes to its ring. -/
theorem driverSteps : Obligations.DriverSteps := by
  intro s a hruns hready hmode hargs hkept d goes
  have h : DriverStarted s a := ⟨hruns, hready, hmode, hargs, hkept⟩
  refine ⟨?_, ?_, fun hlook => ⟨fun hissue => ?_, ?_⟩⟩
  · intro hstage hissued hcopies hbeside
    have hlook : driverLook s = s := driverLook_nothing hissued hbeside (fun c hc => by simp [d, hcopies] at hc)
    have hpush : pushCopies s = s := pushCopies_allIssued (fun c hc => by simp [d, hcopies] at hc)
    have hbegun := enterStep_begun hcopies a s.driver.step
    exact ⟨_, exec_stepStage_enters h (by rw [hlook, hpush]) hstage, hbegun.stage, hbegun.step, hbegun.micro, hbegun.issued, hbegun.ended, hbegun.keep, hbegun.health,
      hbegun.written, hbegun.cores, hbegun.nvm⟩
  · intro c hstage hissued hbeside hcopies hout hdata hstep hopen
    have hmem (c' : DriverCopy) (hc : c' ∈ s.driver.copies) : c' = c := by simpa [d, hcopies] using hc
    have hlook : driverLook s = s := driverLook_nothing hissued hbeside (fun c' hc _ => by rw [hmem c' hc]; exact hopen)
    have hpush : pushCopies s = s := pushCopies_allIssued (fun c' hc => by rw [hmem c' hc]; exact hout)
    refine ⟨_, exec_stepStage_enters h (by rw [hlook, hpush]) hstage, ?_⟩
    rw [enterStep_waits hcopies hdata hstep]
    exact ⟨rfl, hcopies, rfl⟩
  · have advances (hstage : s.driver.stage ≠ 0) {t : State} (hnext : nextStage s a = t) : exec .stepStage s = .next t :=
      hnext ▸ exec_stepStage_advances h hlook hstage hissue
    refine ⟨fun hst hended => ?_, fun hst hended => ?_, fun hst hmore hended => ?_, fun hst hlast => ?_, fun hst hended => ?_,
      fun hst hended hcopies hreduces => ?_, fun hst hended hwf hnodup hlt => ?_, fun hst hended hstop => ?_, fun hst hended hstop hcount hnever hcopies => ?_⟩ <;>
      have hne : s.driver.stage ≠ 0 := hst.trans_ne (by decide)
    · exact advances hne (nextStage_first hst hended)
    · exact advances hne (nextStage_loss hst hended)
    · exact advances hne (nextStage_microBatch hst hmore hended)
    · exact advances hne (nextStage_lastMicroBatch hst hlast)
    · exact advances hne (nextStage_reduced hst hended)
    · obtain ⟨hkeep, hcores⟩ := decideStep_keep s a
      obtain ⟨u, hu⟩ : ∃ u, decideStep s a = u := ⟨_, rfl⟩
      rw [hu] at hkeep hcores
      exact ⟨_, advances hne (nextStage_decides hst hended hcopies hreduces hu), rfl, hkeep, hcores⟩
    · obtain ⟨hdriver, hcores, hmem, hslots⟩ := commitStep_commits hwf hnodup hlt
      obtain ⟨u, hu⟩ : ∃ u, commitStep s = u := ⟨_, rfl⟩
      rw [hu] at hdriver hcores hmem hslots
      exact ⟨_, advances hne (nextStage_commits hst hended hu), by rw [hdriver], hcores, hmem, fun k _ => hslots k⟩
    · exact ⟨_, advances hne (nextStage_after hst hended), afterStep_stops hstop a⟩
    · obtain ⟨u, hu, hbegun⟩ := afterStep_goesOn (a := a) hstop hcount hnever hcopies
      exact ⟨_, advances hne (nextStage_after hst hended), hbegun.stage, hbegun.step, hbegun.issued, hbegun.cores.trans hu⟩
  · intro i m rest w e p r q hstage hissue h1 h2 hrange hhealth hp hq hw
    rw [exec_stepPlanEntry_issues h hlook hstage hissue h1 h2 hrange hhealth, issueEntry_pushed rfl rfl hp hq hw]

end Sys2Proof.Machine
end

section
/-! SUPPORT. The solver's units and heads: what updates leave in them, how a job ends, and the readings that a deadline is held against. -/

namespace Sys2Proof.Machine

section
variable {s t : State} {u c : Nat} {j : SolverJob}

/-! ### Units and heads -/

theorem lt_of_getUnit (h : getUnit s u = some j) : u < s.units.length := by
  by_contra hu
  simp [getUnit, List.getElem?_eq_none (Nat.le_of_not_lt hu)] at h

theorem getUnit_setUnit (hu : u < s.units.length) (m : Nat) (y : Option SolverJob) : getUnit (setUnit s u y) m = if m = u then y else getUnit s m := by
  simp only [getUnit, setUnit]
  split
  · next hm => subst hm; simp [hu]
  · next hm => rw [List.getElem?_set_ne (Ne.symm hm)]

theorem setUnit_setUnit (s : State) (u : Nat) (x y : Option SolverJob) : setUnit (setUnit s u x) u y = setUnit s u y := by
  simp only [setUnit, List.set_set]

theorem setUnit_getUnit (s : State) (u : Nat) : setUnit s u (getUnit s u) = s := by
  simp only [setUnit, getUnit]
  cases h : s.units[u]? with
  | none => rw [List.set_eq_of_length_le (by simpa using h)]
  | some j =>
    obtain ⟨hu, rfl⟩ := List.getElem?_eq_some_iff.mp h
    simp

theorem modUnit_some (h : getUnit s u = some j) (f : SolverJob → SolverJob) : modUnit s u f = setUnit s u (some (f j)) := by simp only [modUnit, h]

/-- The job of a unit, where the units are those of another state. -/
theorem getUnit_of_units (h : t.units = s.units) (m : Nat) : getUnit t m = getUnit s m := by rw [getUnit, h, getUnit]

theorem getHead_of_heads (h : t.heads = s.heads) (m : Nat) : getHead t m = getHead s m := by rw [getHead, h, getHead]

theorem getHead_setHead (hc : c < s.heads.length) (m : Nat) (y : Option HeadJob) : getHead (setHead s c y) m = if m = c then y else getHead s m := by
  simp only [getHead, setHead]
  split
  · next hm => subst hm; simp [hc]
  · next hm => rw [List.getElem?_set_ne (Ne.symm hm)]

/-! ### Readings and deadlines, R363 and R378 -/

/-- A deadline that every reading has passed is late. -/
theorem readTime_late {dl : Nat} (h : dl + 4 < s.time) (b : Nat) : dl < (readTime s b).1 := by
  have := readTime_bounds s b
  omega

/-- A deadline that no reading has passed is met. -/
theorem readTime_intime {dl b : Nat} (h : max (tget 0 s.readings b) s.time ≤ dl) : ¬ dl < (readTime s b).1 := by
  have := readTime_bounds s b
  omega

/-! ### The end of a job, R378, R385 and R387 -/

/-- A deferred disable of the solver changes nothing but block states. -/
theorem settle_solver (s : State) : ∃ bs, settle s SOLVER = { s with blocks := bs } := by
  have hon (v : State) : onDisable v SOLVER = v := rfl
  unfold settle disableNow
  simp only [hon]
  split
  · split
    · exact ⟨_, rfl⟩
    · exact ⟨_, rfl⟩
  · exact ⟨_, rfl⟩

/-- An undelivered ending shows its code in LAST_FAULT; the rest of it is counted, logged and recorded. -/
theorem endUndelivered_tidy (s : State) (m : Master) (j : SolverJob) (code phase unit : Nat) :
    Tidy { s with lastSolverFault := code } (endUndelivered s m j code phase unit) := by
  have hcount (off : Nat) : Tidy { s with lastSolverFault := code } { count s SOLVER off 32 with lastSolverFault := code } :=
    count_tidy { s with lastSolverFault := code } SOLVER off 32
  unfold endUndelivered
  dsimp only
  refine .trans ?_ ((logEntry_tidy ..).trans (writeRecord_tidy ..))
  split
  · exact hcount _
  · exact hcount _

/-- Unit u's job has ended undelivered with a code, between two states. -/
structure JobEnded (s t : State) (u code : Nat) : Prop where
  free : getUnit t u = none
  fault : t.lastSolverFault = code
  others : ∀ m, m ≠ u → getUnit t m = getUnit s m
  heads : t.heads = s.heads
  cores : t.cores = s.cores

theorem endJob_ends (hj : getUnit s u = some j) (code : Nat) : JobEnded s (endJob s u code) u code := by
  have hu := lt_of_getUnit hj
  simp only [endJob, hj]
  have htidy := endUndelivered_tidy (setUnit s u none) (solverMaster u) j code j.phase u
  generalize endUndelivered (setUnit s u none) (solverMaster u) j code j.phase u = v at htidy
  obtain ⟨bs, hbs⟩ := settle_solver v
  have hunits (m : Nat) : getUnit (settle v SOLVER) m = if m = u then none else getUnit s m := by
    rw [hbs, ← getUnit_setUnit hu]
    exact getUnit_of_units htidy.units m
  refine ⟨by rw [hunits, if_pos rfl], ?_, fun m hm => by rw [hunits, if_neg hm], ?_, ?_⟩
  · rw [hbs]
    exact (congrArg State.lastSolverFault htidy.rest :)
  · rw [hbs]
    exact htidy.heads
  · rw [hbs]
    exact htidy.cores

/-- A job that ends after steps that leave the units, heads and cores alone. -/
theorem JobEnded.after {v : State} {code : Nat} (h : JobEnded v t u code) (hunits : ∀ m, m ≠ u → getUnit v m = getUnit s m) (hheads : v.heads = s.heads)
    (hcores : v.cores = s.cores) : JobEnded s t u code :=
  ⟨h.free, h.fault, fun m hm => (h.others m hm).trans (hunits m hm), h.heads.trans hheads, h.cores.trans hcores⟩

end

end Sys2Proof.Machine
end

section
/-! SUPPORT. LATE and the delivery of a result; the statement on the two (O38). -/

namespace Sys2Proof.Machine

section
variable {s : State}

/-! ### Writes over clean codes -/

theorem cleanCodes_of_clean (hc : clean s) (hm : twf 0 s.mem = true) : CleanCodes s :=
  ⟨hm, by rw [hc.1]; rfl, fun g => by rw [hc.1]; rfl, hc.2⟩

/-- A write of bytes that arrive whole stores them over clean codes, which stay clean. -/
theorem writeSpan_puts (m : Master) {a : Nat} {bs : List Byte} (hs : CleanCodes s) (ha : CoreSpan a bs.length) :
    (writeSpan m s a bs []).1 = false ∧ Puts a bs s (writeSpan m s a bs []).2 := by
  obtain ⟨hm, hg, hc, hh⟩ := hs
  obtain ⟨hmapped, hstores⟩ := writeSpan_clean m (poison := []) (p := false) ha hm hg hc hh (fun _ _ _ => rfl)
  refine ⟨hmapped, ⟨?_, hstores.guardWf, fun g => ?_, hstores.only.hopErrors.trans hh⟩, hstores.mem, (congrArg State.dma hstores.only :)⟩
  · rw [hstores.mem]
    exact twf_tsetList hm _ _
  · rw [hstores.guard, hc g]
    exact ite_self _

/-- Bytes away from those that a write stores are as before. -/
theorem memBytes_of_puts {t : State} {a x n : Nat} {bs : List Byte} (hm : twf 0 s.mem = true) (h : Puts a bs s t) (hx : x + n ≤ a ∨ a + bs.length ≤ x) :
    memBytes t x n = memBytes s x n := by
  refine List.ext_getElem (by simp only [memBytes_length]) fun i hi _ => ?_
  rw [memBytes_length] at hi
  simp only [memBytes, tgetList_getElem _ _ _ hi, h.mem]
  exact tget_tsetList_out hm _ _ _ (by omega)

/-- A record in the cores' stores leaves all bytes away from its own 64 (R552). -/
theorem memBytes_writeRecord (m : Master) {a x n : Nat} (r : Record) (hs : CleanCodes s) (ha : CoreSpan a 64) (hx : x + n ≤ a ∨ a + 64 ≤ x) :
    memBytes (writeRecord m s a r) x n = memBytes s x n := by
  have hhalf (k : Nat) : ((bytesOf k 64).drop 32).length = 32 ∧ ((bytesOf k 64).take 32).length = 32 := by
    rw [List.length_drop, List.length_take, bytesOf_length]
    exact ⟨rfl, rfl⟩
  have hclean : CleanCodes (readTime s (masterId m).2.2).2 := ⟨hs.mem, hs.guard, hs.codes, hs.hops⟩
  unfold writeRecord
  dsimp only
  generalize r.bits _ = k
  obtain ⟨hupper, hlower⟩ := hhalf k
  obtain ⟨hmapped, hputs⟩ := writeSpan_puts m (bs := (bytesOf k 64).drop 32) hclean (a := a + 32) (by rw [hupper]; exact ha.sub (by omega) (by omega))
  obtain ⟨-, hputs'⟩ := writeSpan_puts m (bs := (bytesOf k 64).take 32) hputs.clean (a := a) (by rw [hlower]; exact ha.sub (by omega) (by omega))
  rw [hmapped, if_neg Bool.false_ne_true, memBytes_of_puts hputs.clean.mem hputs' (by omega), memBytes_of_puts hclean.mem hputs (by omega)]
  rfl

/-! ### The two commands -/

variable {u : Fin 4} {j : SolverJob} {d : SolvDesc}

theorem exec_jobDeadline (hj : getUnit s u.val = some j) :
    exec (.jobDeadline u) s = .next (if j.deadline < (readTime s SOLVER).1 then endJob (readTime s SOLVER).2 u.val 3 else (readTime s SOLVER).2) := by
  show execJobDeadline u s = _
  simp only [execJobDeadline, hj]

/-- The state in which the slot granule of a delivery is written (R381). -/
def slotWritten (s : State) (u : Nat) (d : SolvDesc) (v : Nat) : State :=
  (jobWrite (readTime s SOLVER).2 u d.slot (bytesOf (slotGranule d v (readTime s SOLVER).1) 32)).2

/-- The state in which the delivered job's record is written (R384). -/
def jobRecorded (s : State) (u : Nat) (d : SolvDesc) (j : SolverJob) (v : Nat) : State :=
  writeRecord (solverMaster u) (count (slotWritten s u d v) SOLVER 0x010 32) d.record
    (solverRecordOf j.stepDone 0 8 u (fld v 191 160 + 1))

/-- A slot in the cores' stores takes its granule over clean codes. -/
theorem slotWritten_puts (hs : CleanCodes s) (hslot : CoreSpan d.slot 32) (m v : Nat) :
    let bs := bytesOf (slotGranule d v (readTime s SOLVER).1) 32
    (jobWrite (readTime s SOLVER).2 m d.slot bs).1 = false ∧ Puts d.slot bs s (slotWritten s m d v) ∧ (slotWritten s m d v).units = s.units := by
  intro bs
  have hread : CleanCodes (readTime s SOLVER).2 := ⟨hs.mem, hs.guard, hs.codes, hs.hops⟩
  obtain ⟨hmapped, hclean, hmem, hdma⟩ := writeSpan_puts (solverMaster m) (bs := bs) hread (a := d.slot) (by rwa [bytesOf_length])
  have hunits := ((readTime_tidy s SOLVER).trans (writeSpan_tidy (solverMaster m) _ d.slot bs [])).units
  have heq : slotWritten s m d v = noteLines (writeSpan (solverMaster m) (readTime s SOLVER).2 d.slot bs []).2 d.slot bs.length :=
    if_neg (ne_true_of_eq_false hmapped)
  rw [heq]
  refine ⟨hmapped, ⟨noteLines_cleanCodes _ _ hclean, ?_, ?_⟩, ?_⟩
  · rw [noteLines_mem, hmem]
    rfl
  · rw [noteLines_dma, hdma]
    rfl
  · rw [noteLines_tidy_rest]
    exact hunits

/-- A delivery in time, whose slot is mapped, ends with its record; its unit is free. -/
theorem exec_delivery {v : BitVec 512} (hj : getUnit s u.val = some j) (hv : j.slot = some v) (hdl : max (tget 0 s.readings SOLVER) s.time ≤ j.deadline)
    (hd : solvDesc j.desc.toNat = d) (hmapped : (jobWrite (readTime s SOLVER).2 u.val d.slot (bytesOf (slotGranule d v.toNat (readTime s SOLVER).1) 32)).1 = false) :
    exec (.delivery u) s = .next (settle (setUnit (jobRecorded s u.val d j v.toNat) u.val none) SOLVER) := by
  show execDelivery u s = _
  simp only [execDelivery, deliverJob, hj, hv, if_neg (readTime_intime hdl), hd, hmapped, Bool.false_eq_true, if_false]
  rfl

/-- The delivered granule stands in its slot, beside the other half of it, and the unit is free (R381). -/
theorem jobRecorded_delivers (hj : getUnit s u.val = some j) (hs : CleanCodes s) (hslot : CoreSpan d.slot 64) (hrecord : CoreSpan d.record 64)
    (haway : d.slot + 64 ≤ d.record ∨ d.record + 64 ≤ d.slot) (v : Nat) {t : State} (ht : settle (setUnit (jobRecorded s u.val d j v) u.val none) SOLVER = t) :
    memBytes t d.slot 32 = bytesOf (slotGranule d v (readTime s SOLVER).1) 32 ∧ memBytes t (d.slot + 32) 32 = memBytes s (d.slot + 32) 32 ∧
      getUnit t u.val = none ∧ ∀ k, k ≠ u.val → getUnit t k = getUnit s k := by
  obtain ⟨-, hputs, hunits⟩ := slotWritten_puts hs (hslot.sub (le_refl d.slot) (by omega)) u.val v
  generalize hbs : bytesOf (slotGranule d v (readTime s SOLVER).1) 32 = bs at hputs
  have hlen : bs.length = 32 := hbs ▸ bytesOf_length ..
  have hcounted : CleanCodes (count (slotWritten s u.val d v) SOLVER 0x010 32) := ⟨hputs.clean.mem, hputs.clean.guard, hputs.clean.codes, hputs.clean.hops⟩
  have hrest : (jobRecorded s u.val d j v).units = s.units := ((count_tidy ..).trans (writeRecord_tidy ..)).units.trans hunits
  obtain ⟨htmem, htunits⟩ : t.mem = (jobRecorded s u.val d j v).mem ∧ t.units = (setUnit s u.val none).units := by
    generalize jobRecorded s u.val d j v = w at ht hrest
    obtain ⟨blocks, hsettle⟩ := settle_solver (setUnit w u.val none)
    rw [← ht, hsettle]
    exact ⟨rfl, congrArg (fun l => l.set u.val none) hrest⟩
  have hmem (x : Nat) (hx : x + 32 ≤ d.record ∨ d.record + 64 ≤ x) : memBytes t x 32 = memBytes (slotWritten s u.val d v) x 32 := by
    have hkept := memBytes_writeRecord (solverMaster u.val) (solverRecordOf j.stepDone 0 8 u.val (fld v 191 160 + 1)) hcounted hrecord hx
    rw [← jobRecorded, memBytes, memBytes, count_mem] at hkept
    rw [memBytes, htmem, hkept, memBytes]
  have hunit (k : Nat) : getUnit t k = if k = u.val then none else getUnit s k := (getUnit_of_units htunits k).trans (getUnit_setUnit (lt_of_getUnit hj) k none)
  refine ⟨?_, ?_, by rw [hunit, if_pos rfl], fun k hk => by rw [hunit, if_neg hk]⟩
  · rw [hmem d.slot (by omega), memBytes, hputs.mem, ← hlen]
    exact tgetList_tsetList hs.mem d.slot bs
  · rw [hmem (d.slot + 32) (by omega), memBytes_of_puts hs.mem hputs (by omega)]

end

/-- Settles O38: a reading decides between LATE and going on; the delivery's granule outlives the record, which stands elsewhere. -/
theorem solverEnds : Obligations.SolverEnds := by
  intro s u j _ hj
  refine ⟨fun hlate => ?_, fun hdl => ⟨?_, fun v n a r => ?_⟩⟩
  · have hends := (endJob_ends (s := (readTime s SOLVER).2) hj 3).after (s := s) (fun _ _ => rfl) rfl rfl
    exact ⟨_, (exec_jobDeadline hj).trans (congrArg _ (if_pos (readTime_late hlate _))), hends.free, hends.fault, hends.heads, hends.others⟩
  · exact ⟨_, (exec_jobDeadline hj).trans (congrArg _ (if_neg (readTime_intime hdl))), rfl, rfl, rfl, rfl, rfl, rfl, rfl⟩
  · intro d hv hslot hrecord ha hr hne hclean hmem
    have hs := cleanCodes_of_clean hclean hmem
    have hslotSpan : CoreSpan d.slot 64 := hslot ▸ coreSpan_tile n.isLt (by omega)
    have hrecordSpan : CoreSpan d.record 64 := hrecord ▸ coreSpan_tile n.isLt (by omega)
    obtain ⟨hmapped, -, -⟩ := slotWritten_puts hs (hslotSpan.sub (le_refl d.slot) (by omega)) u.val v.toNat
    have haway : d.slot + 64 ≤ d.record ∨ d.record + 64 ≤ d.slot := by omega
    obtain ⟨hgranule, hother, hfree, hothers⟩ := jobRecorded_delivers hj hs hslotSpan hrecordSpan haway v.toNat rfl
    obtain ⟨-, hlow, hhigh⟩ := readTime_bounds s SOLVER
    exact ⟨_, _, exec_delivery hj hv hdl rfl hmapped, hfree, hhigh, hlow, hgranule, hother, hothers⟩

end Sys2Proof.Machine
end

section
/-! SUPPORT. A step of a solver job, up to what its kind does; the refutation of the statement on the steps (O37). -/

namespace Sys2Proof.Machine

section
variable {s : State} {u : Fin 4} {j : SolverJob} {d : SolvDesc} {k : Nat × Nat} {rest : List (Nat × Nat)}

/-! ### A step in time, R377 -/

/-- Memory of clean codes shows no error in a unit's workspace (R368). -/
theorem checkStore_clean (hg : s.guard = []) (u : Nat) (d : SolvDesc) : checkStore s u d = (false, s) := by
  rw [checkStore, hg]
  rfl

/-- The state in which the step of a job runs: the deadline has been read, and the workspace is in use. -/
def atStep (s : State) (u : Nat) (d : SolvDesc) : State := touchStore (readTime s SOLVER).2 u d

/-- Before its deadline, and with clean codes, a job's next step runs, and counts where its kind says so. -/
theorem exec_solverStep (hj : getUnit s u.val = some j) (hplan : j.plan = k :: rest) (hdl : max (tget 0 s.readings SOLVER) s.time ≤ j.deadline) (hg : s.guard = [])
    (hd : solvDesc j.desc.toNat = d) :
    exec (.solverStep u) s = .next (if (runStep (atStep s u.val d) u.val d k).1 = true then modUnit (runStep (atStep s u.val d) u.val d k).2 u.val SolverJob.stepDone
      else (runStep (atStep s u.val d) u.val d k).2) := by
  show execSolverStep u s = _
  simp only [execSolverStep, solverStep, hj, hplan, hd, if_neg (readTime_intime hdl), checkStore_clean (s := (readTime s SOLVER).2) hg, Bool.false_eq_true, if_false]
  rfl

/-- A writeback that would reach past its deadline ends with LATE (R378). -/
theorem writeback_late (hj : getUnit s u.val = some j) (hslot : j.slot = none) (hlate : j.deadline < (readTime s SOLVER).1 + writebackTime d) :
    writeback s u.val d = endJob (readTime s SOLVER).2 u.val 3 := by
  simp only [writeback, hj, hslot, Option.isSome_none, Bool.false_eq_true, if_false, if_pos hlate]

/-- A job whose writeback's own reading comes too near its deadline leaves its unit, though the step's reading was in time. -/
theorem exec_solverStep_writebackLate (hj : getUnit s u.val = some j) (hplan : j.plan = (11, 0) :: rest)
    (hdl : max (tget 0 s.readings SOLVER) s.time ≤ j.deadline) (hg : s.guard = []) (hslot : j.slot = none)
    (hlate : ∀ d, j.deadline < (readTime (atStep s u.val d) SOLVER).1) : ∃ t, exec (.solverStep u) s = .next t ∧ getUnit t u.val = none := by
  generalize hd : solvDesc j.desc.toNat = d
  have hjob : getUnit (atStep s u.val d) u.val = some j := hj
  have hrun : runStep (atStep s u.val d) u.val d (11, 0) = (false, endJob (readTime (atStep s u.val d) SOLVER).2 u.val 3) :=
    congrArg (Prod.mk false) (writeback_late hjob hslot (Nat.lt_of_lt_of_le (hlate d) (Nat.le_add_right _ _)))
  have hexec := exec_solverStep hj hplan hdl hg hd
  rw [hrun] at hexec
  exact ⟨_, hexec, (endJob_ends (s := (readTime (atStep s u.val d) SOLVER).2) hjob 3).free⟩

end

/-! ### A table of readings that is not canonical -/

/-- A job of one block at its writeback, with its slot at the start of core 0's tile store. -/
def lastStepJob : SolverJob := { channel := 0, desc := BitVec.ofNat 1024 (2 ^ 833 + 2 ^ 487), headAt := 0, deadline := 100, plan := [(11, 0)], total := 1 }

/-- Unit 0 runs that job at time 0, and its slot's buffers are there. The solver's last reading stands twice in the table of readings: the first entry, a zero, hides the second. -/
def hiddenReading : State :=
  { setUnit State.reset 0 (some lastStepJob) with mem := [(tileBase 0 + 63, 0x80)], readings := [(SOLVER, 0), (SOLVER, 2 ^ 40)] }

/-- The reading of the step itself takes the zero away, so that the reading of the writeback is at least the hidden one. -/
theorem hiddenReading_shows (d : SolvDesc) : 2 ^ 40 ≤ (readTime (atStep hiddenReading 0 d) SOLVER).1 := by
  have hfirst : (readTime hiddenReading SOLVER).1 = 0 := Nat.le_zero.mp (readTime_bounds hiddenReading SOLVER).2.2
  have hreadings : (atStep hiddenReading 0 d).readings = [(SOLVER, 2 ^ 40)] := by
    show tset 0 hiddenReading.readings SOLVER (readTime hiddenReading SOLVER).1 = _
    rw [hfirst]
    rfl
  have hsecond := (readTime_bounds (atStep hiddenReading 0 d) SOLVER).1
  rw [hreadings] at hsecond
  exact hsecond

/-- Refutes O37: nothing says that the table of readings is canonical. Where it hides a later reading of the solver behind a zero, the writeback's own reading is that one, and the
job ends with LATE where the statement has it read its slot. -/
theorem not_solverSteps : ¬ Obligations.SolverSteps := by
  intro h
  obtain ⟨-, -, -, -, -, -, -, -, -, hwriteback⟩ := h hiddenReading 0 lastStepJob (11, 0) [] rfl rfl rfl (by decide) ⟨rfl, rfl⟩
  obtain ⟨t, hexec, hunit, -⟩ := hwriteback rfl rfl (by decide +kernel) ⟨0, by decide +kernel⟩ (by decide +kernel) ⟨0, by decide +kernel⟩ (by decide +kernel)
  obtain ⟨t', hexec', hfree⟩ := exec_solverStep_writebackLate (s := hiddenReading) (u := 0) (j := lastStepJob) rfl rfl (by decide) rfl rfl
    fun d => Nat.lt_of_lt_of_le (show 100 < 2 ^ 40 by decide) (hiddenReading_shows d)
  obtain rfl : t = t' := Host.Outcome.next.inj (hexec.symm.trans hexec')
  exact Option.some_ne_none _ (hunit.symm.trans hfree)

end Sys2Proof.Machine
end

section
/-! SUPPORT. The registers in which operations on memory and the log count; every other register stays as it was, whichever unit makes the access. -/

namespace Sys2Proof.Machine

/-- The registers in which an operation on memory counts, those of the Keeper's log included: registers of the module, the Keeper, the shared cache, the controllers and the
cores, and the solver's count of discarded writes. -/
def MemoryCounter (b off : Nat) : Prop :=
  off < 4096 ∧ (b = CHIP ∨ b = KEEPER ∨ b = SCACHE ∨ (∃ k, k < 12 ∧ b = MEMC k) ∨ (∃ n, b = CORE n) ∨ (b = SOLVER ∧ off = 0x030))

/-- A key of the register table at which no operation on memory counts. -/
def Uncounted (key : Nat) : Prop := ∀ b off, MemoryCounter b off → key ≠ regKey b off

/-- The registers at the uncounted keys. -/
def quietRegs (t : Table Word64) (key : { k : Nat // Uncounted k }) : Word64 := tget 0 t key.val

/-- A step after which every register that no operation on memory counts in is as before. -/
def QuietRegsKept (s t : State) : Prop := quietRegs t.regs = quietRegs s.regs

namespace QuietRegsKept
variable {s t u : State}

theorem refl (s : State) : QuietRegsKept s s := rfl

theorem trans (h : QuietRegsKept s t) (g : QuietRegsKept t u) : QuietRegsKept s u := Eq.trans g h

theorem of_regs (h : t.regs = s.regs) : QuietRegsKept s t := congrArg quietRegs h

theorem getReg (h : QuietRegsKept s t) {b off : Nat} (hkey : Uncounted (regKey b off)) : getReg t b off = getReg s b off :=
  congrArg (fun v : Word64 => Nat.xor v.toNat (regDefault (regKey b off))) (congrFun h ⟨_, hkey⟩)

theorem ite {p : Prop} [Decidable p] (h : QuietRegsKept s t) (g : QuietRegsKept s u) : QuietRegsKept s (if p then t else u) := by
  split
  · exact h
  · exact g

theorem foldl {β : Type} {f : State → β → State} (h : ∀ s b, QuietRegsKept s (f s b)) (l : List β) (s : State) : QuietRegsKept s (l.foldl f s) := by
  induction l generalizing s with
  | nil => exact .refl s
  | cons b l ih => exact (h s b).trans (ih _)

theorem foldl_snd {α β : Type} {f : α × State → β → α × State} (h : ∀ a s b, QuietRegsKept s (f (a, s) b).2) (l : List β) (a : α) (s : State) :
    QuietRegsKept s (l.foldl f (a, s)).2 := by
  induction l generalizing a s with
  | nil => exact .refl s
  | cons b l ih => exact (h a s b).trans (ih (f (a, s) b).1 (f (a, s) b).2)

theorem foldl_fst {α β : Type} {f : State × α → β → State × α} (h : ∀ a s b, QuietRegsKept s (f (s, a) b).1) (l : List β) (a : α) (s : State) :
    QuietRegsKept s (l.foldl f (s, a)).1 := by
  induction l generalizing a s with
  | nil => exact .refl s
  | cons b l ih => exact (h a s b).trans (ih (f (s, a) b).2 (f (s, a) b).1)

end QuietRegsKept

section
variable {s : State} {b off : Nat}

theorem setReg_quiet (h : MemoryCounter b off) (v : Nat) : QuietRegsKept s (setReg s b off v) := by
  funext key
  exact tget_tset_other s.regs _ (key.property b off h)

theorem count_quiet (h : MemoryCounter b off) (w : Nat) : QuietRegsKept s (count s b off w) := .ite (.refl s) (setReg_quiet h _)

/-! ### The counters of each block -/

theorem counter_chip (h : off < 4096) : MemoryCounter CHIP off := ⟨h, .inl rfl⟩
theorem counter_keeper (h : off < 4096) : MemoryCounter KEEPER off := ⟨h, .inr (.inl rfl)⟩
theorem counter_cache (h : off < 4096) : MemoryCounter SCACHE off := ⟨h, .inr (.inr (.inl rfl))⟩
theorem counter_core (n : Nat) (h : off < 4096) : MemoryCounter (CORE n) off := ⟨h, .inr (.inr (.inr (.inr (.inl ⟨n, rfl⟩))))⟩
theorem counter_solver : MemoryCounter SOLVER 0x030 := ⟨by decide, .inr (.inr (.inr (.inr (.inr ⟨rfl, rfl⟩))))⟩

theorem counter_memc (s : State) (a : Nat) (h : off < 4096) : MemoryCounter (MEMC ((hbmMap s a).1 / 32)) off :=
  ⟨h, .inr (.inr (.inr (.inl ⟨_, by have := hbmMap_channel_lt s a; omega, rfl⟩)))⟩

/-- In the solver, operations on memory count in its count of discarded writes alone. -/
theorem uncounted_solver (ho : off < 4096) (hne : off ≠ 0x030) : Uncounted (regKey SOLVER off) := by
  rintro b o ⟨ho', hb⟩ hkey
  obtain ⟨rfl, rfl⟩ := (regKey_inj ho ho').mp hkey
  rcases hb with h | h | h | ⟨k, hk, h⟩ | ⟨n, h⟩ | ⟨-, h⟩
  · exact absurd h (by decide)
  · exact absurd h (by decide)
  · exact absurd h (by decide)
  · unfold SOLVER MEMC at h; omega
  · unfold SOLVER CORE at h; omega
  · exact hne h

end

/-! ### The Keeper's log and the check points -/

theorem storeBytes_quiet (s : State) (g off : Nat) (bs : List Byte) (p : Bool) : QuietRegsKept s (storeBytes s g off bs p) :=
  .of_regs (congrArg State.regs (storeBytes_only s g off bs p) :)

theorem logEntry_quiet (s : State) (b cls code d : Nat) : QuietRegsKept s (logEntry s b cls code d) := by
  unfold logEntry
  dsimp only
  split
  · exact count_quiet (counter_keeper (by decide)) _
  · exact .trans (.of_regs (readTime_regs s KEEPER)) (.trans (.of_regs (storeGranule_regs ..)) (setReg_quiet (counter_keeper (by decide)) _))

theorem noteUnmapped_quiet (m : Master) (s : State) (a : Nat) : QuietRegsKept s (noteUnmapped m s a) :=
  .trans (setReg_quiet (counter_chip (by decide)) _) (logEntry_quiet ..)

section
variable {s : State} {point : Nat}

theorem noteUncorr_quiet (hp : point < 0x16) (b g : Nat) : QuietRegsKept s (noteUncorr s point b g) := by
  have hlast (t : State) (v : Word64) : QuietRegsKept t { t with guardLast := v } := .of_regs rfl
  unfold noteUncorr
  dsimp only
  exact (((count_quiet (counter_chip (by omega)) _).trans (count_quiet (counter_chip (by decide)) _)).trans (hlast _ _)).trans (logEntry_quiet ..)

theorem noteCorr_quiet (hp : point < 0x16) : QuietRegsKept s (noteCorr s point) :=
  (count_quiet (counter_chip (by omega)) _).trans (count_quiet (counter_chip (by decide)) _)

theorem noteCheck_quiet (s : State) (g : Nat) (r : Guard) : QuietRegsKept s (noteCheck s g r) := by
  cases r with
  | clean => exact .refl s
  | poison => exact .refl s
  | corrected e => exact noteCorr_quiet (checkPoint_lt ..)
  | uncorrectable => exact .ite (.refl s) (.trans (.of_regs rfl) (noteUncorr_quiet (checkPoint_lt ..) ..))

theorem crossHop_quiet (hp : point < 0x16) (g : Nat) (p : Guard × State) : QuietRegsKept p.2 (crossHop g p point).2 := by
  have herase (x : List (Nat × Nat × BitVec 32)) : QuietRegsKept p.2 { p.2 with hopErrors := x } := .of_regs rfl
  unfold crossHop
  split
  · exact .refl _
  · dsimp only
    split
    · exact (herase _).trans (noteCorr_quiet hp)
    · exact (herase _).trans (noteUncorr_quiet hp ..)
    · exact herase _
    · exact herase _

theorem foldl_crossHop_quiet {l : List Nat} (hl : ∀ point ∈ l, point < 0x16) (g : Nat) (p : Guard × State) : QuietRegsKept p.2 (l.foldl (crossHop g) p).2 := by
  induction l generalizing p with
  | nil => exact .refl _
  | cons point l ih => exact (crossHop_quiet (hl point List.mem_cons_self) g p).trans (ih (fun q hq => hl q (List.mem_cons_of_mem _ hq)) _)

/-- A master on neither die of cores has the hops of a DMA channel on its way. -/
theorem hopPoints_undied {m : Master} (hm : masterDie m = none) (s : State) (a : Nat) : ∀ point ∈ hopPoints m s a, point < 0x16 := by
  have heq : hopPoints m s a = hopPoints (.dma 0) s a := by
    unfold hopPoints
    rw [hm]
    rfl
  exact heq ▸ hopPoints_dma_lt 0 s a

theorem crossHops_quiet {m : Master} (hm : masterDie m = none) (s : State) (g : Nat) (r : Guard) : QuietRegsKept s (crossHops m s g r).2 := by
  unfold crossHops
  split
  · exact .refl s
  · exact foldl_crossHop_quiet (hopPoints_undied hm s (32 * g)) g (r, s)

end

/-! ### The books of HBM, the shared cache and the write-combining buffers -/

theorem stackAccess_quiet (s : State) (a : Nat) (w r : Bool) : QuietRegsKept s (stackAccess s a w r) := by
  have hcount (o : Nat) (ho : o < 4096) (u : State) : QuietRegsKept u (count u (MEMC ((hbmMap s a).1 / 32)) o 48) := count_quiet (counter_memc s a ho) _
  have hif (p : Prop) [Decidable p] (o : Nat) (ho : o < 4096) (u : State) : QuietRegsKept u (if p then count u (MEMC ((hbmMap s a).1 / 32)) o 48 else u) :=
    .ite (hcount o ho u) (.refl u)
  have hdir : (if w = true then 0x028 else 0x020) < 4096 := by split <;> decide
  exact ((hcount _ hdir s).trans (hif _ _ (by decide) _)).trans (hif _ _ (by decide) _)

theorem drainGranule_quiet {k : Nat} (hk : ∀ off, off < 4096 → MemoryCounter (MEMC k) off) (e : WcbEntry) (p : State × OpenRows) (i : Nat) :
    QuietRegsKept p.1 (drainGranule k e p i).1 := by
  unfold drainGranule
  dsimp only
  split
  · exact .refl _
  · split
    · exact stackAccess_quiet ..
    · exact ((stackAccess_quiet ..).trans (count_quiet (hk _ (by decide)) _)).trans (stackAccess_quiet ..)

theorem drainBatch_quiet {k : Nat} (hk : ∀ off, off < 4096 → MemoryCounter (MEMC k) off) (s : State) (pc : Nat) : QuietRegsKept s (drainBatch s k pc) :=
  .foldl_fst (fun rows s e => .foldl_fst (fun rows s i => drainGranule_quiet hk e (s, rows) i) _ rows s) _ _ s

theorem stackReads_quiet (s : State) (as : List Nat) (r : Bool) : QuietRegsKept s (stackReads s as r) :=
  .foldl_fst (fun r s a => by dsimp only; split; exacts [.refl s, stackAccess_quiet ..]) as r s

theorem wcbWrite_quiet (s : State) (a off len : Nat) : QuietRegsKept s (wcbWrite s a off len) := by
  unfold wcbWrite
  dsimp only
  split
  · exact .of_regs rfl
  · refine .trans ?_ (.of_regs rfl)
    split
    · exact .refl s
    · split
      · exact drainBatch_quiet (fun _ => counter_memc s a) ..
      · exact .refl s

theorem evictLine_quiet (s : State) (l : Nat) (d : Bool) : QuietRegsKept s (evictLine s l d) := by
  have hlines : QuietRegsKept s { s with cacheLines := s.cacheLines.filter (fun x => x.1 != l), reserved := s.reserved.filter (fun r => r.2 != l + 1) } := .of_regs rfl
  unfold evictLine
  dsimp only
  split
  · exact (hlines.trans (count_quiet (counter_cache (by decide)) _)).trans (wcbWrite_quiet ..)
  · exact hlines

theorem allocLine_quiet (s : State) (l : Nat) (d : Bool) : QuietRegsKept s (allocLine s l d) := by
  unfold allocLine
  dsimp only
  refine .ite (.refl s) (.trans (.ite (.refl s) (.trans (t := (fresh s).2) (.of_regs rfl) ?_)) (.of_regs rfl))
  generalize (fresh s).2 = t
  generalize (if s.cacheLines.isEmpty = true then [] else s.cacheLines.filter (fun x => Config.cacheSet x.1 == Config.cacheSet l)) = mine
  split
  · exact evictLine_quiet ..
  · exact .refl _

theorem hit_quiet (p : Prop) [Decidable p] (s : State) {o : Nat} (ho : o < 4096) : QuietRegsKept s (if p then count s SCACHE o 48 else s) :=
  .ite (count_quiet (counter_cache ho) _) (.refl s)

theorem hbmReadNote_quiet (s : State) (a : Nat) (f at' : Bool) : QuietRegsKept s (hbmReadNote s a f at') :=
  .ite (.ite (hit_quiet _ s (by decide)) ((hit_quiet _ s (by decide)).trans (.ite ((stackReads_quiet ..).trans (allocLine_quiet ..)) (stackReads_quiet ..))))
    (stackReads_quiet ..)

theorem hbmWriteNote_quiet (s : State) (a off len : Nat) (f at' : Bool) : QuietRegsKept s (hbmWriteNote s a off len f at') :=
  .ite (.ite ((hit_quiet _ s (by decide)).trans (.of_regs rfl))
    ((hit_quiet _ s (by decide)).trans (.ite ((stackReads_quiet ..).trans (allocLine_quiet ..)) (wcbWrite_quiet ..)))) (wcbWrite_quiet ..)

/-! ### Reads, writes and records of a master on neither die of cores -/

section
variable {m : Master} (hm : masterDie m = none)

theorem readGranule_quiet (s : State) (g : Nat) (f : Bool) : QuietRegsKept s (readGranule s g f).2.2 := by
  unfold readGranule
  dsimp only
  split
  · split
    · exact count_quiet (counter_memc s _ (by decide)) _
    · exact (hbmReadNote_quiet ..).trans (noteCheck_quiet ..)
  · exact .refl s
  · exact noteCheck_quiet ..

include hm

theorem readSpan_quiet (s : State) (a n : Nat) : QuietRegsKept s (readSpan m s a n).2 := by
  refine .foldl_snd (fun rd s p => ?_) _ _ _
  dsimp only
  split
  · split
    · exact .refl s
    · exact noteUnmapped_quiet ..
  · exact .of_regs (by unfold noteTimeRead; split <;> rfl)
  · exact (readGranule_quiet ..).trans (crossHops_quiet hm ..)

omit hm in
theorem writePiece_quiet (m : Master) (s : State) (g off : Nat) (bs : List Byte) (p f : Bool) : QuietRegsKept s (writePiece m s g off bs p f) := by
  unfold writePiece
  dsimp only
  generalize regionOf s (32 * g + off) = r
  cases r <;> dsimp only
  case unmapped => exact .refl s
  case regs => exact .of_regs rfl
  case imem n b o => exact .ite (storeBytes_quiet ..) (.ite (count_quiet (counter_core n (by decide)) _) (.refl s))
  case solverStore => exact .ite (.ite (count_quiet counter_solver _) (.refl s)) (storeBytes_quiet ..)
  case hbm => exact .ite (count_quiet (counter_memc s _ (by decide)) _) ((hbmWriteNote_quiet ..).trans (storeBytes_quiet ..))
  all_goals exact storeBytes_quiet ..

theorem writeSpan_quiet (s : State) (a : Nat) (bs : List Byte) (p : List Nat) : QuietRegsKept s (writeSpan m s a bs p).2 := by
  unfold writeSpan
  dsimp only
  refine .trans ?_ (.foldl_fst (fun _ _ _ => (crossHops_quiet hm ..).trans (writePiece_quiet ..)) _ _ _)
  split
  · exact noteUnmapped_quiet ..
  · exact .refl s

theorem writeRecord_quiet (s : State) (a : Nat) (r : Record) : QuietRegsKept s (writeRecord m s a r) := by
  have htime : QuietRegsKept s (readTime s (masterId m).2.2).2 := .of_regs rfl
  unfold writeRecord
  dsimp only
  split
  · exact htime.trans (writeSpan_quiet hm ..)
  · exact (htime.trans (writeSpan_quiet hm ..)).trans (writeSpan_quiet hm ..)

end

end Sys2Proof.Machine
end

section
/-! SUPPORT. The heads of the solver's channels: descriptors that are read, refused or late, and the tails of the rings. -/

namespace Sys2Proof.Machine

section
variable {s t u : State} {c k : Nat}

/-! ### The tails of the rings, R360 -/

/-- Where the tail of a channel's ring stands. -/
def solverTail (c : Nat) : Nat := 0x118 + 32 * c

theorem solverTail_lt (hc : c < 16) : solverTail c < 4096 := by unfold solverTail; omega

theorem solverTail_uncounted (hc : c < 16) : Uncounted (regKey SOLVER (solverTail c)) := uncounted_solver (solverTail_lt hc) (by unfold solverTail; omega)

/-- A step after which every ring of the solver has the tail that it had. -/
def SolverTailsKept (s t : State) : Prop := ∀ c, c < 16 → getReg t SOLVER (solverTail c) = getReg s SOLVER (solverTail c)

theorem SolverTailsKept.trans (h : SolverTailsKept s t) (g : SolverTailsKept t u) : SolverTailsKept s u := fun c hc => (g c hc).trans (h c hc)

theorem SolverTailsKept.of_quiet (h : QuietRegsKept s t) : SolverTailsKept s t := fun _ hc => h.getReg (solverTail_uncounted hc)

theorem SolverTailsKept.of_regs (h : t.regs = s.regs) : SolverTailsKept s t := .of_quiet (.of_regs h)

/-- The counters of endings stand below the registers of the rings. -/
theorem count_solverTails (s : State) {off : Nat} (h : off < 0x118) (w : Nat) : SolverTailsKept s (count s SOLVER off w) := fun c hc =>
  getReg_count_other w fun hkey => by
    have := ((regKey_inj (solverTail_lt hc) (by omega)).mp hkey).2
    unfold solverTail at this
    omega

/-- An undelivered ending leaves the tails. -/
theorem endUndelivered_solverTails {m : Master} (hm : masterDie m = none) (s : State) (j : SolverJob) (code phase unit : Nat) :
    SolverTailsKept s (endUndelivered s m j code phase unit) := by
  have hfault (v : State) : SolverTailsKept v { v with lastSolverFault := code } := .of_regs rfl
  have hcounted : SolverTailsKept s (if code = 3 then count s SOLVER 0x018 32 else count s SOLVER 0x020 32) := by
    split
    · exact count_solverTails s (by decide) 32
    · exact count_solverTails s (by decide) 32
  exact (hcounted.trans (hfault _)).trans (.of_quiet ((logEntry_quiet ..).trans (writeRecord_quiet hm ..)))

theorem endJob_solverTails {j : SolverJob} {n : Nat} (hj : getUnit s n = some j) (code : Nat) : SolverTailsKept s (endJob s n code) := by
  have hfree : SolverTailsKept s (setUnit s n none) := .of_regs rfl
  have hended := endUndelivered_solverTails (m := solverMaster n) rfl (setUnit s n none) j code j.phase n
  simp only [endJob, hj]
  generalize endUndelivered (setUnit s n none) (solverMaster n) j code j.phase n = v at hended
  obtain ⟨bs, hbs⟩ := settle_solver v
  rw [hbs]
  exact (hfree.trans hended).trans (.of_regs rfl)

/-! ### Heads that leave their channels, R359 to R363 -/

/-- TAIL advances past a head job that leaves its ring. -/
theorem dropHead_tail (hregs : twf 0 s.regs = true) (c : Nat) :
    getReg (dropHead s c) SOLVER (solverTail c) = (getReg s SOLVER (solverTail c) + 1) % 2 ^ 32 :=
  (getReg_setReg (s := setHead s c none) hregs _ _ _ _ _ (Nat.lt_of_lt_of_le (Nat.mod_lt _ (by decide)) (by decide))).trans (if_pos rfl)

theorem getHead_dropHead (hc : c < s.heads.length) (k : Nat) : getHead (dropHead s c) k = if k = c then none else getHead s k :=
  (getHead_of_heads rfl k).trans (getHead_setHead hc k none)

/-- The head job of channel c has ended with a code, between two states. -/
structure HeadEnded (s t : State) (c code : Nat) : Prop where
  free : getHead t c = none
  fault : t.lastSolverFault = code
  tail : twf 0 s.regs = true → getReg t SOLVER (solverTail c) = (getReg s SOLVER (solverTail c) + 1) % 2 ^ 32
  others : ∀ k, k ≠ c → getHead t k = getHead s k
  units : t.units = s.units
  cores : t.cores = s.cores

theorem endHead_ends (hlen : s.heads.length = 16) (hc : c < 16) (h : HeadJob) (code p q : Nat) : HeadEnded s (endHead s c h code p q) c code := by
  have hended (j : SolverJob) := endUndelivered_tidy (dropHead s c) .solverRecord j code 0 7
  have htails (j : SolverJob) := endUndelivered_solverTails (m := .solverRecord) rfl (dropHead s c) j code 0 7
  unfold endHead
  dsimp only
  generalize ({ channel := c, desc := h.desc, headAt := h.arrived, deadline := 0, poisonReads := p, corrReads := q, total := _ } : SolverJob) = j
  obtain htidy := hended j
  obtain htail := htails j
  generalize endUndelivered (dropHead s c) .solverRecord j code 0 7 = t at htidy htail
  have hheads (k : Nat) : getHead t k = if k = c then none else getHead s k := (getHead_of_heads htidy.heads k).trans (getHead_dropHead (hlen ▸ hc) k)
  exact ⟨by rw [hheads, if_pos rfl], (congrArg State.lastSolverFault htidy.rest :), fun hregs => (htail c hc).trans (dropHead_tail hregs c),
    fun k hk => by rw [hheads, if_neg hk], htidy.units, htidy.cores⟩

/-! ### The descriptor at a ring's head, R360 -/

/-- The head job of a descriptor, as it is read after state u. -/
def ringHead (u : State) (rd : Rd) : HeadJob :=
  { desc := BitVec.ofNat 1024 (ofBytes rd.data), arrived := (readTime u SOLVER).1, armedAt := (readTime u SOLVER).1 }

/-- The address of the descriptor that a channel reads next. -/
def ringAt (s : State) (c : Nat) : Nat :=
  ringAddr (getReg s SOLVER (0x100 + 32 * c)) (fld (getReg s SOLVER (0x108 + 32 * c)) 4 0) (getReg s SOLVER (0x118 + 32 * c)) 128

/-- A channel that may read a descriptor has no head job to settle first. -/
theorem exec_solverDescriptorRead {c : Fin 16} (h : channelReady s c.val = true) : exec (.solverDescriptorRead c) s = .next (readHead s c.val) := by
  have hnone : getHead s c.val = none := by
    simp only [channelReady, Bool.and_eq_true, Option.isNone_iff_eq_none] at h
    tauto
  show execSolverDescriptorRead c s = _
  simp only [execSolverDescriptorRead, settleHead, hnone, h, if_true]

variable {rd : Rd}

/-- A good descriptor that waits for no launch is the head job. -/
theorem readHead_good (hread : readSpan .solverRecord s (ringAt s c) 128 = (rd, u)) (hpoison : rd.poison = []) (hgood : solverBad (solvDesc (ofBytes rd.data)) = false)
    (harm : (solvDesc (ofBytes rd.data)).arm = false) : readHead s c = setHead (readTime u SOLVER).2 c (some (ringHead u rd)) := by
  rw [ringAt] at hread
  simp only [readHead, hread, hpoison, hgood, harm, List.isEmpty_nil, Bool.not_true, Bool.false_eq_true, if_false]
  rfl

/-- A descriptor that R359 refuses ends at once. -/
theorem readHead_refused (hread : readSpan .solverRecord s (ringAt s c) 128 = (rd, u)) (hpoison : rd.poison = []) (hbad : solverBad (solvDesc (ofBytes rd.data)) = true) :
    readHead s c = endHead (readTime u SOLVER).2 c (ringHead u rd) 1 rd.bad rd.corr := by
  rw [ringAt] at hread
  simp only [readHead, hread, hpoison, hbad, List.isEmpty_nil, Bool.not_true, Bool.false_eq_true, if_false, if_true]
  rfl

theorem exec_headDeadline {c : Fin 16} {h : HeadJob} {dl : Nat} (hh : getHead s c.val = some h) (hdl : headDeadline h = some dl) :
    exec (.headDeadline c) s = .next (if dl < (readTime s SOLVER).1 then endHead (readTime s SOLVER).2 c.val h 3 0 0 else (readTime s SOLVER).2) := by
  show execHeadDeadline c s = _
  simp only [execHeadDeadline, hh, hdl]

end

end Sys2Proof.Machine
end

section
/-! SUPPORT. The job that a free unit chooses, and how it begins; the statement on heads and the units that take them (O36). -/

namespace Sys2Proof.Machine

section
variable {s t v : State} {u : Nat} {j : SolverJob} {d : SolvDesc}

/-! ### The choice, R361 -/

/-- Of the jobs that a unit may take, the best is one of them. -/
theorem foldl_best_mem {α : Type} {f : Option α → α → Option α} (hf : ∀ best x, f best x = some x ∨ f best x = best) (l : List α) (best : Option α) {y : α}
    (h : l.foldl f best = some y) : best = some y ∨ y ∈ l := by
  induction l generalizing best with
  | nil => exact .inl h
  | cons x l ih =>
    rcases ih _ h with hx | hy
    · rcases hf best x with hnew | hold
      · exact .inr (Option.some.inj (hnew.symm.trans hx) ▸ List.mem_cons_self)
      · exact .inl (hold.symm.trans hx)
    · exact .inr (List.mem_cons_of_mem _ hy)

/-- A chosen job is the head job of its channel, and its deadline is an absolute one. -/
theorem chooseHead_some {c : Nat} {h : HeadJob} (hc : chooseHead s u = some (c, h)) : c < 16 ∧ getHead s c = some h ∧ ∃ dl, headDeadline h = some dl := by
  unfold chooseHead chooseFrom at hc
  have hmem := (foldl_best_mem (fun best x => by
    cases best with
    | none => exact .inl rfl
    | some b => exact (ite_eq_or_eq _ _ _)) _ none hc).resolve_left nofun
  obtain ⟨c', hc', hsome⟩ := List.mem_filterMap.mp hmem
  cases hhead : getHead s c' with
  | none => simp [hhead] at hsome
  | some h' =>
    rw [hhead] at hsome
    obtain ⟨hmay, heq⟩ := Option.ite_none_right_eq_some.mp hsome
    obtain ⟨rfl, rfl⟩ := Prod.mk.inj (Option.some.inj heq)
    refine ⟨List.mem_range.mp hc', hhead, ?_⟩
    simp only [eligible, Bool.and_eq_true] at hmay
    cases hdl : headDeadline h' with
    | none => simp [hdl] at hmay
    | some dl => exact ⟨dl, rfl⟩

/-! ### Steps of a job that begins -/

/-- What the reads with which a job begins leave of it. -/
def SolverJob.course (j : SolverJob) : Nat × BitVec 1024 × Nat × Nat × List (Nat × Nat) × Nat × Nat × Bool :=
  (j.channel, j.desc, j.headAt, j.deadline, j.plan, j.total, j.done, j.retried)

/-- A step of unit u's job that leaves its course, every other unit, the heads and rings, and the cores. -/
structure CourseKept (u : Nat) (s t : State) : Prop where
  heads : t.heads = s.heads
  cores : t.cores = s.cores
  tails : SolverTailsKept s t
  others : ∀ k, k ≠ u → getUnit t k = getUnit s k
  job : ∀ j, getUnit s u = some j → ∃ j', getUnit t u = some j' ∧ j'.course = j.course

theorem CourseKept.of_units (hu : t.units = s.units) (hh : t.heads = s.heads) (hc : t.cores = s.cores) (hr : QuietRegsKept s t) : CourseKept u s t :=
  ⟨hh, hc, .of_quiet hr, fun k _ => getUnit_of_units hu k, fun j hj => ⟨j, (getUnit_of_units hu u).trans hj, rfl⟩⟩

theorem CourseKept.of_tidy (h : Tidy s t) (hr : QuietRegsKept s t) : CourseKept u s t := .of_units h.units h.heads h.cores hr

theorem CourseKept.refl (s : State) : CourseKept u s s := .of_tidy (.refl s) (.refl s)

theorem CourseKept.trans (h : CourseKept u s t) (g : CourseKept u t v) : CourseKept u s v :=
  ⟨g.heads.trans h.heads, g.cores.trans h.cores, h.tails.trans g.tails, fun k hk => (g.others k hk).trans (h.others k hk), fun j hj => by
    obtain ⟨j', hj', hsame⟩ := h.job j hj
    obtain ⟨j'', hj'', hsame'⟩ := g.job j' hj'
    exact ⟨j'', hj'', hsame'.trans hsame⟩⟩

theorem modUnit_course (s : State) {f : SolverJob → SolverJob} (hf : ∀ j, (f j).course = j.course) : CourseKept u s (modUnit s u f) := by
  cases hj : getUnit s u with
  | none =>
    simp only [modUnit, hj]
    exact .refl s
  | some j =>
    rw [modUnit_some hj]
    have hunit := getUnit_setUnit (lt_of_getUnit hj)
    refine ⟨rfl, rfl, .of_regs rfl, fun k hk => by rw [hunit, if_neg hk], fun j' hj' => ⟨f j, by rw [hunit, if_pos rfl], ?_⟩⟩
    rw [hf, Option.some.inj (hj.symm.trans hj')]

theorem touchStore_units (s : State) (u : Nat) (d : SolvDesc) : (touchStore s u d).units = s.units := by
  unfold touchStore fillFree
  rfl

/-- The workspace that a job begins with. -/
theorem touchStore_course (s : State) (d : SolvDesc) : CourseKept u s (touchStore s u d) := by
  unfold touchStore fillFree
  exact .of_units rfl rfl rfl (.of_regs rfl)

theorem jobRead_course (s : State) (a n : Nat) : CourseKept u s (jobRead s u a n).2.2 := by
  have hspan : CourseKept u s (readSpan (solverMaster u) s a n).2 := .of_tidy (readSpan_tidy ..) (readSpan_quiet rfl ..)
  unfold jobRead
  generalize readSpan (solverMaster u) s a n = r at hspan
  obtain ⟨rd, w⟩ := r
  have hcounted : CourseKept u s (modUnit w u (fun j => { j with poisonReads := j.poisonReads + rd.bad, corrReads := j.corrReads + rd.corr })) :=
    hspan.trans (modUnit_course _ fun _ => rfl)
  dsimp only
  generalize modUnit w u _ = v at hcounted
  have hpoison : CourseKept u v (rd.poison.foldl (fun s g => notePoisonConsumed s SOLVER (32 * g) (((getUnit s u).map (·.channel)).getD 0)) v) :=
    .of_tidy (tidy_foldl (fun _ _ => notePoisonConsumed_tidy ..) _ v) (.foldl (fun _ _ => logEntry_quiet ..) _ v)
  exact hcounted.trans hpoison

theorem blendWeight_course (s : State) (d : SolvDesc) : CourseKept u s (blendWeight s u d).2.2 := by
  unfold blendWeight
  split
  · exact .refl s
  · exact jobRead_course s d.visit 32

/-- A job that begins runs on its course, or ends after reads. -/
theorem beginJob_course (hj : getUnit s u = some j) :
    CourseKept u s (beginJob s u) ∨ ∃ v code, CourseKept u s v ∧ beginJob s u = endJob v u code := by
  simp only [beginJob, hj]
  generalize solvDesc j.desc.toNat = d
  have htouch : CourseKept u s (touchStore s u d) := touchStore_course s d
  generalize touchStore s u d = v at htouch
  have hblend : CourseKept u s (blendWeight v u d).2.2 := htouch.trans (blendWeight_course v d)
  generalize blendWeight v u d = b at hblend
  have hread : CourseKept u s (jobRead b.2.2 u d.stat 64).2.2 := hblend.trans (jobRead_course ..)
  generalize jobRead b.2.2 u d.stat 64 = r at hread
  split
  · exact .inl htouch
  · split
    · exact .inr ⟨_, 9, hblend, rfl⟩
    · split
      · exact .inl (hblend.trans (modUnit_course _ fun _ => rfl))
      · split
        · exact .inr ⟨_, 9, hread, rfl⟩
        · split
          · exact .inr ⟨_, _, hread, rfl⟩
          · exact .inl (hread.trans (modUnit_course _ fun _ => rfl))

/-- What the beginning of unit u's job leaves, whether it runs on or ends. -/
structure JobBegun (u : Nat) (j : SolverJob) (s t : State) : Prop where
  heads : t.heads = s.heads
  cores : t.cores = s.cores
  tails : SolverTailsKept s t
  others : ∀ k, k ≠ u → getUnit t k = getUnit s k
  job : ∀ j', getUnit t u = some j' → j'.course = j.course

theorem beginJob_begun (hj : getUnit s u = some j) : JobBegun u j s (beginJob s u) := by
  rcases beginJob_course hj with h | ⟨v, code, h, hend⟩
  · obtain ⟨hheads, hcores, htails, hothers, hjob⟩ := h
    refine ⟨hheads, hcores, htails, hothers, fun j' hj' => ?_⟩
    obtain ⟨j'', hj'', hsame⟩ := hjob j hj
    rwa [Option.some.inj (hj'.symm.trans hj'')]
  · obtain ⟨hheads, hcores, htails, hothers, hjob⟩ := h
    obtain ⟨j', hj', -⟩ := hjob j hj
    have hends := endJob_ends hj' code
    rw [hend]
    exact ⟨hends.heads.trans hheads, hends.cores.trans hcores, htails.trans (endJob_solverTails hj' code), fun k hk => (hends.others k hk).trans (hothers k hk),
      fun _ h => (Option.some_ne_none _ (h.symm.trans hends.free)).elim⟩

/-! ### Jobs that are sure to run on, R364 and R365 -/

/-- A job that assembles nothing, or without a statistic, reads nothing as it begins. -/
theorem beginJob_plain (hj : getUnit s u = some j) (hd : solvDesc j.desc.toNat = d)
    (h : d.assemble = false ∨ (d.visited = false ∧ d.init = false ∧ fmag d.alpha = 0)) : CourseKept u s (beginJob s u) := by
  have htouch : CourseKept u s (touchStore s u d) := touchStore_course s d
  simp only [beginJob, hj, hd]
  generalize touchStore s u d = v at htouch
  rcases h with hassemble | ⟨hvisited, hinit, halpha⟩
  · rwa [hassemble, Bool.not_false, if_pos rfl]
  · simp only [blendWeight, hvisited, hinit, halpha, Bool.not_false, if_true, Bool.false_eq_true, if_false, beq_self_eq_true, Bool.and_self]
    split
    · exact htouch
    · exact htouch.trans (modUnit_course v fun _ => rfl)

/-- Entries away from consecutive writes are as before, in a table of any form. -/
theorem tget_tsetList_away {α : Type} [DecidableEq α] {x : α} (t : Table α) {k i : Nat} (vs : List α) (h : i < k ∨ k + vs.length ≤ i) :
    tget x (tsetList x t k vs) i = tget x t i := by
  induction vs generalizing t k with
  | nil => rfl
  | cons v vs ih =>
    rw [List.length_cons] at h
    rw [tsetList, ih _ (by omega), tget_tset_other _ _ (by omega)]

/-- The workspace of a unit ends below the tile stores (R357). -/
theorem workspace_below {u : Nat} (hu : u < 4) (x : Nat) : solverBase u + (solvDesc x).workspace ≤ tileBase 0 := by
  have hdim : (solvDesc x).dim < 32 := Nat.mod_lt _ (by decide)
  generalize solvDesc x = d at hdim
  have hblocks : (d.dim + 1) * (d.dim + 1 + 1) ≤ 32 * 33 := Nat.mul_le_mul (by omega) (by omega)
  have hfactor : (if d.alg = 1 then 2 else if d.alg = 2 then 4 else 5) * d.bytes ≤ 5 * d.bytes := Nat.mul_le_mul_right _ (by split <;> [decide; (split <;> decide)])
  have hbytes : d.bytes ≤ 16384 * 528 := by
    unfold SolvDesc.bytes SolvDesc.blocks SolvDesc.m
    omega
  unfold SolvDesc.workspace solverBase tileBase
  omega

/-- The bytes of the tile stores are those from before a unit used its workspace. -/
theorem memBytes_touchStore {a : Nat} (hu : u < 4) (x : Nat) (ha : tileBase 0 ≤ a) (n : Nat) :
    memBytes (touchStore s u (solvDesc x)) a n = memBytes s a n := by
  have hbelow := workspace_below hu x
  refine List.ext_getElem (by simp only [memBytes_length]) fun i hi _ => ?_
  rw [memBytes_length] at hi
  simp only [memBytes, tgetList_getElem _ _ _ hi]
  exact tget_tsetList_away _ _ (.inr (by rw [List.length_map, List.length_range]; omega))

theorem touchStore_clean (h : clean s) (u : Nat) (d : SolvDesc) : clean (touchStore s u d) := by
  obtain ⟨hguard, hhops⟩ := h
  unfold touchStore fillFree
  refine ⟨?_, hhops⟩
  dsimp only [putBytes]
  rw [hguard]
  rfl

/-- A job's read of clean codes brings the stored bytes and changes nothing. -/
theorem jobRead_clean {a n : Nat} (hj : getUnit s u = some j) (hc : clean s) (ha : CoreSpan a n) : jobRead s u a n = (memBytes s a n, false, s) := by
  have hspan := readSpan_clean (s := s) (solverMaster u) ha (fun g => by rw [hc.1]; rfl) hc.2
  have hcounts : modUnit s u (fun j => { j with poisonReads := j.poisonReads + 0, corrReads := j.corrReads + 0 }) = s :=
    (modUnit_some hj _).trans ((congrArg (setUnit s u) hj.symm).trans (setUnit_getUnit s u))
  simp only [jobRead, hspan]
  exact congrArg (fun v => (memBytes s a n, false, v)) hcounts

/-- A statistic whose header lies clean in a tile store, and fits the job, gives it SAMPLES and FORM. -/
theorem beginJob_read {p : Nat × Bool} (hu : u < 4) (hj : getUnit s u = some j) (hd : solvDesc j.desc.toNat = d) (hassemble : d.assemble = true)
    (hvisited : d.visited = false) (huses : d.init = true ∨ fmag d.alpha ≠ 0) (hc : clean s) (hstat : inTile d.stat 64)
    (hfits : statHeader d (ofBytes (memBytes s d.stat 64)) = .inr p) :
    ∃ j', getUnit (beginJob s u) u = some j' ∧ j'.samples = p.1 ∧ j'.full = p.2 := by
  have hskips : (!d.init && fmag d.alpha == 0) = false := by
    rcases huses with h | h <;> simp [h]
  have hbytes : memBytes (touchStore s u d) d.stat 64 = memBytes s d.stat 64 := by
    obtain ⟨k, hk, -⟩ := hstat
    have hbase : tileBase 0 ≤ d.stat := Nat.le_trans (by unfold tileBase; omega) hk
    subst hd
    exact memBytes_touchStore hu _ hbase 64
  have hunit : getUnit (touchStore s u d) u = some j := (getUnit_of_units (touchStore_units s u d) u).trans hj
  have hread := jobRead_clean hunit (touchStore_clean hc u d) (coreSpan_inTile hstat le_rfl le_rfl)
  simp only [beginJob, hj, hd, hassemble, blendWeight, hvisited, hskips, hread, hbytes, hfits, Bool.not_true, Bool.not_false, Bool.false_eq_true, if_true, if_false]
  rw [modUnit_some hunit, getUnit_setUnit (lt_of_getUnit hunit), if_pos rfl]
  exact ⟨_, rfl, rfl, rfl⟩

/-! ### The unit that takes a job, R361 and R377 -/

/-- The job of channel c's head job h, with the absolute deadline dl, as a unit takes it. -/
def chosenJob (c : Nat) (h : HeadJob) (dl : Nat) : SolverJob :=
  { channel := c, desc := h.desc, headAt := h.arrived, deadline := dl, plan := jobPlan (solvDesc h.desc.toNat) (strictChannel c),
    total := (jobPlan (solvDesc h.desc.toNat) (strictChannel c)).length }

theorem reached_course (j : SolverJob) : j.reached.course = j.course ∧ j.reached.desc = j.desc := by
  unfold SolverJob.reached
  split
  · exact ⟨rfl, rfl⟩
  · dsimp only
    split
    · exact ⟨rfl, rfl⟩
    · exact ⟨rfl, rfl⟩

/-- The state in which unit u has taken the head job h of channel c. -/
def jobTaken (s : State) (u c : Nat) (h : HeadJob) (dl : Nat) : State := setUnit (dropHead s c) u (some (chosenJob c h dl).reached)

theorem takeJob_takes {c dl : Nat} {h : HeadJob} (hfree : getUnit s u = none) (henabled : (blk s SOLVER).enabled = true) (hdisabling : (blk s SOLVER).disabling = false)
    (hstopped : (blk s SOLVER).errorStopped = false) (hchosen : chooseHead s u = some (c, h)) (hdl : headDeadline h = some dl) :
    takeJob s u (solvDesc h.desc.toNat).alg = beginJob (jobTaken s u c h dl) u := by
  simp only [takeJob, hfree, henabled, hdisabling, hstopped, hchosen, hdl, Option.isSome_none, Bool.not_true, Bool.or_self, Bool.false_eq_true, if_false,
    Option.getD_some, ne_eq, not_true_eq_false]
  rfl

/-- The three commands by which a unit takes a job, by its algorithm. -/
theorem exec_takeJob (s : State) (u : Fin 4) (alg : Fin 3) :
    exec (if alg = 0 then .chol u else if alg = 1 then .inv u else .iroot u) s = .next (takeJob s u.val (alg.val + 1)) := by
  fin_cases alg
  · rfl
  · rfl
  · rfl

end

/-- Settles O36: the descriptor that is read becomes the head job or ends; a reading ends a late head job; the taken job reads what it begins with, which moves neither its course
nor anything of the other units and channels. -/
theorem solverTakes : Obligations.SolverTakes := by
  refine ⟨fun s c => ?_, fun s c h dl hlen hh hdl => ⟨fun hlate => ?_, fun hintime => ?_⟩, fun s u c h alg => ?_⟩
  · intro tail r u d hlen hready hpoison
    have hread : readSpan .solverRecord s (ringAt s c.val) 128 = (r.1, u) := rfl
    have htidy : Tidy s u := readSpan_tidy .solverRecord s _ 128
    have hexec := exec_solverDescriptorRead hready
    have hother : u.heads = s.heads := htidy.heads
    clear_value u
    refine ⟨fun hgood harm => ?_, fun hbad hregs => ?_⟩
    · rw [readHead_good hread hpoison hgood harm] at hexec
      have hheads (k : Nat) : getHead (setHead (readTime u SOLVER).2 c.val (some (ringHead u r.1))) k = if k = c.val then some (ringHead u r.1) else getHead s k := by
        rw [← getHead_of_heads hother]
        exact getHead_setHead (s := (readTime u SOLVER).2) (by rw [show (readTime u SOLVER).2.heads = s.heads from hother, hlen]; exact c.isLt) k _
      obtain ⟨-, hlow, hhigh⟩ := readTime_bounds u SOLVER
      exact ⟨_, _, hexec, (hheads _).trans (if_pos rfl), rfl, rfl, rfl, rfl, hhigh, hlow, fun k hk => (hheads k).trans (if_neg hk), rfl, htidy.units, ⟨rfl, rfl, rfl⟩,
        htidy.cores⟩
    · rw [readHead_refused hread hpoison hbad] at hexec
      have hends := endHead_ends (s := (readTime u SOLVER).2) (show u.heads.length = 16 from (congrArg List.length hother).trans hlen) c.isLt (ringHead u r.1) 1 r.1.bad r.1.corr
      exact ⟨_, hexec, hends.free, hends.fault, hends.tail hregs, fun k hk => (hends.others k hk).trans (getHead_of_heads hother k), hends.units.trans htidy.units,
        hends.cores.trans htidy.cores⟩
  · have hends := endHead_ends (s := (readTime s SOLVER).2) hlen c.isLt h 3 0 0
    exact ⟨_, (exec_headDeadline hh hdl).trans (congrArg _ (if_pos (readTime_late hlate _))), hends.free, hends.fault, hends.units, hends.others⟩
  · exact ⟨_, (exec_headDeadline hh hdl).trans (congrArg _ (if_neg (readTime_intime hintime))), rfl, rfl, rfl, rfl, rfl, rfl, rfl⟩
  · intro d i plain read hlen hulen hregs hfree henabled hdisabling hstopped hchosen halg
    obtain ⟨hc, -, dl, hdl⟩ := chooseHead_some hchosen
    have hexec : exec i s = .next (beginJob (jobTaken s u.val c h dl) u.val) := by
      rw [← takeJob_takes hfree henabled hdisabling hstopped hchosen hdl]
      exact (exec_takeJob s u alg).trans (congrArg (fun a => Host.Outcome.next (takeJob s u.val a)) halg.symm)
    have hunit (k : Nat) : getUnit (jobTaken s u.val c h dl) k = if k = u.val then some (chosenJob c h dl).reached else getUnit s k :=
      getUnit_setUnit (s := dropHead s c) (show u.val < s.units.length by rw [hulen]; exact u.isLt) k _
    have hj : getUnit (jobTaken s u.val c h dl) u.val = some (chosenJob c h dl).reached := (hunit _).trans (if_pos rfl)
    obtain ⟨hcourse, hdesc⟩ := reached_course (chosenJob c h dl)
    have hd : solvDesc (chosenJob c h dl).reached.desc.toNat = d := by rw [hdesc]; rfl
    obtain ⟨hheads, hcores, htails, hothers, hjob⟩ := beginJob_begun hj
    have hhead (k : Nat) : getHead (beginJob (jobTaken s u.val c h dl) u.val) k = if k = c then none else getHead s k :=
      (getHead_of_heads hheads k).trans (getHead_dropHead (hlen ▸ hc) k)
    have hreads (hr : read) : ∃ j', getUnit (beginJob (jobTaken s u.val c h dl) u.val) u.val = some j' ∧
        statHeader d (ofBytes (memBytes s d.stat 64)) = .inr (j'.samples, j'.full) := by
      obtain ⟨hassemble, hvisited, huses, hclean, hstat, p, hp⟩ := hr
      obtain ⟨j', hj', hsamples, hfull⟩ := beginJob_read u.isLt hj hd hassemble hvisited huses hclean hstat hp
      exact ⟨j', hj', by rw [hsamples, hfull]; exact hp⟩
    refine ⟨_, hexec, (hhead c).trans (if_pos rfl), fun k hk => (hhead k).trans (if_neg hk), fun k hk => (hothers k hk).trans ((hunit k).trans (if_neg hk)), hcores,
      (htails c hc).trans (dropHead_tail hregs c), fun hruns => ?_, fun j' hj' => ?_⟩
    · rcases hruns with hplain | hr
      · obtain ⟨j', hj', -⟩ := (beginJob_plain hj hd hplain).job _ hj
        exact Option.ne_none_iff_exists'.mpr ⟨j', hj'⟩
      · obtain ⟨j', hj', -⟩ := hreads hr
        exact Option.ne_none_iff_exists'.mpr ⟨j', hj'⟩
    · have hsame := (hjob j' hj').trans hcourse
      simp only [SolverJob.course, Prod.mk.injEq] at hsame
      obtain ⟨hchannel, hdesc', hat, hdeadline, hplan, htotal, hdone, hretried⟩ := hsame
      refine ⟨hchannel, hdesc', hat, by rw [hdeadline]; exact hdl, hplan, htotal.trans (congrArg List.length hplan.symm), hdone, hretried, fun hr => ?_⟩
      obtain ⟨j'', hj'', hheader⟩ := hreads hr
      rwa [Option.some.inj (hj'.symm.trans hj'')]

end Sys2Proof.Machine
end

section
/-! SUPPORT. The end of a collective: what this rank gives up, notes and sends at it leaves every other collective alone; the statement on aborts, time-outs and ends (O42). -/

namespace Sys2Proof.Machine

section
variable {s t u : State} {k : CollId} {c : Collective}

/-! ### Steps that leave the books of COLL alone -/

/-- A step that keeps the collectives held here, the names of those that ended with a fault, and the last fault. -/
structure CollsKept (s t : State) : Prop where
  held : t.collectives = s.collectives
  faulted : t.collFaulted = s.collFaulted
  last : t.lastCollFault = s.lastCollFault

theorem CollsKept.refl (s : State) : CollsKept s s := ⟨rfl, rfl, rfl⟩

theorem CollsKept.trans (h : CollsKept s t) (g : CollsKept t u) : CollsKept s u :=
  ⟨g.held.trans h.held, g.faulted.trans h.faulted, g.last.trans h.last⟩

/-- Two steps, the second named first: it fixes the state between them. -/
theorem CollsKept.after (g : CollsKept t u) (h : CollsKept s t) : CollsKept s u := h.trans g

theorem CollsKept.foldl {β : Type} {f : State → β → State} (h : ∀ s b, CollsKept s (f s b)) (l : List β) (s : State) : CollsKept s (l.foldl f s) := by
  induction l generalizing s with
  | nil => exact .refl s
  | cons b l ih => exact (h s b).trans (ih _)

theorem NetTidy.colls (h : NetTidy s t) : CollsKept s t :=
  ⟨h.collectives, (congrArg State.collFaulted h.rest :), (congrArg State.lastCollFault h.rest :)⟩

theorem PoolOnly.colls (h : PoolOnly s t) : CollsKept s t :=
  ⟨h.collectives, (congrArg State.collFaulted h :), (congrArg State.lastCollFault h :)⟩

theorem ReleasesOnly.colls (h : ReleasesOnly s t) : CollsKept s t :=
  ⟨(congrArg State.collectives h.rest :), (congrArg State.collFaulted h.rest :), (congrArg State.lastCollFault h.rest :)⟩

theorem CollsKept.of_report (h : reportAside t = reportAside s) : CollsKept s t :=
  ⟨(congrArg State.collectives h :), (congrArg State.collFaulted h :), (congrArg State.lastCollFault h :)⟩

theorem reportWriter_colls (s : State) (w : Writer) : CollsKept s (reportWriter s w) := .of_report (reportWriter_aside s w)

/-- A last fault that is noted besides. -/
theorem CollsKept.noted (h : CollsKept s t) (code : Nat) : CollsKept { s with lastCollFault := code } { t with lastCollFault := code } :=
  ⟨h.held, h.faulted, rfl⟩

/-! ### What a collective gives up, R405 -/

theorem consumeChain_colls (s : State) (head : Nat) : CollsKept s (consumeChain s head) := by
  unfold consumeChain
  split
  · exact .refl s
  · exact (releaseChain_only ..).colls

theorem dropOpens_colls (s : State) (k : CollId) : CollsKept s (dropOpens s k) :=
  (CollsKept.foldl consumeChain_colls _ _).after ⟨rfl, rfl, rfl⟩

theorem dropAwaited_colls (s : State) (kind flow : Nat) : CollsKept s (dropAwaited s kind flow) := by
  have hrequest (s : State) (w : Awaited) : CollsKept s (match w.request with | some id => dropRequest s id | none => s) := by
    split
    · exact (dropRequest_only ..).colls
    · exact .refl s
  have hrequests := CollsKept.foldl hrequest (s.awaited.filter (fun w => w.kind == kind && w.flow == flow)) s
  exact ⟨hrequests.held, hrequests.faulted, hrequests.last⟩

theorem endCollFlow_colls (s : State) (k : CollId) : CollsKept s (endCollFlow s k) := by
  unfold endCollFlow
  dsimp only
  split
  · exact ⟨rfl, rfl, rfl⟩
  · have h := dropAwaited_colls { s with messages := s.messages.filter (fun m => !(m.kind == 2 && messageColl m.what == some k)) } 2 k.index.toNat
    exact ⟨h.held, h.faulted, h.last⟩

/-- A collective that is given up is no longer held; every other one is. -/
theorem dropColl_colls (s : State) (c : Collective) : CollsKept { s with collectives := s.collectives.filter (fun x => x.id != c.id) } (dropColl s c) := by
  have hwriter : CollsKept s (match c.writer with | some w => reportWriter s w | none => s) := by
    split
    · exact reportWriter_colls ..
    · exact .refl s
  unfold dropColl
  dsimp only
  refine ((endCollFlow_colls ..).after (dropOpens_colls ..)).after ((CollsKept.foldl (fun s (p : Contribution) => consumeChain_colls s p.chain) _ _).after ?_)
  exact ⟨congrArg (List.filter _) hwriter.held, hwriter.faulted, hwriter.last⟩

/-! ### The end of a collective, R403, R405, R415, R416 -/

/-- The collective k is no longer held, and every other one is. -/
theorem collOf_filter (h : t.collectives = s.collectives.filter (fun x => x.id != k)) : collOf t k = none ∧ ∀ j, j ≠ k → collOf t j = collOf s j := by
  have hfind (j : CollId) : collOf t j = s.collectives.find? (fun x => (x.id != k) && (x.id == j)) := by
    rw [collOf, h, List.find?_filter]
    simp only [Bool.decide_and, Bool.decide_eq_true]
  refine ⟨(hfind k).trans (List.find?_eq_none.mpr fun x _ => by simp), fun j hj => (hfind j).trans (congrArg (List.find? · _) (funext fun x => ?_))⟩
  by_cases hx : x.id = j
  · simp [hx, hj]
  · simp [hx]

/-- Beside what the collective gives up and what a fault notes, its end counts, sends aborts and writes a record. -/
theorem endCollective_net (hc : collOf s k = some c) (code blamed other : Nat) :
    NetTidy (if code = 0 then count (dropColl s c) COLL 0x098 32 else enterFaulted (noteCollFault (count (dropColl s c) COLL 0x098 32) k code) k)
      (endCollective s k code blamed other) := by
  simp only [endCollective, hc]
  exact (netTidy_ite (.refl _) (netTidy_foldl (fun s r => sendMessage_net ..) _ _)).trans (writeRecord_tidy ..).net

theorem dropColl_held (hc : collOf s k = some c) : CollsKept { s with collectives := s.collectives.filter (fun x => x.id != k) } (count (dropColl s c) COLL 0x098 32) := by
  have hid : c.id = k := by simpa using List.find?_some hc
  exact (count_tidy ..).net.colls.after (hid ▸ dropColl_colls s c)

theorem noteCollFault_colls (s : State) (k : CollId) (code : Nat) : CollsKept { s with lastCollFault := code } (noteCollFault s k code) :=
  (logNoted_tidy ..).net.colls.after ((count_tidy s COLL 0x0A0 32).net.colls.noted code)

/-- A collective that has ended with a fault is noted among those of its kind (R405). -/
theorem enterFaulted_notes (s : State) (k : CollId) :
    k ∈ (enterFaulted s k).collFaulted ∧ (enterFaulted s k).collectives = s.collectives ∧ (enterFaulted s k).lastCollFault = s.lastCollFault :=
  ⟨List.mem_append_right _ (List.mem_singleton_self k), (dropOpens_colls s k).held, (dropOpens_colls s k).last⟩

/-- From s to t the collective k has ended with a fault's code, and no other collective has changed. -/
structure CollFaulted (k : CollId) (code : Nat) (s t : State) : Prop where
  gone : collOf t k = none
  noted : k ∈ t.collFaulted
  last : t.lastCollFault = code
  others : ∀ j, j ≠ k → collOf t j = collOf s j

theorem endCollective_faults (hc : collOf s k = some c) {code : Nat} (h0 : code ≠ 0) (blamed other : Nat) : CollFaulted k code s (endCollective s k code blamed other) := by
  have hend := (endCollective_net hc code blamed other).colls
  rw [if_neg h0] at hend
  have hdrop := dropColl_held hc
  generalize count (dropColl s c) COLL 0x098 32 = v at hend hdrop
  have hnote := noteCollFault_colls v k code
  generalize noteCollFault v k code = w at hend hnote
  obtain ⟨hnoted, hheld, hlast⟩ := enterFaulted_notes w k
  obtain ⟨hgone, hothers⟩ := collOf_filter (hend.held.trans (hheld.trans (hnote.held.trans hdrop.held)))
  exact ⟨hgone, hend.faulted ▸ hnoted, hend.last.trans (hlast.trans hnote.last), hothers⟩

theorem endCollective_ends (hc : collOf s k = some c) (blamed other : Nat) :
    let t := endCollective s k 0 blamed other
    collOf t k = none ∧ t.lastCollFault = s.lastCollFault ∧ t.collFaulted = s.collFaulted ∧ ∀ j, j ≠ k → collOf t j = collOf s j := by
  have hnet := (endCollective_net hc 0 blamed other).colls
  rw [if_pos rfl] at hnet
  have hend := (dropColl_held hc).trans hnet
  obtain ⟨hgone, hothers⟩ := collOf_filter hend.held
  exact ⟨hgone, hend.last, hend.faulted, hothers⟩

/-! ### The commands, R404, R405 -/

/-- An abort of a member ends a collective: with its code where it blames this rank, and with PEER otherwise (R405). -/
theorem takeCollAbort_faults {src blamed : Nat} {code : BitVec 8} (hc : collOf s k = some c) (hsrc : src ∈ c.members) (hcode : code ≠ 0) :
    CollFaulted k (if blamed = ownRank s then code.toNat else 0xA) s (takeCollAbort s src k code blamed) := by
  have h0 : code.toNat ≠ 0 := fun h => hcode (BitVec.eq_of_toNat_eq h)
  have hmember : (!c.members.contains src || code == 0) = false := by
    rw [List.contains_iff_mem.mpr hsrc, beq_eq_false_iff_ne.mpr hcode]
    rfl
  simp only [takeCollAbort, hc, hmember, Bool.false_eq_true, if_false]
  split
  · exact endCollective_faults hc h0 ..
  · exact endCollective_faults hc (by decide) ..

end

/-- Settles O42: an abort, a late reading and poisoned data end a collective with their fault, and a collective that is done ends without one. -/
theorem collectivesEnd : Obligations.CollectivesEnd := by
  refine ⟨?_, ?_⟩
  · intro s via c src blamed code u ha hc hsrc hcode
    obtain ⟨hgone, hnoted, hlast, hothers⟩ := takeCollAbort_faults (blamed := blamed.toNat) hc hsrc hcode
    exact ⟨_, congrArg Host.Outcome.next (receive_accepted ha ..), hgone, hnoted, hlast, hothers⟩
  intro s c hc faults
  obtain ⟨-, hold, -⟩ := readTime_bounds s COLL
  have hfault (v : State) (hv : v.collectives = s.collectives) {i : Instr} {code other : Nat} (h0 : code ≠ 0)
      (hexec : exec i s = .next (faultColl v c.id code other)) : faults i code := by
    obtain ⟨hgone, hnoted, hlast, hothers⟩ := endCollective_faults ((collOf_congr hv _).trans hc) h0 (ownRank v) other
    exact ⟨_, hexec, hgone, hnoted, hlast, fun j hj => (hothers j hj).trans (collOf_congr hv j)⟩
  refine ⟨fun hst hwaits harm hpred hlimit hlate => ?_, fun hst hlimit hlate => ?_, fun hst hlimit hlate => ?_, fun hdone hgood => ?_, fun hdone hbad => ?_⟩
  · obtain ⟨p, ps, hps⟩ := List.exists_cons_of_ne_nil hpred
    refine hfault (readTime s COLL).2 rfl (other := (ps.map (·.ordinal)).foldl min p.ordinal) (by decide) (congrArg Host.Outcome.next ?_)
    have hps' : predecessors (readTime s COLL).2 c = p :: ps := hps
    simp only [hc, hps', List.map_cons]
    exact if_pos ⟨hst, hwaits, harm, hlimit, by omega⟩
  · refine hfault (readTime s COLL).2 rfl (other := 0) (by decide) (congrArg Host.Outcome.next ?_)
    simp only [hc]
    exact if_pos ⟨hst, hlimit, by omega⟩
  · refine hfault (readTime s COLL).2 rfl (other := 0) (by decide) (congrArg Host.Outcome.next ?_)
    simp only [hc]
    exact if_pos ⟨hst, hlimit, by omega⟩
  · obtain ⟨hgone, hlast, hfaulted, hothers⟩ := endCollective_ends hc (ownRank s) 0
    refine ⟨_, congrArg Host.Outcome.next ?_, hgone, hlast, hfaulted, hothers⟩
    simp only [hc, hdone, hgood, Bool.false_eq_true, if_true, if_false]
  · refine hfault s rfl (other := 0) (by decide) (congrArg Host.Outcome.next ?_)
    simp only [hc, hdone, hbad, if_true]

end Sys2Proof.Machine
end

section
/-! SUPPORT. The collective table and its records: what a load replaces, and what a good record posts; the statement on the two ways of posting and the load (O39). -/

namespace Sys2Proof.Machine

section
variable {s w : State} {v self : Nat}

/-! ### Loads of the table, R388, R389 -/

/-- A load names no entries, entries beyond the table, or one in use (R388, R389). -/
def LoadRefused (s : State) (v : Nat) : Prop :=
  fld v 20 10 = 0 ∨ 1024 < fld v 9 0 + fld v 20 10 ∨ ∃ c ∈ s.collectives, fld v 9 0 ≤ c.id.index.toNat ∧ c.id.index.toNat < fld v 9 0 + fld v 20 10

theorem loadRefused_iff (s : State) (v : Nat) : (fld v 20 10 == 0 || decide (1024 < fld v 9 0 + fld v 20 10) ||
    s.collectives.any (fun c => decide (fld v 9 0 ≤ c.id.index.toNat ∧ c.id.index.toNat < fld v 9 0 + fld v 20 10))) = true ↔ LoadRefused s v := by
  simp only [LoadRefused, Bool.or_eq_true, beq_iff_eq, decide_eq_true_eq, List.any_eq_true, or_assoc]

/-- The entries that the bytes of n of them make. -/
def loadedEntries (n : Nat) (data : List Byte) : List (BitVec 1024) := (chunks 128 n data).map (fun b => BitVec.ofNat 1024 (ofBytes b))

theorem tableLoad_refused {m : Master} (h : m ≠ .host ∨ LoadRefused s v) : tableLoad m s v = { s with tableReject := true } :=
  if_pos (h.imp_right (loadRefused_iff s v).mpr)

/-- A load by the host that is not refused reads its entries and, where none of them arrives poisoned, takes them. -/
theorem tableLoad_taken {rd : Rd} {u : State} (h : ¬ LoadRefused s v) (hr : readSpan .collRecord s (getReg s COLL 0x028) (128 * fld v 20 10) = (rd, u)) :
    tableLoad .host s v = if rd.poison = [] then { u with tableReject := false, collTable := tsetList 0 u.collTable (fld v 9 0) (loadedEntries (fld v 20 10) rd.data) }
      else { u with tableReject := true } := by
  have htaken : ¬ (Master.host ≠ .host ∨ _) := not_or.mpr ⟨not_not.mpr rfl, mt (loadRefused_iff s v).mp h⟩
  unfold tableLoad
  simp only [if_neg htaken, hr]
  cases rd.poison <;> rfl

/-- The table after entries are taken: those that are named are new, and only they. -/
theorem tget_loadedEntries {t : Table (BitVec 1024)} (ht : twf 0 t = true) {n : Nat} {data : List Byte} (hl : data.length = 128 * n) (first i : Nat) :
    tget 0 (tsetList 0 t first (loadedEntries n data)) i =
      if first ≤ i ∧ i < first + n then BitVec.ofNat 1024 (ofBytes ((data.drop (128 * (i - first))).take 128)) else tget 0 t i := by
  have hentries : loadedEntries n data = (List.range n).map (fun j => BitVec.ofNat 1024 (ofBytes ((data.drop (128 * j)).take 128))) := by
    rw [loadedEntries, chunks_eq_map (by decide) hl le_rfl, List.map_map]
    rfl
  rw [tget_tsetList ht, hentries, List.length_map, List.length_range]
  refine ite_congr rfl (fun hi => ?_) fun _ => rfl
  rw [List.getD_eq_getElem _ _ (by rw [List.length_map, List.length_range]; omega), List.getElem_map, List.getElem_range]

/-! ### Posting, R394 to R399 -/

/-- The entry that a record names. -/
def namedEntry (s : State) (v : Nat) : BitVec 1024 := tget 0 s.collTable (fld v 117 108)

/-- The collective that a record names. -/
def namedColl (v : Nat) : CollId := ⟨BitVec.ofNat 10 (fld v 117 108), BitVec.ofNat 32 (fld v 165 134)⟩

/-- The ranks of a stepped group (R391). -/
def CollEntry.stepped (e : CollEntry) : List Nat := (List.range e.size).map (fun i => e.base + i * e.stride)

/-- A record that may be posted: its fields and its entry are legal, its stepped group names this rank, it waits for no launch, and neither its name nor its
ordinal is held (R394, R399). -/
structure GoodRecord (s : State) (v self : Nat) : Prop where
  version : fld v 3 0 = 1
  type : fld v 7 4 = 1
  reserved : fld v 106 8 = 0
  unarmed : bit v 107 = false
  entry : entryBad s (collEntry (namedEntry s v).toNat) = false
  unlisted : (collEntry (namedEntry s v).toNat).list = 0
  member : (collEntry (namedEntry s v).toNat).stepped.idxOf? (ownRank s) = some self
  settled : ∀ x ∈ s.collectives, x.armFail = false
  free : ∀ x ∈ s.collectives, x.id ≠ namedColl v ∧ x.ordinal ≠ fld v 165 134 * 2 ^ 16 + (collEntry (namedEntry s v).toNat).ordinal

/-- What a record is checked against: the table, the steward, this module's rank and the collectives that are held. -/
theorem GoodRecord.congr (h : GoodRecord s v self) (htable : w.collTable = s.collTable) (hsteward : w.steward = s.steward) (hrank : ownRank w = ownRank s)
    (hheld : w.collectives = s.collectives) : GoodRecord w v self := by
  have hentry : namedEntry w v = namedEntry s v := by rw [namedEntry, namedEntry, htable]
  have hbad (e : CollEntry) : entryBad w e = entryBad s e := by simp only [entryBad, stewardOn, slotBits_congr hsteward]
  obtain ⟨hversion, htype, hreserved, hunarmed, hgood, hlist, hmember, hsettled, hfree⟩ := h
  exact ⟨hversion, htype, hreserved, hunarmed, by rw [hentry, hbad, hgood], by rw [hentry, hlist], by rw [hentry, hrank, hmember], by rwa [hheld],
    by rwa [hheld, hentry]⟩

/-- The collective that a good record makes. -/
def postedColl (s : State) (v self : Nat) : Collective :=
  { id := namedColl v, record := BitVec.ofNat 256 v, entry := namedEntry s v, members := (collEntry (namedEntry s v).toNat).stepped, self := self,
    posted := (readTime s COLL).1, armedAt := (readTime s COLL).1 }

theorem postedColl_ordinal (s : State) (v self : Nat) :
    (postedColl s v self).ordinal = fld v 165 134 * 2 ^ 16 + (collEntry (namedEntry s v).toNat).ordinal := by
  have hepoch : (BitVec.ofNat 32 (fld v 165 134)).toNat = fld v 165 134 := by
    rw [BitVec.toNat_ofNat]
    exact Nat.mod_eq_of_lt (Nat.mod_lt _ (by decide))
  simp only [Collective.ordinal, postedColl, namedColl, Collective.e, hepoch]

/-- A good record is posted behind the collectives that are held, and nothing else changes but a reading of the timebase and what ended with a fault. -/
theorem postRecord_posts (h : GoodRecord s v self) :
    postRecord s v = { (readTime s COLL).2 with collectives := s.collectives ++ [postedColl s v self], collFaulted := s.collFaulted.filter (· != namedColl v) } := by
  obtain ⟨hversion, htype, hreserved, hunarmed, hgood, hlist, hmember, hsettled, hfree⟩ := h
  have hordinal := postedColl_ordinal s v self
  have hgood' : entryBad (readTime s COLL).2 (collEntry (namedEntry s v).toNat) = false := hgood
  have hmembers : readMembers (readTime s COLL).2 (collEntry (namedEntry s v).toNat) = (some (collEntry (namedEntry s v).toNat).stepped, (readTime s COLL).2) := if_pos hlist
  have hrank : (collEntry (namedEntry s v).toNat).stepped.idxOf? (ownRank (readTime s COLL).2) = some self := hmember
  have hnone : (readTime s COLL).2.collectives.any (fun x => x.id == (postedColl s v self).id || x.ordinal == (postedColl s v self).ordinal) = false := by
    refine List.any_eq_false.mpr fun x hx => ?_
    obtain ⟨hname, hord⟩ := hfree x hx
    rw [← hordinal] at hord
    simp only [Bool.or_eq_true, beq_iff_eq]
    exact not_or.mpr ⟨hname, hord⟩
  have hall : ∀ x ∈ s.collectives ++ [postedColl s v self], x.armFail = false := fun x hx =>
    (List.mem_append.mp hx).elim (hsettled x) fun hx => by rw [List.mem_singleton.mp hx]; rfl
  have hsettle : settleColl { (readTime s COLL).2 with collectives := s.collectives ++ [postedColl s v self], collFaulted := s.collFaulted.filter (· != namedColl v) } = _ :=
    settleColl_none hall
  unfold postRecord
  have hentry : tget 0 s.collTable (fld v 117 108) = namedEntry s v := rfl
  simp only [hentry, hversion, htype, hreserved, hunarmed, hgood', hmembers, hrank, one_ne_zero, ne_eq, not_true_eq_false, or_self, if_false, Bool.false_eq_true]
  refine (if_neg ?_).trans hsettle
  exact Bool.eq_false_iff.mp hnone

/-- What posting leaves: the new collective stands behind the others, and registers, memory and cores are as before. -/
theorem postRecord_leaves (h : GoodRecord s v self) :
    let t := postRecord s v
    t.collectives = s.collectives ++ [postedColl s v self] ∧ t.regs = s.regs ∧ t.cores = s.cores ∧ memoryKept s t := by
  rw [postRecord_posts h]
  exact ⟨rfl, rfl, rfl, rfl, rfl, rfl⟩

/-! ### Rings and the post port, R395, R397 -/

/-- The state after a ring's record has been read: its TAIL advanced. -/
def collTailAdvanced (u : State) (base tail : Nat) : State := setReg u COLL (base + 0x18) ((tail + 1) % 2 ^ 32)

theorem getReg_collTailAdvanced {u : State} (hregs : twf 0 u.regs = true) (base tail : Nat) :
    getReg (collTailAdvanced u base tail) COLL (base + 0x18) = (tail + 1) % 2 ^ 32 :=
  (getReg_setReg hregs _ _ _ _ _ (by omega)).trans (if_pos rfl)

/-- TAIL of a ring is no part of what a record is checked against. -/
theorem ownRank_collTailAdvanced (u : State) {base : Nat} (tail : Nat) (h : regKey FABRIC 0x018 ≠ regKey COLL (base + 0x18)) :
    ownRank (collTailAdvanced u base tail) = ownRank u := by
  rw [ownRank, getReg, collTailAdvanced, setReg, tget_tset_other _ _ h]
  rfl

/-- The record at the tail of a ring that may be read has been read, and did not arrive poisoned (R395, R397). -/
structure RecordRead (s : State) (base : Nat) (rd : Rd) (u : State) : Prop where
  ready : collRingReady s base = true
  read : readSpan .collRecord s (ringAddr (getReg s COLL base) (getReg s COLL (base + 8)) (getReg s COLL (base + 0x18)) 32) 32 = (rd, u)
  clean : rd.poison = []

theorem takeRingRecord_eq {base : Nat} {rd : Rd} {u : State} (h : RecordRead s base rd u) :
    takeRingRecord s base = postRecord (collTailAdvanced u base (getReg s COLL (base + 0x18))) (ofBytes rd.data) := by
  simp only [takeRingRecord, h.ready, h.read, h.clean, List.isEmpty_nil, if_true, collTailAdvanced]

/-- A good record of a ring is posted, and TAIL advances. -/
theorem takeRingRecord_posts {base : Nat} {rd : Rd} {u : State} (h : RecordRead s base rd u) (hregs : twf 0 s.regs = true) (hkept : u.regs = s.regs)
    (hrank : regKey FABRIC 0x018 ≠ regKey COLL (base + 0x18)) (hgood : GoodRecord s (ofBytes rd.data) self) :
    ∃ w, namedEntry w (ofBytes rd.data) = namedEntry s (ofBytes rd.data) ∧
      (takeRingRecord s base).collectives = s.collectives ++ [postedColl w (ofBytes rd.data) self] ∧
      getReg (takeRingRecord s base) COLL (base + 0x18) = (getReg s COLL (base + 0x18) + 1) % 2 ^ 32 ∧
      memoryKept u (takeRingRecord s base) ∧ (takeRingRecord s base).cores = s.cores := by
  have htidy : Tidy s u := tidy_of_read h.read
  have htable : u.collTable = s.collTable := (congrArg State.collTable htidy.rest :)
  have hown : ownRank u = ownRank s := by rw [ownRank, ownRank, getReg, getReg, hkept]
  rw [takeRingRecord_eq h]
  obtain ⟨hheld, hregs', hcores, hmem⟩ := postRecord_leaves (hgood.congr (w := collTailAdvanced u base (getReg s COLL (base + 0x18))) htable htidy.steward
    ((ownRank_collTailAdvanced _ _ hrank).trans hown) htidy.collectives)
  refine ⟨collTailAdvanced u base (getReg s COLL (base + 0x18)), congrArg (tget 0 · _) htable, hheld.trans (congrArg (· ++ _) htidy.collectives), ?_, hmem,
    hcores.trans htidy.cores⟩
  rw [getReg, hregs', ← getReg, getReg_collTailAdvanced (by rw [hkept, hregs])]

/-- COLL takes records: the module is READY, fewer than 64 collectives are held, and the block is not stopped (R397). -/
def RecordRoom (s : State) : Prop := isReady s = true ∧ s.collectives.length < 64 ∧ (blk s COLL).errorStopped = false

/-- A granule written to the post port: a record where there is room, held back where there is none, and discarded where it is a part of one (R395, R397). -/
theorem exec_postPort (hr : running s = true) (m : Master) (g : Fin 2) (data : List Byte) :
    (data.length = 32 → RecordRoom s → exec (.postPort m g data) s = .next (postRecord s (ofBytes data))) ∧
    (data.length = 32 → ¬ RecordRoom s →
      exec (.postPort m g data) s = .next { s with posted := s.posted ++ [(m, regBase + 65536 * COLL + 0x200 + 32 * g.val, data)] }) ∧
    (data.length ≠ 32 → exec (.postPort m g data) s = .next (count s COLL 0x0D0 32)) := by
  have hexec : exec (.postPort m g data) s = .next (postPort m s g.val data) := congrArg Host.Outcome.next (powered_running hr _)
  have hroom : (isReady s && decide (s.collectives.length < 64) && !(blk s COLL).errorStopped) = true ↔ RecordRoom s := by
    simp only [RecordRoom, Bool.and_eq_true, decide_eq_true_eq, Bool.not_eq_true', and_assoc]
  refine ⟨fun hl h => ?_, fun hl h => ?_, fun hl => ?_⟩
  · exact hexec.trans (congrArg _ ((if_pos hl).trans (if_pos (hroom.mpr h))))
  · exact hexec.trans (congrArg _ ((if_pos hl).trans (if_neg (mt hroom.mp h))))
  · exact hexec.trans (congrArg _ (if_neg hl))

end

/-- Settles O39: a load takes all of its entries or none, and a good record is posted from both its ways in. -/
theorem collectivesPost : Obligations.CollectivesPost := by
  refine ⟨?_, ?_⟩
  · intro s v first n refused rd u hr
    have hexec (m : Master) : exec (.tableLoad m v) s = .next (tableLoad m s v.toNat) := congrArg Host.Outcome.next (powered_running hr _)
    have hread : readSpan .collRecord s (getReg s COLL 0x028) (128 * n) = (rd, u) := rfl
    refine ⟨fun m h => ?_, fun h hbad => ?_, fun h hgood hlen ht => ?_⟩
    · rw [hexec, tableLoad_refused h]
    · rw [hexec, tableLoad_taken h hread, if_neg hbad]
    · have htable : u.collTable = s.collTable := (congrArg State.collTable (tidy_of_read hread).rest :)
      refine ⟨_, (hexec _).trans (congrArg _ ((tableLoad_taken h hread).trans (if_pos hgood))), rfl, fun i => ?_⟩
      exact (congrArg (fun t => tget 0 (tsetList 0 t first (loadedEntries n rd.data)) i) htable).trans (tget_loadedEntries ht hlen first i)
  · intro s keeper m g entry good posts base r room
    have hgood {v self : Nat} (h : good v self) : GoodRecord s v self := by
      obtain ⟨hversion, htype, hreserved, hunarmed, hentry, hlist, hmember, hsettled, hfree⟩ := h
      exact ⟨hversion, htype, hreserved, hunarmed, hentry, hlist, hmember, hsettled, hfree⟩
    refine ⟨fun self hregs hkept hready hclean h => ?_, fun data self hr hl h hrec => ?_, fun data hr hl h => ?_, fun data hr hl => ?_⟩
    · have hrank : regKey FABRIC 0x018 ≠ regKey COLL (base + 0x18) := by cases keeper <;> decide
      obtain ⟨w, hentry, hheld, htail, hmem, hcores⟩ := takeRingRecord_posts (u := r.2) ⟨hready, rfl, hclean⟩ hregs hkept hrank (hgood h)
      exact ⟨_, rfl, htail, _, hheld, rfl, hentry, rfl, rfl, rfl, rfl, rfl, hmem, hcores⟩
    · obtain ⟨hpost, -, -⟩ := exec_postPort hr m g data
      obtain ⟨hheld, hregs, hcores, hmem⟩ := postRecord_leaves (hgood hrec)
      exact ⟨_, hpost hl h, hregs, _, hheld, rfl, rfl, rfl, rfl, rfl, rfl, rfl, hmem, hcores⟩
    · obtain ⟨-, hback, -⟩ := exec_postPort hr m g data
      exact hback hl h
    · obtain ⟨-, -, hpart⟩ := exec_postPort hr m g data
      exact hpart hl

end Sys2Proof.Machine
end

section
/-! SUPPORT. What arrives for an open or a started collective: presence bits, contributions in pool cells, whole results, and batches of units that travel on; the statement on
the four commands (O41). -/

namespace Sys2Proof.Machine

section
variable {s t u v : State} {k : CollId} {c : Collective}

theorem gen_toNat (c : Collective) : (BitVec.ofNat 16 c.e.gen).toNat = c.e.gen := by
  rw [BitVec.toNat_ofNat]
  exact Nat.mod_eq_of_lt (Nat.mod_lt _ (by decide))

/-! ### Presence, R412 -/

/-- A collective that has bits of a run of units: the group's, where they come from the owner, and else those of a member. -/
def Collective.withBits (c : Collective) (owner i first : Nat) (bits : List Bool) : Collective :=
  if i = owner then { c with known := c.known ++ (bits.zipIdx).map (fun b => (first + b.2, b.1)) } else { c with presence := c.presence ++ [(i, first, bits)] }

theorem Collective.withBits_id (c : Collective) (owner i first : Nat) (bits : List Bool) : (c.withBits owner i first bits).id = c.id := by
  unfold Collective.withBits
  split <;> rfl

/-- Bits of another member that arrive for an open collective are kept for its start. -/
theorem takePresence_open {src first i : Nat} {bits : List Bool} (hc : collOf u k = some c) (hst : c.state = 1) (hbit : c.e.bitmap ≠ 0) (hdata : c.dataPhase = false)
    (hi : c.members.idxOf? src = some i) (hself : i ≠ c.self) (hfit : first + bits.length ≤ c.e.units) (hbits : bits ≠ []) :
    takePresence u src k first bits = updColl u k (fun x => x.withBits (c.e.owner first) i first bits) := by
  have htaken : ¬ (c.state = 0 ∨ c.e.bitmap = 0 ∨ c.dataPhase = true ∨ i = c.self ∨ c.e.units < first + bits.length ∨ bits.isEmpty = true) := by
    simp only [hst, hbit, hdata, hself, Nat.not_lt.mpr hfit, List.isEmpty_iff, hbits, Bool.false_eq_true, one_ne_zero, or_self, not_false_eq_true]
  have hnot : ¬ c.state = 2 := by omega
  simp only [takePresence, hc, hi, if_neg htaken, if_neg hnot]
  unfold Collective.withBits
  split <;> rfl

/-! ### Contributions, R406; 12_memory_system.md R444 -/

/-- Cells that the pool grants at once are admitted, where no message of the flow waits (13_fabric_links.md R471). -/
theorem admitCells_granted {cls src n : Nat} {q : Reservation} (ha : s.awaited = []) (hq : granted (requestCells s cls src n).2 (requestCells s cls src n).1 = some q)
    (kind flow : Nat) : admitCells s kind flow src cls n = (some (requestCells s cls src n).1, (requestCells s cls src n).2) := by
  unfold admitCells
  simp only [ha, List.find?_nil, hq, Option.isSome_some, if_true]

/-- A piece whose cells are granted is held in a new chain of them. -/
theorem holdPiece_holds {src i unit off : Nat} {data : List Byte} {q : Reservation} (ha : s.awaited = []) (hn : ceilDiv data.length 256 ≠ 0)
    (hq : granted (requestCells s 2 src (ceilDiv data.length 256)).2 (requestCells s 2 src (ceilDiv data.length 256)).1 = some q) (hcells : ceilDiv data.length 256 ≤ q.cells)
    (k : CollId) (poison : List Nat) :
    let r := requestCells s 2 src (ceilDiv data.length 256)
    let m := makeChain r.2 r.1 (ceilDiv data.length 256) 1
    ∃ head v, m.1 = some head ∧ v.collectives = s.collectives ∧ v.chains = m.2.chains ∧
      holdPiece s k src i unit off data poison =
        updColl v k (fun c => { c with contributions := c.contributions ++ [⟨i, unit, off, data.length / 32, head, [], []⟩] }) := by
  dsimp only
  obtain ⟨head, w, hchain⟩ := makeChain_makes hq hn hcells 1
  have hmade := ((requestCells_only ..).trans (poolOnly_of_makeChain hchain)).collectives
  unfold holdPiece
  simp only [admitCells_granted ha hq, hchain]
  cases chainAt w head with
  | none => exact ⟨head, w, rfl, hmade, rfl, rfl⟩
  | some ch =>
    have hwrite := writeChain_tidy w ch data poison
    exact ⟨head, writeChain w ch data poison, rfl, hwrite.collectives.trans hmade, hwrite.chains, rfl⟩

/-- A contribution of another member to a reduction, that this rank combines and of which no granule is there yet, is held. -/
theorem takeContribution_reduces {src unit off i : Nat} {part : Bool} {data : List Byte} (hc : collOf u k = some c) (hst : c.state ≠ 0) (hr : c.e.reduces = true)
    (hi : c.members.idxOf? src = some i) (hunit : unit < c.e.units) (hdata : data ≠ []) (hwhole : data.length % 32 = 0) (hsize : data.length / 32 ≤ 2048)
    (hterm : (c.e.terms c.self unit).flatten.find? (fun t => t.1 == i && i != c.self) = some (i, part)) (hfit : off + data.length / 32 ≤ c.e.travel part)
    (hnew : (List.range (data.length / 32)).any (fun j => (c.pieceOf i unit (off + j)).isSome) = false) (poison : List Nat) :
    takeContribution u src k (BitVec.ofNat 16 c.e.gen) unit off data poison = holdPiece u k src i unit off data poison := by
  have hop : c.e.op ≠ 6 := fun h => by simp [CollEntry.reduces, h] at hr
  have hformed : ¬ (c.e.units ≤ unit ∨ data.isEmpty = true ∨ data.length % 32 ≠ 0 ∨ 32 * pieceGranules < data.length) := by
    have hlen : ¬ 32 * pieceGranules < data.length := by
      unfold pieceGranules
      omega
    simp only [Nat.not_le.mpr hunit, List.isEmpty_iff, hdata, hwhole, hlen, ne_eq, not_true_eq_false, or_self, not_false_eq_true]
  simp only [takeContribution, hc, hst, hi, gen_toNat, hop, hr, hterm, hnew, if_neg hformed, Nat.not_lt.mpr hfit, ne_eq, not_true_eq_false, false_and, or_self,
    Bool.false_eq_true, if_true, if_false]

/-! ### Results, R408, R411 -/

/-- A write of a started collective to a tile store over clean codes stores its bytes. -/
theorem collWrite_mem {a : Nat} {bs : List Byte} (hspan : CoreSpan a bs.length) (hcodes : CleanCodes s) (unit : Nat) (k : CollId) (poison : List Nat) :
    (collWrite s unit k a bs poison).mem = tsetList 0 s.mem a bs := by
  have hmapped : (writeSpan (redMaster unit) s a bs (poison.map (· + a / 32))).1 = false := by
    simp only [writeSpan, pieces_mapped hspan, Option.isSome_none]
  unfold collWrite
  simp only [hmapped, Bool.false_eq_true, if_false]
  rw [noteLines_tidy_rest]
  exact writeSpan_mem_clean _ _ hspan hcodes

/-- An ALL_REDUCE whose results have neither a header nor a scale unit, with units that are not empty. -/
structure Collective.PlainResults (c : Collective) : Prop where
  op : c.e.op = 1
  unscaled : c.e.scaled = false
  headless : c.e.hdr = false
  filled : 0 < c.e.len

/-- A unit without a header and without a scale unit is closed by its own book entry alone. -/
theorem closeUnit_plain (hc : collOf s k = some c) (hh : c.e.hdr = false) (hs : c.e.scaled = false) (unit v visits : Nat) (poison : Bool) :
    closeUnit s unit k v visits poison = updColl s k (fun c => { c with results := c.results ++ [v] }) := by
  simp only [closeUnit, hc, hh, hs, Bool.false_eq_true, if_false]

/-- The collective when a whole unit has landed. -/
def Collective.unitDone (c : Collective) (unit : Nat) : Collective := { c with results := c.results ++ [unit], landed := [] }

/-- A collective without what comes before the elements of its units. -/
def Collective.unprefixed (c : Collective) : Collective := { c with prefixes := [] }

/-- A whole unit lands in a tile store: its bytes are stored, and it is done. -/
theorem landPiece_whole {unit : Nat} {data : List Byte} (hc : collOf s k = some c) (hp : c.PlainResults) (hunit : unit < c.e.units) (hlen : data.length = c.e.unitBytes)
    (hnew : unit ∉ c.results) (hland : c.landed = []) (hspan : CoreSpan (c.dstAddr unit) data.length) (hcodes : CleanCodes s) :
    ∃ y, collOf (landPiece s k unit 0 data []) k = some y ∧ y.unprefixed = (c.unitDone unit).unprefixed ∧
      (landPiece s k unit 0 data []).mem = tsetList 0 s.mem (c.dstAddr unit) data := by
  obtain ⟨hop, hs, hh, hfilled⟩ := hp
  have hlead : c.e.lead false = 0 := by simp [CollEntry.lead, hh, hs, b2n]
  have hdst : c.dstUnits = (0, c.e.units) := by simp [Collective.dstUnits, hop]
  have hbytes : data.length = 32 * c.e.len := hlen
  have htravel : c.e.travel false = data.length / 32 := by simp [CollEntry.travel, hlead, CollEntry.region, hh, b2n, hlen]
  have hgood : ¬ (data.length / 32 = 0 ∨ data.length % 32 ≠ 0) := by omega
  have hfresh : c.results.contains unit = false := by simpa using hnew
  unfold landPiece
  simp only [hc, hs, hh, hlead, htravel, hdst, hland, hfresh, landed_unscaled hs, hunit, Nat.lt_irrefl, Nat.zero_add, Nat.sub_self, Nat.mul_zero, Nat.add_zero, Nat.zero_le, List.drop_zero,
    List.filter_nil, List.map_nil, List.any_nil, List.length_nil, b2n, false_and, and_self, decide_true, or_false, Bool.or_self, Bool.false_eq_true, reduceCtorEq, if_false]
  rw [if_neg hgood]
  generalize hw : collWrite _ 0 k (c.dstAddr unit) data [] = w
  have hmem : w.mem = tsetList 0 s.mem (c.dstAddr unit) data := by
    rw [← hw]
    refine (collWrite_mem hspan ?_ ..).trans rfl
    exact ⟨hcodes.mem, hcodes.guard, hcodes.codes, hcodes.hops⟩
  obtain ⟨x, hx, hb⟩ : ∃ x, collOf w k = some x ∧ x.unprefixed = ({ c with landed := [(unit, 0, data.length / 32)] } : Collective).unprefixed := by
    rw [← hw]
    refine ⟨_, (collOf_congr (collWrite_collectives [] _ hspan) k).trans (collOf_updColl_self hc), ?_⟩
    rw [hland]
    rfl
  have he : x.e = c.e := (congrArg Collective.e hb :)
  have hlanded : x.landed = [(unit, 0, data.length / 32)] := (congrArg Collective.landed hb :)
  have hall : sumNat ((x.landed.filter (fun l => l.1 == unit)).map (·.2.2)) = data.length / 32 := by simp [hlanded, sumNat]
  have hnone : x.landed.filter (fun l => l.1 != unit) = [] := by simp [hlanded]
  simp only [hx, hall, if_true, closeUnit_plain hx (by rw [he, hh]) (by rw [he, hs])]
  refine ⟨_, collOf_updColl_self (collOf_updColl_self hx), ?_, hmem⟩
  simp only [hnone]
  exact congrArg (fun z : Collective => ({ z with results := z.results ++ [unit], landed := [] } : Collective)) hb

/-- A whole result of another rank's unit, that goes no further from here, lands in a tile store and is done. -/
theorem takeResult_lands {src unit : Nat} {data : List Byte} (hc : collOf s k = some c) (hst : c.state = 2) (hp : c.PlainResults) (hsrc : src ∈ c.members)
    (hunit : unit < c.e.units) (howner : c.e.owner unit ≠ c.self) (hspread : c.e.spreadsTo c.self unit = []) (hlen : data.length = c.e.unitBytes)
    (hnew : unit ∉ c.results) (hland : c.landed = []) (hspan : CoreSpan (c.dstAddr unit) data.length) (hcodes : CleanCodes s) :
    ∃ y, collOf (takeResult s src k (BitVec.ofNat 16 c.e.gen) unit 0 data []) k = some y ∧ y.unprefixed = (c.unitDone unit).unprefixed ∧
      (takeResult s src k (BitVec.ofNat 16 c.e.gen) unit 0 data []).mem = tsetList 0 s.mem (c.dstAddr unit) data := by
  obtain ⟨y, hy, hb, hmem⟩ := landPiece_whole hc hp hunit hlen hnew hland hspan hcodes
  have hmember : c.members.contains src = true := List.contains_iff_mem.mpr hsrc
  have hspread' : y.e.spreadsTo y.self unit = [] := (congrArg (fun z : Collective => z.e.spreadsTo z.self unit) hb).trans hspread
  have htake : takeResult s src k (BitVec.ofNat 16 c.e.gen) unit 0 data [] = landPiece s k unit 0 data [] := by
    simp only [takeResult, hc, hst, hmember, gen_toNat, hp.op, Nat.not_le.mpr hunit, howner, passPiece, hy, hspread', List.foldl_nil, ne_eq, not_true_eq_false, or_self,
      Bool.true_eq_false, if_false]
  rw [htake]
  exact ⟨y, hy, hb, hmem⟩

/-! ### Batches, R409 to R411 -/

/-- A collective without what reads count. -/
def Collective.unread (c : Collective) : Collective := { c with poisonReads := 0, corrReads := 0 }

/-- A step that reads pieces of collective k: of the collectives only its counts of reads change, and the turn stays. -/
structure PiecesRead (k : CollId) (s t : State) : Prop where
  keeps : CollKeeps k Collective.unread s t
  turn : t.collTurn = s.collTurn

theorem PiecesRead.refl (s : State) : PiecesRead k s s := ⟨.refl s, rfl⟩

theorem PiecesRead.trans (h : PiecesRead k s t) (g : PiecesRead k t u) : PiecesRead k s u := ⟨h.keeps.trans g.keeps, g.turn.trans h.turn⟩

theorem PiecesRead.of_tidy (h : Tidy s t) : PiecesRead k s t := ⟨.of_collectives h.collectives, (congrArg State.collTurn h.rest :)⟩

/-- A fold whose every step reads pieces, the state being part of what is carried along. -/
theorem PiecesRead.foldl {α β : Type} (st : α → State) {f : α → β → α} (h : ∀ a b, PiecesRead k (st a) (st (f a b))) (l : List β) (a : α) :
    PiecesRead k (st a) (st (l.foldl f a)) := by
  induction l generalizing a with
  | nil => exact .refl _
  | cons b l ih => exact (h a b).trans (ih _)

theorem readChain_reads (s : State) (ch : Chain) (j n : Nat) : PiecesRead k s (readChain s ch j n).2.2.2 := by
  unfold readChain
  refine PiecesRead.foldl (fun acc : List Byte × List Nat × Nat × State => acc.2.2.2) (fun acc i => ?_) _ ([], [], 0, s)
  dsimp only
  split
  · exact .of_tidy (readGranule_tidy ..)
  · exact .refl _

theorem granules_reads (c : Collective) (s : State) (src v g n : Nat) : PiecesRead c.id s (c.granules s src v g n).2.2 := by
  unfold Collective.granules
  refine PiecesRead.foldl (fun acc : List Byte × List Nat × State => acc.2.2) (fun acc i => ?_) _ ([], [], s)
  dsimp only
  split
  · exact .refl _
  · split
    · exact .refl _
    · split
      · exact (readChain_reads ..).trans ⟨.updColl _, rfl⟩
      · exact .refl _

theorem termValues_reads (c : Collective) (s : State) (v b : Nat) (t : Nat × Bool) : PiecesRead c.id s (termValues c s v b t).2.2 := by
  unfold termValues
  dsimp only
  have hbody := granules_reads c s t.1 v (c.e.batchSpan t.2 b).1 (c.e.batchSpan t.2 b).2
  split
  · exact hbody
  · exact hbody.trans (granules_reads ..)

/-- The combined runs of a batch, the elements of poisoned granules, and the state after the reads (R407). -/
def batchSums (s : State) (c : Collective) (v b : Nat) : List (List F32) × List Nat × State :=
  (c.presentTerms v).foldl (fun acc run =>
    let r := run.foldl (fun (a : List (List F32) × List Nat × State) t =>
      let x := termValues c a.2.2 v b t
      (a.1 ++ [x.1], a.2.1 ++ x.2.1, x.2.2)) ([], acc.2.1, acc.2.2)
    (acc.1 ++ [combineAll c.e.redop r.1], r.2.1, r.2.2)) ([], [], s)

theorem batchSums_reads (s : State) (c : Collective) (v b : Nat) : PiecesRead c.id s (batchSums s c v b).2.2 := by
  unfold batchSums
  refine PiecesRead.foldl (fun acc : List (List F32) × List Nat × State => acc.2.2) (fun acc run => ?_) _ ([], [], s)
  exact PiecesRead.foldl (fun a : List (List F32) × List Nat × State => a.2.2) (fun a t => termValues_reads c a.2.2 v b t) _ ([], acc.2.1, acc.2.2)

/-- A collective of which a batch is noted as performed, and its outcome kept to travel on (R407). -/
def Collective.withBatch (c : Collective) (v b : Nat) (m : List Byte × List Nat) : Collective :=
  { c with batches := c.batches ++ [(v, b)], made := c.made ++ [⟨c.self, v, b, m.1.length / 32, 0, m.1, m.2⟩] }

/-- The state u in which a batch is noted and its outcome kept. -/
def batchNoted (u : State) (k : CollId) (v b : Nat) (m : List Byte × List Nat) : State :=
  updColl (updColl u k (fun x => { x with batches := x.batches ++ [(v, b)] })) k
    (fun x => { x with made := x.made ++ [⟨x.self, v, b, m.1.length / 32, 0, m.1, m.2⟩] })

theorem collOf_batchNoted (hc : collOf u k = some c) (v b : Nat) (m : List Byte × List Nat) : collOf (batchNoted u k v b m) k = some (c.withBatch v b m) :=
  collOf_updColl_self (collOf_updColl_self hc)

theorem collOf_batchNoted_ne {j : CollId} (hj : j ≠ k) (u : State) (v b : Nat) (m : List Byte × List Nat) : collOf (batchNoted u k v b m) j = collOf u j :=
  (collOf_updColl_ne hj).trans (collOf_updColl_ne hj)

/-- A batch, not the last of its unit, of a unit that another rank owns is performed without a mismatch: it is read, noted, and its outcome kept. -/
theorem performBatch_notes {v b : Nat} (hc : collOf s c.id = some c) (hturn : nextTurn s = some c.id) (hready : batchReady c v b = true)
    (hmore : ∃ i, i < c.e.batches ∧ i ≠ b ∧ (v, i) ∉ c.batches) (howner : c.self ≠ c.e.owner v) (unit : Nat) :
    ∃ u m, PiecesRead c.id { s with collTurn := some c.id } u ∧ performBatch s unit c.id v b 0 = batchNoted u c.id v b m := by
  obtain ⟨u, bad, sums, hr, hread⟩ : ∃ u bad sums, batchSums { s with collTurn := some c.id } c v b = (sums, bad, u) ∧ PiecesRead c.id { s with collTurn := some c.id } u :=
    ⟨_, _, _, rfl, batchSums_reads ..⟩
  refine ⟨u, asFp32 (combineAll c.e.redop sums) bad, hread, ?_⟩
  generalize hm : asFp32 (combineAll c.e.redop sums) bad = m
  have hopen : (List.range c.e.batches).all (fun i => ((collOf (batchNoted u c.id v b m) c.id).map (fun c => c.batches.contains (v, i))).getD false) = false := by
    obtain ⟨i, hi, hib, hnew⟩ := hmore
    obtain ⟨x, hx, hb⟩ := hread.keeps.some hc
    have hbatches : x.batches = c.batches := (congrArg Collective.batches hb :)
    refine List.all_eq_false.mpr ⟨i, List.mem_range.mpr hi, ?_⟩
    simp [collOf_batchNoted hx, Collective.withBatch, hbatches, hnew, hib]
  unfold batchSums at hr
  unfold performBatch
  simp only [hc, hready, hturn, hr, hm, howner, ite_self, beq_self_eq_true, Bool.and_self, if_true, decide_false, Bool.false_eq_true, if_false, OfNat.zero_ne_ofNat]
  exact if_neg (Bool.eq_false_iff.mp hopen)

end

/-- Settles O41: what arrives for a collective is taken into its own books, and only a whole result also reaches memory. -/
theorem collectivesMove : Obligations.CollectivesMove := by
  refine ⟨?_, ?_⟩
  · intro s via c src u next ha hc
    refine ⟨?_, ?_, ?_⟩
    · intro first i bits hst hbit hdata hi hself hfit hbits
      have htake := takePresence_open hc hst hbit hdata hi hself hfit hbits
      refine ⟨_, congrArg Host.Outcome.next ((receive_accepted ha ..).trans htake), rfl, ?_, fun j hj => ?_⟩
      · exact collOf_updColl_self hc fun x => x.withBits_id ..
      · exact collOf_updColl_ne hj fun x => x.withBits_id ..
    · intro unit off i part data poison g n r hst hr hi hself hunit hdata hwhole hsize hterm hfit hnew hawaited hcells
      obtain ⟨q, hq, hcells⟩ := hcells
      have hn : ceilDiv data.length 256 ≠ 0 := by
        have hlen := List.length_pos_iff.mpr hdata
        unfold ceilDiv
        omega
      obtain ⟨head, v, hhead, hheld, hchains, hhold⟩ := holdPiece_holds (src := src.toNat) (i := i) (unit := unit) (off := off) hawaited hn hq hcells c.id poison
      have htake := takeContribution_reduces hc hst hr hi hunit hdata hwhole hsize hterm hfit hnew poison
      refine ⟨_, head, congrArg Host.Outcome.next ((receive_accepted ha ..).trans (htake.trans hhold)), hhead, hchains, ?_, fun j hj => ?_⟩
      · exact collOf_updColl_self ((collOf_congr hheld _).trans hc)
      · exact (collOf_updColl_ne hj).trans (collOf_congr hheld j)
    · intro unit off n data a hst hop hr hs hh hsrc hunit howner hspread hlen hfilled hnew hland haddr hend hclean hmem
      have hdst : c.dstAddr unit = a := by simp [Collective.dstAddr, Collective.dstUnits, hop, a]
      have hspan : CoreSpan (c.dstAddr unit) data.length := by
        rw [hdst, haddr, hlen]
        exact coreSpan_tile n.isLt hend
      obtain ⟨y, hy, hb, hstored⟩ := takeResult_lands hc hst ⟨hop, hs, hh, hfilled⟩ hsrc hunit howner hspread hlen hnew hland hspan (cleanCodes_of_clean hclean hmem)
      rw [hdst] at hstored
      refine ⟨_, y, congrArg Host.Outcome.next (receive_accepted ha ..), hy, (congrArg Collective.results hb :), (congrArg Collective.landed hb :), ?_, fun b hb => ?_⟩
      · rw [memBytes, hstored, ← hlen]
        exact tgetList_tsetList hmem a data
      · rw [hstored]
        exact tget_tsetList_out hmem _ _ _ (by rw [hlen]; omega)
  · intro s c r unit batch hc hturn hready hmore howner
    obtain ⟨u, m, ⟨hkeeps, hturn'⟩, hperform⟩ := performBatch_notes hc hturn hready hmore howner r.val
    obtain ⟨x, hx, hb⟩ := hkeeps.some hc
    refine ⟨_, _, congrArg Host.Outcome.next hperform, collOf_batchNoted hx unit batch m, hturn', ?_, ?_, (congrArg Collective.results hb :), (congrArg Collective.retries hb :),
      fun j hj => (collOf_batchNoted_ne hj ..).trans (hkeeps.others j hj)⟩
    · exact congrArg (· ++ [(unit, batch)]) (congrArg Collective.batches hb :)
    · exact List.length_append.trans (congrArg (·.length + 1) (congrArg Collective.made hb :))

end Sys2Proof.Machine
end
